-- ==== Sys2Proof/Word.lean ====
section
/-! DEFINITION. The plain word types of Septuno: bytes, 64-bit words, and the numbered units of the part (R6, R51, R261, R316, R350, R411). -/

namespace Sys2Proof

/-- One byte. -/
abbrev Byte := BitVec 8
abbrev W16 := BitVec 16
abbrev W32 := BitVec 32
abbrev W64 := BitVec 64

/-- Host port 0 to 3 (R6). -/
abbrev Port := Fin 4
/-- Field-book slot 0 to 511 of one port (R411). -/
abbrev SlotNo := Fin 512
/-- Search die 0 to 9 (R51). -/
abbrev Die := Fin 10
/-- Memory stack 0 to 19 (R261). -/
abbrev StackNo := Fin 20
/-- Flash channel 0 to 31 (R316). -/
abbrev Chan := Fin 32
/-- Fabric port 0 to 7 (R350). -/
abbrev FabPort := Fin 8
/-- Commons slot 0 to 63 (R288). -/
abbrev ComSlot := Fin 64

/-- A finite map with number keys, as plain data: key and value pairs, each key once. -/
abbrev NMap (α : Type) := List (Nat × α)

end Sys2Proof
end

