-- ==== Sys2Proof/Config.lean ====
section
/-! DEFINITION. What the part fixes (the capacities of R6 and the constants other rules name) and the free values: opaque constants without a body for what the manual leaves open. -/

namespace Sys2Proof.Config

/-! ### Shared figures (R6 and the rules named) -/

def maxContexts : Nat := 32768            -- R32
def maxBatch : Nat := 256                 -- R6, R429
def maxLeafCopies : Nat := 256            -- R22
def maxGroupLeaves : Nat := 262144        -- R20
def maxMembers : Nat := 4096              -- R19
def noParcel : Nat := 0xFFFFFFFF          -- R17
def noItem : Nat := 0xFFFFFFFFFFFFFFFF    -- R11
def arraysPerDie : Nat := 1024            -- R51
def probeQueueDie : Nat := 65536          -- R70
def probeQueueChan : Nat := 8192          -- R76
def dieFan : Nat := 16                    -- R66
def chanFan : Nat := 96                   -- R75
def readTags : Nat := 65536               -- R174
def windowSlots : Nat := 4096             -- R178
def lanes : Nat := 20                     -- R179
def intakeQueue : Nat := 65536            -- R164
def maxUpdates : Nat := 4096              -- R144
def maxSide : Nat := 33554432             -- R164
def maxTombs : Nat := 16777216            -- R164
def seqBase : Nat := 2 ^ 48               -- R146
def maxMonuments : Nat := 262144          -- R194
def maxModels : Nat := 64                 -- R214
def windowMib : Nat := 96                 -- R220
def waveRows : Nat := 4096                -- R219
def maxGens : Nat := 4                    -- R232
def replayRecords : Nat := 1048576        -- R401
def eventLogSize : Nat := 4096            -- R313
def errorLogSize : Nat := 16384           -- R406
def startLogSize : Nat := 32768           -- R489
def maxFences : Nat := 64                 -- R309
def portQueue : Nat := 1024               -- R295
def commonsRecord : Nat := 8388608        -- R300
def blockBytes : Nat := 16384             -- R59
def frameBytes : Nat := 4096              -- R264
def poolFloor : Nat := 4194304            -- R284
/-- Frames of one stack that may be allocated: 33.5 GiB (R263). -/
def stackFrames : Nat := 8781824
/-- Frames of one stack's SPARE: 2 GiB (R263). -/
def spareFrames : Nat := 524288
/-- Frames of one stack: 36 GiB (R261); more than an eighth retired fails it (R273). -/
def allFrames : Nat := 9437184
/-- Staging SRAM of a search die: 192 MiB (R6). -/
def stagingBytes : Nat := 201326592
/-- Items of a node (R6). -/
def maxItems : Nat := 4000000000
/-- Racks of a plat (R6). -/
def maxRacks : Nat := 64
def journalFill : Nat := 16384            -- R325
def flashPage : Nat := 16384              -- R321
def segmentBytes : Nat := 4194304         -- R327
def extentBytes : Nat := 67108864         -- R323
def idcode : W32 := 0x15A71E6B            -- R537
def i3cStatic : Nat := 0x3C               -- R525
def dpaCommons : Nat := 0x8000000000      -- R288
def dpaCommonsEnd : Nat := 0xC000000000   -- R288
def dpaEnd : Nat := 0x10000000000         -- R288
def comWindow : Nat := 0x100000000        -- R288
def bufA : Nat := 0x40000000              -- R297
def bufB : Nat := 0x80000000              -- R297
def verMin : Nat := 1                     -- R358, stepping B1
def verMax : Nat := 3                     -- R358, stepping B1

/-! ### Free values

DESIGN CHOICE (log 2): each stands for a value the manual leaves open. None has a body, so no proof can rest on a number. -/

/-- A fresh open value, taken with the state's counter (log 2). -/
opaque freeValue : Nat → Nat

/-- SHA-384 of a byte string (R484, R494, R503): the published function, left uninterpreted (PRESUMED, log 6). -/
opaque sha384 : List Byte → BitVec 384

/-- Payload byte of a CXL primary mailbox response (R410): the manual names the opcodes and gives no payload; opcode, byte index (log 5). -/
opaque mailboxByte : Nat → Nat → Byte

/-- Byte of an SPDM response (R503), whose layout DMTF fixes and the manual does not give: request code, message counter, byte index (log 6). -/
opaque spdmByte : Nat → Nat → Nat → Byte

/-- The certificate chain of slot 0, provisioned at manufacture (R503, log 6). -/
opaque certByte : Nat → Byte

/-- The event-code list of the running firmware (R406, R432): code and severity pairs the manual does not list (log 14). -/
opaque eventCodes : List (Nat × Nat)

/-- VERSION fields of the images shipped in the part (R432, R493) where no image has been staged (log 14). -/
opaque fwVersion : Nat → Nat

/-- The NAND part's page read, density and rated cycles are the board's (R318): rated erase cycles by channel (log 11). -/
opaque ratedCycles : Nat → Nat

/-- Units a dense block holds on a channel: the NAND part's (log 25). -/
opaque blockUnits : Nat → Nat

/-- Bytes of a journal record by kind (R325), which the manual does not give (log 25). -/
opaque recBytes : Nat → Nat

/-- Sign and payload of a NaN that a conversion writes in a 16-bit format: not given (log 28). -/
opaque nanPayload : Nat

/-- Event code of an error or start log record (R406, R490): assigned by firmware, not listed in the manual (log 14). -/
opaque eventCode : Nat → Nat

/-- Bytes of a tombstone set of n tombstones, and of a row directory of n records (R118, R168): the manual gives neither a layout (log 21). -/
opaque tombBytes : Nat → Nat
opaque dirBytes : Nat → Nat

/-- Bytes of die-level state that a fragment holds in a die's staging SRAM, by its scan depth (R119): not given (log 112). -/
opaque dieState : Nat → Nat

/-- Element of a codebook entry whose fp16 word is an infinity or a NaN, in units of 2⁻²⁴ (R88 gives it no value; log 122). -/
opaque nonFinite : Nat → Int

/-- Pool frames that a tier 4 fragment's spill and emitted-ID set take on a die, by its scan depth (R127): not given (log 113). -/
opaque spillFrames : Nat → Nat

/-- What CONVERT makes of a NaN in int8: not given (log 28). -/
opaque nanInt8 : Nat

/-- Embedding element of a pad token, as a bf16 word: no EMBED row is named for it (log 38). -/
opaque padElem : Nat → Nat

/-- Smoothed round-trip time from the last one and a new sample, in ns: R355 names it and gives no formula (log 43). -/
opaque smooth : Nat → Nat → Nat

/-- Line rate of a connection in Mb/s (R356, R357; log 43). -/
def lineRate : Nat := 6400000

/-- IPv6 address of each of this node's fabric ports: set by the site, and the manual does not say how a node knows its own (log 42). -/
opaque portAddr : Nat → Nat

end Sys2Proof.Config
end

