-- ==== Sys2Proof/Machine/Types.lean ====
section
/-! DEFINITION. The plain data that commands carry and the state holds: slots, plat generations, search spaces, entries, fragments, updates, beacons, images. -/

namespace Sys2Proof

/-! ### Slots and commands -/

/-- A take of a command: the datum time of the take, the port and the slot (R414, R415). -/
structure Take where
  t : Nat
  port : Port
  slot : SlotNo
  deriving DecidableEq, Repr

/-- The end of a power-state transition: its datum time and, where the flash channels have trained again, the rate each has reached (R317, R468). -/
structure PsEnd where
  t : Nat
  rates : List Nat
  deriving DecidableEq, Repr

/-- The slot command that something belongs to: port, slot, the SEQ it echoes (R417), and the number of its take on this node, which keeps it apart from a later command of the same slot and SEQ after a reset. -/
structure Ref where
  port : Port
  slot : SlotNo
  seq : Nat
  no : Nat
  deriving DecidableEq, Repr

/-- Command identity of R399 with what a replay record compares (R400) and the port that entered it. -/
structure CmdKey where
  tenant : Nat
  cmdId : Nat
  opcode : Nat
  crc : Nat
  deriving DecidableEq, Repr

/-! ### Search spaces (R18, R80, R82) -/

inductive Metric | l2sq | ip | cosine | hamming
  deriving DecidableEq, Repr

inductive CodeKind | bit8 | bit4 | binary
  deriving DecidableEq, Repr

/-- FORMAT codes of R209. -/
inductive Fmt | int8 | e4m3 | e5m2 | bf16 | fp16 | fp32 | fx6 | fx4
  deriving DecidableEq, Repr

inductive Tier | pin | cache | flash
  deriving DecidableEq, Repr

inductive Protect | none | parity | mirror
  deriving DecidableEq, Repr

/-- A search space with its codebook (R18, R80 to R82, R88): entries are fp16 words, projection rows bf16 words. -/
structure Space where
  id : Nat
  planGen : Nat
  tag : Nat
  metric : Metric
  rerank : Metric
  dim : Nat
  m : Nat
  kind : CodeKind
  codebook : List (List (List W16))
  projection : Option (List (List W16))
  inWidth : Nat
  deriving DecidableEq, Repr

/-! ### The plat (R368) -/

inductive CopyPlat | joining | active
  deriving DecidableEq, Repr

structure PlatCopy where
  node : Nat
  state : CopyPlat
  deriving DecidableEq, Repr

/-- A leaf of a generation: its copies stand in rank order (R368, R552). -/
structure PlatLeaf where
  parcel : Nat
  space : Nat
  copies : List PlatCopy
  deriving DecidableEq, Repr

structure PlatGroup where
  parcel : Nat
  members : List Nat
  deriving DecidableEq, Repr

structure PlatNode where
  id : Nat
  tray : Nat
  rack : Nat
  addrs : List Nat
  deriving DecidableEq, Repr

structure PlatSpace where
  id : Nat
  planGen : Nat
  tag : Nat
  deriving DecidableEq, Repr

/-- The timing values of R139 and PEER_DEAD_NS. -/
structure Timing where
  stationNs : Nat
  updGuardNs : Nat
  queryLifeNs : Nat
  peerDeadNs : Nat
  deriving DecidableEq, Repr

/-- One numbered plat generation (R368). -/
structure PlatGen where
  gen : Nat
  term : Nat
  fromStation : Nat
  domain : Nat
  epochS : Nat
  ptpDomain : Nat
  version : Nat
  timing : Timing
  quorum : List Nat
  nodes : List PlatNode
  spaces : List PlatSpace
  leaves : List PlatLeaf
  groups : List PlatGroup
  deriving DecidableEq, Repr

/-- One operation of plat.propose (R372, R436). -/
inductive PlatOp
  | nodeAdd (n : PlatNode)
  | nodeRemove (id : Nat)
  | leafAdd (parcel space : Nat) (nodes : List Nat)
  | leafDrop (parcel : Nat)
  | copyAdd (parcel node : Nat)
  | copyActivate (parcel node : Nat)
  | copyRemove (parcel node : Nat)
  | copyRank (parcel : Nat) (nodes : List Nat)
  | groupSet (parcel : Nat) (members : List Nat)
  | groupDrop (parcel : Nat)
  | spaceAdd (s : PlatSpace) (cbAddr cbLen : Nat)
  | timingSet (v : Timing)
  | quorumSet (q : List Nat)
  | versionSet (v : Nat)
  deriving DecidableEq, Repr

/-- The outcome of a proposal, recorded in the agreed beacon (R372, R399). -/
structure ProposalRec where
  key : CmdKey
  gen : Nat
  fromStation : Nat
  deriving DecidableEq, Repr

/-- A beacon (R370). -/
structure Beacon where
  station : Nat
  term : Nat
  chair : Nat
  newestGen : Nat
  newestFrom : Nat
  announced : List PlatGen
  outcomes : List ProposalRec
  deriving DecidableEq, Repr

/-! ### Items (R61, R105) -/

/-- Attribute record; TAG128 in byte order of R105 as a 128-bit number (tag t is bit t). -/
structure Attr where
  tags : BitVec 128
  numA : W32
  numB : W32
  expiry : W32
  deriving DecidableEq, Repr

def Attr.zero : Attr := ⟨0, 0, 0, 0⟩

/-- One slot of a row: bytes, effective station, and its lines that read as poison (R189, R253). -/
structure RowSlot where
  bytes : List Byte
  eff : Nat
  poison : List Nat
  /-- Sequence number of the replacement that wrote the slot; 0 for a row as its entry brought it (R256). -/
  seq : Nat
  deriving DecidableEq, Repr

/-- A stored row: slot 0, and slot 1 if it has been written (R189). -/
structure Row where
  s0 : RowSlot
  s1 : Option RowSlot
  deriving DecidableEq, Repr

/-- An entry of a main or side list with its row directory record (R61, R151, R168). -/
structure Entry where
  id : Nat
  attr : Attr
  code : List Byte
  commit : Nat
  orig : Nat
  seq : Nat
  vector : Row
  payload : Option Row
  deriving DecidableEq, Repr

/-- A code block (R59): BLOCK_SEQ, SEALED, BASE_STATION, its entries in place order, BLOCK_CHECK. -/
structure Block where
  seq : Nat
  isSealed : Bool
  base : Nat
  items : List Entry
  check : Nat
  deriving DecidableEq, Repr

/-- A tombstone (R152), with the sequence number that wrote it. -/
structure Tomb where
  id : Nat
  t : Nat
  seq : Nat
  deriving DecidableEq, Repr

/-- One inverted list of an Ewecor plan (R65, R101): home channel for a TIER_FLASH list; centroid as bf16 words, or bits for HAMMING. -/
structure PlanList where
  centroid : List W16
  bits : List Byte
  homeDie : Die
  tier : Tier
  homeChan : Chan
  protect : Protect
  deriving DecidableEq, Repr

/-- An item of a plan: the full vector in VEC_FORMAT and the payload that lie beside its code block entry. -/
structure PlanItem where
  id : Nat
  attr : Attr
  code : List Byte
  vector : List Byte
  payload : List Byte
  deriving DecidableEq, Repr

/-- What the bytes at PLAN_ADDR hold (R23, R64). The manual gives code blocks their bytes and the plan around them no form, so the plan is content of the command (log 15); STACK_MASK and PROTECT of the row stores, which R265 lets their creation set and no field of parcel.create carries, are content of it too (log 87); no stack named stands for all that serve. -/
structure Plan where
  planGen : Nat
  lists : List PlanList
  /-- The blocks of the plan in its order, each the 16,384 bytes of R59: LIST_ID says to which list a block belongs. -/
  blocks : List (List Byte)
  items : List PlanItem
  rowStacks : List StackNo
  rowProtect : Protect
  deriving DecidableEq, Repr

/-! ### Updates (R144, R151 to R153, R190, R255) -/

/-- A near-bank parameter block, used by bank.op and by a closure's rescale (R239, R258). -/
structure NbOp where
  rows : Bool
  ty : Nat
  op : Nat
  u : Nat
  act : Nat
  shift : Nat
  fenced : Bool
  e : Int
  a : W32
  b : W32
  lo : W32
  hi : W32
  xAddr : Nat
  xLen : Nat
  uAddr : Nat
  region : Nat
  parcel : Nat
  nIdx : Nat
  indexAddr : Nat
  fieldOff : Nat
  fieldLen : Nat
  uOff : Nat
  blen : Nat
  uData : List Byte
  /-- DEADLINE of its command, at which no further line step starts (R254); 0 for none. -/
  deadline : Nat
  deriving DecidableEq, Repr

/-- One update of a command as the entry node read it from the host's partition (R431). -/
structure UpdItem where
  id : Nat
  attr : Attr
  vec : List W32
  payload : List Byte
  kind : Nat
  deriving DecidableEq, Repr

inductive UpdKind | insert | delete | upsert | replace | rows | create | load | closure
  deriving DecidableEq, Repr

/-- parcel.create's settings (R428). -/
structure LeafCfg where
  space : Nat
  attr : Bool
  replaceable : Bool
  fmt : Fmt
  vecTier : Tier
  payTier : Tier
  payloadLen : Nat
  np : Nat
  wUs : Nat
  deriving DecidableEq, Repr

/-- A command on its way to the lead copy (R144, R383): what the entry node read, who entered it. -/
structure UpdCmd where
  kind : UpdKind
  parcel : Nat
  entry : Nat
  ref : Ref
  key : CmdKey
  vfmt : Fmt
  items : List UpdItem
  recLenOk : Bool
  resultLen : Nat
  cfg : Option LeafCfg
  plan : Option Plan
  closureU : Nat
  closureK : Option Nat
  nb : Option NbOp
  forwarded : Bool
  deriving DecidableEq, Repr

/-- What one operation of the update sequence does, as the lead encoded it (R146). -/
inductive UpdOp
  | add (list : Nat) (e : Entry)
  | tomb (id : Nat)
  | upsert (list : Nat) (e : Entry)
  | replace (id : Nat) (kind : Nat) (bytes : List Byte)
  | rows (nb : NbOp) (ids : List Nat)
  | create (cfg : LeafCfg)
  | load (plan : Plan)
  | closure (k u : Nat) (nb : Option NbOp)
  deriving DecidableEq, Repr

/-- An update record: sequence number, commit station, operation, and the command it belongs to (R146, R399). -/
structure UpdRec where
  seq : Nat
  commit : Nat
  op : UpdOp
  key : CmdKey
  deriving DecidableEq, Repr

/-- How a command forwarded to a lead ended, as the lead reports it to the entry node; a replayed one carries its original status, a ROWS bank.op its poisoned lines. -/
structure UpdOutcome where
  ref : Ref
  key : CmdKey
  status : Nat
  orig : Nat
  commit : Nat
  count : Nat
  poison : List Nat
  degraded : Bool
  deriving DecidableEq, Repr

/-- A commit mark (R147). -/
structure Mark where
  commit : Nat
  seq : Nat
  deriving DecidableEq, Repr

/-- A settled record (R147, R162, R389): copies settled without, copies CURRENT again, the closure's outcome if station is a use station, and outcomes for commands this node entered (log 16). -/
structure Settled where
  parcel : Nat
  commit : Nat
  lapsed : List Nat
  current : List Nat
  closure : Option Bool
  outcomes : List UpdOutcome
  deriving DecidableEq, Repr

/-! ### Fragments (R26) and candidates -/

/-- A candidate: key word, ID, commit station (R102, R116). -/
structure Cand where
  key : W32
  id : Nat
  commit : Nat
  deriving DecidableEq, Repr

/-- A (key, ID) pair, as a horizon or an entry on the wire (R115). -/
structure KeyId where
  key : W32
  id : Nat
  deriving DecidableEq, Repr

/-- A list of candidates with its horizon (R115). -/
structure CList where
  items : List Cand
  horizon : Option KeyId
  deriving DecidableEq, Repr

/-- Distance tables as the fragment carries them: the bytes of R90. -/
abbrev Tables := List Byte

/-- A filter term (R108). -/
structure FTerm where
  op : Nat
  neg : Bool
  mask : BitVec 128
  lo : W32
  hi : W32
  deriving DecidableEq, Repr

/-- A filter program: KEEP_EXPIRED and the clauses in use (R108). -/
structure Filter where
  keepExpired : Bool
  clauses : List (List FTerm)
  deriving DecidableEq, Repr

/-- Identity of an attempt at a fragment (R26): root node, query context, leaf, attempt number. -/
structure FragKey where
  root : Nat
  ctx : Nat
  parcel : Nat
  attempt : Nat
  deriving DecidableEq, Repr

/-- A fragment: the fields of R26's table, `leafDepth` being its Leaf depth k + m (R122). Beside them, as the model's choice (DESIGN CHOICE, log 111): the margin m, without which D_s and the tier of R122 to R124 cannot be told from the leaf depth; WIDEN and P_MAX, which R131 has the leaf act on; the rank and the forwarded mark, which R381 and R382 have a receiver look at. -/
structure Frag where
  key : FragKey
  rank : Nat
  fwd : Bool
  bench : Nat
  gen : Nat
  deadline : Nat
  tables : Tables
  scale : List Byte
  q : List W16
  filter : Filter
  kPrime : Nat
  leafDepth : Nat
  margin : Nat
  np : Nat
  nrr : Nat
  widen : Bool
  pMax : Nat
  deriving DecidableEq, Repr

/-- The k of the query (R122). -/
def Frag.k (f : Frag) : Nat := f.leafDepth - f.margin

/-- What a leaf returns to the root, whole or in part (R37, R38, R121): entries in key order, a horizon, completion, and the counts of R111 and R131. -/
structure FragRes where
  key : FragKey
  items : List KeyId
  horizon : Option KeyId
  complete : Bool
  nRej : Nat
  probes : Nat
  widened : Bool
  deriving DecidableEq, Repr

/-- ST_STALE_PLAT's content: the correct generation and, under case 4, the holder of the rank (R382). -/
structure StaleAns where
  gen : Nat
  case1 : Bool
  holder : Option Nat
  deriving DecidableEq, Repr

/-! ### Chain engine (R166 to R181) -/

inductive RowKind | vector | payload | embed
  deriving DecidableEq, Repr

/-- A monument or cache row: leaf (or model), copy rank, kind, ID (or token index) (R194, R197). -/
structure RowKey where
  parcel : Nat
  rank : Nat
  kind : RowKind
  id : Nat
  deriving DecidableEq, Repr

/-- What a read meets (R177, R322), or what another node answers to one: a row (no bytes: no entry qualifies; empty bytes: the leaf has no such store, R171), a failure, or ST_STALE_PLAT (R382). -/
inductive ReadOutcome
  | ok
  | corrected
  | poison
  | uncorrectable
  | unreachable
  | remote (bytes : Option (List Byte))
  | failed
  | stale (a : StaleAns)
  deriving DecidableEq, Repr

/-- A row read served for a reader rooted on another node (R175). -/
structure RemoteReq where
  root : Nat
  tag : Nat
  parcel : Nat
  rank : Nat
  gen : Nat
  bench : Nat
  kind : RowKind
  id : Nat
  fwd : Bool
  deriving DecidableEq, Repr

/-- What another node's leaf tells a gather's root: whether its load has ended, and the row lengths of its stores, 0 for none (R23, R171, R184). -/
structure LeafFact where
  parcel : Nat
  loaded : Bool
  vecLen : Nat
  payLen : Nat
  deriving DecidableEq, Repr

/-! ### Messages to peers -/

/-- What this node hands to Traverse for a peer. The manual gives no byte form for a message (log 16). -/
inductive OutMsg
  | fragments (fs : List Frag)
  | fragRes (r : FragRes)
  | fragFailed (k : FragKey)
  | fragExpired (k : FragKey)
  | stale (k : FragKey) (a : StaleAns)
  | update (u : UpdCmd)
  | updateStale (key : CmdKey)
  | updateEnd (o : UpdOutcome)
  | records (parcel : Nat) (rs : List UpdRec)
  | fetchRecords (parcel fromSeq : Nat)
  | mark (parcel : Nat) (m : Mark)
  | markAck (parcel commit : Nat) (ready : Option Bool)
  | settled (s : Settled)
  | blocks (parcel : Nat) (p : Plan)
  | loadAck (parcel : Nat)
  | rowsApplied (key : CmdKey)
  | progress (ref : Ref) (done total : Nat)
  | npReport (parcel np : Nat)
  | storeBeacon (b : Beacon)
  | stored (term station : Nat)
  | beacon (b : Beacon)
  | fetchBeacon (station : Nat)
  | candidacy (term station : Nat)
  | vote (term : Nat)
  | propose (key : CmdKey) (base reqFrom : Nat) (ops : List PlatOp) (cbs : List Space)
  | fetchGen (gen : Nat)
  | fetchCodebook (space : Nat)
  | rowRequest (r : RemoteReq)
  | rowReply (tag : Nat) (o : ReadOutcome)
  | hello (cls : Nat) (version : Nat) (ports : List FabPort)
  | fillRequest (parcel : Nat)
  | ready (parcel : Nat)
  | echo (len : Nat)
  deriving DecidableEq, Repr

/-! ### Host memory (R288 to R311) -/

/-- M2S requests Septuno supports (R289). -/
inductive MemOp | memRd | memRdData | memInv | memWr | memWrPtl
  deriving DecidableEq, Repr

/-- How a medium reports a line it read (R270, R271). -/
inductive LineErr | clean | corrected | uncorrectable
  deriving DecidableEq, Repr

/-- What a pass of the scrub finds on a stack: lines with their errors, and banks that are reported failed (R270, R272). -/
structure ScrubPass where
  lines : List (Nat × LineErr)
  dead : List (Fin 512)
  deriving DecidableEq, Repr

/-! ### Start-up (R484 to R490) -/

inductive ResetCls | cold | warm | low
  deriving DecidableEq, Repr

inductive UnitOutcome | passed | failed | hung | noPartner
  deriving DecidableEq, Repr

/-- What a start meets, stake by stake (R484): the board's and silicon's answers, given with the command. -/
structure StartOutcome where
  romOk : Bool
  fusesOk : Bool
  bootSrc : Nat
  clkMode : Nat
  clocksOk : Bool
  sramOk : Bool
  stackRes : List UnitOutcome
  arrays : List Nat
  chans : List UnitOutcome
  chanArrays : List Nat
  rates : List Nat
  targets : List Nat
  densities : List Nat
  goodBlocks : List Nat
  hostPorts : List UnitOutcome
  fabPorts : List UnitOutcome
  journalOk : Bool
  /-- The first journal record, from the oldest, that fails its check on both journal channels (R328). -/
  journalEnd : Option Nat
  joinAnswer : Option PlatGen
  /-- The signature verdicts of the active set and of the known-good set, three images each (R494). -/
  sigActive : List Bool
  sigGood : List Bool
  regionTableOk : Bool
  interrupted : Option Nat
  deriving DecidableEq, Repr

/-! ### Traverse packets (R353) -/

/-- The 32-byte Traverse header, field by field. -/
structure TvHeader where
  version : Nat
  type : Nat
  tclass : Nat
  first : Bool
  last : Bool
  ceEcho : Bool
  fwd : Bool
  src : Nat
  dst : Nat
  psn : Nat
  msgId : Nat
  msgOff : Nat
  msgLen : Nat
  ackPsn : Nat
  hcheck : Nat
  deriving DecidableEq, Repr

/-- A reading of one thermal sensor (R515): die number of R526 and degrees. -/
structure Reading where
  die : Nat
  celsius : Nat
  deriving DecidableEq, Repr

/-- The record a self-test writes for one unit (R536). -/
structure BistRec where
  kind : Nat
  unit : Nat
  bit : Nat
  result : Nat
  fails : Nat
  repaired : Nat
  deriving DecidableEq, Repr

/-- What a loop-back test counted (R532). -/
structure LoopRes where
  bytes : Nat
  errBits : Nat
  firstErr : Option Nat
  errs : List Nat
  echoed : Nat
  deriving DecidableEq, Repr

/-- A closure's record as a fill brings it: sequence number, K, U, the rescale, and whether it has switched (R162). -/
structure ImgClosure where
  seq : Nat
  k : Nat
  u : Nat
  rescale : Option NbOp
  switched : Bool
  deriving DecidableEq, Repr

/-- Content copied to a JOINING copy (R376): settled station, settings, lists, tombstones, sequence reached, load, last switched closure, the closure that has still to be built. -/
structure CopyImage where
  station : Nat
  cfg : LeafCfg
  lists : List PlanList
  main : List (List Block)
  side : List (List Block)
  tombs : List Tomb
  seq : Nat
  loaded : Nat
  loadStation : Nat
  lastUse : Nat
  closure : Option ImgClosure
  planGen : Nat
  rowStacks : List StackNo
  rowProtect : Protect
  deriving DecidableEq, Repr

/-- References whose loss R520 describes. -/
inductive RefClk | hp (p : Port) | fb (e : Fin 2) | clk25
  deriving DecidableEq, Repr

/-- Body of a fuse package: bits to set (R500, R501). -/
structure FuseBody where
  revoke : List (Fin 4)
  svn : List (Fin 3 × Nat)
  keys : List (Fin 4 × BitVec 384 × BitVec 384)
  macs : List (FabPort × BitVec 48)
  pinMap : List (Nat × BitVec 3)
  rom : BitVec 384
  seed : BitVec 384
  deriving DecidableEq, Repr

/-- An image, fuse package or reset package header (R493). -/
structure ImgHeader where
  magicOk : Bool
  kind : Nat
  keySlot : Nat
  reservedOk : Bool
  version : Nat
  svn : Nat
  compat : List (Nat × Nat × Nat)
  bodyLen : Nat
  totalLen : Nat
  deriving DecidableEq, Repr

end Sys2Proof
end

