-- ==== Sys2Proof/Syntax.lean ====
section
/-! DEFINITION. The commands of Septuno: one constructor for each row of spec/opcode_table.json. The table gives rows no operands; these are the model's: `t` is the datum time at which the command happens, a `Take` names the slot of a field-book command (whose fields are read from the slot's bytes), and the rest is what a peer, the board or a medium reports. -/

namespace Sys2Proof

/-- One constructor per row of the table. -/
inductive Instr where
  /- field book: submission and device commands -/
  | cmdWordWrite (t : Nat) (p : Port) (n : SlotNo) (w : W64)
  | deferredTake (k : Take)
  | devHello (k : Take)
  | devInfo (k : Take)
  | devBlockReset (k : Take)
  | devBlockResetNode (k : Take)
  | blockResetComplete (t : Nat) (failed : Nat)
  | devPowerState (k : Take)
  | psTransitionComplete (k : PsEnd)
  | devFwStage (k : Take)
  | devFwActivate (k : Take) (sig : List Bool)
  | devLogRead (k : Take)
  /- parcels -/
  | parcelCreate (k : Take)
  | parcelLoad (k : Take) (plan : Plan)
  | parcelDrop (k : Take)
  | parcelClosure (k : Take)
  | parcelStats (k : Take)
  | searchBatch (k : Take)
  | itemInsert (k : Take)
  | itemDelete (k : Take)
  | itemUpsert (k : Take)
  | itemReplaceRow (k : Take)
  | updateIntake (t : Nat) (u : UpdCmd)
  /- chain engine commands -/
  | chainGather (k : Take) (facts : List LeafFact)
  | chainCacheLoad (k : Take)
  | chainMonumentSet (k : Take)
  | chainMonumentMove (k : Take)
  | monumentFillComplete (t : Nat) (row : RowKey) (copy : Nat)
  | monumentSwitch (t : Nat) (row : RowKey)
  | monumentFree (t : Nat) (row : RowKey)
  /- models -/
  | modelLoad (k : Take) (held : Option (List Byte))
  | modelImageFree (t : Nat) (model : Nat)
  | modelRun (k : Take)
  | modelWaveStart (t : Nat) (model : Nat)
  | windowFillComplete (t : Nat) (model layer : Nat) (d : Die) (src : List (Fin 4)) (waited : List Nat)
  | modelWaveEnd (t : Nat) (model : Nat)
  | tableGenLoad (k : Take)
  | tableGenRemove (k : Take)
  | tableGenRelease (t : Nat) (gen : Nat)
  /- near-bank units -/
  | bankOp (k : Take)
  | easementGrant (t : Nat) (st : StackNo)
  | lineStep (t : Nat) (st : StackNo) (unit : Nat) (x u : LineErr)
  | bankEasementCfg (k : Take)
  | easementCfgApply (t : Nat)
  /- partitions, commons, revocation, tiers -/
  | partition (k : Take)
  | commonsCreate (k : Take)
  | commonsDrop (k : Take)
  | acquire (k : Take)
  | renew (k : Take)
  | publish (k : Take)
  | release (k : Take)
  | breakLease (k : Take)
  | leaseExpiry (t : Nat) (c : ComSlot)
  | commonsRefill (t : Nat) (c : ComSlot) (line : Nat)
  | revoke (k : Take)
  | fenceSet (t : Nat) (p : Port) (dpa : Nat)
  | restore (k : Take)
  | memTierAlloc (k : Take)
  | memTierFree (k : Take)
  /- flash and admission commands -/
  | flashFormat (k : Take)
  | flashDiscard (k : Take)
  | flashHealth (k : Take)
  | admTenantSet (k : Take)
  | admShaperSet (k : Take)
  /- plat, time and test commands -/
  | platPropose (k : Take) (codebooks : List Space) (readyCopies : List (Nat × Nat))
  | platStatus (k : Take)
  | platJoin (k : Take) (fetched : Option PlatGen)
  | found (k : Take) (g : PlatGen) (codebooks : List Space)
  | timeStatus (k : Take)
  | testLoopback (k : Take)
  | loopbackLockTimeout (t : Nat) (iface unit : Nat)
  | testComplete (t : Nat) (iface unit : Nat) (r : LoopRes)
  | testBist (k : Take)
  | bistComplete (t : Nat) (p : Port) (n : SlotNo) (recs : List BistRec)
  | commandDeadline (t : Nat) (p : Port) (n : SlotNo)
  /- register accesses with a row of their own, and the rest -/
  | doneSummaryRead (t : Nat) (p : Port) (word : Fin 8)
  | doneIrqSignal (t : Nat) (p : Port)
  | adminPortsWrite (t : Nat) (p : Port) (v : W64)
  | admSelWrite (t : Nat) (p : Port) (v : W64)
  | pwrHoldWrite (t : Nat) (p : Port) (b : Fin 4) (v : W64)
  | fabPortWrite (t : Nat) (p : Port) (q : FabPort) (v : W64)
  | readShareWrite (t : Nat) (p : Port) (v : W64)
  | peakWRead (t : Nat) (p : Port)
  | tjPeakRead (t : Nat) (p : Port)
  | registerWrite (t : Nat) (p : Port) (bar2 : Bool) (addr : Nat) (data : List Byte)
  /- CXL -/
  | identifyMemoryDevice (t : Nat) (p : Port)
  | getSupportedLogs (t : Nat) (p : Port)
  | getLog (t : Nat) (p : Port) (off len : Nat)
  | getHealthInfo (t : Nat) (p : Port)
  | mailboxUnsupported (t : Nat) (p : Port) (opcode : Nat)
  | hdmDecoderCommit (t : Nat) (p : Port) (d : Fin 2) (base size ways : Nat)
  | hostMemAccess (t : Nat) (p : Port) (op : MemOp) (dpa : Nat) (data : List Byte) (mask : BitVec 64) (e : LineErr)
  | bisnpResponse (t : Nat) (p : Port) (c : ComSlot) (line : Nat) (data : Option (List Byte))
  | spdmGetVersion (t : Nat) (p : Port)
  | spdmGetCapabilities (t : Nat) (p : Port)
  | spdmNegotiateAlgorithms (t : Nat) (p : Port)
  | spdmGetDigests (t : Nat) (p : Port)
  | spdmGetCertificate (t : Nat) (p : Port) (off len : Nat)
  | spdmChallenge (t : Nat) (p : Port) (nonce : List Byte)
  | spdmGetMeasurements (t : Nat) (p : Port) (index : Nat)
  | spdmKeyExchange (t : Nat) (p : Port) (pub : List Byte)
  | spdmFinish (t : Nat) (p : Port) (macOk : Bool)
  | spdmEndSession (t : Nat) (p : Port)
  | ideKm (t : Nat) (p : Port) (enable : Bool)
  | portReset (t : Nat) (p : Port)
  | hostLinkUp (t : Nat) (p : Port)
  /- Traverse -/
  | traverseData (t : Nat) (q : FabPort) (ce : Bool) (bytes : List Byte)
  | traverseAck (t : Nat) (q : FabPort) (bytes : List Byte)
  | hello (t : Nat) (peer cls : Nat) (vmin vmax : Nat) (withdrawn : List FabPort)
  | ackTimer (t : Nat) (peer cls : Nat)
  | retransmitTimeout (t : Nat) (peer cls : Nat)
  | rateRaise (t : Nat) (peer cls : Nat)
  | peerUnreachable (t : Nat) (peer cls : Nat)
  | egressOpportunity (t : Nat) (q : FabPort)
  /- fragments at the leaf -/
  | fragmentArrival (t : Nat) (frags : List Frag)
  | generationFetched (t : Nat) (g : PlatGen)
  | fragmentSettledStart (t : Nat) (key : FragKey)
  | probeEnqueue (t : Nat) (key : FragKey)
  | batchWindowExpiry (t : Nat) (chan : Bool) (unit : Nat) (parcel list ver : Nat)
  | traverseStart (t : Nat) (chan : Bool) (unit : Nat) (parcel list ver : Nat)
  | traverseEnd (t : Nat) (id : Nat) (bad : Bool)
  | fragmentDeadline (t : Nat) (key : FragKey)
  /- fragments at the root -/
  | fragmentResult (t : Nat) (r : FragRes)
  | fragmentFailedAnswer (t : Nat) (key : FragKey) (expired : Bool)
  | stalePlatAnswer (t : Nat) (key : FragKey) (a : StaleAns)
  | tLateExpiry (t : Nat) (key : FragKey) (read : Option Nat)
  | queryDeadline (t : Nat) (ctx : Nat)
  /- chain engine steps -/
  | chainReadIssue (t : Nat) (reader : Nat)
  | remoteReadRequest (t : Nat) (r : RemoteReq)
  | chainReadComplete (t : Nat) (tag : Nat) (o : ReadOutcome)
  | rowDelivery (t : Nat) (reader pos : Nat)
  /- settlement -/
  | updateRecordReceipt (t : Nat) (parcel : Nat) (recs : List UpdRec)
  | intakeClose (t : Nat) (parcel : Nat)
  | markReceipt (t : Nat) (parcel : Nat) (m : Mark)
  | markAck (t : Nat) (parcel : Nat) (node commit : Nat) (ready : Option Bool) (fetch : Option Nat)
  | lapseTimeout (t : Nat) (parcel : Nat)
  | settledRecordReceipt (t : Nat) (r : Settled)
  | closureBuildStart (t : Nat) (parcel : Nat)
  | closureBuildComplete (t : Nat) (parcel : Nat) (ok : Bool)
  | newLeadIntakeStart (t : Nat) (parcel : Nat) (m : Mark)
  | copyFillComplete (t : Nat) (parcel : Nat) (img : CopyImage)
  | stationStart (t : Nat)
  /- plat agreement -/
  | beaconCompose (t : Nat)
  | beaconAgreed (t : Nat) (member term station : Nat)
  | beaconReceipt (t : Nat) (b : Beacon) (agreed : Bool)
  | chairCandidacy (t : Nat)
  | voteRequest (t : Nat) (cand term station : Nat)
  | voteGrant (t : Nat) (member term : Nat) (b : Option Beacon)
  | codebookFetch (t : Nat) (sp : Space)
  | drainStation (t : Nat) (parcel : Nat)
  | hotRowCacheRefresh (t : Nat)
  | latenessHalving (t : Nat)
  | refillTick (t : Nat)
  /- datum time -/
  | ptpMeasurement (t : Nat) (q : FabPort) (offset : Int)
  | time1pps (t : Nat)
  | timeTod (t : Nat) (frame : List Byte)
  | timeSourceLoss (t : Nat)
  | holdoverExpiry (t : Nat)
  | resetPackage (t : Nat) (img : List Byte) (node notBefore notAfter nonce : Nat) (sigOk : Bool)
  | loopbackEcho (t : Nat) (len bad : Nat)
  /- stacks and pool -/
  | stackLinkLoss (t : Nat) (st : StackNo)
  | rebuildLine (t : Nat) (ok : Bool)
  | scrub (t : Nat) (st : StackNo) (pass : ScrubPass)
  | poolFillComplete (t : Nat) (key page : Nat)
  /- flash media -/
  | flashReadComplete (t : Nat) (c : Chan) (rd : Nat) (retries : Nat) (soft : Bool) (heavy : Bool) (bad : List (Fin 4))
  | flashProgramComplete (t : Nat) (c : Chan) (wseq : Nat) (ok : Bool)
  | flashEraseComplete (t : Nat) (c : Chan) (block : Nat) (ok : Bool)
  | journalTailProgram (t : Nat)
  | journalDurable (t : Nat) (second : Bool)
  | segmentCheckpoint (t : Nat) (c : Chan) (seg : Nat)
  | collectionStart (t : Nat) (c : Chan)
  | patrolRead (t : Nat) (c : Chan) (block : Nat) (heavy : Bool)
  | fold (t : Nat) (c : Chan)
  | extentMigration (t : Nat) (c : Chan)
  | targetFail (t : Nat) (c : Chan) (target : Nat)
  | arbitrationPeriod (t : Nat)
  /- board events -/
  | pwrFailNAssert (t : Nat)
  | pfDone (t : Nat)
  | pwrFailNDeassert (t : Nat)
  | internalUndervoltage (t : Nat)
  | supplyLoss (t : Nat) (below30 : Bool)
  | powerOn (t : Nat)
  | resetNAssert (t : Nat)
  | coldReset (t : Nat) (o : StartOutcome)
  | warmReset (t : Nat) (o : StartOutcome)
  | watchdogExpiry (t : Nat) (core : Fin 16)
  | controlSramUncorrectable (t : Nat)
  | refclkLoss (t : Nat) (c : RefClk)
  | refclkReturn (t : Nat) (c : RefClk)
  | governorSample (t : Nat) (watts : Nat)
  | governorNotchAdd (t : Nat)
  | governorNotchRemove (t : Nat)
  | thermalSample (t : Nat) (rs : List Reading)
  | wakeAt (t : Nat) (o : StartOutcome)
  | wake (t : Nat) (o : StartOutcome)
  | i3cPrivateWrite (t : Nat) (bytes : List Byte)
  | i3cPrivateRead (t : Nat) (len : Nat)
  | entdaa (t : Nat) (addr : Nat)
  /- JTAG -/
  | bypass (t : Nat)
  | idcode (t : Nat)
  | samplePreload (t : Nat)
  | extest (t : Nat)
  | extestPulse (t : Nat)
  | extestTrain (t : Nat)
  | clamp (t : Nat)
  | highz (t : Nat)
  | fusePkg (t : Nat) (img : List Byte) (body : FuseBody) (sigOk : Bool)
  /- rows added at the table's end -/
  | fabricLinkDown (t : Nat) (q : FabPort)
  | fabricLinkUp (t : Nat) (q : FabPort)
  | secureAssociation (t : Nat) (q : FabPort)
  | validReturn (t : Nat)
  | loadAcknowledgement (t : Nat) (parcel node : Nat)
  | rowsApplied (t : Nat) (key : CmdKey) (node : Nat)
  | defaultNPReport (t : Nat) (parcel np : Nat)
  | stalePlatUpdateAnswer (t : Nat) (key : CmdKey)
  deriving DecidableEq, Repr

end Sys2Proof
end

