-- ==== Sys2Proof/WellFormed.lean ====
section
/-! DEFINITION. Which commands have a form the hardware can meet: unit numbers that exist, byte strings of the length a bus carries. A command without it faults (`Fault.illFormed`), and no rule of the manual speaks of it. -/

namespace Sys2Proof

/-- A NODE_ID (R6, R353). -/
def nodeOk (n : Nat) : Bool := n < 4096

/-- A traffic class (R353). -/
def clsOk (n : Nat) : Bool := n < 4

/-- A search die or a flash channel (R51, R316). -/
def placeOk (chan : Bool) (unit : Nat) : Bool := if chan then unit < 32 else unit < 10

/-- One answer for each unit of the part (R7, R484). -/
def StartOutcome.wf (o : StartOutcome) : Bool :=
  o.bootSrc < 4 && o.clkMode < 4 && o.stackRes.length = 20 && o.arrays.length = 10 && o.chans.length = 32 && o.chanArrays.length = 32 &&
    o.rates.length = 32 && o.targets.length = 32 && o.densities.length = 32 && o.goodBlocks.length = 32 && o.hostPorts.length = 4 &&
    o.fabPorts.length = 8 && o.sigActive.length = 3 && o.sigGood.length = 3

/-- CXL.mem moves whole 64-byte lines inside the port's 1 TiB (R288, R289). -/
def memAccessOk (op : MemOp) (dpa : Nat) (data : List Byte) : Bool :=
  dpa % 64 = 0 && dpa < Config.dpaEnd &&
    (match op with | .memWr => data.length = 64 | .memWrPtl => data.length = 64 | .memRd => data.isEmpty | .memRdData => data.isEmpty | .memInv => data.isEmpty)

/-- The form of a command. -/
def Instr.wf : Instr → Bool
  | .devFwActivate _ sig => sig.length = 3
  | .windowFillComplete _ _ _ _ src waited => src.length = waited.length
  | .lineStep _ _ unit _ _ => unit < 128
  | .loopbackLockTimeout _ iface _ => iface < 4
  | .testComplete _ iface _ _ => iface < 4
  | .registerWrite _ _ _ addr data => addr < 4194304 && 1 ≤ data.length && data.length ≤ 8
  | .hostMemAccess _ _ op dpa data _ _ => memAccessOk op dpa data
  | .bisnpResponse _ _ _ _ data => (match data with | none => true | some bs => bs.length = 64)
  | .spdmChallenge _ _ nonce => nonce.length = 32
  | .traverseData _ _ _ bytes => 32 ≤ bytes.length && bytes.length ≤ 8224
  | .traverseAck _ _ bytes => bytes.length = 40
  | .hello _ peer cls _ _ _ => nodeOk peer && clsOk cls
  | .ackTimer _ peer cls => nodeOk peer && clsOk cls
  | .retransmitTimeout _ peer cls => nodeOk peer && clsOk cls
  | .rateRaise _ peer cls => nodeOk peer && clsOk cls
  | .peerUnreachable _ peer cls => nodeOk peer && clsOk cls
  | .batchWindowExpiry _ chan unit _ _ _ => placeOk chan unit
  | .traverseStart _ chan unit _ _ _ => placeOk chan unit
  | .markAck _ _ node _ _ _ => nodeOk node
  | .beaconAgreed _ member _ _ => nodeOk member
  | .voteRequest _ cand _ _ => nodeOk cand
  | .voteGrant _ member _ _ => nodeOk member
  | .timeTod _ frame => frame.length = 16
  | .coldReset _ o => o.wf
  | .warmReset _ o => o.wf
  | .wakeAt _ o => o.wf
  | .wake _ o => o.wf
  | .thermalSample _ rs => !rs.isEmpty
  | .i3cPrivateWrite _ bytes => !bytes.isEmpty
  | .entdaa _ addr => addr < 128
  | .loadAcknowledgement _ _ node => nodeOk node
  | .rowsApplied _ _ node => nodeOk node
  | .cmdWordWrite .. => true
  | .deferredTake .. => true
  | .devHello .. => true
  | .devInfo .. => true
  | .devBlockReset .. => true
  | .devBlockResetNode .. => true
  | .blockResetComplete .. => true
  | .devPowerState .. => true
  | .psTransitionComplete k => k.rates.isEmpty || k.rates.length = 32
  | .devFwStage .. => true
  | .devLogRead .. => true
  | .parcelCreate .. => true
  | .parcelLoad .. => true
  | .parcelDrop .. => true
  | .parcelClosure .. => true
  | .parcelStats .. => true
  | .searchBatch .. => true
  | .itemInsert .. => true
  | .itemDelete .. => true
  | .itemUpsert .. => true
  | .itemReplaceRow .. => true
  | .updateIntake .. => true
  | .chainGather .. => true
  | .chainCacheLoad .. => true
  | .chainMonumentSet .. => true
  | .chainMonumentMove .. => true
  | .monumentFillComplete .. => true
  | .monumentSwitch .. => true
  | .monumentFree .. => true
  | .modelLoad .. => true
  | .modelImageFree .. => true
  | .modelRun .. => true
  | .modelWaveStart .. => true
  | .modelWaveEnd .. => true
  | .tableGenLoad .. => true
  | .tableGenRemove .. => true
  | .tableGenRelease .. => true
  | .bankOp .. => true
  | .easementGrant .. => true
  | .bankEasementCfg .. => true
  | .easementCfgApply .. => true
  | .partition .. => true
  | .commonsCreate .. => true
  | .commonsDrop .. => true
  | .acquire .. => true
  | .renew .. => true
  | .publish .. => true
  | .release .. => true
  | .breakLease .. => true
  | .leaseExpiry .. => true
  | .commonsRefill .. => true
  | .revoke .. => true
  | .fenceSet .. => true
  | .restore .. => true
  | .memTierAlloc .. => true
  | .memTierFree .. => true
  | .flashFormat .. => true
  | .flashDiscard .. => true
  | .flashHealth .. => true
  | .admTenantSet .. => true
  | .admShaperSet .. => true
  | .platPropose .. => true
  | .platStatus .. => true
  | .platJoin .. => true
  | .found .. => true
  | .timeStatus .. => true
  | .testLoopback .. => true
  | .testBist .. => true
  | .bistComplete .. => true
  | .commandDeadline .. => true
  | .doneSummaryRead .. => true
  | .doneIrqSignal .. => true
  | .adminPortsWrite .. => true
  | .admSelWrite .. => true
  | .pwrHoldWrite .. => true
  | .fabPortWrite .. => true
  | .readShareWrite .. => true
  | .peakWRead .. => true
  | .tjPeakRead .. => true
  | .identifyMemoryDevice .. => true
  | .getSupportedLogs .. => true
  | .getLog .. => true
  | .getHealthInfo .. => true
  | .mailboxUnsupported .. => true
  | .hdmDecoderCommit .. => true
  | .spdmGetVersion .. => true
  | .spdmGetCapabilities .. => true
  | .spdmNegotiateAlgorithms .. => true
  | .spdmGetDigests .. => true
  | .spdmGetCertificate .. => true
  | .spdmGetMeasurements .. => true
  | .spdmKeyExchange .. => true
  | .spdmFinish .. => true
  | .spdmEndSession .. => true
  | .ideKm .. => true
  | .portReset .. => true
  | .hostLinkUp .. => true
  | .egressOpportunity .. => true
  | .fragmentArrival .. => true
  | .generationFetched .. => true
  | .fragmentSettledStart .. => true
  | .probeEnqueue .. => true
  | .traverseEnd .. => true
  | .fragmentDeadline .. => true
  | .fragmentResult .. => true
  | .fragmentFailedAnswer .. => true
  | .stalePlatAnswer .. => true
  | .tLateExpiry .. => true
  | .queryDeadline .. => true
  | .chainReadIssue .. => true
  | .remoteReadRequest .. => true
  | .chainReadComplete .. => true
  | .rowDelivery .. => true
  | .updateRecordReceipt .. => true
  | .intakeClose .. => true
  | .markReceipt .. => true
  | .lapseTimeout .. => true
  | .settledRecordReceipt .. => true
  | .closureBuildStart .. => true
  | .closureBuildComplete .. => true
  | .newLeadIntakeStart .. => true
  | .copyFillComplete .. => true
  | .stationStart .. => true
  | .beaconCompose .. => true
  | .beaconReceipt .. => true
  | .chairCandidacy .. => true
  | .codebookFetch .. => true
  | .drainStation .. => true
  | .hotRowCacheRefresh .. => true
  | .latenessHalving .. => true
  | .refillTick .. => true
  | .ptpMeasurement .. => true
  | .time1pps .. => true
  | .timeSourceLoss .. => true
  | .holdoverExpiry .. => true
  | .resetPackage .. => true
  | .loopbackEcho .. => true
  | .stackLinkLoss .. => true
  | .rebuildLine .. => true
  | .scrub .. => true
  | .poolFillComplete .. => true
  | .flashReadComplete _ _ _ retries soft _ _ => retries ≤ 8 && (!soft || retries = 8)
  | .flashProgramComplete .. => true
  | .flashEraseComplete .. => true
  | .journalTailProgram .. => true
  | .journalDurable .. => true
  | .segmentCheckpoint .. => true
  | .collectionStart .. => true
  | .patrolRead .. => true
  | .fold .. => true
  | .extentMigration .. => true
  | .targetFail .. => true
  | .arbitrationPeriod .. => true
  | .pwrFailNAssert .. => true
  | .pfDone .. => true
  | .pwrFailNDeassert .. => true
  | .internalUndervoltage .. => true
  | .supplyLoss .. => true
  | .powerOn .. => true
  | .resetNAssert .. => true
  | .watchdogExpiry .. => true
  | .controlSramUncorrectable .. => true
  | .refclkLoss .. => true
  | .refclkReturn .. => true
  | .governorSample .. => true
  | .governorNotchAdd .. => true
  | .governorNotchRemove .. => true
  | .i3cPrivateRead .. => true
  | .bypass .. => true
  | .idcode .. => true
  | .samplePreload .. => true
  | .extest .. => true
  | .extestPulse .. => true
  | .extestTrain .. => true
  | .clamp .. => true
  | .highz .. => true
  | .fusePkg .. => true
  | .fabricLinkDown .. => true
  | .fabricLinkUp .. => true
  | .secureAssociation .. => true
  | .validReturn .. => true
  | .defaultNPReport .. => true
  | .stalePlatUpdateAnswer .. => true

end Sys2Proof
end

