-- ==== Sys2Proof/Decode.lean ====
section
/-! DEFINITION. Words of the command table. No row of spec/opcode_table.json gives bits to a command (every row's `fields` is empty), so no word spells a command; commands of the field book carry their opcodes in the slot (R411, R428), which Machine/Ops.lean reads. -/

namespace Sys2Proof

/-- The command that a word of the table's bits spells: the table gives bits for none. -/
def decodeTableWord (_nbits _w : Nat) : Option Instr := none

end Sys2Proof
end

