-- ==== Sys2Proof/Machine/State.lean ====
section
/-! DEFINITION. The state of one Septuno as plain data: the queue of waiting commands, the datum-time unit, the fuses, and the device with everything the manual gives it. INVENTORY.md lists each piece with its rule and reset value. -/

namespace Sys2Proof.Machine

/-- Byte memory in canonical form: rising addresses, no zero byte listed; an unlisted byte reads zero (log 1). -/
abbrev Mem := List Host.Cell

/-! ### Datum time (R360 to R367) -/

inductive TState | unsync | locked | holdover
  deriving DecidableEq, Repr

/-- The datum-time unit (R365, R366, R384). -/
structure Clock where
  now : Nat
  state : TState
  errBound : Nat
  valid : Bool
  hiValid : Nat
  lockRun : Nat
  ptpPort : Option FabPort
  pins : Bool
  holdAt : Nat
  holdBase : Nat
  edge : Option Nat
  deriving DecidableEq, Repr

/-! ### Fuses (R500, R546) -/

structure KeySlot where
  rsa : BitVec 384
  slh : BitVec 384
  revoked : Bool
  deriving DecidableEq, Repr

/-- Fuse banks: key slots, SVN thermometers, MAC addresses, pin map codes by land group; every bit only rises (R500). -/
structure Fuses where
  keys : Vector KeySlot 4
  svn : Vector (BitVec 64) 3
  macs : Vector (BitVec 48) 8
  pinMap : NMap (BitVec 3)
  rom : BitVec 384
  seed : BitVec 384
  deriving DecidableEq, Repr

/-! ### Host ports (R288 to R315, R409 to R420) -/

/-- Event record (R313). -/
structure EventRec where
  type : Nat
  overflow : Bool
  port : Nat
  count : Nat
  dpa : Nat
  datum : Nat
  fenceT : Nat
  slot : Nat
  deriving DecidableEq, Repr

/-- A fence of mem.revoke with the stations of its last two records (R309 to R311). -/
structure Fence where
  dpa : Nat
  len : Nat
  tf : Nat
  readMark : Option Nat
  writeMark : Option Nat
  readN : Nat
  writeN : Nat
  deriving DecidableEq, Repr

/-- Partition settings (R291, R314). -/
structure PartCfg where
  gib : Nat
  protect : Protect
  mask : BitVec 20
  deriving DecidableEq, Repr

/-- A response left in the CXL primary mailbox (R410). -/
structure MboxResp where
  opcode : Nat
  unsupported : Bool
  payload : List Byte
  deriving DecidableEq, Repr

/-- SPDM responder of one port's DOE mailbox (R503). -/
structure Spdm where
  handshake : Bool
  session : Bool
  count : Nat
  response : Option (Nat × List Byte)
  deriving DecidableEq, Repr

/-- CXL IDE of one port (R504). -/
structure Ide where
  enabled : Bool
  keys : Bool
  streams : Bool
  deriving DecidableEq, Repr

/-- One host port; `off` says that its bring-up failed or was skipped (R486, R487). -/
structure HostPort where
  linkUp : Bool
  off : Bool
  slots : Mem
  lastSeq : NMap Nat
  order : List SlotNo
  deferred : List SlotNo
  agreed : Option (Nat × Nat)
  doneSummary : BitVec 512
  modUs : BitVec 16
  eventEn : Bool
  doneEn : Bool
  lastSignal : Option Nat
  newDone : Bool
  vectors : List (Nat × Nat)
  events : List EventRec
  eventsLost : Bool
  part : PartCfg
  pend : Option PartCfg
  mem : Mem
  poison : List Nat
  fences : List Fence
  queue : Nat
  devload : BitVec 2
  dec0 : BitVec 2
  dec1 : BitVec 2
  biEnabled : Bool
  mbox : Option MboxResp
  spdm : Spdm
  ide : Ide
  echo : Option Mem
  echoRead : Nat
  readData : W64
  memResp : Option (Bool × List Byte)
  deriving DecidableEq, Repr

/-! ### Running commands and replay (R399 to R401, R415) -/

/-- A command that has been taken: its header and the copy of its slot (R415). -/
structure Cmd where
  ref : Ref
  opcode : Nat
  minor : Nat
  major : Nat
  expert : Bool
  tenant : Nat
  colour : Nat
  cmdId : Nat
  deadline : Nat
  resultAddr : Nat
  resultLen : Nat
  slot : Mem
  takenAt : Nat
  crc : Nat
  areas : List (Nat × Nat)
  abandoned : Bool
  deriving DecidableEq, Repr

/-- How a recorded command ended (R399). -/
structure Ended where
  status : Nat
  rflags : BitVec 4
  count : Nat
  head : List Byte
  time : Nat
  deriving DecidableEq, Repr

/-- Where a replay record is kept (R399). -/
inductive RecPlace | node | leaf (parcel : Nat) | beacon
  deriving DecidableEq, Repr

structure ReplayRec where
  key : CmdKey
  place : RecPlace
  ended : Option Ended
  deriving DecidableEq, Repr

structure Cmds where
  running : List Cmd
  replay : List ReplayRec
  nextNo : Nat
  deriving DecidableEq, Repr

/-! ### Error log and control registers (R406, R407, R426) -/

structure ErrRec where
  sev : Nat
  source : Nat
  unit : Nat
  overflow : Bool
  code : Nat
  datum : Nat
  location : Nat
  parcel : Nat
  count : Nat
  cmdId : Nat
  deriving DecidableEq, Repr

structure Regs where
  adminPorts : BitVec 4
  lapseUs : BitVec 16
  floorUs : BitVec 16
  frac : BitVec 8
  wdogMs : BitVec 8
  holdPpb : BitVec 8
  source : BitVec 2
  errLog : List ErrRec
  errRecords : BitVec 32
  lastSev : BitVec 4
  errLost : Bool
  warmValid : Bool
  warmCause : BitVec 3
  deriving DecidableEq, Repr

/-! ### Tenants and shapers (R437 to R450) -/

structure Bucket where
  level : Nat
  rem : Nat
  deriving DecidableEq, Repr

structure TenantCfg where
  aware : Bool
  excess : Bool
  unpoliced : Bool
  portMask : BitVec 4
  defUs : Nat
  cir : Nat
  cbs : Nat
  pir : Nat
  pbs : Nat
  deriving DecidableEq, Repr

structure Tenant where
  cfg : TenantCfg
  tc : Bucket
  tp : Bucket
  deriving DecidableEq, Repr

/-- Rates and sizes of a shaper; no rate means unlimited (R445, R448). -/
structure ShaperCfg where
  cir : Option Nat
  cbs : Nat
  pir : Option Nat
  pbs : Nat
  deriving DecidableEq, Repr

structure Shaper where
  cfg : ShaperCfg
  c : Bucket
  p : Bucket
  deriving DecidableEq, Repr

structure Adm where
  tenants : NMap Tenant
  shapers : Vector Shaper 7
  pendTenants : List (Ref × Nat × TenantCfg)
  pendShapers : List (Ref × Nat × ShaperCfg)
  sel : BitVec 12
  viewCfg : W64
  viewTc : W64
  viewTp : W64
  np : NMap Nat
  lastTick : Option Nat
  deriving DecidableEq, Repr

/-! ### Plat (R360 to R385) -/

/-- The beacon a chair has composed and who has stored it (R369, R370). -/
structure Composing where
  beacon : Beacon
  stored : List Nat
  deriving DecidableEq, Repr

/-- A proposal the chair applies (R372): its command, REQ_FROM, the generation that results, and the codebooks it brings. -/
structure Proposal where
  key : CmdKey
  ref : Ref
  reqFrom : Nat
  result : PlatGen
  codebooks : List Space
  deriving DecidableEq, Repr

/-- A command of this node's that waits for an answer from a peer (R372, R383): stale answers so far (R383). -/
structure Forwarded where
  ref : Ref
  key : CmdKey
  cmd : Option UpdCmd
  stale : Nat
  deriving DecidableEq, Repr

/-- A plat.join that waits for its member's answer (R374): command, domain, member, key. -/
structure Joining where
  ref : Ref
  domain : Nat
  member : Nat
  cak : Option (List Byte)
  deriving DecidableEq, Repr

/-- The map and its agreement. `beacon` is the agreed beacon held, `stored` the latest a quorum member has stored (R369, R370); `heard` is the station from which the wait of R369 counts; `quorumFrom` is the station of the last change of quorum (R553); `ranges` are the peers' Traverse versions (R358); `founding` is a first generation with the members known to have stored it (R374). -/
structure Plat where
  nodeId : Nat
  gens : List PlatGen
  spaces : List Space
  beacon : Option Beacon
  stored : Option Beacon
  heard : Nat
  quorumFrom : Nat
  ranges : NMap (Nat × Nat)
  cak : Option (List Byte)
  chair : Bool
  term : Nat
  voted : NMap Nat
  candTerm : Option Nat
  votes : List Nat
  composing : Option Composing
  proposal : Option Proposal
  forwarded : List Forwarded
  unreachable : List Nat
  wanted : List Nat
  waitFrags : List Frag
  waitReads : List RemoteReq
  founding : Option (PlatGen × List Nat)
  joining : Option Joining
  deriving DecidableEq, Repr

/-! ### Leaf copies (R23, R138 to R163, R376 to R392) -/

/-- One version of a list's blocks (R67, R160), numbered from 0 at the load. -/
structure Version where
  no : Nat
  main : List Block
  side : List Block
  deriving DecidableEq, Repr

structure LList where
  plan : PlanList
  nc : W32
  cur : Version
  next : Option Version
  old : Option Version
  deriving DecidableEq, Repr

inductive LocalState | current | lapsed (fromStation : Nat) | failed
  deriving DecidableEq, Repr

/-- A closure in progress (R159 to R162). -/
structure Closure where
  k : Nat
  u : Nat
  seq : Nat
  building : Bool
  ready : Option Bool
  readyFrom : List (Nat × Bool)
  rescale : Option NbOp
  outcome : Option Bool
  deriving DecidableEq, Repr

/-- A command whose end waits for its station (R149, R191). -/
structure WaitUpd where
  entry : Nat
  ref : Ref
  key : CmdKey
  kind : UpdKind
  station : Nat
  n : Nat
  count : Nat
  short : Bool
  deriving DecidableEq, Repr

/-- The load of a leaf (R23): acknowledged copies and the commit station L once given. -/
structure Load where
  plan : Option Plan
  acks : List Nat
  station : Option Nat
  entry : Nat
  ref : Ref
  key : CmdKey
  deriving DecidableEq, Repr

/-- A ROWS bank.op or a rescale the lead waits for (R255, R258): the copies that have still to apply it, and whether a deadline or a port reset stopped it (R254, R259). -/
structure RowsWait where
  entry : Nat
  ref : Ref
  key : CmdKey
  left : List Nat
  short : Bool
  count : Nat
  poison : List Nat
  stopped : Bool
  deriving DecidableEq, Repr

/-- A copy of a leaf. `due` is a closure that has switched and whose use station has still to begin (R143, R162); `rowDir` is the locator part of the row directory (R168): at position i the sequence number plus 1 of the entry whose rows lie in place i of the row stores, 0 for a free place; `rowMask` and `rowProtect` are the STACK_MASK and PROTECT of the row stores (R265). -/
structure Leaf where
  parcel : Nat
  shadow : Option Nat
  cfg : Option LeafCfg
  planGen : Nat
  lists : List LList
  tombs : List Tomb
  nextSeq : Nat
  applied : Nat
  early : List UpdRec
  recs : List UpdRec
  closedTo : Nat
  settled : Nat
  loc : LocalState
  refused : List (Nat × Nat)
  noIntake : Bool
  intakeHeld : Bool
  held : List UpdCmd
  dups : List UpdCmd
  waits : List WaitUpd
  acked : NMap Nat
  marks : List (Mark × Nat)
  peers : NMap LocalState
  pendingMark : Option Mark
  ackedTo : Nat
  closure : Option Closure
  due : Option Closure
  lastUse : Nat
  oldUse : Option Nat
  tombUse : Nat
  load : Option Load
  loaded : Nat
  ready : Bool
  rowsWait : List RowsWait
  rowMask : BitVec 20
  rowProtect : Protect
  rowDir : List Nat
  deriving DecidableEq, Repr

/-! ### Queries at the root (R24 to R50, R393 to R398) -/

inductive AttState | running | returned | failed | expired
  deriving DecidableEq, Repr

/-- One attempt at a fragment (R393 to R395). -/
structure Attempt where
  no : Nat
  node : Nat
  gen : Nat
  sentAt : Nat
  items : List KeyId
  horizon : Option KeyId
  complete : Bool
  state : AttState
  late : Bool
  nRej : Nat
  probes : Nat
  widened : Bool
  deriving DecidableEq, Repr

/-- A fragment as the root keeps it: attempts, the attempt followed, the entries taken from the leaf (R121), a generation it waits for (R382), and whether it is lost (R396). -/
structure QFrag where
  parcel : Nat
  frag : Frag
  attempts : List Attempt
  follow : Nat
  taken : List KeyId
  want : Option Nat
  lost : Bool
  deriving DecidableEq, Repr

/-- A query context (R32); `addr` is its record's offset in the result area, `count` the entries written, `abandoned` says that its port was reset (R40). -/
structure Query where
  ref : Ref
  index : Nat
  bench : Nat
  gen : Nat
  deadline : Nat
  admitted : Nat
  target : Nat
  k : Nat
  nrr : Nat
  addr : Nat
  count : Nat
  copyRank : Option Nat
  model : Option Nat
  frags : List QFrag
  done : Bool
  status : Nat
  qflags : BitVec 16
  abandoned : Bool
  deriving DecidableEq, Repr

structure Root where
  queries : NMap Query
  nextCtx : Nat
  lateness : NMap Nat
  waiting : List Ref
  halved : Nat
  deriving DecidableEq, Repr

/-! ### Scanning (R51 to R79, R111 to R131) -/

/-- A place that scans: a search die or a channel engine. -/
structure Place where
  chan : Bool
  unit : Nat
  deriving DecidableEq, Repr

/-- A probe in a queue (R68, R70): list, number of its version, time of entry, whether its batch window has run out; a companion probe carries its flash traverse's number plus 1 (R77). -/
structure Probe where
  place : Place
  key : FragKey
  list : Nat
  ver : Nat
  time : Nat
  due : Bool
  set : Nat
  deriving DecidableEq, Repr

/-- A traverse in progress (R66, R75): fragments in their order; in a channel engine `seats` gives each its array and rotation slot. -/
structure Trav where
  id : Nat
  place : Place
  parcel : Nat
  list : Nat
  ver : Nat
  frags : List FragKey
  companion : Bool
  seats : List (Nat × Nat)
  deriving DecidableEq, Repr

inductive Stage | unsettled | held | probing | rerank | done
  deriving DecidableEq, Repr

/-- What a die sorter holds for one fragment: lists handed over in this pass, traverses still to end, the floor of a later pass, whether candidates lie beyond it, the die list formed so far (R117, R119, R126), whether the fragment's state lies in the die's staging SRAM (R119), and the pool frames of its spill and emitted-ID set (R127). -/
structure DieList where
  die : Nat
  inputs : List CList
  left : Nat
  floor : Option KeyId
  more : Bool
  out : CList
  held : Bool
  frames : List Nat
  deriving DecidableEq, Repr

/-- A fragment at its leaf. -/
structure LFrag where
  frag : Frag
  stage : Stage
  order : List Nat
  p : Nat
  toQueue : List (Place × Nat × Nat)
  passes : Nat
  dies : List DieList
  nRej : Nat
  nPass : Nat
  emitted : List Cand
  widened : Bool
  reranked : List KeyId
  toRerank : Nat
  scanShort : Bool
  poolWait : Bool
  deriving DecidableEq, Repr

/-- Arrays of one search die or channel engine (R52, R54). -/
structure Arrays where
  working : Nat
  matrix : Nat
  deriving DecidableEq, Repr

structure Scan where
  frags : List LFrag
  probes : List Probe
  travs : List Trav
  nextTrav : Nat
  dies : Vector Arrays 10
  chans : Vector Arrays 32
  deriving DecidableEq, Repr

/-! ### Chain engine (R166 to R200) -/

inductive ReaderKind
  | gather (ref : Ref)
  | rerank (key : FragKey)
  | embed (model run : Nat)
  | remote (r : RemoteReq)
  deriving DecidableEq, Repr

/-- Where a read comes from (R175). -/
inductive Source | hotRow | dram (stack : Nat) | pool (frames : List Nat) | flash (chan : Nat) | remote (node : Nat)
  deriving DecidableEq, Repr

/-- A slot of a coalescing window (R178): key, leaves still to be asked for it (R171), nodes asked (R397), the row with its status once the read has completed, occurrences to deliver, last delivery. -/
structure WSlot where
  no : Nat
  key : Nat
  left : List Nat
  tried : List Nat
  row : Option (Nat × List Byte)
  occ : List Nat
  lastUse : Nat
  deriving DecidableEq, Repr

/-- A reader (R178) with its key list: `leaves` are the resolved leaves in ascending order, or the model; commits are those of rerank candidates. -/
structure Reader where
  id : Nat
  kind : ReaderKind
  rows : RowKind
  leaves : List Nat
  gen : Nat
  bench : Nat
  copyRank : Option Nat
  keys : List Nat
  commits : List Nat
  pos : Nat
  window : List WSlot
  statuses : NMap Nat
  rMax : Nat
  inflight : Nat
  limit : Nat
  deadline : Nat
  delivered : Nat
  tenant : Nat
  ended : Bool
  deriving DecidableEq, Repr

inductive Share | rerank | remote | encoder | shared
  deriving DecidableEq, Repr

/-- A read in flight (R174): the reader and slot it serves while it is live, its source, the sources already tried, and for an attempt on another node when it was sent and whether it is late (R393). -/
structure Read where
  tag : Nat
  reader : Nat
  slot : Nat
  key : RowKey
  src : Source
  share : Share
  tried : List Source
  sentAt : Nat
  late : Bool
  live : Bool
  deriving DecidableEq, Repr

inductive CopyUse | filling | ready | live | leaving (fromStation : Nat) | gone
  deriving DecidableEq, Repr

/-- A monumented row and its copies (R194); `home`: the copy is the row's own place in its TIER_PIN store. -/
structure MonCopy where
  stack : StackNo
  use : CopyUse
  since : Nat
  home : Bool
  deriving DecidableEq, Repr

inductive MovePhase | dual | flipped
  deriving DecidableEq, Repr

/-- A monument move (R196); once flipped, `dest` is the source that is still to be freed, and `home` says that it is the row's own place in its store. -/
structure MonMove where
  copy : Nat
  dest : StackNo
  w : Nat
  filled : Bool
  phase : MovePhase
  ref : Ref
  home : Bool
  deriving DecidableEq, Repr

structure Monument where
  row : RowKey
  copies : List MonCopy
  move : Option MonMove
  deriving DecidableEq, Repr

/-- A cached row (R197 to R199). -/
structure CachedRow where
  row : RowKey
  die : Nat
  valid : Bool
  deriving DecidableEq, Repr

/-- The hot-row cache: the adopted set, the pending set with its command, the cached rows, the station of the last refresh. -/
structure HotCache where
  mib : Nat
  refresh : Nat
  set : List RowKey
  pend : Option (List RowKey × Ref)
  rows : List CachedRow
  last : Option Nat
  deriving DecidableEq, Repr

structure Chain where
  readers : List Reader
  nextReader : Nat
  reads : List Read
  nextTag : Nat
  monuments : List Monument
  cache : HotCache
  deriving DecidableEq, Repr

/-! ### Models (R201 to R235) -/

/-- A tensor table entry (R209). -/
structure Tensor where
  fmt : Nat
  role : Nat
  layer : Nat
  dims : List Nat
  off : Nat
  len : Nat
  scaleOff : Nat
  deriving DecidableEq, Repr

/-- A step record (R210). -/
structure PStep where
  op : Nat
  flags : Nat
  layer : Nat
  a : Nat
  b : Nat
  c : Nat
  out : Nat
  attr : List Byte
  deriving DecidableEq, Repr

/-- A loaded model (R208, R215): the weight space is the image's, expanded if it is a Tessel image. -/
structure Model where
  id : Nat
  uid : Nat
  check : Nat
  image : List Byte
  space : List Byte
  layers : Nat
  tensors : List Tensor
  steps : List PStep
  tier : Tier
  embedTier : Tier
  windowMib : Nat
  arrays : Nat
  holder : Nat
  genMask : Nat
  genTags : List Nat
  tessel : Bool
  filled : List (Nat × Nat)
  deriving DecidableEq, Repr

/-- A run or an encoder query waiting for or in a wave (R218, R219). -/
structure Run where
  uid : Nat
  ref : Option Ref
  ctx : Option Nat
  rows : List (List W32)
  tgWait : List Nat
  deadline : Nat
  deriving DecidableEq, Repr

structure Wave where
  uid : Nat
  runs : List Run
  layer : Nat
  need : List (Nat × Nat)
  deriving DecidableEq, Repr

/-- A resident decode-table generation (R232). -/
structure TableGen where
  tag : Nat
  table : List Byte
  pend : Option (Ref × Option (Nat × List Byte))
  deriving DecidableEq, Repr

structure Models where
  models : List Model
  olds : List Model
  loading : List (Ref × Model)
  nextUid : Nat
  runs : List Run
  waves : List Wave
  gens : NMap TableGen
  unloads : List (Nat × Ref)
  deriving DecidableEq, Repr

/-! ### Near-bank units (R236 to R260) -/

/-- A target line of a bank.op: the stack and unit that hold it, its place: index-list position and entry of a row and the line within it, or the line of the extent. -/
structure NbLine where
  stack : Nat
  unit : Nat
  row : Nat
  seq : Nat
  line : Nat
  deriving DecidableEq, Repr

/-- A bank.op in progress, or a rescale (R239, R254, R258): `rows` are the sequence numbers of its target rows, `todo` the lines it has still to step. -/
structure NbJob where
  id : Nat
  ref : Option Ref
  key : Option CmdKey
  op : NbOp
  port : Nat
  seq : Nat
  rows : List Nat
  todo : List NbLine
  total : Nat
  done : Nat
  poison : List Nat
  short : Bool
  stopped : Bool
  deriving DecidableEq, Repr

/-- A unit task: job and unit; a fenced job is a single task (R250). -/
structure NbTask where
  job : Nat
  unit : Nat
  fenced : Bool
  steps : Nat
  deriving DecidableEq, Repr

structure NearBank where
  jobs : List NbJob
  nextJob : Nat
  queues : Vector (List NbTask) 20
  held : Vector (List NbTask) 20
  caps : Vector Nat 20
  slice : Nat
  pend : List (Ref × BitVec 20 × Nat × Nat)
  deriving DecidableEq, Repr

/-! ### Stacks, regions and the pool (R261 to R287) -/

inductive StackState | off | up | partialUp | failed
  deriving DecidableEq, Repr

structure Stack where
  state : StackState
  retired : Nat
  spare : Nat
  used : Nat
  scrubAt : Nat
  deriving DecidableEq, Repr

/-- Where a rebuilt member of a frame pair or stripe lies: stack and frame of its SPARE (R274). -/
structure Moved where
  unit : Nat
  member : Nat
  stack : Nat
  frame : Nat
  deriving DecidableEq, Repr

inductive ProtState | protectedSt | exposed | rebuilding | damaged
  deriving DecidableEq, Repr

/-- A region (R264): of mem.tier_alloc under its REGION_ID, and of partitions, commons buffers and model images under numbers above 2^63, and of the structures of leaf copies and the flash map that Septuno places itself under numbers above 2^64. `place`: its frames on a stack as (stack, first, count); `bad`: (frame or stripe, member) places lost and not rebuilt; `moved`: where rebuilt members lie now; `lost`: frames with lost lines; `poison`: its lines that read as poison, as line numbers; contents stand here for tier regions only. -/
structure Region where
  len : Nat
  tier : Tier
  protect : Protect
  mask : BitVec 20
  cls : Nat
  place : List (Nat × Nat × Nat)
  mem : Mem
  poison : List Nat
  bad : List (Nat × Nat)
  prot : ProtState
  lost : List Nat
  moved : List Moved
  deriving DecidableEq, Repr

/-- What rebuild has to restore: region, frame or stripe, member, destination stack and frame of its SPARE, next line (R274, R275). -/
structure Rebuild where
  cls : Nat
  region : Nat
  frame : Nat
  member : Nat
  dest : Nat
  destFrame : Nat
  line : Nat
  deriving DecidableEq, Repr

/-- A pool frame in use (R280, R281): the store or region and page it holds, or a spill frame of a search; `busy`: its fill is in progress; `writing`: it becomes dirty and its write-back begins when the fill ends (R283). -/
structure PoolFrame where
  no : Nat
  key : Nat
  page : Nat
  last : Nat
  dirty : Bool
  busy : Bool
  writing : Bool
  spill : Bool
  tenant : Nat
  deriving DecidableEq, Repr

/-- A page that found no evictable frame and waits for one (R281): whether it waits to be written. -/
structure PoolWait where
  tier : Tier
  key : Nat
  page : Nat
  tenant : Nat
  writing : Bool
  deriving DecidableEq, Repr

structure MemSys where
  stk : Vector Stack 20
  retired : List (Nat × Nat)
  errs : List (Nat × Nat × Nat)
  regions : NMap Region
  nextRegion : Nat
  rebuild : List Rebuild
  pool : List PoolFrame
  fills : List (Nat × Nat)
  waiting : List PoolWait
  freeing : List (Nat × Ref)
  deriving DecidableEq, Repr

/-! ### Commons ranges (R297 to R308) -/

structure ComState where
  len : Nat
  readMask : BitVec 4
  writeMask : BitVec 4
  protect : Protect
  mask : BitVec 20
  leaseNs : Nat
  version : Nat
  curB : Bool
  leasePort : Option Port
  leaseGen : Nat
  epochA : Nat
  epochB : Nat
  flipNs : Nat
  leaseEnd : Nat
  memA : Mem
  memB : Mem
  poisonA : List Nat
  poisonB : List Nat
  refill : Option Nat
  done : List Nat
  deriving DecidableEq, Repr

/-- A line a port holds (R300), oldest grant first; `own` is write ownership; line counts from the slot window's start. -/
structure ComLine where
  slot : Nat
  line : Nat
  port : Port
  own : Bool
  deriving DecidableEq, Repr

/-- Why snoops are awaited (R302, R304, R310). -/
inductive ComWhy
  | publish (ref : Ref) (port : Port)
  | leaseEnd
  | acquire (ref : Ref) (port : Port) (keep : Bool)
  | release (ref : Ref)
  | drop (ref : Ref) (tf : Nat)
  | revoke (ref : Ref) (port : Port) (dpa len tf : Nat)
  | evict
  | read (port : Port) (op : MemOp) (line : Nat) (err : LineErr)
  deriving DecidableEq, Repr

structure ComWait where
  slot : Nat
  lines : List (Port × Nat)
  why : ComWhy
  deriving DecidableEq, Repr

structure Commons where
  slots : NMap ComState
  held : List ComLine
  waits : List ComWait
  queue : List (Nat × Ref)
  deriving DecidableEq, Repr

/-! ### Flash (R316 to R349) -/

inductive ChanState | off | up | noSpares | failed
  deriving DecidableEq, Repr

inductive BlockMode | free | dense | oneBit | journal | spare | mapSeg | reserve | retired
  deriving DecidableEq, Repr

/-- A NAND block: number, target, mode, erase count, units it holds validly, programmed pages, when it was last patrolled and refreshed. -/
structure FBlock where
  no : Nat
  target : Nat
  mode : BlockMode
  erases : Nat
  units : List Nat
  used : Nat
  patrol : Nat
  refreshed : Option Nat
  deriving DecidableEq, Repr

/-- A program in flight: unit, write sequence, destination block and page, and for a collection or fold the source block; `whole`: it brings the whole unit anew (R322). -/
structure FProg where
  wseq : Nat
  unit : Nat
  block : Nat
  page : Nat
  whole : Bool
  src : Option Nat
  oldSeq : Nat
  deriving DecidableEq, Repr

/-- Where a unit lies (R323, R328): block, page in it, and write sequence. -/
structure FMap where
  block : Nat
  page : Nat
  wseq : Nat
  deriving DecidableEq, Repr

/-- What empties a block (R331, R335 to R337): collection, refresh, retirement after a failure or a second refresh, folding. -/
inductive JobKind | collect | refresh | retire | foldJob
  deriving DecidableEq, Repr

/-- A block being emptied (R335): units left to copy, copies made (unit, destination block and page, WSEQ), and the step reached. -/
structure FJob where
  kind : JobKind
  src : Nat
  left : List Nat
  copied : List (Nat × Nat × Nat × Nat)
  logged : Bool
  erasing : Bool
  deriving DecidableEq, Repr

/-- Journal records (R325). A MAP record also tells whether the whole unit was written (R322). -/
inductive JRec
  | map (c : Nat) (unit block page wseq : Nat) (whole : Bool)
  | gc (c : Nat) (src : Nat) (copies : List (Nat × Nat × Nat × Nat))
  | erased (c : Nat) (block : Nat)
  | retire (c : Nat) (block cause : Nat)
  | extent (e c : Nat)
  | segment (c seg : Nat)
  | format
  deriving DecidableEq, Repr

/-- A page read in flight: block and unit, class of R344, and for a traverse its number. -/
structure FRead where
  id : Nat
  block : Nat
  unit : Nat
  cls : Nat
  owner : Nat
  deriving DecidableEq, Repr

structure FChan where
  state : ChanState
  rate : Nat
  targets : Nat
  density : Nat
  blocks : List FBlock
  spares : Nat
  buffer : Nat
  bufOver : Bool
  user : Nat
  alloc : Nat
  map : NMap FMap
  badUnits : List Nat
  progs : List FProg
  reads : List FRead
  erases : List Nat
  jobs : List FJob
  refresh : List Nat
  queue : List Nat
  dirtySegs : List (Nat × Nat)
  retired : Nat
  uncorrectable : Nat
  deriving DecidableEq, Repr

/-- Extent of flash: channel, region or store, pinned by a TIER_FLASH list's home (R323, R338). -/
structure Extent where
  chan : Nat
  slot : Nat
  owner : Nat
  pinned : Bool
  deriving DecidableEq, Repr

inductive PfState | idle | flushing (since : Nat) | done | resuming (since : Nat)
  deriving DecidableEq, Repr

structure Flash where
  chans : Vector FChan 32
  unformatted : Bool
  noFlash : Bool
  fixedClass : Bool
  replayed : Bool
  readOnly : Bool
  wseq : Nat
  durable : List JRec
  tail : List (JRec × Nat)
  inflight : List JRec
  firstDone : Bool
  extents : NMap Extent
  nextExtent : Nat
  dropped : Nat
  wChain : BitVec 8
  wTrav : BitVec 8
  wStream : BitVec 8
  wBack : BitVec 8
  active : List Nat
  pf : PfState
  format : Option Ref
  formatLeft : Nat
  formatTotal : Nat
  nextRead : Nat
  deriving DecidableEq, Repr

/-! ### Fabric (R350 to R359, R449) -/

inductive LinkState | down | training | up | disabled
  deriving DecidableEq, Repr

structure FPort where
  enable : Bool
  macsecEn : Bool
  macsecUp : Bool
  link : LinkState
  lanes : BitVec 8
  withdrawn : Bool
  lastRx : Nat
  deriving DecidableEq, Repr

/-- A packet of this node's that waits for acknowledgement or to be sent again. -/
structure TxPkt where
  psn : Nat
  msg : Nat
  off : Nat
  len : Nat
  total : Nat
  sentAt : Nat
  passed : Nat
  port : Nat
  deriving DecidableEq, Repr

/-- A message being received: segments seen as (offset, bytes) and its length (R354). -/
structure RxMsg where
  id : Nat
  total : Nat
  segs : List (Nat × List Byte)
  deriving DecidableEq, Repr

/-- A connection to one peer in one class (R354 to R356): `rxCum` is the next PSN expected, `rate` is in Mb/s, `msgs` are the messages not yet acknowledged whole. -/
structure Conn where
  up : Bool
  version : Nat
  nextPsn : Nat
  outstanding : List TxPkt
  nextMsg : Nat
  rxCum : Nat
  rxMap : List Nat
  rxMsgs : List RxMsg
  rxNextMsg : Nat
  unacked : Nat
  ackDue : Option Nat
  ceSeen : Bool
  rate : Nat
  srtt : Nat
  lastHalve : Nat
  lastEcho : Nat
  lastRaise : Nat
  progress : Nat
  resend : List TxPkt
  msgs : NMap OutMsg
  /-- Port of the last packet, for the round robin (R354). -/
  lastPort : Nat
  /-- Earliest time of the next packet at the connection's rate, in picoseconds (R356). -/
  paceAt : Nat
  deriving DecidableEq, Repr

/-- A message waiting at egress (R449): peer, class, message number, bytes sent and in all. -/
structure EgMsg where
  peer : Nat
  msg : Nat
  sent : Nat
  total : Nat
  deriving DecidableEq, Repr

/-- An acknowledgement this node has sent (R353, R355): ACK_PSN, the map of the PSNs that follow it, CE_ECHO. -/
structure AckOut where
  peer : Nat
  cls : Nat
  psn : Nat
  map : Nat
  echo : Bool
  deriving DecidableEq, Repr

/-- A DATA packet this node has sent: port, DSCP of its class and the header of R353 but for HCHECK, which covers bytes the manual gives no form (log 16). -/
structure PacketOut where
  port : Nat
  dscp : BitVec 6
  version : Nat
  cls : Nat
  first : Bool
  last : Bool
  ceEcho : Bool
  src : Nat
  dst : Nat
  psn : Nat
  msgId : Nat
  msgOff : Nat
  len : Nat
  msgLen : Nat
  ackPsn : Nat
  deriving DecidableEq, Repr

/-- Ports, connections by peer and class, egress queues by class, delivered messages (peer, class, bytes), DATA packets sent, acknowledgements sent, ports that peers have withdrawn (R463). -/
structure Fabric where
  ports : Vector FPort 8
  conns : NMap Conn
  egress : Vector (List EgMsg) 4
  rr : Nat
  dscp : Vector (BitVec 6) 4
  rxDone : List (Nat × Nat × List Byte)
  txLog : List PacketOut
  acks : List AckOut
  peerHeld : NMap (List FabPort)
  deriving DecidableEq, Repr

/-! ### Power (R468 to R478) -/

structure BlockReset where
  ref : Ref
  block : Nat
  unit : Nat
  deriving DecidableEq, Repr

structure Power where
  ps : BitVec 2
  target : BitVec 2
  transition : Option Ref
  wakeAt : W64
  capW : BitVec 12
  powerW : Nat
  peakW : Nat
  bgNotch : Nat
  easeNotch : Nat
  issueNotch : Nat
  hold : Vector (BitVec 32) 4
  samples : List Nat
  overSince : Option Nat
  blkReset : Option BlockReset
  deriving DecidableEq, Repr

/-! ### Start-up and the SPI NOR (R479 to R505) -/

inductive Phase | off | inReset | warmPending | service | backsight | dead
  deriving DecidableEq, Repr

/-- Join record of R363. -/
structure JoinRec where
  domain : Nat
  epochS : Nat
  ptpDomain : Nat
  member : Nat
  deriving DecidableEq, Repr

/-- Set directory of R489; a set is A (false) or B (true). -/
structure Dir where
  active : Bool
  good : Option Bool
  trial : Bool
  fails : Nat
  join : Option JoinRec
  nonce : Nat
  deriving DecidableEq, Repr

structure StartLog where
  startNo : Nat
  stake : Nat
  event : Nat
  unit : Nat
  cls : Nat
  set : Nat
  consec : Nat
  cause : Nat
  elapsed : Nat
  datum : Nat
  deriving DecidableEq, Repr

/-- Start-up (R479 to R505). `dir`, `setA` and `setBImgs` are those of the boot source in use, `alt` those of the other, and `fromFlash` says that the boot area of flash is in use (R480); `failedAt` is the stake at which the last start failed, 0 for none; `downloaded` says that an activation under DOWNLOAD has been accepted (R492); `skip` lists (stake, unit); `mirrored` says that the FUSE mirrors are loaded (R546). -/
structure Start where
  phase : Phase
  cls : ResetCls
  startNo : Nat
  stake : Nat
  bootSrc : BitVec 2
  clkMode : BitVec 2
  trialRun : Bool
  setB : Bool
  consec : Nat
  degraded : Bool
  dir : Dir
  setA : List (List Byte)
  setBImgs : List (List Byte)
  log : List StartLog
  skip : List (Nat × Nat)
  failedAt : Nat
  downloaded : Bool
  fromFlash : Bool
  mirrored : Bool
  alt : Dir × List (List Byte) × List (List Byte)
  deriving DecidableEq, Repr

/-! ### Tests (R527 to R536) -/

structure LoopTest where
  ref : Ref
  iface : Nat
  unit : Nat
  depth : Nat
  len : Nat
  node : Nat
  bytes : Nat
  bad : Nat
  echoed : Nat
  deriving DecidableEq, Repr

structure BistTest where
  ref : Ref
  scope : BitVec 4
  units : List (Nat × Nat × Nat)
  /-- Records of the units tested so far. -/
  recs : List BistRec
  deriving DecidableEq, Repr

structure Tests where
  loops : List LoopTest
  bists : List BistTest
  deriving DecidableEq, Repr

/-! ### Board (R506 to R526, R537, R538) -/

inductive TapIr | bypass | idcode | samplePreload | extest | extestPulse | extestTrain | clamp | highz | fusePkg
  deriving DecidableEq, Repr

structure Board where
  alwaysOn : Bool
  pwrGood : Bool
  resetN : Bool
  pwrFailN : Bool
  tripped : Bool
  deferred : Option Nat
  lost : List RefClk
  vin : Nat
  iin : Nat
  pfSeen : Bool
  uvSeen : Bool
  tjPeak : Nat
  hotSeen : Bool
  hot : Bool
  hotDie : Nat
  tjMax : Nat
  i3cOff : Nat
  i3cDyn : Option Nat
  i3cOut : List Byte
  wakeSeen : Bool
  ir : TapIr
  tdo : Option W32
  deriving DecidableEq, Repr

/-! ### The device and the state -/

structure Dev where
  ports : Vector HostPort 4
  cmds : Cmds
  regs : Regs
  adm : Adm
  plat : Plat
  leaves : List Leaf
  root : Root
  scan : Scan
  chain : Chain
  mdl : Models
  nb : NearBank
  mem : MemSys
  com : Commons
  flash : Flash
  fab : Fabric
  pwr : Power
  start : Start
  tst : Tests
  brd : Board
  cnt : NMap W64
  sent : List (Nat × OutMsg)
  freeCtr : Nat
  deriving DecidableEq, Repr

/-- The whole machine: waiting commands, first in first out; the datum-time unit; the fuses; the device. -/
structure State where
  pending : List Instr
  clk : Clock
  fuse : Fuses
  dev : Dev
  deriving DecidableEq, Repr

/-- Why the machine can stop. -/
inductive Fault where
  /-- Raised by every meaning whose command is not well formed (Sys2Proof.WellFormed): an operand names what the part does not have, or bytes of a wrong length. SAFE: no hardware event has this form, and the machine stops. -/
  | illFormed
  deriving DecidableEq, Repr

/-- Why a command has no meaning. -/
inductive Refusal where
  /-- Raised by the dispatch for a row without a meaning. SAFE: nothing is claimed of it. -/
  | notModelled (mnemonic : String)
  deriving DecidableEq, Repr

/-! ### Reset values -/

def Clock.reset : Clock :=
  { now := 0, state := .unsync, errBound := 0xFFFFFFFF, valid := false, hiValid := 0, lockRun := 0, ptpPort := none, pins := false,
    holdAt := 0, holdBase := 0, edge := none }

/-- Fuses as manufactured in this model: all zero but for nothing burnt (DESIGN CHOICE, log 12). -/
def Fuses.reset : Fuses :=
  { keys := Vector.replicate 4 ⟨0, 0, false⟩, svn := Vector.replicate 3 0, macs := Vector.replicate 8 0, pinMap := [], rom := 0, seed := 0 }

def PartCfg.zero : PartCfg := ⟨0, .none, 0⟩

def HostPort.reset : HostPort :=
  { linkUp := false, off := false, slots := [], lastSeq := [], order := [], deferred := [], agreed := none, doneSummary := 0, modUs := 0x0010, eventEn := false,
    doneEn := false, lastSignal := none, newDone := false, vectors := [], events := [], eventsLost := false, part := PartCfg.zero,
    pend := none, mem := [], poison := [], fences := [], queue := 0, devload := 0, dec0 := 0, dec1 := 0, biEnabled := true,
    mbox := none, spdm := ⟨false, false, 0, none⟩, ide := ⟨false, false, false⟩, echo := none, echoRead := 0,
    readData := 0, memResp := none }

def Regs.reset : Regs :=
  { adminPorts := 0x1, lapseUs := 0x00C8, floorUs := 0x01F4, frac := 0x60, wdogMs := 0x64, holdPpb := 0x32, source := 0, errLog := [],
    errRecords := 0, lastSev := 0, errLost := false, warmValid := false, warmCause := 0 }

def TenantCfg.off : TenantCfg :=
  { aware := false, excess := false, unpoliced := false, portMask := 0, defUs := 0, cir := 0, cbs := 0, pir := 0, pbs := 0 }

/-- Tenant 0 after a C or W reset (R439). -/
def Tenant.zero : Tenant := ⟨{ TenantCfg.off with unpoliced := true, portMask := 0xF }, ⟨0, 0⟩, ⟨0, 0⟩⟩

/-- Every other tenant (R439). -/
def Tenant.off : Tenant := ⟨TenantCfg.off, ⟨0, 0⟩, ⟨0, 0⟩⟩

/-- An unlimited shaper (R448). -/
def Shaper.reset : Shaper := ⟨⟨none, 0, none, 0⟩, ⟨0, 0⟩, ⟨0, 0⟩⟩

def Adm.reset : Adm :=
  { tenants := [(0, Tenant.zero)], shapers := Vector.replicate 7 Shaper.reset, pendTenants := [], pendShapers := [], sel := 0,
    viewCfg := 0, viewTc := 0, viewTp := 0, np := [], lastTick := none }

def Plat.reset : Plat :=
  { nodeId := 0, gens := [], spaces := [], beacon := none, stored := none, heard := 0, quorumFrom := 0, ranges := [], cak := none, chair := false, term := 0, voted := [], candTerm := none,
    votes := [], composing := none, proposal := none, forwarded := [], unreachable := [], wanted := [], waitFrags := [], waitReads := [],
    founding := none, joining := none }

def Scan.reset : Scan :=
  { frags := [], probes := [], travs := [], nextTrav := 0, dies := Vector.replicate 10 ⟨0, 0⟩, chans := Vector.replicate 32 ⟨0, 0⟩ }

def Chain.reset : Chain :=
  { readers := [], nextReader := 0, reads := [], nextTag := 0, monuments := [], cache := ⟨0, 1, [], none, [], none⟩ }

def Models.reset : Models :=
  { models := [], olds := [], loading := [], nextUid := 0, runs := [], waves := [], gens := [], unloads := [] }

/-- Easement defaults 32 and 4,096 (R251). -/
def NearBank.reset : NearBank :=
  { jobs := [], nextJob := 0, queues := Vector.replicate 20 [], held := Vector.replicate 20 [], caps := Vector.replicate 20 32, slice := 4096,
    pend := [] }

def MemSys.reset : MemSys :=
  { stk := Vector.replicate 20 ⟨.off, 0, 0, 0, 0⟩, retired := [], errs := [], regions := [], nextRegion := 1, rebuild := [], pool := [],
    fills := [], waiting := [], freeing := [] }

def FChan.reset : FChan :=
  { state := .off, rate := 0, targets := 0, density := 0, blocks := [], spares := 0, buffer := 0, bufOver := false, user := 0, alloc := 0, map := [],
    badUnits := [], progs := [], reads := [], erases := [], jobs := [], refresh := [], queue := [], dirtySegs := [], retired := 0,
    uncorrectable := 0 }

def Flash.reset : Flash :=
  { chans := Vector.replicate 32 FChan.reset, unformatted := false, noFlash := false, fixedClass := false, replayed := false,
    readOnly := false, wseq := 1, durable := [], tail := [], inflight := [], firstDone := false, extents := [], nextExtent := 0,
    dropped := 0, wChain := 4, wTrav := 4, wStream := 1, wBack := 1, active := [16, 16, 4, 4], pf := .idle, format := none,
    formatLeft := 0, formatTotal := 0, nextRead := 0 }

def FPort.reset : FPort := ⟨true, false, false, .down, 0, false, 0⟩

def Fabric.reset : Fabric :=
  { ports := Vector.replicate 8 FPort.reset, conns := [], egress := Vector.replicate 4 [], rr := 0,
    dscp := ⟨#[0x30, 0x22, 0x1A, 0x0A], rfl⟩, rxDone := [], txLog := [], acks := [], peerHeld := [] }

def Power.reset : Power :=
  { ps := 0, target := 0, transition := none, wakeAt := 0, capW := 0x960, powerW := 0, peakW := 0, bgNotch := 0, easeNotch := 0,
    issueNotch := 0, hold := Vector.replicate 4 0, samples := [], overSince := none, blkReset := none }

def Start.reset : Start :=
  { phase := .inReset, cls := .cold, startNo := 0, stake := 0, bootSrc := 0, clkMode := 0, trialRun := false, setB := false, consec := 0,
    degraded := false, dir := ⟨false, none, false, 0, none, 0⟩, setA := [], setBImgs := [], log := [], skip := [], failedAt := 0,
    downloaded := false, fromFlash := false, mirrored := false, alt := (⟨false, none, false, 0, none, 0⟩, [], []) }

/-- The board while RESET_N is asserted with the supply good (R510 step 4). -/
def Board.reset : Board :=
  { alwaysOn := true, pwrGood := true, resetN := true, pwrFailN := false, tripped := false, deferred := none, lost := [], vin := 0, iin := 0,
    pfSeen := false, uvSeen := false, tjPeak := 0, hotSeen := false, hot := false, hotDie := 0, tjMax := 0, i3cOff := 0, i3cDyn := none,
    i3cOut := [], wakeSeen := false, ir := .idcode, tdo := none }

def Dev.reset : Dev :=
  { ports := Vector.replicate 4 HostPort.reset, cmds := ⟨[], [], 0⟩, regs := Regs.reset, adm := Adm.reset, plat := Plat.reset, leaves := [],
    root := ⟨[], 0, [], [], 0⟩, scan := Scan.reset, chain := Chain.reset, mdl := Models.reset, nb := NearBank.reset, mem := MemSys.reset,
    com := ⟨[], [], [], []⟩, flash := Flash.reset, fab := Fabric.reset, pwr := Power.reset, start := Start.reset, tst := ⟨[], []⟩,
    brd := Board.reset, cnt := [], sent := [], freeCtr := 0 }

/-- The machine right after a cold reset: RESET_N asserted, nothing started (R457, R459, R474). -/
def State.reset : State := { pending := [], clk := Clock.reset, fuse := Fuses.reset, dev := Dev.reset }

end Sys2Proof.Machine
end

