-- ==== Sys2Proof/Machine/Bits.lean ====
section
/-! DEFINITION. Little-endian bytes, byte memory, keyed maps and indexed vectors: the plain operations every other file is written over. -/

namespace Sys2Proof.Machine

/-! ### Little-endian numbers (R428) -/

/-- Byte i of a number. -/
def leByte (v i : Nat) : Byte := BitVec.ofNat 8 (v / 256 ^ i)

/-- The n bytes of a number, least significant first. -/
def leBytes (n v : Nat) : List Byte := (List.range n).map (leByte v)

/-- The number that bytes spell, least significant first. -/
def leNat : List Byte → Nat
  | [] => 0
  | b :: bs => b.toNat + 256 * leNat bs

/-- Bit i of a number. -/
def bitAt (v i : Nat) : Bool := v / 2 ^ i % 2 = 1

/-- Bits [hi:lo] of a number. -/
def bitsAt (v hi lo : Nat) : Nat := v / 2 ^ lo % 2 ^ (hi + 1 - lo)

def boolNat (b : Bool) : Nat := if b then 1 else 0

/-! ### Byte memory -/

/-- The byte at an address; an unlisted address reads zero (log 1). -/
def Mem.rd : Mem → Nat → Byte
  | [], _ => 0
  | c :: m, a => if c.1 = a then c.2 else Mem.rd m a

/-- Writes one byte and keeps the canonical form. -/
def Mem.wr : Mem → Nat → Byte → Mem
  | [], a, b => if b = 0 then [] else [(a, b)]
  | c :: m, a, b =>
    if a < c.1 then (if b = 0 then c :: m else (a, b) :: c :: m)
    else if a = c.1 then (if b = 0 then m else (a, b) :: m)
    else c :: Mem.wr m a b

/-- Every address listed lies at or above lo. -/
def Mem.above (lo : Nat) : Mem → Bool
  | [] => true
  | c :: _ => lo ≤ c.1

/-- The canonical form: addresses strictly rise and no listed byte is zero. -/
def Mem.wf : Mem → Bool
  | [] => true
  | c :: m => c.2 != 0 && Mem.above (c.1 + 1) m && Mem.wf m

/-- Writes bytes from an address upwards. -/
def Mem.wrs : Mem → Nat → List Byte → Mem
  | m, _, [] => m
  | m, a, b :: bs => Mem.wrs (Mem.wr m a b) (a + 1) bs

/-- Reads n bytes from an address upwards. -/
def Mem.rds (m : Mem) (a n : Nat) : List Byte := (List.range n).map fun i => Mem.rd m (a + i)

/-- Reads an n-byte little-endian field. -/
def Mem.rdN (m : Mem) (a n : Nat) : Nat := leNat (Mem.rds m a n)

/-- Writes an n-byte little-endian field. -/
def Mem.wrN (m : Mem) (a n v : Nat) : Mem := Mem.wrs m a (leBytes n v)

/-- Clears every byte from a to a + n - 1 to zero. -/
def Mem.clear (m : Mem) (a n : Nat) : Mem := m.filter fun c => !(a ≤ c.1 && c.1 < a + n)

/-- The bytes from a to a + n - 1, moved to start at address 0. -/
def Mem.cut (m : Mem) (a n : Nat) : Mem :=
  (m.filter fun c => a ≤ c.1 && c.1 < a + n).map fun c => (c.1 - a, c.2)

/-- Some byte of a range is not zero. -/
def Mem.hasAny (m : Mem) (a n : Nat) : Bool := List.any m fun c => a ≤ c.1 && c.1 < a + n

/-! ### Byte lists -/

/-- An n-byte field at an offset of a byte list; bytes past its end read as zero. -/
def fieldN (bs : List Byte) (off n : Nat) : Nat := leNat ((bs.drop off).take n)

/-- Bytes padded with zeros to n. -/
def padTo (n : Nat) (bs : List Byte) : List Byte := (bs ++ List.replicate (n - bs.length) 0).take n

/-- All bytes are zero. -/
def allZero (bs : List Byte) : Bool := bs.all fun b => b == 0

/-! ### CRCs -/

/-- One bit of a reflected CRC-32. -/
def crcBit (c : W32) : W32 := if c.getLsbD 0 then (c >>> 1) ^^^ 0x82F63B78#32 else c >>> 1

def crcByte (c : W32) (b : Byte) : W32 :=
  crcBit (crcBit (crcBit (crcBit (crcBit (crcBit (crcBit (crcBit (c ^^^ b.setWidth 32))))))))

/-- CRC-32C (R353, R399): the manual names it; polynomial, reflection and start value are the usual ones (PRESUMED, log 17). -/
def crc32c (bs : List Byte) : Nat := (bs.foldl crcByte 0xFFFFFFFF#32 ^^^ 0xFFFFFFFF#32).toNat

/-- CRC-32C of the n bytes of a memory from a. -/
def Mem.crc (m : Mem) (a n : Nat) : Nat :=
  ((List.range n).foldl (fun c i => crcByte c (Mem.rd m (a + i))) 0xFFFFFFFF#32 ^^^ 0xFFFFFFFF#32).toNat

def crc16Bit (c : W16) : W16 := if c.getLsbD 15 then (c <<< 1) ^^^ 0x1021#16 else c <<< 1

def crc16Byte (c : W16) (b : Byte) : W16 :=
  crc16Bit (crc16Bit (crc16Bit (crc16Bit (crc16Bit (crc16Bit (crc16Bit (crc16Bit (c ^^^ BitVec.ofNat 16 (b.toNat * 256)))))))))

/-- CRC-16 of R364: polynomial 0x1021, start 0xFFFF, not reflected. -/
def crc16 (bs : List Byte) : Nat :=
  (bs.foldl crc16Byte 0xFFFF#16).toNat

/-! ### Keyed maps: keys rise -/

def NMap.get? {α : Type} : NMap α → Nat → Option α
  | [], _ => none
  | e :: m, k => if e.1 = k then some e.2 else NMap.get? m k

def NMap.put {α : Type} : NMap α → Nat → α → NMap α
  | [], k, v => [(k, v)]
  | e :: m, k, v => if k < e.1 then (k, v) :: e :: m else if k = e.1 then (k, v) :: m else e :: NMap.put m k v

def NMap.del {α : Type} (m : NMap α) (k : Nat) : NMap α := m.filter fun e => e.1 != k

def NMap.getD {α : Type} (m : NMap α) (k : Nat) (v : α) : α := (NMap.get? m k).getD v

def NMap.upd {α : Type} (m : NMap α) (k : Nat) (f : α → α) : NMap α :=
  m.map fun e => if e.1 = k then (e.1, f e.2) else e

/-! ### Vectors -/

/-- Changes one place of a vector. -/
def vupd {α : Type} {n : Nat} (v : Vector α n) (i : Fin n) (f : α → α) : Vector α n := v.set i (f v[i])

/-- Changes place i of a vector, or none when there is no such place. -/
def vupdN {α : Type} {n : Nat} (v : Vector α n) (i : Nat) (f : α → α) : Vector α n :=
  if h : i < n then v.set i (f v[i]) else v

/-- Place i of a vector of n places, or the value given. -/
def vgetD {α : Type} {n : Nat} (v : Vector α n) (i : Nat) (x : α) : α := if h : i < n then v[i] else x

/-! ### Lists -/

/-- Changes the elements that satisfy a test. -/
def updIf {α : Type} (p : α → Bool) (f : α → α) (xs : List α) : List α := xs.map fun x => if p x then f x else x

/-- Inserts before the first element that the order puts after x. -/
def insertBy {α : Type} (le : α → α → Bool) (x : α) : List α → List α
  | [] => [x]
  | y :: ys => if le y x then y :: insertBy le x ys else x :: y :: ys

/-- Stable insertion sort. -/
def sortBy {α : Type} (le : α → α → Bool) (xs : List α) : List α := xs.foldl (fun acc x => insertBy le x acc) []

/-- Element i of a list, or the value given. -/
def nthD {α : Type} (xs : List α) (i : Nat) (x : α) : α := (xs[i]?).getD x

/-- Sum of a list of naturals. -/
def natSum (xs : List Nat) : Nat := xs.foldl (· + ·) 0

def ceilDiv (a b : Nat) : Nat := (a + b - 1) / b

/-- The least of a list under an order. -/
def leastBy {α : Type} (le : α → α → Bool) : List α → Option α
  | [] => none
  | x :: xs => some (xs.foldl (fun m y => if le m y then m else y) x)

/-- No element occurs twice. -/
def distinct {α : Type} [DecidableEq α] : List α → Bool
  | [] => true
  | x :: xs => !(xs.contains x) && distinct xs

/-- A number in [lo, hi]. -/
def inRange (v lo hi : Nat) : Bool := lo ≤ v && v ≤ hi

/-- Two byte extents share a byte. -/
def overlaps (a n b m : Nat) : Bool := a < b + m && b < a + n

end Sys2Proof.Machine
end

