-- ==== Sys2Proof/Machine/Flags.lean ====
section
/-! DEFINITION. Status codes (R421), the slot words (R411, R412) and the DevLoad value (R296): every flag and status computation the manual gives. -/

namespace Sys2Proof.Machine

/-! ### Status codes (R421) -/

def stOk : Nat := 0x0000
def stRunning : Nat := 0x0001
def stReplayed : Nat := 0x0002
def stInUse : Nat := 0x0003
def stShort : Nat := 0x0100
def stFilterShort : Nat := 0x0101
def stDeadline : Nat := 0x0102
def stPoison : Nat := 0x0103
def stBadCmd : Nat := 0x0200
def stVersion : Nat := 0x0201
def stAuth : Nat := 0x0202
def stBusy : Nat := 0x0203
def stDropped : Nat := 0x0204
def stNoTime : Nat := 0x0205
def stReadOnly : Nat := 0x0206
def stStalePlat : Nat := 0x0207
def stRevoked : Nat := 0x0208
def stPublishConflict : Nat := 0x0209

/-! ### Slot words (R411, R412) -/

/-- RFLAGS as bits [3:0] of STATUS_WORD (R412). -/
def rflags (tie partialV degraded done : Bool) : Nat :=
  8 * boolNat tie + 4 * boolNat partialV + 2 * boolNat degraded + boolNat done

/-- STATUS_WORD: SEQ_ECHO, STATUS, PROGRESS and RFLAGS; PROGRESS reads 0 when DONE is 1 (R411). -/
def statusWord (seq status progress flags : Nat) : Nat :=
  seq % 2 ^ 32 * 2 ^ 32 + status % 2 ^ 16 * 2 ^ 16 + (if flags % 2 = 1 then 0 else min progress 4095) * 16 + flags % 16

/-- COUNT_WORD: ORIG_STATUS and COUNT (R411). -/
def countWord (orig count : Nat) : Nat := orig % 2 ^ 16 * 2 ^ 32 + count % 2 ^ 32

/-- The fields of a STATUS_WORD. -/
def swSeq (w : Nat) : Nat := bitsAt w 63 32
def swStatus (w : Nat) : Nat := bitsAt w 31 16
def swProgress (w : Nat) : Nat := bitsAt w 15 4
def swFlags (w : Nat) : Nat := bitsAt w 3 0
def swDone (w : Nat) : Bool := bitAt w 0

/-- PROGRESS in 4,096ths of a total (R50); 4,096 is reached only with DONE. -/
def progressOf (done total : Nat) : Nat := if total = 0 then 0 else min 4095 (4096 * done / total)

/-! ### DevLoad (R296) -/

/-- Highest row of the DevLoad table whose condition holds; `cPass` and `pPass`: the bucket passes 64 bytes. -/
def devLoad (queue : Nat) (cPass pPass : Bool) : BitVec 2 :=
  if !pPass || queue ≥ 1024 then 3
  else if queue ≥ 768 || !cPass then 2
  else if queue ≥ 256 then 1
  else 0

end Sys2Proof.Machine
end

