-- ==== Sys2Proof/Machine/Ops.lean ====
section
/-! DEFINITION. The named operations every command is written over: time, stations and generations, counters and logs, messages, partition memory, and the life of a slot command from its take to DONE (R411 to R422, R399 to R401). -/

namespace Sys2Proof

/-! ### Parts of a plat generation (R368) -/

def PlatGen.leaf (g : PlatGen) (parcel : Nat) : Option PlatLeaf := g.leaves.find? fun l => l.parcel = parcel
def PlatGen.group (g : PlatGen) (parcel : Nat) : Option PlatGroup := g.groups.find? fun l => l.parcel = parcel

/-- The copy of a rank: copies stand in rank order (R552). -/
def PlatLeaf.rank (l : PlatLeaf) (r : Nat) : Option PlatCopy := l.copies[r]?

/-- The lead copy's node (R144). -/
def PlatLeaf.lead (l : PlatLeaf) : Option Nat := (l.copies.head?).map (·.node)

def PlatLeaf.rankOf (l : PlatLeaf) (node : Nat) : Option Nat := l.copies.findIdx? fun c => c.node = node

def PlatGen.lead (g : PlatGen) (parcel : Nat) : Option Nat := (g.leaf parcel).bind PlatLeaf.lead

end Sys2Proof

namespace Sys2Proof.Machine

/-! ### Parts of the device -/

def Dev.port (d : Dev) (p : Port) : HostPort := d.ports[p]

def Dev.updPort (d : Dev) (p : Port) (f : HostPort → HostPort) : Dev := { d with ports := vupd d.ports p f }

/-- Adds n to counter k, instance i, of the node table (R548, R549); keys are (address − 0x0010_0000) / 8. Counters wrap (R547). -/
def Dev.count (d : Dev) (k i n : Nat) : Dev :=
  if n = 0 then d else { d with cnt := NMap.put d.cnt (128 * k + i) (NMap.getD d.cnt (128 * k + i) 0 + BitVec.ofNat 64 n) }

/-- Adds n to tenant counter j of tenant t (R548). -/
def Dev.countTenant (d : Dev) (j t n : Nat) : Dev :=
  if n = 0 then d
  else { d with cnt := NMap.put d.cnt (65536 + 4096 * j + t) (NMap.getD d.cnt (65536 + 4096 * j + t) 0 + BitVec.ofNat 64 n) }

/-- A fresh free value: what the manual leaves open (log 2). -/
def Dev.fresh (d : Dev) : Nat × Dev := (Config.freeValue d.freeCtr, { d with freeCtr := d.freeCtr + 1 })

/-- The node is running commands: service or backsight mode, outside PS3. -/
def Dev.live (d : Dev) : Bool := (d.start.phase = .service || d.start.phase = .backsight) && d.pwr.ps != 3

def Dev.service (d : Dev) : Bool := d.start.phase = .service && d.pwr.ps != 3

/-- The fabric ports carry other nodes' work: in PS2 they carry PTP, HELLO and beacons alone (R471). -/
def Dev.carries (d : Dev) : Bool := d.service && d.pwr.ps != 2

/-- The host's requests reach the block: the link is up, and a port that uses IDE has its keys again (R504). -/
def Dev.portOn (d : Dev) (p : Port) : Bool := d.live && (d.port p).linkUp && (!(d.port p).ide.enabled || (d.port p).ide.streams)

/-- Arrays may start new work: PS0, and no transition out of it has begun (R470). -/
def Dev.arraysRun (d : Dev) : Bool := d.pwr.ps = 0 && (d.pwr.transition.isNone || d.pwr.target = 0)

/-! ### Generations and stations (R138, R141, R368) -/

def timingDefault : Timing := ⟨250000, 20000, 200000000, 2000000⟩

/-- Generations that come into force at some station, by FROM_STATION: no higher-numbered one starts at or before it (R368). -/
def regimes (gens : List PlatGen) : List PlatGen :=
  let sorted := sortBy (fun a b => a.gen ≤ b.gen) gens
  sorted.filter fun g => !(sorted.any fun h => g.gen < h.gen && h.fromStation ≤ g.fromStation)

/-- The generation in force at a station, of those held (R368). -/
def genAt (gens : List PlatGen) (x : Nat) : Option PlatGen :=
  (regimes gens).foldl (fun acc g => if g.fromStation ≤ x then some g else acc) none

/-- STATION_NS changes as (T, old, new): R141. -/
def nsAtTime (gens : List PlatGen) (t : Nat) : Nat :=
  match regimes gens with
  | [] => timingDefault.stationNs
  | g :: gs => gs.foldl (fun cur h => if h.timing.stationNs != cur && t ≥ h.fromStation * cur then h.timing.stationNs else cur) g.timing.stationNs

/-- The station at a datum time (R138, R141). -/
def stationOf (gens : List PlatGen) (t : Nat) : Nat := t / nsAtTime gens t

/-- The datum time at which a station begins; for a number that never occurs, that of the first station after it (R142). -/
def startOf (gens : List PlatGen) (x : Nat) : Nat :=
  match regimes gens with
  | [] => x * timingDefault.stationNs
  | g :: gs =>
    let r := gs.foldl (fun (acc : Nat × Nat) h =>
      if h.timing.stationNs != acc.1 && x ≥ h.fromStation then (h.timing.stationNs, h.fromStation * acc.1) else acc) (g.timing.stationNs, 0)
    max r.2 (x * r.1)

def Dev.station (d : Dev) (c : Clock) : Nat := stationOf d.plat.gens c.now
def Dev.ns (d : Dev) (c : Clock) : Nat := nsAtTime d.plat.gens c.now
def Dev.genNow (d : Dev) (c : Clock) : Option PlatGen := genAt d.plat.gens (d.station c)

/-- The newest generation known (R375). -/
def Dev.newest (d : Dev) : Option PlatGen := leastBy (fun a b => a.gen ≥ b.gen) d.plat.gens

def Dev.genNo (d : Dev) (n : Nat) : Option PlatGen := d.plat.gens.find? fun g => g.gen = n

/-- The timing values in force now. -/
def Dev.timing (d : Dev) (c : Clock) : Timing := ((d.genNow c).map (·.timing)).getD timingDefault

/-- The first station that occurs at or after x (R141, R142). -/
def occurring (gens : List PlatGen) (x : Nat) : Nat := stationOf gens (startOf gens x)

/-- D_x of R163 and the first station that begins at or after it. -/
def drainStation (gens : List PlatGen) (x : Nat) : Nat :=
  let rs := regimes gens
  let ends := rs.map fun g =>
    let stop := rs.foldl (fun m h => if g.fromStation < h.fromStation && h.fromStation < m then h.fromStation else m) x
    if g.fromStation < x && occurring gens g.fromStation < stop then startOf gens stop + g.timing.queryLifeNs else 0
  let dx := ends.foldl max 0
  let s := stationOf gens dx
  if startOf gens s = dx then s else stationOf gens (startOf gens s + nsAtTime gens dx)

/-- A beacon of the current station or the one before is held (R367, R384). -/
def Dev.beaconCur (d : Dev) (c : Clock) : Bool :=
  match d.plat.beacon with
  | none => false
  | some b =>
    let cur := d.station c
    b.station = cur || b.station = stationOf d.plat.gens (startOf d.plat.gens cur - 1)

/-- The node holds valid datum time (R367). -/
def Dev.holdsTime (d : Dev) (c : Clock) : Bool := c.valid && d.beaconCur c

/-! ### Leaves and the plat -/

/-- A generation in force or announced names a leaf (R23): every one not yet replaced. -/
def Dev.namesLeaf (d : Dev) (c : Clock) (parcel : Nat) : Bool :=
  let cur := ((d.genNow c).map (·.gen)).getD 0
  d.plat.gens.any fun g => cur ≤ g.gen && (g.leaf parcel).isSome

/-- Lateness count of a node (R398). -/
def Dev.lateness (d : Dev) (node : Nat) : Nat := NMap.getD d.root.lateness node 0

def Dev.leaf (d : Dev) (parcel : Nat) : Option Leaf := d.leaves.find? fun l => l.parcel = parcel

def Dev.updLeaf (d : Dev) (parcel : Nat) (f : Leaf → Leaf) : Dev :=
  { d with leaves := updIf (fun l => l.parcel = parcel) f d.leaves }

/-- The codebook of a search space as a generation has it: by its identifier, PLAN_GEN and TABLE_TAG (R94). -/
def Dev.spaceIn (d : Dev) (g : PlatGen) (id : Nat) : Option Space :=
  (g.spaces.find? fun p => p.id = id).bind fun p => d.plat.spaces.find? fun s => s.id = id && s.planGen = p.planGen && s.tag = p.tag

/-- The codebook of a search space that a generation held here names; no generation changes a space that an earlier one added (R372). -/
def Dev.space (d : Dev) (id : Nat) : Option Space := d.plat.gens.findSome? fun g => d.spaceIn g id

/-- Leaves that a parcel resolves to in a generation, each once (R20); fuel bounds the depth. -/
def resolve (g : PlatGen) : Nat → List Nat → List Nat → List Nat
  | 0, _, acc => acc
  | _, [], acc => acc
  | n + 1, p :: ps, acc =>
    match g.leaf p with
    | some _ => resolve g n ps (if acc.contains p then acc else acc ++ [p])
    | none =>
      match g.group p with
      | some grp => resolve g n (grp.members ++ ps) acc
      | none => resolve g n ps acc

/-- Fuel that resolves any generation that passed R20. -/
def resolveFuel (g : PlatGen) : Nat := (g.leaves.length + natSum (g.groups.map fun x => x.members.length + 1) + 1) * (g.groups.length + 1) + 1

def resolved (g : PlatGen) (parcel : Nat) : List Nat := resolve g (resolveFuel g) [parcel] []

/-! ### Logs (R313, R406) -/

/-- Writes an error record (R406): when the log is full the oldest goes and the record is marked; `kind` selects the firmware's event code (log 14). -/
def Dev.logErr (d : Dev) (c : Clock) (sev source unit kind location parcel count cmd : Nat) : Dev :=
  let full := d.regs.errLog.length ≥ Config.errorLogSize
  let r : ErrRec :=
    { sev := sev, source := source, unit := unit, overflow := full, code := Config.eventCode kind, datum := c.now,
      location := location, parcel := parcel, count := count, cmdId := cmd }
  { d with regs := { d.regs with errLog := (if full then d.regs.errLog.drop 1 else d.regs.errLog) ++ [r],
                                 errRecords := d.regs.errRecords + 1, lastSev := BitVec.ofNat 4 sev } }

/-- Adds an event record to a port's log (R313); a full log drops it and marks the next; vector 1 is signalled when enabled. -/
def Dev.logEvent (d : Dev) (c : Clock) (p : Port) (type owner count dpa fenceT slot : Nat) : Dev :=
  d.updPort p fun h =>
    if h.events.length ≥ Config.eventLogSize then { h with eventsLost := true }
    else
      { h with events := h.events ++ [{ type := type, overflow := h.eventsLost, port := owner, count := count, dpa := dpa, datum := c.now, fenceT := fenceT, slot := slot }],
               eventsLost := false,
               vectors := if h.eventEn then h.vectors ++ [(1, c.now)] else h.vectors }

/-! ### Messages to peers (R353 to R355, R449) -/

def Conn.fresh : Conn :=
  { up := false, version := 0, nextPsn := 0, outstanding := [], nextMsg := 0, rxCum := 0, rxMap := [], rxMsgs := [], rxNextMsg := 0,
    unacked := 0, ackDue := none, ceSeen := false, rate := Config.lineRate, srtt := 0, lastHalve := 0, lastEcho := 0,
    lastRaise := 0, progress := 0, resend := [], msgs := [], lastPort := 7, paceAt := 0 }

/-- Key of a connection: peer and class (R354). -/
def connKey (peer cls : Nat) : Nat := peer * 4 + cls

def Dev.conn (d : Dev) (peer cls : Nat) : Conn := NMap.getD d.fab.conns (connKey peer cls) Conn.fresh

def Dev.updConn (d : Dev) (peer cls : Nat) (f : Conn → Conn) : Dev :=
  { d with fab := { d.fab with conns := NMap.put d.fab.conns (connKey peer cls) (f (d.conn peer cls)) } }

/-- HELLO of a connection, naming the ports this node withdraws (R355, R463). -/
def Dev.helloMsg (d : Dev) (cls : Nat) : OutMsg :=
  .hello cls ((d.newest.map (·.version)).getD 0) ((List.finRange 8).filter fun q => (d.fab.ports[q]).withdrawn)

def Dev.sendHello (d : Dev) (peer cls : Nat) : Dev := { d with sent := d.sent ++ [(peer, d.helloMsg cls)] }

/-- What goes before a message: the HELLO of a connection that is not open yet. -/
def Dev.opening (d : Dev) (cls dst : Nat) : List (Nat × OutMsg) :=
  if dst = d.plat.nodeId || (NMap.get? d.fab.conns (connKey dst cls)).isSome then [] else [(dst, d.helloMsg cls)]

/-- Hands a message to Traverse in a class; the first to a peer opens its connection with a HELLO (R355, R358). It joins the class's egress queue. The manual gives messages no byte form, so the length, 1 to 16,777,216 (R353), is a free value (log 16). -/
def Dev.send (d : Dev) (cls : Fin 4) (dst : Nat) (m : OutMsg) : Dev :=
  let d1 := { d with sent := d.sent ++ d.opening cls dst ++ [(dst, m)] }
  if dst = d.plat.nodeId then d1
  else
    let r := d1.fresh
    let msg := (r.2.conn dst cls).nextMsg
    let d2 := r.2.updConn dst cls fun k => { k with nextMsg := (k.nextMsg + 1) % 2 ^ 32, msgs := NMap.put k.msgs msg m }
    { d2 with fab := { d2.fab with egress := vupd d2.fab.egress cls fun q => q ++ [⟨dst, msg, 0, r.1 % 16777216 + 1⟩] } }

def Dev.sendAll (d : Dev) (cls : Fin 4) (dsts : List Nat) (m : OutMsg) : Dev := dsts.foldl (fun d x => d.send cls x m) d

def clsControl : Fin 4 := 0
def clsQuery : Fin 4 := 1
def clsUpdate : Fin 4 := 2
def clsBulk : Fin 4 := 3

/-! ### Partition memory (R288, R292, R271) -/

def gib : Nat := 1073741824

def Dev.partLen (d : Dev) (p : Port) : Nat := (d.port p).part.gib * gib

/-- An area lies wholly inside the port's partition (R292). -/
def Dev.areaIn (d : Dev) (p : Port) (addr len : Nat) : Bool := addr + len ≤ d.partLen p

def Dev.partRead (d : Dev) (p : Port) (addr len : Nat) : List Byte := Mem.rds (d.port p).mem addr len

def Dev.partReadN (d : Dev) (p : Port) (addr len : Nat) : Nat := Mem.rdN (d.port p).mem addr len

/-- A line that lies wholly inside a write loses its poison (R271). -/
def unpoison (poison : List Nat) (addr len : Nat) : List Nat := poison.filter fun l => !(addr ≤ l * 64 && l * 64 + 64 ≤ addr + len)

def Dev.partWrite (d : Dev) (p : Port) (addr : Nat) (bs : List Byte) : Dev :=
  d.updPort p fun h => { h with mem := Mem.wrs h.mem addr bs, poison := unpoison h.poison addr bs.length }

/-- An extent of a port's DPA space meets a standing fence (R311). -/
def HostPort.fenced (h : HostPort) (addr len : Nat) : Bool := h.fences.any fun f => overlaps addr len f.dpa f.len

/-! ### Slots (R411 to R420) -/

def slotAt (n : SlotNo) (off : Nat) : Nat := 4096 * n.val + off

def Dev.slotN (d : Dev) (p : Port) (n : SlotNo) (off len : Nat) : Nat := Mem.rdN (d.port p).slots (slotAt n off) len

def Dev.setSlotWord (d : Dev) (p : Port) (n : SlotNo) (off v : Nat) : Dev :=
  d.updPort p fun h => { h with slots := Mem.wrN h.slots (slotAt n off) 8 v }

/-- A command of this slot is running and still owns the slot. -/
def Dev.slotBusy (d : Dev) (p : Port) (n : SlotNo) : Bool :=
  d.cmds.running.any fun c => c.ref.port = p && c.ref.slot = n && !c.abandoned

/-- The slot as copied at the take (R415). -/
def Dev.readCmd (d : Dev) (c : Clock) (p : Port) (n : SlotNo) : Cmd :=
  let m := Mem.cut (d.port p).slots (slotAt n 0) 4096
  let w := Mem.rdN m 0 8
  let tw := Mem.rdN m 0x20 8
  { ref := ⟨p, n, bitsAt w 63 32, d.cmds.nextNo⟩, opcode := bitsAt w 31 16, minor := bitsAt w 15 8,
    major := ((d.port p).agreed.map (·.1)).getD 0, expert := bitAt w 0, tenant := bitsAt tw 15 0, colour := bitsAt tw 17 16,
    cmdId := Mem.rdN m 0x18 8, deadline := Mem.rdN m 0x28 8, resultAddr := Mem.rdN m 0x30 8, resultLen := Mem.rdN m 0x38 8,
    slot := m, takenAt := c.now, crc := Mem.crc m 0x40 4032, areas := [], abandoned := false }

/-- A new SEQ stands in the slot's CMD_WORD (R414). -/
def Dev.newSeq (d : Dev) (p : Port) (n : SlotNo) : Bool :=
  let seq := d.slotN p n 4 4
  seq != 0 && NMap.get? (d.port p).lastSeq n.val != some seq

/-- The command at the head of the port's take order (R416), when it is this slot's. -/
def Dev.headCmd (d : Dev) (c : Clock) (k : Take) : Option Cmd :=
  if d.live && (d.port k.port).linkUp && (d.port k.port).order.head? = some k.slot && d.newSeq k.port k.slot && !(d.slotBusy k.port k.slot) then
    some (d.readCmd c k.port k.slot)
  else none

/-- The take itself (R414, R415): the order moves on, SEQ is remembered, the command runs. plat.join's key bytes are zeroed in the slot (R435). -/
def Dev.takeCmd (d : Dev) (cmd : Cmd) : Dev :=
  let d1 := d.updPort cmd.ref.port fun h =>
    { h with order := h.order.drop 1, lastSeq := NMap.put h.lastSeq cmd.ref.slot.val cmd.ref.seq,
             slots := if cmd.opcode = 0x0B02 then Mem.clear h.slots (slotAt cmd.ref.slot 0x80) 32 else h.slots }
  { d1 with cmds := { d1.cmds with running := d1.cmds.running ++ [cmd], nextNo := d1.cmds.nextNo + 1 } }

def Dev.cmd? (d : Dev) (r : Ref) : Option Cmd := d.cmds.running.find? fun c => c.ref = r

def Cmd.key (c : Cmd) : CmdKey := ⟨c.tenant, c.cmdId, c.opcode, c.crc⟩

/-- Field of the body. -/
def Cmd.f (c : Cmd) (off n : Nat) : Nat := Mem.rdN c.slot off n

/-- Expert-only field: ignored, and taken as zero, in the basic form (R425). -/
def Cmd.e (c : Cmd) (off n : Nat) : Nat := if c.expert then Mem.rdN c.slot off n else 0

/-- Writes a command's STATUS_WORD and COUNT_WORD, count first (R46); an abandoned command writes nothing (R40). -/
def Dev.writeWords (d : Dev) (cmd : Cmd) (status progress flags orig count : Nat) : Dev :=
  if cmd.abandoned then d
  else (d.setSlotWord cmd.ref.port cmd.ref.slot 0x10 (countWord orig count)).setSlotWord cmd.ref.port cmd.ref.slot 0x08
    (statusWord cmd.ref.seq status progress flags)

/-- Reports a running command: ST_RUNNING or ST_IN_USE with PROGRESS, count and flags. PROGRESS and COUNT never fall (R47). -/
def Dev.report (d : Dev) (r : Ref) (status progress count : Nat) (partialV degraded tie : Bool) : Dev :=
  match d.cmd? r with
  | none => d
  | some cmd =>
    let old := d.slotN r.port r.slot 0x08 8
    let mine := swSeq old = r.seq && !(swDone old)
    let prog := if mine then max progress (swProgress old) else progress
    let cnt := if mine then max count (d.slotN r.port r.slot 0x10 4) else count
    d.writeWords cmd status prog (rflags tie partialV degraded false) 0 cnt

/-- The first report after the take, when no final status has been written (R417); a search that waits for its admission has none yet (R135, R371). -/
def Dev.showRunning (d : Dev) (r : Ref) : Dev :=
  match (d.cmd? r).filter fun _ => !(d.root.waiting.contains r) with
  | none => d
  | some _ =>
    let old := d.slotN r.port r.slot 0x08 8
    if swSeq old = r.seq && !(swDone old) && swStatus old != 0 then d else d.report r stRunning 0 0 false false false

/-- A DONE_SUMMARY bit is set after DONE has become visible (R419); a bit that was clear and becomes set while DONE_IRQ_EN is 1 is a new one for vector 0 (R420). -/
def Dev.setDone (d : Dev) (p : Port) (n : SlotNo) : Dev :=
  d.updPort p fun h => { h with doneSummary := h.doneSummary ||| (1#512 <<< n.val), newDone := h.newDone || (h.doneEn && !(h.doneSummary.getLsbD n.val)) }

/-! ### Replay records (R399 to R401) -/

/-- Records of the update sequence and of the beacon are kept elsewhere (R399). -/
def Cmd.isLocal (c : Cmd) : Bool :=
  !(c.opcode = 0x0400 || c.opcode = 0x0401 || c.opcode = 0x0402 || c.opcode = 0x0403 || c.opcode = 0x0B00 || (c.opcode = 0x0700 && c.f 0x40 1 = 1))

def ReplayRec.matches (r : ReplayRec) (place : RecPlace) (tenant cmdId : Nat) : Bool :=
  r.place = place && r.key.tenant = tenant && r.key.cmdId = cmdId

def Dev.findRec (d : Dev) (place : RecPlace) (k : CmdKey) : Option ReplayRec :=
  d.cmds.replay.find? fun r => r.matches place k.tenant k.cmdId

def Dev.putRec (d : Dev) (place : RecPlace) (k : CmdKey) (e : Option Ended) : Dev :=
  { d with cmds := { d.cmds with replay := (d.cmds.replay.filter fun r => !(r.matches place k.tenant k.cmdId)) ++ [⟨k, place, e⟩] } }

def Dev.delRec (d : Dev) (place : RecPlace) (k : CmdKey) : Dev :=
  { d with cmds := { d.cmds with replay := d.cmds.replay.filter fun r => !(r.matches place k.tenant k.cmdId) } }

/-- Commands that change nothing, whose records are kept 1 s; the others 60 s (R401). -/
def changesNothing (opcode : Nat) : Bool :=
  [0x0100, 0x0101, 0x0106, 0x0204, 0x0300, 0x0500, 0x0601, 0x0902, 0x0B01, 0x0C00].contains opcode

/-- A local record old enough to be replaced (R401). -/
def ReplayRec.old (now : Nat) (r : ReplayRec) : Bool :=
  match r.place, r.ended with
  | .node, some e => e.time + (if changesNothing r.key.opcode then 1000000000 else 60000000000) ≤ now
  | _, _ => false

/-- Room for one more local record: the record that goes, if one must (R401). -/
def Dev.roomForRec (d : Dev) (now : Nat) : Option Dev :=
  if (d.cmds.replay.filter fun r => r.place = .node).length < Config.replayRecords then some d
  else
    match d.cmds.replay.find? (ReplayRec.old now) with
    | none => none
    | some r => some (d.delRec .node r.key)

/-- Ends a command with DONE: result entries are in place, then COUNT_WORD, STATUS_WORD, the DONE_SUMMARY bit; the command leaves the running list (R46, R47, R419). -/
def Dev.putEnd (d : Dev) (cmd : Cmd) (status flags orig count : Nat) : Dev :=
  let d1 := d.writeWords cmd status 0 (flags ||| 1) orig count
  let d2 := if cmd.abandoned then d1 else d1.setDone cmd.ref.port cmd.ref.slot
  { d2 with cmds := { d2.cmds with running := d2.cmds.running.filter fun x => x.ref != cmd.ref } }

/-- Ends a command with its stored outcome (R400): ST_REPLAYED, the stored count, the original status, the stored flags with PARTIAL_VALID clear, and the result head where the result area begins with one. -/
def Dev.putReplayed (d : Dev) (cmd : Cmd) (e : Ended) : Dev :=
  let d1 := if cmd.abandoned || e.head.isEmpty || !(d.areaIn cmd.ref.port cmd.resultAddr e.head.length) then d
            else d.partWrite cmd.ref.port cmd.resultAddr e.head
  (d1.putEnd cmd stReplayed ((e.rflags &&& 0xB#4).toNat) e.status e.count).count 110 0 1

/-- A command that waited on an original without a record is taken anew (R29, log 18). -/
def Dev.retake (d : Dev) (cmd : Cmd) : Dev :=
  let d1 := { d with cmds := { d.cmds with running := d.cmds.running.filter fun x => x.ref != cmd.ref } }
  if cmd.abandoned then d1
  else d1.updPort cmd.ref.port fun h => { h with lastSeq := NMap.del h.lastSeq cmd.ref.slot.val, order := cmd.ref.slot :: h.order }

/-- Local commands of the same key that waited for an original (R400). -/
def Dev.waiters (d : Dev) (k : CmdKey) : List Cmd :=
  d.cmds.running.filter fun x => x.isLocal && x.tenant = k.tenant && x.cmdId = k.cmdId

/-- Ends an accepted command: its record takes the outcome, and waiting copies of it end with it (R399, R400). -/
def Dev.endCmd (d : Dev) (c : Clock) (r : Ref) (status flags count : Nat) (head : List Byte) : Dev :=
  match d.cmd? r with
  | none => d
  | some cmd =>
    let d1 := d.putEnd cmd status flags 0 count
    if cmd.isLocal then
      let e : Ended := ⟨status, BitVec.ofNat 4 (flags ||| 1), count, head, c.now⟩
      (d1.waiters cmd.key).foldl (fun d w => d.putReplayed w e) (d1.putRec .node cmd.key (some e))
    else d1

/-- Ends a command that is refused: no record stays under its CMD_ID (R29, R399; log 18). -/
def Dev.refuse (d : Dev) (r : Ref) (status : Nat) : Dev :=
  match d.cmd? r with
  | none => d
  | some cmd =>
    let d1 := d.putEnd cmd status 0 0 0
    if cmd.isLocal then (d1.waiters cmd.key).foldl (fun d w => d.retake w) (d1.delRec .node cmd.key) else d1

/-- Refused before it could have a record of its own: a record under the same key stays (R400). -/
def Dev.turnAway (d : Dev) (cmd : Cmd) (status : Nat) : Dev := d.putEnd cmd status 0 0 0

/-- Drops an abandoned command that leaves no record (R40, R399). -/
def Dev.forget (d : Dev) (r : Ref) : Dev :=
  match d.cmd? r with
  | none => d
  | some cmd =>
    let d1 := { d with cmds := { d.cmds with running := d.cmds.running.filter fun x => x.ref != r } }
    if cmd.isLocal then (d1.waiters cmd.key).foldl (fun d w => d.retake w) (d1.delRec .node cmd.key) else d1

/-- Writes bytes into a command's result area, unless the command has been abandoned (R40). -/
def Dev.result (d : Dev) (cmd : Cmd) (off : Nat) (bs : List Byte) : Dev :=
  if cmd.abandoned then d else d.partWrite cmd.ref.port (cmd.resultAddr + off) bs

/-! ### Checks before a command runs (R422) -/

def adminOpcodes : List Nat := [0x0102, 0x0103, 0x0104, 0x0105, 0x0701, 0x0900, 0x0A00, 0x0A01, 0x0B00, 0x0B02, 0x0D00, 0x0D01]

def knownOpcodes : List Nat :=
  [0x0100, 0x0101, 0x0102, 0x0103, 0x0104, 0x0105, 0x0106, 0x0200, 0x0201, 0x0202, 0x0203, 0x0204, 0x0300, 0x0400, 0x0401, 0x0402, 0x0403,
   0x0500, 0x0501, 0x0502, 0x0503, 0x0600, 0x0601, 0x0602, 0x0700, 0x0701, 0x0800, 0x0801, 0x0802, 0x0803, 0x0804, 0x0900, 0x0901, 0x0902,
   0x0A00, 0x0A01, 0x0B00, 0x0B01, 0x0B02, 0x0C00, 0x0D00, 0x0D01]

/-- Padding between the fields of each body (R15, R428): bytes that must be zero (log 19). -/
def bodyGaps : Nat → List (Nat × Nat)
  | 0x0104 => [(0x41, 7)]
  | 0x0106 => [(0x41, 3)]
  | 0x0200 => [(0x4D, 3)]
  | 0x0201 => [(0x44, 4)]
  | 0x0203 => [(0x44, 4), (0x51, 7), (0x60, 0xA0), (0x150, 0x6B0)]
  | 0x0300 => [(0x42, 6)]
  | 0x0400 => [(0x47, 1)]
  | 0x0401 => [(0x46, 2)]
  | 0x0402 => [(0x47, 1)]
  | 0x0403 => [(0x47, 1)]
  | 0x0500 => [(0x43, 1), (0x56, 2)]
  | 0x0501 => [(0x41, 3)]
  | 0x0502 => [(0x47, 1)]
  | 0x0503 => [(0x47, 1), (0x52, 6)]
  | 0x0601 => [(0x41, 3)]
  | 0x0602 => [(0x42, 2), (0x48, 0x38)]
  | 0x0700 => [(0x8E, 2), (0x98, 0x768)]
  | 0x0701 => [(0x45, 3)]
  | 0x0800 => [(0x45, 3)]
  | 0x0801 => [(0x43, 5)]
  | 0x0802 => [(0x42, 6)]
  | 0x0803 => [(0x42, 2)]
  | 0x0A01 => [(0x42, 6)]
  | 0x0B02 => [(0x46, 2), (0x59, 7), (0x70, 0x10)]
  | 0x0D00 => [(0x43, 5)]
  | _ => []

/-- Step 1 of R422 but for the command's own cases: opcode, reserved header bits, TENANT, COLOUR 3 (R444), padding (R15), and the result area inside the partition (R292). -/
def Dev.malformed (d : Dev) (cmd : Cmd) : Bool :=
  !(knownOpcodes.contains cmd.opcode) || bitsAt (cmd.f 0 8) 7 1 != 0 || bitsAt (cmd.f 0x20 8) 63 18 != 0 || cmd.tenant > 4095 ||
    cmd.colour = 3 || ((bodyGaps cmd.opcode).any fun g => Mem.hasAny cmd.slot g.1 g.2) ||
    (cmd.resultLen != 0 && !(d.areaIn cmd.ref.port cmd.resultAddr cmd.resultLen)) ||
    (cmd.opcode = 0x0801 && cmd.major = 1)

/-- Tenant settings (R437, R439). -/
def Dev.tenant (d : Dev) (t : Nat) : Tenant := NMap.getD d.adm.tenants t Tenant.off

/-- A running command keeps the areas that its fixed fields do not give (R292, R310). -/
def Dev.noteAreas (d : Dev) (r : Ref) (areas : List (Nat × Nat)) : Dev :=
  { d with cmds := { d.cmds with running := updIf (fun (x : Cmd) => x.ref = r) (fun x => { x with areas := areas }) d.cmds.running } }

/-- Steps 1 to 3 of R422; `bad`: the command's own ST_BAD_CMD cases. -/
def Dev.firstCheck (d : Dev) (cmd : Cmd) (bad : Bool) : Option Nat :=
  if d.malformed cmd || bad then some stBadCmd
  else if cmd.opcode != 0x0100 && cmd.opcode != 0x0101 &&
      (match (d.port cmd.ref.port).agreed with | none => true | some v => decide (cmd.minor > v.2)) then some stVersion
  else if (adminOpcodes.contains cmd.opcode && !(d.regs.adminPorts.getLsbD cmd.ref.port.val)) ||
      !((d.tenant cmd.tenant).cfg.portMask.getLsbD cmd.ref.port.val) then some stAuth
  else none

/-- PS2 and backsight mode accept these commands only (R471, R491). -/
def Dev.modeAllows (d : Dev) (opcode : Nat) : Bool :=
  (d.pwr.ps != 2 || [0x0103, 0x0101, 0x0106, 0x0C00, 0x0B01].contains opcode) &&
    (d.start.phase != .backsight || [0x0100, 0x0101, 0x0106, 0x0D01, 0x0104, 0x0105].contains opcode)

/-- Update commands of CNT.UPD_BUSY (R165): item.* and ROWS bank.op (log 109). -/
def Cmd.isUpdate (cmd : Cmd) : Bool := [0x0400, 0x0401, 0x0402, 0x0403].contains cmd.opcode || (cmd.opcode = 0x0700 && cmd.f 0x40 1 = 1)

/-- A slot command from its take: it runs when its slot heads the take order and it belongs to this row; the checks of R422 come first. `areas`: the input areas it names (R292, R311). -/
def runSlot (op : Nat) (row : Cmd → Bool) (bad : Clock → Dev → Cmd → Bool) (areas : Dev → Cmd → List (Nat × Nat))
    (run : Clock → Dev → Cmd → Dev) (k : Take) (c : Clock) (d : Dev) : Dev :=
  match d.headCmd c k with
  | none => d
  | some cmd =>
    if knownOpcodes.contains cmd.opcode && !(cmd.opcode = op && row cmd) then d
    else
      let d1 := d.takeCmd cmd
      match d1.firstCheck cmd (bad c d1 cmd || (areas d1 cmd).any fun a => !(d1.areaIn cmd.ref.port a.1 a.2)) with
      | some st => d1.turnAway cmd st
      | none =>
        let go := fun (d : Dev) =>
          if !(d.modeAllows cmd.opcode) then (d.refuse cmd.ref stBusy).count 22 0 (boolNat cmd.isUpdate)
          else if ((cmd.resultAddr, cmd.resultLen) :: areas d cmd).any fun a => (d.port cmd.ref.port).fenced a.1 a.2 then d.refuse cmd.ref stRevoked
          else (run c d cmd).showRunning cmd.ref
        if cmd.isLocal then
          match d1.findRec .node cmd.key with
          | some r =>
            if r.key.opcode != cmd.opcode || r.key.crc != cmd.crc then d1.turnAway cmd stBadCmd
            else
              match r.ended with
              | none => d1.showRunning cmd.ref
              | some e => d1.putReplayed cmd e
          | none =>
            match d1.roomForRec c.now with
            | none => (d1.turnAway cmd stBusy).count 111 0 1
            | some d2 => go (d2.putRec .node cmd.key none)
        else go d1

def noAreas (_ : Dev) (_ : Cmd) : List (Nat × Nat) := []
def allRows (_ : Cmd) : Bool := true
def noBad (_ : Clock) (_ : Dev) (_ : Cmd) : Bool := false

/-! ### Time passing (R366, R547) -/

/-- IPv6 length of the next packet of a message (R353, R449): header 80 bytes and at most 8,192 of payload. -/
def EgMsg.packetLen (m : EgMsg) : Nat := 80 + min 8192 (m.total - m.sent)

/-- A shaper's peak bucket passes n bytes. -/
def Shaper.peakPasses (s : Shaper) (n : Nat) : Bool := s.cfg.pir.isNone || n ≤ s.p.level
def Shaper.greenPasses (s : Shaper) (n : Nat) : Bool := s.cfg.cir.isNone || n ≤ s.c.level

/-- Shaper of fabric class 1 to 3, at j = class − 1, or of host port p, at j = 3 + p (R544). -/
def Dev.shaper (d : Dev) (j : Nat) : Shaper := vgetD d.adm.shapers j Shaper.reset

/-- The class has a packet that is not eligible (R449, R451). -/
def Dev.classHeld (d : Dev) (cls : Nat) : Bool :=
  match (vgetD d.fab.egress cls []).head? with
  | none => false
  | some m => cls != 0 && !((d.shaper (cls - 1)).peakPasses m.packetLen)

/-- Free dense blocks of a channel. -/
def FChan.freeBlocks (c : FChan) : Nat := (c.blocks.filter fun b => b.mode = .free).length

/-- Good blocks B (R332). -/
def FChan.good (c : FChan) : Nat := (c.blocks.filter fun b => b.mode != .retired).length

/-- Collection reserve (R332). -/
def FChan.collectReserve (c : FChan) : Nat := ceilDiv (3 * c.good) 100

/-- Foreground writes of the channel wait for collection (R334). -/
def FChan.writesWait (c : FChan) : Bool := !c.queue.isEmpty && c.freeBlocks ≤ c.collectReserve

/-- Counters of datum-time microseconds advance by n (R315, R349, R385, R451, R478). -/
def Dev.countTime (d : Dev) (c : Clock) (n : Nat) : Dev :=
  let d1 := if c.state = .holdover then d.count 99 0 n else d
  let d2 := if d.holdsTime c then d1 else d1.count 100 0 n
  let d3 := if d.pwr.issueNotch > 0 then d2.count 116 0 n else d2
  let d4 := if d.pwr.easeNotch > 0 then d3.count 117 0 n else d3
  let d5 := if d.pwr.bgNotch > 0 then d4.count 118 0 n else d4
  let d5b := if !d.mem.waiting.isEmpty || d.scan.frags.any fun f => f.poolWait then d5.count 68 0 n else d5
  let d5c := (List.range 20).foldl (fun x s => if (vgetD d.nb.queues s []).isEmpty then x else x.count 53 s n) d5b
  let full := fun (i : Nat) => Config.probeQueueDie ≤ (d.scan.probes.filter fun p => !p.place.chan && p.place.unit = i && p.set = 0).length
  let d5d := (List.range 10).foldl (fun x i => if full i then x.count 6 i n else x) d5c
  let d6 := [1, 2, 3].foldl (fun x cls => if d.classHeld cls then x.count 115 cls n else x) d5d
  let d7 := (List.range 32).foldl (fun x ch => if (vgetD d.flash.chans ch FChan.reset).writesWait then x.count 90 ch n else x) d6
  [0, 1, 2, 3].foldl (fun x p => if (d.shaper (3 + p)).peakPasses 64 then x else x.count 71 p n) d7

/-- The datum-time unit runs, and its counters with it. -/
def Dev.timeRuns (d : Dev) : Bool := d.start.phase != .off && d.start.phase != .inReset && d.start.phase != .dead

/-- HOLD_PPB; 0 is taken as 1 (R384). -/
def Dev.holdPpb (d : Dev) : Nat := max 1 d.regs.holdPpb.toNat

/-- The error bound in HOLDOVER times 10⁹: the bound at entry and HOLD_PPB nanoseconds a second since (R365). -/
def Clock.holdBound (c : Clock) (ppb : Nat) : Nat := 1000000000 * c.holdBase + ppb * (c.now - c.holdAt)

/-- The error bound in ns (R365). -/
def Clock.bound (c : Clock) (ppb : Nat) : Nat := if c.state = .holdover then c.holdBound ppb / 1000000000 else c.errBound

/-- The unit loses its lock: UNSYNC, the bound saturated, VALID 0; the highest value held while VALID was 1 is kept (R365, R366). -/
def Clock.unlock (c : Clock) : Clock :=
  { c with state := .unsync, errBound := 0xFFFFFFFF, valid := false, hiValid := if c.valid then max c.hiValid c.now else c.hiValid, lockRun := 0 }

/-- HOLDOVER ends when its bound exceeds 1,000 ns (R365). -/
def Clock.expire (c : Clock) (ppb : Nat) : Clock := if c.state = .holdover && 1000000000000 < c.holdBound ppb then c.unlock else c

/-- The engines resume 1 ms after PWR_FAIL_N is deasserted (R343). -/
def Flash.resume (f : Flash) (now : Nat) : Flash :=
  match f.pf with
  | .resuming since => if since + 1000000 ≤ now then { f with pf := .idle } else f
  | _ => f

def Dev.resumeFlash (d : Dev) (now : Nat) : Dev := { d with flash := d.flash.resume now }

/-- Datum time moves to the time of a command; it never moves back here (R366). HOLDOVER and a power failure's hold may end on the way. -/
def State.tick (s : State) (t : Nat) : State :=
  if s.dev.timeRuns && s.clk.now < t then
    { s with clk := ({ s.clk with now := t } : Clock).expire s.dev.holdPpb, dev := (s.dev.countTime s.clk (t / 1000 - s.clk.now / 1000)).resumeFlash t }
  else s

/-- A command whose effect lies in the device alone. -/
def State.onDev (s : State) (f : Clock → Dev → Dev) : State := { s with dev := f s.clk s.dev }

/-- A command whose effect lies in the datum-time unit and the device. -/
def State.onClk (s : State) (f : Clock → Dev → Clock × Dev) : State := { s with clk := (f s.clk s.dev).1, dev := (f s.clk s.dev).2 }

/-- A command that may also raise fuse bits. -/
def State.onFuse (s : State) (f : Clock → Fuses → Dev → Clock × Fuses × Dev) : State :=
  { s with clk := (f s.clk s.fuse s.dev).1, fuse := (f s.clk s.fuse s.dev).2.1, dev := (f s.clk s.fuse s.dev).2.2 }

/-- A command of datum time t: a well-formed one takes effect, another faults. -/
def happens (i : Instr) (t : Nat) (f : State → State) (s : State) : Host.Outcome State Fault Refusal :=
  if i.wf then .next (f (s.tick t)) else .fault .illFormed

end Sys2Proof.Machine
end

