-- ==== Sys2Proof/Machine/Admission.lean ====
section
/-! DEFINITION. Tenants, the policer, the shapers and the refill ticks (R437 to R451). -/

namespace Sys2Proof.Machine

/-! ### Settings (R437, R438, R448) -/

def Cmd.tenantCfg (cmd : Cmd) : TenantCfg :=
  let mode := cmd.f 0x42 1
  { aware := bitAt mode 0, excess := bitAt mode 1, unpoliced := bitAt mode 2, portMask := BitVec.ofNat 4 (cmd.f 0x43 1), defUs := cmd.f 0x44 4,
    cir := cmd.f 0x48 8, cbs := cmd.f 0x50 8, pir := cmd.f 0x58 8, pbs := cmd.f 0x60 8 }

def admTenantSetBad (_ : Clock) (_ : Dev) (cmd : Cmd) : Bool :=
  let x := cmd.tenantCfg
  cmd.f 0x40 2 > 4095 || cmd.f 0x42 1 ≥ 8 || cmd.f 0x43 1 ≥ 16 || x.cir ≥ 2 ^ 40 || x.pir ≥ 2 ^ 40 || x.cbs > 2 ^ 40 || x.pbs > 2 ^ 40 ||
    (!x.excess && (x.pir < x.cir || x.pbs < x.cbs))

/-- The change waits for the next tick (R447). -/
def admTenantSetRun (_ : Clock) (d : Dev) (cmd : Cmd) : Dev :=
  { d with adm := { d.adm with pendTenants := d.adm.pendTenants ++ [(cmd.ref, cmd.f 0x40 2, cmd.tenantCfg)] } }

def admTenantSet (k : Take) : Clock → Dev → Dev := runSlot 0x0A00 allRows admTenantSetBad noAreas admTenantSetRun k

def execAdmTenantSet (k : Take) (s : State) : Host.Outcome State Fault Refusal :=
  happens (.admTenantSet k) k.t (·.onDev (admTenantSet k)) s

def rateOf (v : Nat) : Option Nat := if v = 2 ^ 64 - 1 then none else some v

def Cmd.shaperCfg (cmd : Cmd) : ShaperCfg :=
  { cir := rateOf (cmd.f 0x48 8), cbs := cmd.f 0x50 8, pir := rateOf (cmd.f 0x58 8), pbs := cmd.f 0x60 8 }

/-- Shaper number j of R544: fabric class 1 to 3, or host port 0 to 3. -/
def shaperIx (target index : Nat) : Option Nat :=
  if target = 0 then (if 1 ≤ index && index ≤ 3 then some (index - 1) else none)
  else if target = 1 then (if index ≤ 3 then some (3 + index) else none)
  else none

def rateBad (v : Nat) : Bool := v ≥ 2 ^ 40 && v != 2 ^ 64 - 1

def admShaperSetBad (_ : Clock) (_ : Dev) (cmd : Cmd) : Bool :=
  let low := if cmd.f 0x40 1 = 0 then 8272 else 64
  (shaperIx (cmd.f 0x40 1) (cmd.f 0x41 1)).isNone || cmd.f 0x58 8 < cmd.f 0x48 8 || cmd.f 0x60 8 < cmd.f 0x50 8 ||
    cmd.f 0x50 8 < low || cmd.f 0x60 8 < low || rateBad (cmd.f 0x48 8) || rateBad (cmd.f 0x58 8) || cmd.f 0x50 8 > 2 ^ 40 || cmd.f 0x60 8 > 2 ^ 40

def admShaperSetRun (_ : Clock) (d : Dev) (cmd : Cmd) : Dev :=
  match shaperIx (cmd.f 0x40 1) (cmd.f 0x41 1) with
  | none => d
  | some j => { d with adm := { d.adm with pendShapers := d.adm.pendShapers ++ [(cmd.ref, j, cmd.shaperCfg)] } }

def admShaperSet (k : Take) : Clock → Dev → Dev := runSlot 0x0A01 allRows admShaperSetBad noAreas admShaperSetRun k

def execAdmShaperSet (k : Take) (s : State) : Host.Outcome State Fault Refusal :=
  happens (.admShaperSet k) k.t (·.onDev (admShaperSet k)) s

/-! ### The colour decision (R442) -/

inductive Colour | green | yellow | red
  deriving DecidableEq, Repr

/-- COLOUR of TENANT_WORD. -/
def colourOf (v : Nat) : Colour := if v = 0 then .green else if v = 1 then .yellow else .red

def Bucket.take (b : Bucket) (n : Nat) : Bucket := { b with level := b.level - n }

/-- The policer's colour for a command of charge b and the tenant after the debits. -/
def police (x : Tenant) (b : Nat) (given : Colour) : Colour × Tenant :=
  if x.cfg.unpoliced then (.green, x)
  else
    let pre := if x.cfg.aware then given else .green
    if pre = .red then (.red, x)
    else if !x.cfg.excess then
      if x.tp.level < b then (.red, x)
      else if pre = .yellow || x.tc.level < b then (.yellow, { x with tp := x.tp.take b })
      else (.green, { x with tp := x.tp.take b, tc := x.tc.take b })
    else if pre = .green && b ≤ x.tc.level then (.green, { x with tc := x.tc.take b })
    else if b ≤ x.tp.level then (.yellow, { x with tp := x.tp.take b })
    else (.red, x)

/-- Debits and counts an admitted command; an unpoliced tenant is charged nothing (R437, R441, R451). -/
def Dev.letIn (d : Dev) (tenant charge : Nat) (r : Colour × Tenant) : Dev :=
  let d1 := { d with adm := { d.adm with tenants := NMap.put d.adm.tenants tenant r.2 } }
  let d2 := d1.countTenant (if r.1 = .green then 1 else 2) tenant 1
  d2.countTenant 4 tenant (if r.2.cfg.unpoliced then 0 else charge)

/-! ### Refill ticks (R445 to R447) -/

/-- One bucket at one tick. -/
def Bucket.refill (b : Bucket) (rate size tickNs : Nat) : Bucket :=
  let acc := rate * tickNs + b.rem
  let level := min size (b.level + acc / 1000000000)
  ⟨level, if level = size then 0 else acc % 1000000000⟩

/-- A tenant without ports keeps empty buckets (R446). -/
def Tenant.refill (x : Tenant) (tickNs : Nat) : Tenant :=
  if x.cfg.portMask = 0 then { x with tc := ⟨0, 0⟩, tp := ⟨0, 0⟩ }
  else { x with tc := x.tc.refill x.cfg.cir x.cfg.cbs tickNs, tp := x.tp.refill x.cfg.pir x.cfg.pbs tickNs }

/-- New settings lower a level to the new size and keep the remainder (R447). -/
def Tenant.install (x : Tenant) (cfg : TenantCfg) : Tenant :=
  if cfg.portMask = 0 then ⟨cfg, ⟨0, 0⟩, ⟨0, 0⟩⟩
  else ⟨cfg, { x.tc with level := min x.tc.level cfg.cbs }, { x.tp with level := min x.tp.level cfg.pbs }⟩

/-- A bucket of an unlimited rate is always full and takes no refill (R445). -/
def Bucket.refillOpt (b : Bucket) (rate : Option Nat) (size tickNs : Nat) : Bucket :=
  match rate with
  | none => b
  | some r => b.refill r size tickNs

def Shaper.refill (x : Shaper) (tickNs : Nat) : Shaper :=
  { x with c := x.c.refillOpt x.cfg.cir x.cfg.cbs tickNs, p := x.p.refillOpt x.cfg.pir x.cfg.pbs tickNs }

/-- A bucket that was unlimited was full, so it starts full at its new size (R445, R447; log 22). -/
def Bucket.install (b : Bucket) (was : Option Nat) (size : Nat) : Bucket :=
  match was with
  | none => ⟨size, 0⟩
  | some _ => { b with level := min b.level size }

def Shaper.install (x : Shaper) (cfg : ShaperCfg) : Shaper :=
  ⟨cfg, x.c.install x.cfg.cir cfg.cbs, x.p.install x.cfg.pir cfg.pbs⟩

/-- Installs pending settings in the order of R416 and ends their commands (R447). -/
def Dev.installPending (d : Dev) (c : Clock) : Dev :=
  let d1 := d.adm.pendTenants.foldl (fun (x : Dev) (e : Ref × Nat × TenantCfg) =>
    ({ x with adm := { x.adm with tenants := NMap.put x.adm.tenants e.2.1 ((x.tenant e.2.1).install e.2.2) } }).endCmd c e.1 stOk 0 0 []) d
  let d2 := d.adm.pendShapers.foldl (fun (x : Dev) (e : Ref × Nat × ShaperCfg) =>
    ({ x with adm := { x.adm with shapers := vupdN x.adm.shapers e.2.1 fun sh => sh.install e.2.2 } }).endCmd c e.1 stOk 0 0 []) d1
  { d2 with adm := { d2.adm with pendTenants := [], pendShapers := [] } }

def Dev.refillAll (d : Dev) (tickNs : Nat) : Dev :=
  { d with adm := { d.adm with tenants := d.adm.tenants.map fun e => (e.1, e.2.refill tickNs),
                               shapers := d.adm.shapers.map fun x => x.refill tickNs } }

/-- One refill tick, at a datum time that is a multiple of STATION_NS / 16, once (R445). -/
def refillTick (c : Clock) (d : Dev) : Dev :=
  let tickNs := d.ns c / 16
  if d.timeRuns && c.now % tickNs = 0 && d.adm.lastTick != some c.now then
    let d1 := (d.refillAll tickNs).installPending c
    { d1 with adm := { d1.adm with lastTick := some c.now } }
  else d

def execRefillTick (t : Nat) (s : State) : Host.Outcome State Fault Refusal :=
  happens (.refillTick t) t (·.onDev refillTick) s

/-- A lead's report of a leaf's default N_p (R440). -/
def defaultNPReport (parcel np : Nat) (_ : Clock) (d : Dev) : Dev :=
  if 1 ≤ np && np ≤ 4096 then { d with adm := { d.adm with np := NMap.put d.adm.np parcel np } } else d

def execDefaultNPReport (t : Nat) (parcel np : Nat) (s : State) : Host.Outcome State Fault Refusal :=
  happens (.defaultNPReport t parcel np) t (·.onDev (defaultNPReport parcel np)) s

end Sys2Proof.Machine
end

