-- ==== Sys2Proof/Machine/Registers.lean ====
section
/-! DEFINITION. The register map of BAR0 as reads see it (R539 to R549 and the field maps of the other chapters). Reads of BAR0 without a row of their own change nothing; this is what they answer. -/

namespace Sys2Proof.Machine

/-! ### Block idleness (R464) and tests holding units (R545) -/

/-- A loop-back that takes its unit out of service: every depth but the protocol echo (R530). -/
def Tests.loopHolds (t : Tests) (iface unit : Nat) : Bool := t.loops.any fun l => l.iface = iface && l.unit = unit && l.depth != 4

/-- A self-test holds a unit: kind 0 search die, 1 stack, 2 flash channel (R536). -/
def Tests.bistHolds (t : Tests) (kind unit : Nat) : Bool := t.bists.any fun b => b.units.any fun u => u.1 = kind && u.2.1 = unit

def Dev.heldBit (d : Dev) (block unit : Nat) : Bool := (vgetD d.pwr.hold block 0).getLsbD unit

/-- A block reset of the unit is in progress (R465). -/
def Dev.inReset (d : Dev) (block unit : Nat) : Bool := match d.pwr.blkReset with | some b => b.block = block && b.unit = unit | none => false

/-- A flash channel takes no new work: it is held, or its test or reset goes on after the hold was cleared (R463, R530). -/
def Dev.chanHeld (d : Dev) (c : Nat) : Bool := d.heldBit 2 c || d.tst.bistHolds 2 c || d.tst.loopHolds 3 c || d.inReset 2 c

/-- Accesses to a stack wait while it is tested or reset (R466, R530). -/
def Dev.stackBarred (d : Dev) (st : Nat) : Bool := d.tst.bistHolds 1 st || d.tst.loopHolds 2 st || d.inReset 1 st

/-- A test runs on a journal channel of an unformatted node: flash commands and flash writes wait (R528). -/
def Dev.journalTested (d : Dev) : Bool := [0, 16].any fun c => d.tst.bistHolds 2 c || d.tst.loopHolds 3 c

/-- Units of a block kind that PWR.HOLD holds; bits 0 and 16 of b = 2 are reserved (R477). -/
def holdUnits (block : Nat) : List Nat :=
  if block = 0 then List.range 10
  else if block = 1 then List.range 20
  else if block = 2 then (List.range 32).filter fun c => c != 0 && c != 16
  else if block = 3 then List.range 8 else []

def Dev.dieBusy (d : Dev) (u : Nat) : Bool :=
  (d.scan.travs.any fun t => !t.place.chan && t.place.unit = u) || !d.mdl.waves.isEmpty ||
    (d.scan.frags.any fun f => f.dies.any fun x => x.die = u && x.left > 0) || d.tst.bistHolds 0 u

def Dev.stackBusy (d : Dev) (u : Nat) : Bool :=
  !(vgetD d.nb.queues u []).isEmpty || !(vgetD d.nb.held u []).isEmpty ||
    (d.chain.monuments.any fun m => m.copies.any fun k => k.stack.val = u && k.use = .filling) ||
    (d.chain.monuments.any fun m => match m.move with | some v => v.dest.val = u && !v.filled | none => false) ||
    (d.mem.rebuild.any fun r => r.dest = u) || d.tst.bistHolds 1 u || d.tst.loopHolds 2 u

def Dev.chanOutstanding (d : Dev) (u : Nat) : Bool :=
  let ch := vgetD d.flash.chans u FChan.reset
  !ch.reads.isEmpty || !ch.progs.isEmpty || !ch.erases.isEmpty

def Dev.chanBusy (d : Dev) (u : Nat) : Bool :=
  d.chanOutstanding u || (d.scan.travs.any fun t => t.place.chan && t.place.unit = u) || d.tst.bistHolds 2 u || d.tst.loopHolds 3 u

def Dev.fabBusy (d : Dev) (c : Clock) (u : Nat) : Bool :=
  (d.fab.conns.any fun k => k.2.outstanding.any fun p => p.port = u) || c.now < (vgetD d.fab.ports u FPort.reset).lastRx + 100000 ||
    d.tst.loopHolds 1 u

/-- The IDLE bit of a block's unit (R464). -/
def Dev.idle (d : Dev) (c : Clock) (block unit : Nat) : Bool :=
  (holdUnits block).contains unit && d.heldBit block unit &&
    !(if block = 0 then d.dieBusy unit else if block = 1 then d.stackBusy unit else if block = 2 then d.chanBusy unit else d.fabBusy c unit)

/-- A number with bit u set for each u of a list that passes a test. -/
def bitsOf (us : List Nat) (p : Nat → Bool) : Nat := natSum (us.map fun u => if p u then 2 ^ u else 0)

/-! ### CTL, TIME -/

/-- CTL.ID (R542). -/
def regCtlId : Nat := 0x4231 * 2 ^ 16 + 0x03 * 2 ^ 8 + 0x01

/-- CTL.START_STATUS (R505). -/
def Dev.regStart (d : Dev) : Nat :=
  d.start.startNo % 2 ^ 32 * 2 ^ 32 + d.start.stake * 2 ^ 20 + d.start.clkMode.toNat * 2 ^ 18 + d.start.bootSrc.toNat * 2 ^ 16 +
    boolNat d.start.trialRun * 2 ^ 9 + boolNat d.start.setB * 2 ^ 8 + min 3 d.start.consec * 2 ^ 4 + boolNat d.start.degraded * 2 +
    boolNat (d.start.phase = .backsight)

/-- CTL.FAULT_CTRL (R407). -/
def Dev.regFault (d : Dev) : Nat :=
  d.regs.lapseUs.toNat * 2 ^ 48 + d.regs.floorUs.toNat * 2 ^ 32 + d.regs.frac.toNat * 2 ^ 24 + d.regs.wdogMs.toNat * 2 ^ 16

/-- LAPSE_NS with its clamps (R389, R407). -/
def Dev.lapseNs (d : Dev) : Nat := 1000 * max 20 (min 10000 d.regs.lapseUs.toNat)

/-- REISSUE_FRAC with its clamp (R407). -/
def Dev.reissueFrac (d : Dev) : Nat := max 1 d.regs.frac.toNat

def tstateNat : TState → Nat
  | .unsync => 0
  | .locked => 1
  | .holdover => 2

/-- TIME.STATUS (R384). -/
def Dev.regTimeStatus (d : Dev) (c : Clock) : Nat :=
  min (c.bound d.holdPpb) 0xFFFFFFFF * 2 ^ 16 + (match c.ptpPort with | none => 0xFF | some q => q.val) * 2 ^ 8 + boolNat (d.beaconCur c) * 2 ^ 4 +
    boolNat c.pins * 2 ^ 3 + boolNat c.valid * 2 ^ 2 + tstateNat c.state

def Dev.regTimeCtrl (d : Dev) : Nat := d.regs.holdPpb.toNat * 2 ^ 8 + d.regs.source.toNat

/-! ### ADM -/

/-- ADM.SHP_LEVEL (R544): the peak level, all ones for an unlimited shaper. -/
def Shaper.levelReg (s : Shaper) : Nat := if s.cfg.pir.isNone then 2 ^ 64 - 1 else s.p.level

/-! ### PWR -/

def Dev.regPwrState (d : Dev) : Nat := boolNat d.pwr.transition.isSome * 2 ^ 7 + d.pwr.target.toNat * 2 ^ 2 + d.pwr.ps.toNat

/-- PWR.GOV_STATUS (R477). -/
def Dev.regGov (d : Dev) : Nat :=
  d.pwr.powerW % 2 ^ 16 * 2 ^ 48 + d.pwr.peakW % 2 ^ 16 * 2 ^ 32 + d.pwr.bgNotch * 2 ^ 12 + d.pwr.easeNotch * 2 ^ 8 + d.pwr.issueNotch

/-- CAP_W with its clamps (R477). -/
def Dev.capW (d : Dev) : Nat := max 1000 (min 2400 d.pwr.capW.toNat)

/-- PWR.SUPPLY (R526). -/
def Dev.regSupply (d : Dev) : Nat :=
  boolNat d.brd.pfSeen * 2 ^ 33 + boolNat d.brd.uvSeen * 2 ^ 32 + d.brd.iin % 2 ^ 16 * 2 ^ 16 + d.brd.vin % 2 ^ 16

/-- PWR.THERMAL (R526). -/
def Dev.regThermal (d : Dev) : Nat :=
  d.brd.tjPeak % 2 ^ 8 * 2 ^ 24 + boolNat d.brd.hotSeen * 2 ^ 17 + boolNat d.brd.hot * 2 ^ 16 + d.brd.hotDie % 2 ^ 8 * 2 ^ 8 + d.brd.tjMax % 2 ^ 8

/-- PWR.HOLD[b] (R477). -/
def Dev.regHold (d : Dev) (c : Clock) (b : Nat) : Nat :=
  bitsOf (holdUnits b) (d.idle c b) * 2 ^ 32 + (vgetD d.pwr.hold b 0).toNat

/-! ### MEM -/

def stackStateNat : StackState → Nat
  | .off => 0
  | .up => 1
  | .partialUp => 2
  | .failed => 3

def protNat : Protect → Nat
  | .none => 0
  | .parity => 1
  | .mirror => 2

def protStateNat : ProtState → Nat
  | .protectedSt => 0
  | .exposed => 1
  | .rebuilding => 2
  | .damaged => 3

/-- A stack in service gives its frames to allocation (R263, R273). -/
def Stack.serving (s : Stack) : Bool := s.state = .up || s.state = .partialUp

/-- Frames now in the pool: allocatable and in no region (R280). -/
def Dev.poolFrames (d : Dev) : Nat := natSum (d.mem.stk.toList.map fun s => if s.serving then Config.stackFrames - s.used else 0)

/-- A pool frame that cannot be evicted: dirty, spill, or with a fill or a read in progress (R281). -/
def Dev.isPinned (d : Dev) (f : PoolFrame) : Bool :=
  f.dirty || f.busy || f.spill || d.chain.reads.any fun x => match x.src with | .pool ns => x.live && ns.contains f.no | _ => false

def Dev.pinnedFrames (d : Dev) : Nat := (d.mem.pool.filter d.isPinned).length

/-- A start that has not passed stake 6 has trained no stack: MEM reads its reset values (R286). -/
def Dev.untrained (d : Dev) : Bool := d.start.stake < 6

/-- MEM.STACK_STATE (R286). -/
def Dev.regStack (d : Dev) (i : Nat) : Nat :=
  match d.mem.stk.toList[i]? with
  | none => 0
  | some s => if d.untrained then 0 else s.retired % 2 ^ 24 * 2 ^ 16 + stackStateNat s.state

/-- MEM.PART_STATE (R314). -/
def HostPort.regPart (h : HostPort) : Nat :=
  h.part.mask.toNat * 2 ^ 32 + protNat h.part.protect * 2 ^ 30 + boolNat h.pend.isSome * 2 ^ 29 + h.part.gib % 2 ^ 10

/-- MEM.PORT_LOAD (R314). -/
def HostPort.regLoad (h : HostPort) : Nat := h.queue * 2 ^ 32 + h.devload.toNat

/-! ### FLS -/

def chanStateNat : ChanState → Nat
  | .off => 0
  | .up => 1
  | .noSpares => 2
  | .failed => 3

def FChan.serving (c : FChan) : Bool := c.state = .up || c.state = .noSpares

/-- FLS.STATUS (R348). -/
def Dev.regFls (d : Dev) : Nat :=
  bitsOf (List.range 32) (fun c => (vgetD d.flash.chans c FChan.reset).serving) * 2 ^ 8 + boolNat d.flash.unformatted * 2 ^ 5 +
    boolNat (d.flash.pf = .done) * 2 ^ 4 + boolNat d.flash.noFlash * 2 ^ 3 + boolNat (d.flash.fixedClass && d.flash.replayed) * 2 ^ 2 + boolNat d.flash.replayed * 2 +
    boolNat (d.flash.readOnly && d.flash.replayed)

/-- FLS.CH_STATE (R348). -/
def FChan.reg (c : FChan) : Nat :=
  min c.spares 0xFFFF * 2 ^ 32 + c.rate % 2 ^ 16 * 2 ^ 16 + c.targets % 16 * 2 ^ 12 + chanStateNat c.state

def Dev.regShare (d : Dev) : Nat :=
  d.flash.wBack.toNat * 2 ^ 24 + d.flash.wStream.toNat * 2 ^ 16 + d.flash.wTrav.toNat * 2 ^ 8 + d.flash.wChain.toNat

/-! ### FAB -/

def linkNat : LinkState → Nat
  | .down => 0
  | .training => 1
  | .up => 2
  | .disabled => 3

/-- FAB.PORT[p] (R384). -/
def Dev.regFabPort (d : Dev) (c : Clock) (q : Nat) : Nat :=
  match d.fab.ports.toList[q]? with
  | none => 0
  | some f =>
    f.lanes.toNat * 2 ^ 8 + boolNat ((c.ptpPort.map (·.val)) = some q) * 2 ^ 5 + boolNat f.macsecUp * 2 ^ 4 + linkNat f.link * 2 ^ 2 +
      boolNat f.macsecEn * 2 + boolNat f.enable

/-- A generation in force lists this node (R374, R384). -/
def Dev.joined (d : Dev) (c : Clock) : Bool :=
  match d.genNow c with
  | none => false
  | some g => g.nodes.any fun n => n.id = d.plat.nodeId

/-- FAB.NODE (R384); VER_MIN and VER_MAX are set by Transit at a start (R358). -/
def Dev.regFabNode (d : Dev) (c : Clock) : Nat :=
  (match d.genNow c with | none => 0 | some g => g.version % 2 ^ 8) * 2 ^ 40 +
    (if d.start.stake ≥ 5 then Config.verMax * 2 ^ 32 + Config.verMin * 2 ^ 24 else 0) + boolNat (d.joined c) * 2 ^ 12 +
    (if d.joined c then d.plat.nodeId % 2 ^ 12 else 0)

def Dev.regDscp (d : Dev) : Nat :=
  d.fab.dscp[3].toNat * 2 ^ 18 + d.fab.dscp[2].toNat * 2 ^ 12 + d.fab.dscp[1].toNat * 2 ^ 6 + d.fab.dscp[0].toNat

/-! ### ERRL, TST, FUSE -/

/-- ERRL.SUMMARY (R407). -/
def Dev.regErrl (d : Dev) : Nat :=
  d.regs.errRecords.toNat * 2 ^ 32 + d.regs.lastSev.toNat * 2 ^ 8 + boolNat d.regs.warmValid * 2 ^ 3 + d.regs.warmCause.toNat

/-- TST.ACTIVE (R545). -/
def Dev.regTest (d : Dev) : Nat :=
  bitsOf (List.range 32) (fun u => d.tst.loopHolds 3 u || d.tst.bistHolds 2 u) * 2 ^ 32 +
    bitsOf (List.range 20) (fun u => d.tst.loopHolds 2 u || d.tst.bistHolds 1 u) * 2 ^ 12 +
    bitsOf (List.range 8) (fun u => d.tst.loopHolds 1 u) * 2 ^ 4 + bitsOf (List.range 4) (fun u => d.tst.loopHolds 0 u)

/-- Number of bits set. -/
def popcount {n : Nat} (v : BitVec n) : Nat := ((List.range n).filter fun i => v.getLsbD i).length

def Fuses.regSvn (f : Fuses) : Nat := popcount f.svn[2] * 2 ^ 16 + popcount f.svn[1] * 2 ^ 8 + popcount f.svn[0]

def Fuses.regKeys (f : Fuses) : Nat := bitsOf (List.range 4) fun i => ((f.keys.toList[i]?).map (·.revoked)).getD false

/-! ### The map (R539) -/

/-- Index of an 8-byte register array of n entries from base, if the address lies in it. -/
def arrayIx (addr base n : Nat) : Option Nat := if base ≤ addr && addr < base + 8 * n then some ((addr - base) / 8) else none

def readCtl (d : Dev) (a : Nat) : Nat :=
  if a = 0 then regCtlId else if a = 0x100 then d.regStart else if a = 0x180 then d.regs.adminPorts.toNat
  else if a = 0x200 then d.regFault else 0

def readTime (d : Dev) (c : Clock) (a : Nat) : Nat :=
  if a = 0 then c.now % 2 ^ 64 else if a = 8 then d.regTimeStatus c else if a = 0x10 then d.regTimeCtrl
  else if a = 0x18 then d.station c else 0

def readAdm (d : Dev) (a : Nat) : Nat :=
  if a = 0 then d.adm.sel.toNat else if a = 8 then d.adm.viewCfg.toNat else if a = 0x10 then d.adm.viewTc.toNat
  else if a = 0x18 then d.adm.viewTp.toNat
  else match arrayIx a 0x100 7 with | some j => (d.shaper j).levelReg | none => 0

def readPwr (d : Dev) (c : Clock) (a : Nat) : Nat :=
  if a = 0 then d.regPwrState else if a = 8 then d.pwr.wakeAt.toNat else if a = 0x10 then d.pwr.capW.toNat else if a = 0x18 then d.regGov
  else if a = 0x20 then d.regSupply else if a = 0x28 then d.regThermal
  else match arrayIx a 0x100 4 with | some b => d.regHold c b | none => 0

def readMem (d : Dev) (a : Nat) : Nat :=
  if a = 0x200 then (if d.untrained then 0 else d.poolFrames % 2 ^ 28 * 2 ^ 32 + d.pinnedFrames % 2 ^ 28)
  else match arrayIx a 0x100 20 with
    | some s => d.regStack s
    | none =>
      match arrayIx a 0x300 4 with
      | some p => ((d.ports.toList[p]?).map HostPort.regPart).getD 0
      | none => match arrayIx a 0x320 4 with | some p => ((d.ports.toList[p]?).map HostPort.regLoad).getD 0 | none => 0

def readFls (d : Dev) (a : Nat) : Nat :=
  if a = 0 then d.regFls else if a = 0x200 then d.regShare
  else match arrayIx a 0x100 32 with | some c => ((d.flash.chans.toList[c]?).map FChan.reg).getD 0 | none => 0

def readFab (d : Dev) (c : Clock) (a : Nat) : Nat :=
  if a = 0x100 then d.regFabNode c else if a = 0x108 then d.regDscp
  else match arrayIx a 0 8 with | some q => d.regFabPort c q | none => 0

def readFuse (d : Dev) (f : Fuses) (a : Nat) : Nat :=
  if !d.start.mirrored then 0
  else if a = 0 then f.regSvn else if a = 8 then f.regKeys
  else match arrayIx a 0x100 8 with | some q => ((f.macs.toList[q]?).map BitVec.toNat).getD 0 | none => 0

/-- The 64-bit register at an aligned BAR0 address: what no block or register occupies reads as zero (R539, R548). -/
def State.readReg (s : State) (addr : Nat) : W64 :=
  let a := addr % 0x10000
  BitVec.ofNat 64 <|
    match addr / 0x10000 with
    | 0 => readCtl s.dev a
    | 1 => readTime s.dev s.clk a
    | 2 => readAdm s.dev a
    | 3 => readPwr s.dev s.clk a
    | 4 => readMem s.dev a
    | 5 => readFls s.dev a
    | 6 => readFab s.dev s.clk a
    | 7 => if a = 0 then s.dev.regErrl else 0
    | b =>
      if 0x10 ≤ b && b < 0x20 then (NMap.getD s.dev.cnt ((addr - 0x100000) / 8) 0).toNat
      else if addr = 0x200000 then s.dev.regTest
      else if 0x30 ≤ b && b < 0x40 then readFuse s.dev s.fuse (addr - 0x300000)
      else 0

end Sys2Proof.Machine
end

