-- ==== Sys2Proof/Machine/Memory.lean ====
section
/-! DEFINITION. Memory stacks, regions, PROTECT, errors, rebuild and the tier-cache pool (R261 to R287). -/

namespace Sys2Proof.Machine

/-! ### Placement (R262, R266 to R268) -/

/-- Stack-local address to channel, bank, row and near-bank unit (R262). -/
def placeLine (a : Nat) : Nat × Nat × Nat × Nat :=
  let line := a / 64
  let channel := line % 32
  let bank := 16 * channel + line / 32 % 16
  (channel, bank, line / 512, bank / 4)

def stacksOf (mask : BitVec 20) : List Nat := (List.range 20).filter fun s => mask.getLsbD s

/-- Groups of five stacks g, g + 4, … in a mask, ascending (R268). -/
def groupsOf (mask : BitVec 20) : List Nat := (List.range 4).filter fun g => mask.getLsbD g

/-- STACK_MASK suits the PROTECT mode (R266 to R268). -/
def maskOk (p : Protect) (mask : Nat) : Bool :=
  let m := BitVec.ofNat 20 mask
  mask != 0 && mask < 2 ^ 20 &&
    (match p with
     | .none => true
     | .mirror => (stacksOf m).all fun s => m.getLsbD (s ^^^ 1)
     | .parity => (List.range 4).all fun g => (List.range 5).all fun k => m.getLsbD (g + 4 * k) = m.getLsbD g)

def protectOf (v : Nat) : Option Protect := if v = 0 then some .none else if v = 1 then some .parity else if v = 2 then some .mirror else none

def tierOf (v : Nat) : Option Tier := if v = 0 then some .pin else if v = 1 then some .cache else if v = 2 then some .flash else none

/-- Number of i below n with i mod k = ix. -/
def countMod (n k ix : Nat) : Nat := if k = 0 then 0 else (n + k - 1 - ix) / k

/-- Frames that n frames of a region take on a stack. -/
def sharesOn (p : Protect) (mask : BitVec 20) (n s : Nat) : Nat :=
  let ss := stacksOf mask
  match p with
  | .none => match ss.idxOf? s with | some ix => countMod n ss.length ix | none => 0
  | .mirror =>
    (match ss.idxOf? s with | some ix => countMod n ss.length ix | none => 0) +
      (match ss.idxOf? (s ^^^ 1) with | some ix => countMod n ss.length ix | none => 0)
  | .parity =>
    match (groupsOf mask).idxOf? (s % 4) with
    | some ix => countMod (ceilDiv n 4) (groupsOf mask).length ix
    | none => 0

/-- Frame i of a PARITY region: its stack and stripe row (R268). -/
def parityPlace (i : Nat) (groups : List Nat) : Nat × Nat :=
  let j := i / 4
  let g := nthD groups (j % groups.length) 0
  let r := j / groups.length
  let data := (List.range 5).filter fun m => m != r % 5
  (g + 4 * nthD data (i % 4) 0, r)

/-- First copy's stack of frame i under NONE or MIRROR (R266, R267). -/
def frameStack (p : Protect) (mask : BitVec 20) (i : Nat) : Nat :=
  match p with
  | .parity => (parityPlace i (groupsOf mask)).1
  | _ => nthD (stacksOf mask) (i % (stacksOf mask).length) 0

/-! ### Allocation (R263, R264, R280, R284) -/

/-- Occupied intervals of a stack's allocatable frames, by start. -/
def MemSys.occupied (m : MemSys) (s : Nat) : List (Nat × Nat) :=
  let regs := (m.regions.map fun r => (r.2.place.filter fun x => x.1 = s).map fun x => x.2).flatten
  let gone := (m.retired.filter fun x => x.1 = s).map fun x => (x.2, 1)
  sortBy (fun a b => a.1 ≤ b.1) (regs ++ gone)

/-- The lowest free frames, as intervals. -/
def freeTake : List (Nat × Nat) → Nat → Nat → List (Nat × Nat)
  | [], cur, need => if need = 0 then [] else [(cur, need)]
  | o :: os, cur, need =>
    let g := min (o.1 - cur) need
    let rest := freeTake os (max cur (o.1 + o.2)) (need - g)
    if g = 0 then rest else (cur, g) :: rest

/-- Frames of a stack that an allocation may take: free or evictable (R281, R284). -/
def Dev.availOn (d : Dev) (s : Nat) : Nat :=
  match d.mem.stk.toList[s]? with
  | none => 0
  | some k =>
    if k.serving then Config.stackFrames - k.used - (d.mem.pool.filter fun f => f.no / Config.allFrames = s && d.isPinned f).length
    else 0

/-- A region of n frames may be allocated (R284). -/
def Dev.canAlloc (d : Dev) (p : Protect) (mask : BitVec 20) (n : Nat) : Bool :=
  let need := natSum ((stacksOf mask).map (sharesOn p mask n))
  (stacksOf mask).all (fun s => sharesOn p mask n s ≤ d.availOn s) && need + Config.poolFloor ≤ d.poolFrames

/-- Evicts the oldest clean frames of a stack until its pool fits what is left (R281). -/
def Dev.evictFor (d : Dev) (s : Nat) : Dev :=
  match d.mem.stk.toList[s]? with
  | none => d
  | some k =>
    let mine := d.mem.pool.filter fun f => f.no / Config.allFrames = s
    let excess := mine.length - (Config.stackFrames - k.used)
    let order := sortBy (fun (a b : PoolFrame) => a.last < b.last || (a.last = b.last && a.no ≤ b.no)) (mine.filter fun f => !(d.isPinned f))
    let victims := (order.take excess).map (·.no)
    ({ d with mem := { d.mem with pool := d.mem.pool.filter fun f => !(victims.contains f.no) } }).count 66 0 victims.length

/-- An interval of frames rounded outward to whole groups of g. -/
def roundOut (g : Nat) (o : Nat × Nat) : Nat × Nat := (o.1 / g * g, ceilDiv (o.1 + o.2) g * g - o.1 / g * g)

/-- The lowest n free frames of a stack, in whole groups of g, as intervals. -/
def MemSys.take (m : MemSys) (g s n : Nat) : List (Nat × Nat × Nat) := (freeTake ((m.occupied s).map (roundOut g)) 0 n).map fun x => (s, x.1, x.2)

/-- A region takes the frames it needs to hold n in all; the oldest clean frames make room (R264, R281). -/
def Dev.grow (d : Dev) (id g n : Nat) : Dev :=
  match NMap.get? d.mem.regions id with
  | none => d
  | some r =>
    let more := fun (s : Nat) => sharesOn r.protect r.mask n s - sharesOn r.protect r.mask (r.len / 4096) s
    let place := ((stacksOf r.mask).map fun s => d.mem.take g s (more s)).flatten
    let stk := (List.range 20).foldl (fun v s => vupdN v s fun k => { k with used := k.used + more s }) d.mem.stk
    let d1 := { d with mem := { d.mem with stk := stk, regions := NMap.put d.mem.regions id { r with len := 4096 * n, place := r.place ++ place } } }
    (stacksOf r.mask).foldl (fun x s => x.evictFor s) d1

/-- A region before it has a frame (R264). -/
def Region.fresh (p : Protect) (mask : BitVec 20) (tier : Tier) (cls : Nat) : Region :=
  { len := 0, tier := tier, protect := p, mask := mask, cls := cls, place := [], mem := [], poison := [], bad := [], prot := .protectedSt, lost := [],
    moved := [] }

/-- A new region of n frames, in groups of g on each stack. -/
def Dev.allocBy (d : Dev) (g id : Nat) (p : Protect) (mask : BitVec 20) (n : Nat) (tier : Tier) (cls : Nat) : Dev :=
  ({ d with mem := { d.mem with regions := NMap.put d.mem.regions id (Region.fresh p mask tier cls) } }).grow id g n

/-- Takes the frames of a region and records it. -/
def Dev.alloc (d : Dev) (id : Nat) (p : Protect) (mask : BitVec 20) (n : Nat) (tier : Tier) (cls : Nat) : Dev := d.allocBy 1 id p mask n tier cls

/-- Returns a region's frames to the pool, but for those retired meanwhile (R272). -/
def Dev.free (d : Dev) (id : Nat) : Dev :=
  match NMap.get? d.mem.regions id with
  | none => d
  | some r =>
    let gone := fun (x : Nat × Nat × Nat) => (d.mem.retired.filter fun f => f.1 = x.1 && x.2.1 ≤ f.2 && f.2 < x.2.1 + x.2.2).length
    let stk := r.place.foldl (fun v x => vupdN v x.1 fun k => { k with used := k.used + gone x - x.2.2 }) d.mem.stk
    let spares := r.moved.map (·.stack) ++ (d.mem.rebuild.filter fun x => x.region = id).map (·.dest)
    let stk := spares.foldl (fun v x => vupdN v x fun k => { k with spare := k.spare + 1 }) stk
    { d with mem := { d.mem with stk := stk, regions := NMap.del d.mem.regions id, rebuild := d.mem.rebuild.filter fun x => x.region != id } }

def kindNo (k : RowKind) : Nat := match k with | .vector => 0 | .payload => 1 | .embed => 2

def rowKindOf (v : Nat) : Option RowKind := if v = 1 then some .vector else if v = 2 then some .payload else if v = 3 then some .embed else none

def regionBase : Nat := 9223372036854775808
def partRegion (p : Port) : Nat := regionBase + p.val
def pendRegion (p : Port) : Nat := regionBase + 4 + p.val
/-- The flash translation map (R265, R323). -/
def mapRegion : Nat := regionBase + 8
def comRegion (c : Nat) (b : Bool) : Nat := regionBase + 16 + 2 * c + boolNat b
def modelRegion (uid : Nat) : Nat := regionBase + 1024 + 2 * uid
def embedRegion (uid : Nat) : Nat := regionBase + 1025 + 2 * uid

def stackBit (s : Nat) : BitVec 20 := BitVec.ofNat 20 (2 ^ s)
/-- The two stacks of a search die (R51). -/
def diePair (die : Nat) : BitVec 20 := stackBit (2 * die) ||| stackBit (2 * die + 1)

def Dev.serves (d : Dev) (s : Nat) : Bool := match d.mem.stk.toList[s]? with | some k => k.serving | none => false

/-- Stacks of the row directory, a tombstone set or the flash map: every pair that serves (R265; DESIGN CHOICE, log 30). -/
def Dev.pairsUp (d : Dev) : BitVec 20 :=
  (List.range 10).foldl (fun m k => if d.serves (2 * k) && d.serves (2 * k + 1) then m ||| diePair k else m) 0

/-- Regions of the structures that Septuno places itself (R265): the flash map; and of a leaf copy its code blocks one by one, main or side, its tombstone set on each search die, its row directory and its row stores. -/
def ownBase : Nat := 18446744073709551616
def leafSpan : Nat := 2 ^ 200
def flashMapRegion : Nat := ownBase
def leafRegion (parcel sub : Nat) : Nat := ownBase + (parcel + 1) * leafSpan + sub
def blockRegion (parcel list ver : Nat) (side : Bool) (seq : Nat) : Nat := leafRegion parcel (1024 + (((ver * 2 + boolNat side) * 2 ^ 32 + list) * 2 ^ 32 + seq))
def tombRegion (parcel die : Nat) : Nat := leafRegion parcel die
def dirRegion (parcel : Nat) : Nat := leafRegion parcel 16
def rowRegion (parcel kind : Nat) : Nat := leafRegion parcel (32 + kind)
/-- A monument copy of a row on a stack, away from the row's own place. -/
def monRegion (k : RowKey) (s : Nat) : Nat := leafRegion k.parcel (2 ^ 150 + (kindNo k.kind * 2 ^ 64 + k.id) * 32 + s)
/-- The leaf a region belongs to. -/
def regionLeaf (id : Nat) : Option Nat := if ownBase + leafSpan ≤ id then some ((id - ownBase) / leafSpan - 1) else none

/-- Owner of pool frames and flash extents (R281, R323): a tier region, a leaf's row store, a model's weights or EMBED store, a flash-homed list. -/
def regionKey (id : Nat) : Nat := 4 * id
def storeKey (parcel kind : Nat) : Nat := 4 * (2 * parcel + kind) + 1
def weightKey (uid : Nat) : Nat := 4 * (2 * uid) + 2
def embedKey (uid : Nat) : Nat := 4 * (2 * uid + 1) + 2
def listKey (parcel list ver : Nat) : Nat := 4 * ((ver * 4294967296 + parcel) * 4294967296 + list) + 3

/-! ### Flash capacity of allocations (R323, R332) -/

/-- Bytes a channel can still allocate. -/
def FChan.room (c : FChan) : Nat := if c.serving then c.user - c.alloc else 0

/-- The channel with the most unallocated user capacity; ties go to the lower number (R338, log 23). -/
def Dev.bestChan (d : Dev) : Nat :=
  ((List.range 32).foldl (fun (acc : Nat × Nat) c =>
    let r := (vgetD d.flash.chans c FChan.reset).room
    if r > acc.2 then (c, r) else acc) (0, 0)).1

/-- Lowest extent slot of a channel that no extent holds. -/
def Flash.freeSlot (f : Flash) (c : Nat) : Nat :=
  let used := (f.extents.filter fun e => e.2.chan = c).map (·.2.slot)
  ((List.range (used.length + 1)).find? fun i => !(used.contains i)).getD 0

/-- Allocates one extent on a channel. -/
def Dev.addExtent (d : Dev) (c owner : Nat) (pinned : Bool) : Dev :=
  let slot := d.flash.freeSlot c
  { d with flash := { d.flash with extents := NMap.put d.flash.extents d.flash.nextExtent ⟨c, slot, owner, pinned⟩,
                                   nextExtent := d.flash.nextExtent + 1,
                                   chans := vupdN d.flash.chans c fun x => { x with alloc := x.alloc + Config.extentBytes } } }

def Dev.addExtents (d : Dev) : Nat → Nat → Dev
  | 0, _ => d
  | n + 1, owner => (d.addExtent d.bestChan owner false).addExtents n owner

/-- Extents still to be had on all channels. -/
def Dev.extentRoom (d : Dev) : Nat := natSum (d.flash.chans.toList.map fun c => c.room / Config.extentBytes)

/-- Frees every extent of an owner and forgets its units. -/
def Dev.freeExtents (d : Dev) (owner : Nat) : Dev :=
  let mine := d.flash.extents.filter fun e => e.2.owner = owner
  let chans := mine.foldl (fun v e => vupdN v e.2.chan fun (x : FChan) =>
    let lo := 4096 * e.2.slot
    let inE := fun (u : Nat) => lo ≤ u && u < lo + 4096
    { x with alloc := x.alloc - Config.extentBytes, map := x.map.filter fun y => !(inE y.1), badUnits := x.badUnits.filter fun u => !(inE u), queue := x.queue.filter fun u => !(inE u),
             blocks := x.blocks.map fun b => { b with units := b.units.filter fun u => !(inE u) } }) d.flash.chans
  { d with flash := { d.flash with chans := chans, extents := d.flash.extents.filter fun e => e.2.owner != owner } }

/-- Where unit idx of an owner's flash lies: channel and channel-local unit; none for a dropped extent (R323, R338). -/
def Flash.unitAt (f : Flash) (owner idx : Nat) : Option (Nat × Nat) :=
  match (f.extents.filter fun e => e.2.owner = owner)[idx / 4096]? with
  | some e => if e.2.chan < 32 then some (e.2.chan, 4096 * e.2.slot + idx % 4096) else none
  | none => none

/-- The owner of a channel's unit and its index there. -/
def Flash.ownerOf (f : Flash) (c unit : Nat) : Option (Nat × Nat) :=
  match f.extents.find? fun e => e.2.chan = c && e.2.slot = unit / 4096 with
  | none => none
  | some e =>
    match (f.extents.filter fun x => x.2.owner = e.2.owner).findIdx? fun x => x.1 = e.1 with
    | none => none
    | some i => some (e.2.owner, 4096 * i + unit % 4096)

/-- Issues a page read of a unit, in a class of R344, when the unit has a page. -/
def Dev.issueRead (d : Dev) (c unit cls owner : Nat) : Dev :=
  match NMap.get? (vgetD d.flash.chans c FChan.reset).map unit with
  | none => d
  | some m =>
    { d with flash := { d.flash with nextRead := d.flash.nextRead + 1,
                                     chans := vupdN d.flash.chans c fun x => { x with reads := x.reads ++ [⟨d.flash.nextRead, m.block, unit, cls, owner⟩] } } }

/-- Issues the read of unit idx of an owner. -/
def Dev.readUnit (d : Dev) (key idx cls owner : Nat) : Dev :=
  match d.flash.unitAt key idx with
  | none => d
  | some u => d.issueRead u.1 u.2 cls owner

/-! ### mem.tier_alloc and mem.tier_free (R264, R284, R320, R339) -/

def framesOf (len : Nat) : Nat := ceilDiv len 4096

def memTierAllocBad (_ : Clock) (d : Dev) (cmd : Cmd) : Bool :=
  match tierOf (cmd.f 0x40 1), protectOf (cmd.f 0x41 1) with
  | some t, some p => !(maskOk p (cmd.f 0x44 4)) || cmd.f 0x48 8 = 0 || cmd.resultLen < 8 || (t != .pin && d.flash.noFlash)
  | _, _ => true

def memTierAllocRun (c : Clock) (d : Dev) (cmd : Cmd) : Dev :=
  let n := framesOf (cmd.f 0x48 8)
  let mask := BitVec.ofNat 20 (cmd.f 0x44 4)
  let p := (protectOf (cmd.f 0x41 1)).getD .none
  let id := d.mem.nextRegion
  let done := fun (x : Dev) =>
    (({ x with mem := { x.mem with nextRegion := id + 1 } }).result cmd 0 (leBytes 8 id)).endCmd c cmd.ref stOk 0 0 []
  match (tierOf (cmd.f 0x40 1)).getD .pin with
  | .pin => if d.canAlloc p mask n then done (d.alloc id p mask n .pin 6) else d.refuse cmd.ref stBusy
  | t =>
    let ext := ceilDiv (cmd.f 0x48 8) Config.extentBytes
    if d.flash.readOnly then d.refuse cmd.ref stReadOnly
    else if d.flash.format.isSome || d.extentRoom < ext then d.refuse cmd.ref stBusy
    else
      let r : Region := { Region.fresh p mask t 6 with len := 4096 * n }
      done ({ d with mem := { d.mem with regions := NMap.put d.mem.regions id r } }.addExtents ext (regionKey id))

def memTierAlloc (k : Take) : Clock → Dev → Dev := runSlot 0x0803 allRows memTierAllocBad noAreas memTierAllocRun k

def execMemTierAlloc (k : Take) (s : State) : Host.Outcome State Fault Refusal :=
  happens (.memTierAlloc k) k.t (·.onDev (memTierAlloc k)) s

/-- A region made by mem.tier_alloc. -/
def Dev.tierRegion (d : Dev) (id : Nat) : Option Region := if id < regionBase then NMap.get? d.mem.regions id else none

def memTierFreeBad (_ : Clock) (d : Dev) (cmd : Cmd) : Bool := (d.tierRegion (cmd.f 0x40 8)).isNone || d.mem.freeing.any fun x => x.1 = cmd.f 0x40 8

/-- A region goes with its frames, its flash and its pool frames, and its command ends. -/
def Dev.finishFree (d : Dev) (c : Clock) (id : Nat) (r : Ref) : Dev :=
  let d1 := (d.free id).freeExtents (regionKey id)
  ({ d1 with mem := { d1.mem with pool := d1.mem.pool.filter fun f => f.key != regionKey id, freeing := d1.mem.freeing.filter fun x => x.1 != id } }).endCmd c r stOk 0 0 []

/-- A frame of the region has still to be written back. -/
def Dev.freeWaits (d : Dev) (id : Nat) : Bool := !d.flash.readOnly && d.mem.pool.any fun f => f.key = regionKey id && (f.dirty || f.writing)

/-- Dirty frames of a home on flash are written back first, those of TIER_PIN dropped (R284). -/
def memTierFreeRun (c : Clock) (d : Dev) (cmd : Cmd) : Dev :=
  let id := cmd.f 0x40 8
  if ((d.tierRegion id).map (·.tier)) != some .pin && d.freeWaits id then { d with mem := { d.mem with freeing := d.mem.freeing ++ [(id, cmd.ref)] } }
  else d.finishFree c id cmd.ref

/-- Regions whose frames have been written back are freed. -/
def Dev.sweepFrees (d : Dev) (c : Clock) : Dev := (d.mem.freeing.filter fun x => !(d.freeWaits x.1)).foldl (fun (x : Dev) e => x.finishFree c e.1 e.2) d

def memTierFree (k : Take) : Clock → Dev → Dev := runSlot 0x0804 allRows memTierFreeBad noAreas memTierFreeRun k

def execMemTierFree (k : Take) (s : State) : Host.Outcome State Fault Refusal :=
  happens (.memTierFree k) k.t (·.onDev (memTierFree k)) s

/-! ### Frames of a region by place -/

/-- Share index on a stack to local frame. -/
def Region.localFrame (r : Region) (s ix : Nat) : Nat :=
  ((r.place.filter fun x => x.1 = s).foldl (fun (acc : Nat × Nat) x =>
    if acc.2 < x.2.2 then (if acc.1 = 0 then (x.2.1 + acc.2 + 1, x.2.2 + acc.2) else acc) else (acc.1, acc.2 - x.2.2)) (0, ix)).1 - 1

/-- Local frame to share index, when the region holds it. -/
def Region.shareIx (r : Region) (s frame : Nat) : Option Nat :=
  ((r.place.filter fun x => x.1 = s).foldl (fun (acc : Nat × Option Nat) x =>
    (acc.1 + x.2.2, if x.2.1 ≤ frame && frame < x.2.1 + x.2.2 then some (acc.1 + (frame - x.2.1)) else acc.2)) (0, none)).2

/-- Place of a stack among those of the mask. -/
def Region.stackIx (r : Region) (s : Nat) : Nat := ((stacksOf r.mask).idxOf? s).getD 0

/-- What a share index of a stack holds, as unit and member: under NONE and MIRROR the frame and its copy, under PARITY the stripe and its member (R266 to R268). A MIRROR stack holds the frames of its own place and of its partner's in ascending order. -/
def Region.heldAt (r : Region) (s ix : Nat) : Nat × Nat :=
  let n := (stacksOf r.mask).length
  match r.protect with
  | .none => (ix * n + r.stackIx s, 0)
  | .mirror =>
    let a := r.stackIx s
    let b := r.stackIx (s ^^^ 1)
    let k := if ix % 2 = 0 then min a b else max a b
    (ix / 2 * n + k, if k = a then 0 else 1)
  | .parity => (ix * (groupsOf r.mask).length + ((groupsOf r.mask).idxOf? (s % 4)).getD 0, s / 4)

/-- Where a member is placed at first: its stack and the index in the region's share of it (R266 to R268). -/
def Region.homeShare (r : Region) (u member : Nat) : Nat × Nat :=
  let ss := stacksOf r.mask
  match r.protect with
  | .none => (nthD ss (u % ss.length) 0, u / ss.length)
  | .mirror =>
    let s := nthD ss (u % ss.length) 0
    (if member = 0 then s else s ^^^ 1, 2 * (u / ss.length) + (if u % ss.length = min (r.stackIx s) (r.stackIx (s ^^^ 1)) then 0 else 1))
  | .parity => (nthD (groupsOf r.mask) (u % (groupsOf r.mask).length) 0 + 4 * member, u / (groupsOf r.mask).length)

/-- Stack and frame of a member as first placed. -/
def Region.homePlace (r : Region) (u member : Nat) : Nat × Nat := let x := r.homeShare u member; (x.1, r.localFrame x.1 x.2)

/-- Stack and frame where a member lies now: later accesses follow a rebuilt one (R274). -/
def Region.memberPlace (r : Region) (u member : Nat) : Nat × Nat :=
  match r.moved.find? fun x => x.unit = u && x.member = member with
  | some x => (x.stack, x.frame)
  | none => r.homePlace u member

/-- Frames whose loss together loses data: the frame itself and its copy, or the stripe (R266 to R269). -/
def Region.unitOf (r : Region) (frame : Nat) : Nat := match r.protect with | .parity => frame / 4 | _ => frame

/-- Member of stripe u that holds its parity, and the one that holds data slot t (R268). -/
def Region.parityMember (r : Region) (u : Nat) : Nat := u / (groupsOf r.mask).length % 5
def Region.dataMember (r : Region) (u t : Nat) : Nat := nthD ((List.range 5).filter fun m => m != r.parityMember u) t 0

/-- Member that holds a data frame: under MIRROR the first copy. -/
def Region.memberOf (r : Region) (frame : Nat) : Nat := match r.protect with | .parity => r.dataMember (frame / 4) (frame % 4) | _ => 0

def Region.members (r : Region) : List Nat := match r.protect with | .none => [0] | .mirror => [0, 1] | .parity => [0, 1, 2, 3, 4]

/-- Stacks that hold the other members of a frame pair or stripe, rebuilt ones where they lie now (R274). -/
def Region.otherStacks (r : Region) (u member : Nat) : List Nat := (r.members.filter fun m => m != member).map fun m => (r.memberPlace u m).1

/-- Bytes of line k of the parity frame of a stripe: the XOR of line k of its data frames (R268). The model holds the data alone, so that the parity line is as R269 leaves it after every update. -/
def xorBytes (a b : List Byte) : List Byte := List.zipWith (fun x y => x ^^^ y) a b
def stripeLine (m : Mem) (j t k : Nat) : List Byte := Mem.rds m (4096 * (4 * j + t) + 64 * k) 64
def parityLine (m : Mem) (j k : Nat) : List Byte :=
  xorBytes (xorBytes (stripeLine m j 0 k) (stripeLine m j 1 k)) (xorBytes (stripeLine m j 2 k) (stripeLine m j 3 k))

/-- A data line formed from the other three and the parity line (R271). -/
def reconstruct (m : Mem) (parity : List Byte) (j t k : Nat) : List Byte :=
  (((List.range 4).filter fun x => x != t).map fun x => stripeLine m j x k).foldl xorBytes parity

/-! ### Lost frames and rebuild (R272 to R276) -/

/-- The stack with the most SPARE left, not among those given; a tie goes to the lower number (R274). -/
def Dev.spareStack (d : Dev) (avoid : List Nat) : Option Nat :=
  let r := (List.range 20).foldl (fun (acc : Option (Nat × Nat)) s =>
    match d.mem.stk.toList[s]? with
    | none => acc
    | some k =>
      if k.serving && !(avoid.contains s) && k.spare > 0 && (match acc with | none => true | some a => decide (a.2 < k.spare)) then some (s, k.spare) else acc) none
  r.map (·.1)

/-- Frames of a stack's SPARE in use; SPARE stands behind the allocatable frames (R263). -/
def MemSys.spareUsed (m : MemSys) (s : Nat) : List Nat :=
  ((m.regions.map fun e => (e.2.moved.filter fun x => x.stack = s).map (·.frame)).flatten) ++ ((m.rebuild.filter fun b => b.dest = s).map (·.destFrame)) ++
    ((m.retired.filter fun x => x.1 = s).map (·.2))

/-- The lowest frame of a stack's SPARE that holds nothing. -/
def MemSys.spareFrame (m : MemSys) (s : Nat) : Nat :=
  let used := m.spareUsed s
  Config.stackFrames + ((List.range (used.length + 1)).find? fun i => !(used.contains (Config.stackFrames + i))).getD 0

/-- The content of a member was rebuilt onto SPARE and lies there now. -/
def Region.isMoved (r : Region) (u member : Nat) : Bool := r.moved.any fun x => x.unit = u && x.member = member

/-- Data frames of a unit that are lost once the given members of it are (R266 to R268, R273). -/
def Region.lostFrames (r : Region) (u : Nat) (bad : List Nat) : List Nat :=
  match r.protect with
  | .none => [u]
  | .mirror => if bad.contains 0 && bad.contains 1 then [u] else []
  | .parity =>
    if 2 ≤ bad.length then ((List.range 4).filter fun t => bad.contains (r.dataMember u t) && 4 * u + t < r.len / 4096).map fun t => 4 * u + t else []

/-- Lines of a region read as poison until they are written whole (R271, R273): the list of the partition or the commons buffer whose region it is follows. -/
def Dev.poisonLines (d : Dev) (id : Nat) (lines : List Nat) : Dev :=
  let add := fun (xs : List Nat) => lines.filter (fun l => !(xs.contains l)) ++ xs
  let d1 := { d with mem := { d.mem with regions := NMap.upd d.mem.regions id fun r => { r with poison := add r.poison } } }
  match (List.finRange 4).find? fun p => partRegion p = id with
  | some p => d1.updPort p fun h => { h with poison := add h.poison }
  | none =>
    if id < comRegion 0 false || comRegion 64 false ≤ id then d1
    else
      let k := id - comRegion 0 false
      { d1 with com := { d1.com with slots := NMap.upd d1.com.slots (k / 2) fun x =>
          if k % 2 = 1 then { x with poisonB := add x.poisonB } else { x with poisonA := add x.poisonA } } }

/-- Lines of a region that read as poison. -/
def Dev.poisonOf (d : Dev) (id : Nat) : List Nat :=
  match (List.finRange 4).find? fun p => partRegion p = id with
  | some p => (d.port p).poison
  | none =>
    match NMap.get? d.mem.regions id with
    | none => []
    | some r =>
      if id < comRegion 0 false || comRegion 64 false ≤ id then r.poison
      else
        let k := id - comRegion 0 false
        match NMap.get? d.com.slots (k / 2) with
        | some x => if k % 2 = 1 then x.poisonB else x.poisonA
        | none => r.poison

def Dev.putRegion (d : Dev) (id : Nat) (r : Region) : Dev := { d with mem := { d.mem with regions := NMap.put d.mem.regions id r } }

/-- Device address of a region's first frame: frames of 4 KiB, stack by stack (R434). -/
def Region.base (r : Region) : Nat := match r.place.head? with | some x => 4096 * (x.1 * Config.allFrames + x.2.1) | none => 0

/-- Parcel that an error record of a region names. -/
def regionParcel (id : Nat) : Nat := (regionLeaf id).getD Config.noParcel

/-- Frames of a region have lost lines from a line on: they read as poison, the region is DAMAGED and a record reports it (R273). -/
def Dev.damage (d : Dev) (c : Clock) (id : Nat) (frames : List Nat) (line : Nat) : Dev :=
  match NMap.get? d.mem.regions id with
  | none => d
  | some r =>
    if frames.isEmpty then d
    else
      let lines := (frames.map fun f => (List.range (64 - line)).map fun k => 64 * f + line + k).flatten
      let more := frames.filter fun f => !(r.lost.contains f)
      let d1 := d.count 63 0 (lines.filter fun l => !((d.poisonOf id).contains l)).length
      ((d1.putRegion id { r with prot := .damaged, lost := r.lost ++ more }).poisonLines id lines).logErr c 2 2 0 60 r.base (regionParcel id) (r.lost ++ more).length 0

/-- Starts the rebuild of a member onto SPARE, or leaves it exposed (R274, R276). -/
def Dev.startRebuild (d : Dev) (id u member : Nat) : Dev :=
  match NMap.get? d.mem.regions id with
  | none => d
  | some r =>
    match d.spareStack (r.otherStacks u member) with
    | none => d.putRegion id { r with prot := if r.prot = ProtState.protectedSt then ProtState.exposed else r.prot }
    | some s =>
      let b : Rebuild := ⟨r.cls, id, u, member, s, d.mem.spareFrame s, 0⟩
      ({ d with mem := { d.mem with stk := vupdN d.mem.stk s fun k => { k with spare := k.spare - 1 }, rebuild := d.mem.rebuild ++ [b] } }).putRegion id
        { r with prot := if r.prot = ProtState.protectedSt then ProtState.rebuilding else r.prot }

/-- A rebuild's member lies at its new place from now on. -/
def Dev.placeRebuilt (d : Dev) (b : Rebuild) : Dev :=
  { d with mem := { d.mem with rebuild := d.mem.rebuild.filter fun x => x != b,
                               regions := NMap.upd d.mem.regions b.region fun r =>
                                 { r with bad := r.bad.filter fun x => x != (b.frame, b.member),
                                          moved := ⟨b.frame, b.member, b.dest, b.destFrame⟩ :: r.moved.filter fun x => !(x.unit = b.frame && x.member = b.member) } } }

/-- A frame member of a region is lost where it lies now (R272 to R274): NONE content is gone; protected content is rebuilt onto SPARE, or stays exposed. A second loss in one pair or stripe damages the region: what a rebuild under way had already restored survives in its new frame, the lines it had not reached are lost. -/
def Dev.loseMember (d : Dev) (c : Clock) (id u member : Nat) : Dev :=
  match NMap.get? d.mem.regions id with
  | none => d
  | some r =>
    if r.bad.contains (u, member) then d
    else
      let bad := (u, member) :: r.bad
      let d1 := d.putRegion id { r with bad := bad, moved := r.moved.filter fun x => !(x.unit = u && x.member = member) }
      let others := (r.bad.filter fun x => x.1 = u).map (·.2)
      let lost := r.lostFrames u (member :: others)
      match d.mem.rebuild.find? fun b => b.region = id && b.frame = u with
      | some b => ((d1.damage c id lost b.line).placeRebuilt b).startRebuild id u member
      | none =>
        let d2 := d1.damage c id lost 0
        if r.protect = .none || !others.isEmpty then d2 else d2.startRebuild id u member

/-- Regions that hold a device frame, with unit and member: the member placed there at first, or rebuilt there (R274). -/
def Dev.holders (d : Dev) (s frame : Nat) : List (Nat × Nat × Nat) :=
  (d.mem.regions.map fun e =>
    let home := match e.2.shareIx s frame with
      | some ix => let h := e.2.heldAt s ix; if e.2.isMoved h.1 h.2 then [] else [(e.1, h.1, h.2)]
      | none => []
    home ++ ((e.2.moved.filter fun x => x.stack = s && x.frame = frame).map fun x => (e.1, x.unit, x.member))).flatten

/-- A rebuild whose new frame is lost takes another, or leaves its frame exposed (R274, R276). -/
def Dev.retarget (d : Dev) (b : Rebuild) : Dev :=
  match NMap.get? d.mem.regions b.region with
  | none => d
  | some r =>
    match d.spareStack (r.otherStacks b.frame b.member) with
    | some s =>
      { d with mem := { d.mem with stk := vupdN d.mem.stk s (fun k => { k with spare := k.spare - 1 }),
                                   rebuild := updIf (fun x => x = b) (fun x => { x with dest := s, destFrame := d.mem.spareFrame s, line := 0 }) d.mem.rebuild } }
    | none =>
      let left := d.mem.rebuild.filter fun x => x != b
      let more := left.any fun x => x.region = b.region
      { d with mem := { d.mem with rebuild := left,
                                   regions := NMap.put d.mem.regions b.region { r with prot := if r.prot = .rebuilding && !more then .exposed else r.prot } } }

/-- A stack with one more retired frame; a frame that no region held leaves the pool. -/
def Stack.retireOne (k : Stack) (pool : Bool) : Stack :=
  { k with retired := k.retired + 1, state := if k.state = .up then .partialUp else k.state, used := if pool then k.used + 1 else k.used }

/-- Retires one frame (R272): counted, logged, kept in the SPI NOR list, its content lost or rebuilt; a pool frame there is gone. -/
def Dev.retireFrame (d : Dev) (c : Clock) (s frame : Nat) : Dev :=
  if d.mem.retired.contains (s, frame) then d
  else
    let hs := d.holders s frame
    let dests := d.mem.rebuild.filter fun b => b.dest = s && b.destFrame = frame
    let d1 := { d with mem := { d.mem with retired := d.mem.retired ++ [(s, frame)],
                                           stk := vupdN d.mem.stk s (fun k => k.retireOne (hs.isEmpty && decide (frame < Config.stackFrames))),
                                           pool := d.mem.pool.filter fun f => f.no != s * Config.allFrames + frame } }
    let d2 := (d1.count 61 s 1).logErr c 1 2 s 1 frame Config.noParcel 1 0
    let d3 := hs.foldl (fun x h => x.loseMember c h.1 h.2.1 h.2.2) d2
    dests.foldl (fun x b => x.retarget b) d3

/-- Frames with a line in a bank of a stack (R262). -/
def framesOfBank (bank : Nat) : List Nat := ((List.range (Config.allFrames / 8)).map fun i => 8 * i + bank % 16 / 2)

/-- Copies of a leaf whose lists lost their blocks are FAILED (R277, R391). -/
def Dev.failCopy (d : Dev) (c : Clock) (parcel : Nat) : Dev :=
  match d.leaf parcel with
  | none => d
  | some l => if l.loc = .failed then d else (d.updLeaf parcel fun l => { l with loc := .failed }).logErr c 2 0 0 2 0 parcel 1 0

/-- A frame of the region has no copy left on the stacks of its mask: lost, or rebuilt elsewhere (R277). -/
def Region.homeGone (r : Region) : Bool :=
  let away := fun (u m : Nat) => r.bad.contains (u, m) || r.isMoved u m
  (r.bad.map (·.1)).any fun u => r.members.all fun m => away u m

/-- Versions of a list that the copy holds. -/
def LList.versions (x : LList) : List Version := x.cur :: (x.old.toList ++ x.next.toList)

/-- Regions of a list's blocks in DRAM: side-list blocks, and main-list blocks where the list is not TIER_FLASH (R65). -/
def LList.blockRegions (x : LList) (parcel list : Nat) : List Nat :=
  (x.versions.map fun v =>
    (if x.plan.tier = .flash then [] else v.main.map fun b => blockRegion parcel list v.no false b.seq) ++ v.side.map fun b => blockRegion parcel list v.no true b.seq).flatten

/-- Some of the regions given have a frame that their home stacks lost. -/
def Dev.anyGone (d : Dev) (ids : List Nat) : Bool := d.mem.regions.any fun e => e.2.homeGone && ids.contains e.1

/-- A list can no longer be scanned from its home die: a block lost both its copies there, or its only one (R277). -/
def Dev.listLost (d : Dev) (parcel list : Nat) (x : LList) : Bool := d.anyGone (x.blockRegions parcel list)

/-- A copy holds a list that cannot be scanned, or lost a die's tombstone set (R157, R277). -/
def Dev.copyLost (d : Dev) (l : Leaf) : Bool :=
  (l.lists.zipIdx.any fun e => d.listLost l.parcel e.2 e.1) || d.anyGone ((List.range 10).map (tombRegion l.parcel))

def Dev.failLostCopies (d : Dev) (c : Clock) : Dev := (d.leaves.filter fun l => d.copyLost l).foldl (fun x l => x.failCopy c l.parcel) d

/-- A monument's move has its source or its destination on a stack (R196). -/
def Monument.moveOn (m : Monument) (s : Nat) : Bool :=
  match m.move with
  | some v => v.dest.val = s || (match m.copies[v.copy]? with | some k => k.stack.val = s | none => true)
  | none => false

/-- Monument copies of a failed stack leave selection at once; copy 0 stays on the list, out of selection, until the next station (R277). The row's own place follows its store, which may be rebuilt (R274). -/
def Monument.dropStack (m : Monument) (s : Nat) : Monument :=
  let goes := fun (i : Nat) (k : MonCopy) => k.stack.val = s && i != 0 && !k.home
  let before := fun (n : Nat) => ((m.copies.zipIdx.take n).filter fun e => goes e.2 e.1).length
  { m with copies := (m.copies.zipIdx.filter fun e => !(goes e.2 e.1)).map fun e => if e.1.stack.val = s && !e.1.home then { e.1 with use := .gone } else e.1,
           move := if m.moveOn s then none else m.move.map fun (v : MonMove) => { v with copy := v.copy - before v.copy } }

/-- A line's entry in the result area: its address, or index-list position and line (R254). -/
def NbLine.entry (l : NbLine) (rows : Bool) : Nat := if rows then l.row * 65536 + l.line else 64 * l.line

/-- Untouched lines of a stack end in N_POISON (R277, R254). -/
def NbJob.dropStack (j : NbJob) (s : Nat) : NbJob :=
  { j with poison := j.poison ++ ((j.todo.filter fun (l : NbLine) => l.stack = s).map fun (l : NbLine) => l.entry j.op.rows),
           todo := j.todo.filter fun (l : NbLine) => l.stack != s }

/-- A stack fails (R273): every frame counts as retired; unit tasks on it end with their lines in N_POISON (R277). -/
def Dev.failStack (d : Dev) (c : Clock) (s : Nat) : Dev :=
  match d.mem.stk.toList[s]? with
  | none => d
  | some k =>
    if k.state = .failed then d
    else
      let d1 := { d with mem := { d.mem with stk := vupdN d.mem.stk s fun (k : Stack) => { k with state := .failed, retired := Config.allFrames },
                                             pool := d.mem.pool.filter fun f => f.no / Config.allFrames != s } }
      let d2 := d1.logErr c 1 2 s 3 0 Config.noParcel 1 0
      let regs := sortBy (fun (a b : Nat × Region) => decide (a.2.cls < b.2.cls) || (a.2.cls = b.2.cls && decide (a.2.base ≤ b.2.base))) d.mem.regions
      let moved := (regs.map fun e => (e.2.moved.filter fun x => x.stack = s).map fun x => (e.1, x.unit, x.member)).flatten
      let lost := regs.map fun e =>
        (List.range (natSum ((e.2.place.filter fun x => x.1 = s).map (·.2.2)))).map fun ix => (e.1, e.2.heldAt s ix)
      let d2a : Dev := (d.mem.rebuild.filter fun b => b.dest = s).foldl (fun (x : Dev) b => x.retarget b) d2
      let d2b : Dev := (lost.flatten.filter fun h => match NMap.get? d.mem.regions h.1 with | some r => !(r.isMoved h.2.1 h.2.2) | none => false).foldl (fun x h => x.loseMember c h.1 h.2.1 h.2.2) d2a
      let d3 : Dev := moved.foldl (fun x h => x.loseMember c h.1 h.2.1 h.2.2) d2b
      let moves := (d3.chain.monuments.filter fun m => m.moveOn s).filterMap (·.move)
      let d4 := { d3 with chain := { d3.chain with monuments := d3.chain.monuments.map fun (m : Monument) => m.dropStack s } }
      let d5 : Dev := moves.foldl (fun x v => (x.endCmd c v.ref stDeadline 0 0 []).count 37 0 1) d4
      let d6 := { d5 with nb := { d5.nb with queues := vupdN d5.nb.queues s fun _ => [], held := vupdN d5.nb.held s fun _ => [],
                                             jobs := d5.nb.jobs.map (fun (j : NbJob) => j.dropStack s) } }
      d6.failLostCopies c

/-- More than one eighth of the frames retired fails the stack (R273). -/
def Dev.checkStack (d : Dev) (c : Clock) (s : Nat) : Dev :=
  match d.mem.stk.toList[s]? with
  | none => d
  | some k => if k.serving && k.retired > Config.allFrames / 8 then d.failStack c s else d

def dayNs : Nat := 86400000000000

/-- An uncorrectable error in a frame: the second within 24 h retires it (R272). -/
def Dev.frameError (d : Dev) (c : Clock) (s frame : Nat) : Dev :=
  let near := d.mem.errs.any fun e => e.1 = s && e.2.1 = frame && c.now < e.2.2 + dayNs
  let d1 := { d with mem := { d.mem with errs := (s, frame, c.now) :: (d.mem.errs.filter fun e => c.now < e.2.2 + dayNs) } }
  let d2 := d1.count 59 s 1
  if near then ((d2.retireFrame c s frame).checkStack c s).failLostCopies c else d2

/-- A bank, channel or DRAM die is reported failed: the frames under it are retired (R272). -/
def Dev.bankFails (d : Dev) (c : Clock) (s bank : Nat) : Dev :=
  (((framesOfBank bank).foldl (fun (x : Dev) f => x.retireFrame c s f) d).checkStack c s).failLostCopies c

/-! ### A read that meets an uncorrectable line (R267, R271) -/

/-- Reads outstanding on a stack: DRAM reads of the chain engine and reads of pool frames there (R176, R267). -/
def Dev.readsOn (d : Dev) (s : Nat) : Nat :=
  (d.chain.reads.filter fun x => match x.src with | .dram t => t = s | .pool ns => ns.any fun n => n / Config.allFrames = s | _ => false).length

/-- The member that serves a read of a data frame: under MIRROR the copy that is not lost, or the one whose stack has fewer reads outstanding, a tie to the lower stack (R267). -/
def Dev.readMember (d : Dev) (r : Region) (frame : Nat) : Nat :=
  let u := r.unitOf frame
  match r.protect with
  | .mirror =>
    let a := (r.memberPlace u 0).1
    let b := (r.memberPlace u 1).1
    if r.bad.contains (u, 0) then 1
    else if r.bad.contains (u, 1) then 0
    else if d.readsOn a < d.readsOn b || (d.readsOn a = d.readsOn b && a < b) then 0 else 1
  | _ => r.memberOf frame

/-- Stack and frame that serve a read of byte offset a of a region. -/
def Dev.readPlace (d : Dev) (id a : Nat) : Nat × Nat :=
  match NMap.get? d.mem.regions id with
  | none => (0, 0)
  | some r => r.memberPlace (r.unitOf (a / 4096)) (d.readMember r (a / 4096))

/-- Redundancy can serve line k of a data frame when one member's line is bad: the other copy, or all the other members of the stripe, are in place and clean there (R271). -/
def Dev.redundant (d : Dev) (id : Nat) (r : Region) (frame k member : Nat) : Bool :=
  let u := r.unitOf frame
  let inPlace := (r.members.filter fun m => m != member).all fun m => !(r.bad.contains (u, m))
  let poison := d.poisonOf id
  match r.protect with
  | .none => false
  | .mirror => inPlace && !(poison.contains (64 * frame + k))
  | .parity => inPlace && (List.range 4).all fun t => !(poison.contains (64 * (4 * u + t) + k))

/-- A read of byte offset a in region id meets an uncorrectable line: whether it is served clean, and the device after counts, retirement and what becomes of the line. Redundancy serves it and writes it back; without redundancy it stays poisoned until it is written whole (R271, R272). -/
def Dev.lineError (d : Dev) (c : Clock) (id a : Nat) : Bool × Dev :=
  match NMap.get? d.mem.regions id with
  | none => (false, d)
  | some r =>
    let i := a / 4096
    let member := d.readMember r i
    let p := r.memberPlace (r.unitOf i) member
    let ok := d.redundant id r i (a % 4096 / 64) member
    let d1 := d.frameError c p.1 p.2
    if ok then (true, d1.count 60 p.1 1) else (false, (d1.count 63 0 (boolNat !((d.poisonOf id).contains (a / 64)))).poisonLines id [a / 64])

/-- The scrub meets an uncorrectable line of a frame: what the frame holds goes the way of R271, and the frame that of R272 (R270). -/
def Dev.scrubBad (d : Dev) (c : Clock) (s frame k : Nat) : Dev :=
  let meet := fun (x : Dev) (h : Nat × Nat × Nat) =>
    match NMap.get? x.mem.regions h.1 with
    | none => x
    | some r =>
      let data : Option Nat := match r.protect with
        | .parity => ((List.range 4).find? fun t => r.dataMember h.2.1 t = h.2.2).map fun t => 4 * h.2.1 + t
        | _ => some h.2.1
      match data with
      | none => x.count 60 s 1
      | some f =>
        if x.redundant h.1 r f k h.2.2 then x.count 60 s 1
        else (x.count 63 0 (boolNat !((x.poisonOf h.1).contains (64 * f + k)))).poisonLines h.1 [64 * f + k]
  ((d.holders s frame).foldl meet d).frameError c s frame

/-- One line as the scrub finds it: a corrected one is written back (R270). -/
def Dev.scrubLine (c : Clock) (s : Nat) (d : Dev) (l : Nat × LineErr) : Dev :=
  match l.2 with
  | .clean => d
  | .corrected => d.count 58 s 1
  | .uncorrectable => d.scrubBad c s (l.1 / 64) (l.1 % 64)

/-- Device address order of a region's rebuilds (R276). -/
def Dev.regionAddr (d : Dev) (id : Nat) : Nat := ((NMap.get? d.mem.regions id).map Region.base).getD 0

/-- The rebuild that goes next: by class, then lower region address, then lower frame (R276). -/
def Dev.nextRebuild (d : Dev) : Option Rebuild :=
  leastBy (fun (a b : Rebuild) => a.cls < b.cls || (a.cls = b.cls && (d.regionAddr a.region < d.regionAddr b.region ||
    (d.regionAddr a.region = d.regionAddr b.region && (a.region < b.region || (a.region = b.region && a.frame ≤ b.frame)))))) d.mem.rebuild

/-- Protection state once no rebuild of the region is left (R273). -/
def Region.settle (r : Region) (more : Bool) : Region :=
  if r.prot = .rebuilding && !more then { r with prot := if r.bad.isEmpty then .protectedSt else .exposed } else r

/-- The line of the data frame that a rebuilt member holds reads as poison from now on. -/
def Dev.loseLine (d : Dev) (c : Clock) (b : Rebuild) (r : Region) : Dev :=
  let frames := match r.protect with
    | .parity => ((List.range 4).filter fun t => r.dataMember b.frame t = b.member).map fun t => 4 * b.frame + t
    | _ => [b.frame]
  let lines := frames.map fun f => 64 * f + b.line
  let more := frames.filter fun f => !(r.lost.contains f)
  if frames.isEmpty then d
  else
    (((d.count 63 0 1).putRegion b.region { r with prot := .damaged, lost := r.lost ++ more }).poisonLines b.region lines).logErr c 2 2 0 60 r.base
      (regionParcel b.region) (r.lost ++ more).length 0

/-- One line of a rebuild, under its line lock (R275); no rebuild starts on a held stack (R463). A line whose other members cannot give it is lost (R273). -/
def rebuildLine (ok : Bool) (c : Clock) (d : Dev) : Dev :=
  match d.nextRebuild with
  | none => d
  | some b =>
    if d.heldBit 1 b.dest && b.line = 0 then d
    else
      match NMap.get? d.mem.regions b.region with
      | none => { d with mem := { d.mem with rebuild := d.mem.rebuild.filter fun x => x != b } }
      | some r =>
        let d1 := if ok then d.count 62 0 64 else d.loseLine c b r
        if b.line + 1 < 64 then
          { d1 with mem := { d1.mem with rebuild := updIf (fun x => x = b) (fun x => { x with line := x.line + 1 }) d1.mem.rebuild } }
        else
          let d2 := d1.placeRebuilt b
          let more := d2.mem.rebuild.any fun x => x.region = b.region
          { d2 with mem := { d2.mem with regions := NMap.upd d2.mem.regions b.region fun r => r.settle more } }

def execRebuildLine (t : Nat) (ok : Bool) (s : State) : Host.Outcome State Fault Refusal :=
  happens (.rebuildLine t ok) t (·.onDev (rebuildLine ok)) s

/-! ### The pool (R280 to R283) -/

def Dev.poolHas (d : Dev) (key page : Nat) : Bool := d.mem.pool.any fun f => f.key = key && f.page = page && !f.busy && !f.spill

/-- An access to a pool frame records its time in whole microseconds (R281). -/
def Dev.touchPool (d : Dev) (c : Clock) (key page : Nat) : Dev :=
  { d with mem := { d.mem with pool := updIf (fun f => f.key = key && f.page = page && !f.spill) (fun f => { f with last := c.now / 1000 }) d.mem.pool } }

/-- The frame that would be evicted: one that is not pinned, oldest access, lower number (R281). -/
def Dev.victim (d : Dev) : Option PoolFrame :=
  leastBy (fun (a b : PoolFrame) => a.last < b.last || (a.last = b.last && a.no ≤ b.no)) (d.mem.pool.filter fun f => !(d.isPinned f))

/-- Lowest device frame in the pool that holds nothing, if any is free: frames are numbered stack by stack. -/
def Dev.freeFrame (d : Dev) : Option Nat :=
  if d.mem.pool.length ≥ d.poolFrames then none
  else
    (List.range 20).findSome? fun s =>
      match d.mem.stk.toList[s]? with
      | none => none
      | some k =>
        if !k.serving then none
        else
          let here := ((d.mem.pool.filter fun f => f.no / Config.allFrames = s).map fun f => (f.no % Config.allFrames, 1))
          match freeTake (sortBy (fun a b => a.1 ≤ b.1) (d.mem.occupied s ++ here)) 0 1 with
          | x :: _ => if x.1 < Config.stackFrames then some (s * Config.allFrames + x.1) else none
          | [] => none

/-- Takes a pool frame: a free one, or the victim's; none when no frame can be had (R281). -/
def Dev.takeFrame (d : Dev) (f : PoolFrame) : Option Dev :=
  let put := fun (x : Dev) (no : Nat) => { x with mem := { x.mem with pool := x.mem.pool ++ [{ f with no := no }] } }
  match d.freeFrame with
  | some no => some (put d no)
  | none =>
    match d.victim with
    | none => none
    | some v => some ((put { d with mem := { d.mem with pool := d.mem.pool.filter fun f => f.no != v.no } } v.no).count 66 0 1)

/-- First page of the 16-frame run of a page (R282). -/
def runOf (page : Nat) : Nat := page / 16 * 16

/-- The unit of a page has been written to flash. -/
def Dev.onFlash (d : Dev) (key page : Nat) : Bool :=
  match d.flash.unitAt key (page / 4) with
  | some u => (NMap.get? (vgetD d.flash.chans u.1 FChan.reset).map u.2).isSome
  | none => false

def Dev.inPool (d : Dev) (key page : Nat) : Bool := d.mem.pool.any fun f => f.key = key && f.page = page && !f.spill

/-- A frame for a page: busy while its page is fetched; a page that flash does not hold yet has nothing to fetch. -/
def Dev.pageFrame (d : Dev) (c : Clock) (key page tenant : Nat) (writing : Bool) : PoolFrame :=
  let wait := d.onFlash key page
  ⟨0, key, page, c.now / 1000, writing && !wait, wait, writing && wait, false, tenant⟩

/-- Pages of a run that a fill of a TIER_CACHE store brings beside the page requested (R282). -/
def Dev.restOfRun (d : Dev) (t : Tier) (key page : Nat) : List Nat :=
  if t = .cache then ((List.range 16).map (· + runOf page)).filter fun p => p != page && !(d.inPool key p) && d.onFlash key p else []

/-- The page must come from a channel that takes no new work (R463). -/
def Dev.pageHeld (d : Dev) (key page : Nat) : Bool := d.onFlash key page && (match d.flash.unitAt key (page / 4) with | some u => d.chanHeld u.1 | none => false)

/-- A request for a page waits, once. -/
def Dev.waitPage (d : Dev) (w : PoolWait) : Dev := if d.mem.waiting.contains w then d else { d with mem := { d.mem with waiting := d.mem.waiting ++ [w] } }

/-- Takes a frame for a page and starts its fill; without a frame, or from a held channel, the request waits (R281, R282, R463). -/
def Dev.fillPage (d : Dev) (c : Clock) (w : PoolWait) : Dev :=
  if d.inPool w.key w.page then
    { d with mem := { d.mem with pool := updIf (fun f => f.key = w.key && f.page = w.page && !f.spill) (fun f => { f with writing := f.writing || (w.writing && f.busy), dirty := f.dirty || (w.writing && !f.busy) }) d.mem.pool } }
  else if d.pageHeld w.key w.page then d.waitPage w
  else
    match d.takeFrame (d.pageFrame c w.key w.page w.tenant w.writing) with
    | none => d.waitPage w
    | some d1 =>
      let got := (d1.restOfRun w.tier w.key w.page).foldl (fun (acc : Dev × List Nat) p =>
        match acc.1.takeFrame (acc.1.pageFrame c w.key p w.tenant false) with
        | some y => (y, acc.2 ++ [p])
        | none => acc) (d1, if d.onFlash w.key w.page then [w.page] else [])
      let d2 : Dev := ((got.2.map (· / 4)).dedup).foldl (fun (x : Dev) u => x.readUnit w.key u (if w.tier = .cache then 2 else 0) 0) got.1
      ({ d2 with mem := { d2.mem with fills := d2.mem.fills ++ got.2.map (fun p => (w.key, p)), waiting := d2.mem.waiting.filter fun x => x != w } }).countTenant 0 w.tenant got.2.length

/-- Starts or joins the fill of a page (R282); the access is a miss (R287). -/
def Dev.startFill (d : Dev) (c : Clock) (t : Tier) (key page tenant : Nat) : Dev := (d.fillPage c ⟨t, key, page, tenant, false⟩).count 65 0 1

/-- An access to a page of a store on flash: served from the pool, or a fill is started or joined (R278, R281, R282, R287). -/
def Dev.poolAccess (d : Dev) (c : Clock) (t : Tier) (key page tenant : Nat) : Dev :=
  if d.poolHas key page then (d.touchPool c key page).count 64 0 1 else d.startFill c t key page tenant

/-- Requests that waited try again when frames may have come free (R281). -/
def Dev.retryPool (d : Dev) (c : Clock) : Dev :=
  d.mem.waiting.foldl (fun (x : Dev) w => x.fillPage c w) { d with mem := { d.mem with waiting := [] } }

/-- A requested page arrives: its frame can be read and evicted again; a write that waited for it makes it dirty (R281 to R283). -/
def Dev.fillDone (d : Dev) (c : Clock) (key page : Nat) : Dev :=
  ({ d with mem := { d.mem with fills := d.mem.fills.filter fun x => x != (key, page),
                                pool := updIf (fun f => f.key = key && f.page = page && !f.spill)
                                  (fun f => { f with busy := false, dirty := f.dirty || f.writing, writing := false, last := c.now / 1000 }) d.mem.pool } }).retryPool c

/-- Spill frames for a search (R127, R280): all of them, or none while they cannot be had. -/
def Dev.takeSpill (d : Dev) (c : Clock) : Nat → Option (Dev × List Nat)
  | 0 => some (d, [])
  | n + 1 =>
    match d.takeFrame ⟨0, 0, 0, c.now / 1000, false, false, false, true, 0⟩ with
    | none => none
    | some d1 => (d1.takeSpill c n).map fun r => (r.1, (d1.mem.pool.getLast?.map (·.no)).toList ++ r.2)

end Sys2Proof.Machine
end

