-- ==== Sys2Proof/Machine/HostMem.lean ====
section
/-! DEFINITION. Partitions, commons ranges, leases, revocation and CXL.mem requests (R288 to R315), host links and the CXL mailbox (R409, R410). -/

namespace Sys2Proof

/-- Requests that return data, and requests that bring some (R289). -/
def MemOp.isRead (o : MemOp) : Bool := o = .memRd || o = .memRdData
def MemOp.isWrite (o : MemOp) : Bool := o = .memWr || o = .memWrPtl

end Sys2Proof

namespace Sys2Proof.Machine

def PartCfg.frames (x : PartCfg) : Nat := x.gib * 262144

/-! ### mem.partition_set PARTITION (R291) -/

def Cmd.partCfg (cmd : Cmd) : PartCfg :=
  ⟨cmd.f 0x4C 4, (protectOf (cmd.f 0x42 1)).getD .none, BitVec.ofNat 20 (cmd.f 0x48 4)⟩

def partitionBad (_ : Clock) (_ : Dev) (cmd : Cmd) : Bool :=
  cmd.f 0x40 1 > 2 || cmd.f 0x41 1 > 3 || cmd.f 0x4C 4 > 512 ||
    (match protectOf (cmd.f 0x42 1) with | none => true | some p => cmd.f 0x4C 4 != 0 && !(maskOk p (cmd.f 0x48 4)))

def Dev.dropPending (d : Dev) (p : Port) : Dev := (d.free (pendRegion p)).updPort p fun h => { h with pend := none }

/-- New settings reserve their frames and wait for the target port's next link-up; settings equal to those in use withdraw pending ones. -/
def partitionRun (c : Clock) (d : Dev) (cmd : Cmd) : Dev :=
  if h : cmd.f 0x41 1 < 4 then
    let p : Port := ⟨cmd.f 0x41 1, h⟩
    let want := cmd.partCfg
    if want = (d.port p).part then (d.dropPending p).endCmd c cmd.ref stOk 0 0 []
    else
      let d1 := d.free (pendRegion p)
      if want.gib != 0 && !(d1.canAlloc want.protect want.mask want.frames) then d.refuse cmd.ref stBusy
      else
        let d2 := if want.gib = 0 then d1 else d1.alloc (pendRegion p) want.protect want.mask want.frames .pin 5
        (d2.updPort p fun h => { h with pend := some want }).endCmd c cmd.ref stOk 0 0 []
  else d

/-- OPERATION 0x0; an operation that no row names is refused here. -/
def partitionRow (cmd : Cmd) : Bool := cmd.f 0x40 1 = 0 || cmd.f 0x40 1 > 2

def partition (k : Take) : Clock → Dev → Dev := runSlot 0x0800 partitionRow partitionBad noAreas partitionRun k

def execPartition (k : Take) (s : State) : Host.Outcome State Fault Refusal :=
  happens (.partition k) k.t (·.onDev (partition k)) s

/-! ### Link up (R291, R312) -/

/-- Pending settings take the old partition's place: its frames go, the new one is zero-filled and has no fence; fences on commons windows stay (R312). -/
def Dev.applyPending (d : Dev) (p : Port) : Dev :=
  match (d.port p).pend with
  | none => d
  | some x =>
    let d1 := d.free (partRegion p)
    let regs := match NMap.get? d1.mem.regions (pendRegion p) with
      | none => d1.mem.regions
      | some r => NMap.put (NMap.del d1.mem.regions (pendRegion p)) (partRegion p) r
    ({ d1 with mem := { d1.mem with regions := regs } }).updPort p fun h =>
      { h with part := x, pend := none, mem := [], poison := [], fences := h.fences.filter fun f => Config.dpaCommons ≤ f.dpa }

def Dev.linkUp (d : Dev) (p : Port) : Dev := (d.applyPending p).updPort p fun h => { h with linkUp := true }

/-- A host link comes up: in service or, on port 0, in backsight mode (R491); not while the port's reference is lost (R520) or in PS3. -/
def hostLinkUp (p : Port) (_ : Clock) (d : Dev) : Dev :=
  let ok := (d.service || (d.start.phase = .backsight && p.val = 0)) && !(d.brd.lost.contains (.hp p) && d.start.clkMode != 2) && !(d.port p).off
  if ok && !(d.port p).linkUp && !(d.tst.loopHolds 0 p.val) then d.linkUp p else d

def execHostLinkUp (t : Nat) (p : Port) (s : State) : Host.Outcome State Fault Refusal :=
  happens (.hostLinkUp t p) t (·.onDev (hostLinkUp p)) s

/-! ### Commons slots (R297 to R300) -/

def Dev.com? (d : Dev) (c : Nat) : Option ComState := NMap.get? d.com.slots c

def Dev.updCom (d : Dev) (c : Nat) (f : ComState → ComState) : Dev := { d with com := { d.com with slots := NMap.upd d.com.slots c f } }

def comBase (c : Nat) : Nat := Config.dpaCommons + c * Config.comWindow

/-- Header line of a slot (R298). -/
def ComState.header (x : ComState) : List Byte :=
  padTo 64 (leBytes 8 x.version ++ leBytes 1 (boolNat x.curB) ++ leBytes 1 (match x.leasePort with | none => 0xFF | some p => p.val) ++ [0, 0] ++
    leBytes 4 (x.len / 1048576) ++ leBytes 8 x.leaseGen ++ leBytes 8 x.epochA ++ leBytes 8 x.epochB ++ leBytes 8 x.flipNs ++ leBytes 8 x.leaseEnd)

def commonsCreateBad (_ : Clock) (d : Dev) (cmd : Cmd) : Bool :=
  let lease := cmd.f 0x50 8
  cmd.f 0x41 1 > 63 || (d.com? (cmd.f 0x41 1)).isSome || !(inRange (cmd.f 0x4C 4) 2 1024) || cmd.f 0x4C 4 % 2 != 0 || cmd.f 0x43 1 > 15 ||
    cmd.f 0x44 1 > 15 || (BitVec.ofNat 8 (cmd.f 0x44 1) &&& ~~~(BitVec.ofNat 8 (cmd.f 0x43 1)) != 0) ||
    !(lease = 0 || inRange lease 1000000 60000000000) ||
    (match protectOf (cmd.f 0x42 1) with | none => true | some p => !(maskOk p (cmd.f 0x48 4)))

/-- Two zeroed buffers, version 0 published in A, B the draft (R297). -/
def commonsCreateRun (c : Clock) (d : Dev) (cmd : Cmd) : Dev :=
  let x := cmd.partCfg
  let slot := cmd.f 0x41 1
  let len := cmd.f 0x4C 4 * 1048576
  let n := framesOf len
  if !(d.canAlloc x.protect x.mask (2 * n)) then d.refuse cmd.ref stBusy
  else
    let st : ComState :=
      { len := len, readMask := BitVec.ofNat 4 (cmd.f 0x43 1), writeMask := BitVec.ofNat 4 (cmd.f 0x44 1), protect := x.protect, mask := x.mask,
        leaseNs := cmd.f 0x50 8, version := 0, curB := false, leasePort := none, leaseGen := 0, epochA := 0, epochB := 0, flipNs := 0,
        leaseEnd := 0, memA := [], memB := [], poisonA := [], poisonB := [], refill := none, done := [] }
    let d1 := (d.alloc (comRegion slot false) x.protect x.mask n .pin 5).alloc (comRegion slot true) x.protect x.mask n .pin 5
    ({ d1 with com := { d1.com with slots := NMap.put d1.com.slots slot st } }).endCmd c cmd.ref stOk 0 0 []

def commonsCreateRow (cmd : Cmd) : Bool := cmd.f 0x40 1 = 1

def commonsCreate (k : Take) : Clock → Dev → Dev := runSlot 0x0800 commonsCreateRow commonsCreateBad noAreas commonsCreateRun k

def execCommonsCreate (k : Take) (s : State) : Host.Outcome State Fault Refusal :=
  happens (.commonsCreate k) k.t (·.onDev (commonsCreate k)) s

/-- Offset in the slot window of the first line of a buffer, in lines. -/
def bufLine (b : Bool) : Nat := (if b then Config.bufB else Config.bufA) / 64

/-- The draft is the buffer that is not published. -/
def ComState.draftB (x : ComState) : Bool := !x.curB

/-- A slot line lies in the draft buffer. -/
def ComState.inDraft (x : ComState) (line : Nat) : Bool := bufLine x.draftB ≤ line && line < bufLine x.draftB + x.len / 64

def ComState.buf (x : ComState) (b : Bool) : Mem := if b then x.memB else x.memA
def ComState.bad (x : ComState) (b : Bool) : List Nat := if b then x.poisonB else x.poisonA

def ComState.setBuf (x : ComState) (b : Bool) (m : Mem) (p : List Nat) : ComState :=
  if b then { x with memB := m, poisonB := p } else { x with memA := m, poisonA := p }

/-- Writes a whole line of a buffer, which clears its poison (R271). -/
def ComState.writeLine (x : ComState) (b : Bool) (i : Nat) (bs : List Byte) : ComState :=
  x.setBuf b (Mem.wrs (x.buf b) (64 * i) bs) ((x.bad b).filter fun l => l != i)

/-- Line i of the draft takes the published line, poison included (R305). -/
def ComState.copyLine (x : ComState) (i : Nat) : ComState :=
  let src := Mem.rds (x.buf x.curB) (64 * i) 64
  let x1 := x.writeLine x.draftB i src
  if (x.bad x.curB).contains i then x1.setBuf x.draftB (x1.buf x.draftB) (i :: x1.bad x.draftB) else x1

/-- A line the running refill has still to copy. -/
def ComState.toRefill (x : ComState) (i : Nat) : Bool :=
  match x.refill with
  | none => false
  | some n => n ≤ i && !(x.done.contains i)

/-- A holder's access to a line not yet refilled copies it first (R305). -/
def ComState.touch (x : ComState) (i : Nat) : ComState := if x.toRefill i then { x.copyLine i with done := i :: x.done } else x

/-- Write-back data that answers a snoop is applied to the draft (R302, R304). -/
def ComState.writeBack (x : ComState) (line : Nat) (bs : List Byte) : ComState :=
  if x.inDraft line then (x.touch (line - bufLine x.draftB)).writeLine x.draftB (line - bufLine x.draftB) bs else x

/-- Lines of a slot that a port holds. -/
def Dev.heldLines (d : Dev) (slot : Nat) (p : Port) : List ComLine := d.com.held.filter fun l => l.slot = slot && l.port = p

/-- Snoops lines: they leave the record; the owned ones are awaited as (port, line) (R300, R302). -/
def Dev.snoop (d : Dev) (ls : List ComLine) : List (Port × Nat) × Dev :=
  let await := ls.filterMap fun (l : ComLine) => if l.own then some (l.port, l.line) else none
  (await, ({ d with com := { d.com with held := d.com.held.filter fun l => !(ls.contains l) } }).count 76 0 ls.length)

/-- Lines of a slot whose write-backs are awaited, as (port, line). -/
def Dev.awaited (d : Dev) (slot : Nat) (f : Port → Nat → Bool) : List (Port × Nat) :=
  ((((d.com.waits.filter fun w => w.slot = slot).map (·.lines)).flatten).filter fun x => f x.1 x.2).dedup

/-- Snoops the lines of a slot that ports hold. The write-backs awaited are those of earlier snoops too (R302, R304, R310). -/
def Dev.recall (d : Dev) (slot : Nat) (f : Port → Nat → Bool) : List (Port × Nat) × Dev :=
  let r := d.snoop (d.com.held.filter fun l => l.slot = slot && f l.port l.line)
  ((d.awaited slot f ++ r.1).dedup, r.2)

/-- A slot's lease is ending: its generation is retired (R302). -/
def ComWhy.ends (w : ComWhy) : Bool := match w with | .leaseEnd => true | .acquire _ _ _ => true | .release _ => true | .drop _ _ => true | _ => false

def Dev.leaseEnding (d : Dev) (slot : Nat) : Bool := d.com.waits.any fun w => w.slot = slot && w.why.ends

/-- A slot that waits for snoop answers of an operation on its lease (R304). -/
def Dev.comBusy (d : Dev) (slot : Nat) : Bool :=
  d.com.waits.any fun w => w.slot = slot && (w.why.ends || (match w.why with | .publish _ _ => true | _ => false))

def zeroLine : List Byte := List.replicate 64 0

/-- A request enters the port's queue (R295). -/
def Dev.enterQueue (d : Dev) (p : Port) : Dev := d.updPort p fun h => { h with queue := h.queue + 1 }

/-- Answers a request, which leaves the queue: data and poison mark of a read, and DevLoad as it is now (R296, log 24). -/
def Dev.respond (d : Dev) (p : Port) (op : MemOp) (poison : Bool) (bs : List Byte) : Dev :=
  let d1 := if op.isRead && poison then d.count 75 p.val 1 else d
  let sh := d1.shaper (3 + p.val)
  d1.updPort p fun h =>
    { h with queue := h.queue - 1, devload := devLoad (h.queue - 1) (sh.greenPasses 64) (sh.peakPasses 64), memResp := if op.isRead then some (poison, bs) else none }

/-- R290: a read returns poisoned zeros, a write is dropped; counted and logged. -/
def Dev.unmapped (d : Dev) (c : Clock) (p : Port) (op : MemOp) (dpa : Nat) : Dev :=
  ((d.count 72 p.val 1).logEvent c p 1 p.val 1 dpa 0 (if Config.dpaCommons ≤ dpa && dpa < Config.dpaCommonsEnd then (dpa - Config.dpaCommons) / Config.comWindow else 0xFFFF)).respond p op true zeroLine

/-- Lines that the record of R300 follows. -/
def comLines (ls : List ComLine) : Nat := ((ls.map fun l => (l.slot, l.line)).dedup).length

/-- Makes room in the record: every copy of the line whose grant is oldest is back-invalidated (R300). -/
def Dev.evictLine (d : Dev) : Dev :=
  match d.com.held.head? with
  | none => d
  | some o =>
    let q := d.snoop (d.com.held.filter fun l => l.slot = o.slot && l.line = o.line)
    let x := q.2.count 80 0 1
    if q.1.isEmpty then x else { x with com := { x.com with waits := x.com.waits ++ [⟨o.slot, q.1, .evict⟩] } }

/-- Back-invalidates the copies of a line that ports but p hold (R299). -/
def Dev.snoopOthers (d : Dev) (slot line : Nat) (p : Option Port) : Dev := (d.snoop (d.com.held.filter fun l => l.slot = slot && l.line = line && some l.port != p)).2

/-- Grants a commons line (R299, R300): an owner's grant takes the line from the others; a full record gives up its oldest line. -/
def Dev.grantLine (d : Dev) (slot line : Nat) (p : Port) (own : Bool) : Dev :=
  let d0 := if own then d.snoopOthers slot line (some p) else d
  let mine := d0.com.held.filter fun l => l.slot = slot && l.line = line && l.port = p
  let keepOwn := own || mine.any (·.own)
  let rest := d0.com.held.filter fun l => !(l.slot = slot && l.line = line && l.port = p)
  let known := rest.any fun l => l.slot = slot && l.line = line
  let d1 := { d0 with com := { d0.com with held := rest } }
  let d2 := if known || comLines rest < Config.commonsRecord then d1 else d1.evictLine
  { d2 with com := { d2.com with held := d2.com.held ++ [⟨slot, line, p, keepOwn⟩] } }

/-- Which buffer a slot line lies in, B or not, and its line there. -/
def slotLine (line : Nat) : Bool × Nat := if bufLine true ≤ line then (true, line - bufLine true) else (false, line - bufLine false)

/-- The holder of a lease that stands may write the draft (R299). -/
def Dev.mayWrite (d : Dev) (c : Clock) (slot : Nat) (x : ComState) (p : Port) : Bool :=
  x.leasePort = some p && !(x.leaseEnd != 0 && x.leaseEnd ≤ c.now) && !(d.leaseEnding slot)

/-- The header line is written; its copies are back-invalidated (R299). -/
def Dev.setHeader (d : Dev) (slot : Nat) (f : ComState → ComState) : Dev := (d.snoopOthers slot 0 none).updCom slot f

/-- A read of a buffer line that no other port owns is granted and answered (R299, R300, R305). -/
def Dev.comServe (d : Dev) (c : Clock) (slot : Nat) (p : Port) (op : MemOp) (line : Nat) (e : LineErr) : Dev :=
  match d.com? slot with
  | none => d.unmapped c p op (comBase slot + 64 * line)
  | some x =>
    let b := (slotLine line).1
    let i := (slotLine line).2
    let id := comRegion slot b
    let bs := Mem.rds (x.buf b) (64 * i) 64
    let d1 := d.grantLine slot line p (d.mayWrite c slot x p && b = x.draftB && op != .memRdData)
    if op = .memInv then d1.respond p op false []
    else if (x.bad b).contains i then d1.respond p op true zeroLine
    else
      match e with
      | .clean => d1.respond p op false bs
      | .corrected => (d1.count 58 (d1.readPlace id (64 * i)).1 1).respond p op false bs
      | .uncorrectable =>
        let r := d1.lineError c id (64 * i)
        if r.1 then r.2.respond p op false bs else r.2.respond p op true zeroLine

/-- The result of every mem.publish operation: LEASE_GEN, VERSION (R301). -/
def Dev.leaseResult (d : Dev) (r : Ref) (slot : Nat) : List Byte :=
  match d.com? slot with
  | none => []
  | some x => if (d.cmd? r).isSome then leBytes 8 x.leaseGen ++ leBytes 8 x.version else []

def Dev.endPublish (d : Dev) (c : Clock) (r : Ref) (slot st : Nat) : Dev :=
  let bs := d.leaseResult r slot
  match d.cmd? r with
  | none => d
  | some cmd => (d.result cmd 0 bs).endCmd c r st 0 0 bs

/-- Refused after the port check: the result area still holds the slot's generation and version (R301). -/
def Dev.refusePublish (d : Dev) (r : Ref) (slot st : Nat) : Dev :=
  match d.cmd? r with
  | none => d
  | some cmd => (d.result cmd 0 (d.leaseResult r slot)).refuse r st

/-- A lease other than by RELEASE has ended (R313). -/
def Dev.logLease (d : Dev) (c : Clock) (p : Port) (slot : Nat) : Dev := d.logEvent c p 6 p.val 1 (comBase slot) 0 slot

/-- The new lease of ACQUIRE or BREAK (R303). -/
def Dev.grantLease (d : Dev) (c : Clock) (r : Ref) (slot : Nat) (p : Port) (keep : Bool) : Dev :=
  (d.setHeader slot fun x =>
    { x with leaseGen := x.leaseGen + 1, leasePort := some p, leaseEnd := if x.leaseNs = 0 then 0 else c.now + x.leaseNs,
             refill := if keep then x.refill else some 0, done := if keep then x.done else [] }).endPublish c r slot stOk

/-- A slot's buffers and its window are gone (R297). -/
def Dev.dropSlot (d : Dev) (slot : Nat) : Dev :=
  let d1 := (d.free (comRegion slot false)).free (comRegion slot true)
  { d1 with com := { d1.com with slots := NMap.del d1.com.slots slot } }

/-- The fence of a COMMONS_DROP on a port, from t_f until the slot is gone (R297, R310). -/
def dropFence (slot tf : Nat) (f : Fence) : Bool := f.dpa = comBase slot && f.len = Config.comWindow && f.tf = tf

/-- Every port is revoked from the window: FENCE_SET is logged, a lease still held ends, and buffers, window and the fences go (R297, R310). -/
def Dev.dropped (d : Dev) (c : Clock) (r : Ref) (slot tf : Nat) : Dev :=
  let d1 := (List.finRange 4).foldl (fun (y : Dev) p =>
    (y.updPort p fun h => { h with fences := h.fences.eraseP (dropFence slot tf) }).logEvent c p 3 p.val 1 (comBase slot) tf slot) d
  (d1.dropSlot slot).endCmd c r stOk 0 0 []

/-- Publishes the draft (R304, steps 2 to 4): poison stops it; header copies are back-invalidated; the version flips. -/
def Dev.flip (d : Dev) (c : Clock) (r : Ref) (slot : Nat) : Dev :=
  match d.com? slot with
  | none => d.endPublish c r slot stOk
  | some x =>
    if !(x.bad x.draftB).isEmpty then d.endPublish c r slot stPoison
    else
      ((d.setHeader slot fun x =>
        { x with version := x.version + 1, curB := !x.curB, flipNs := c.now, epochA := if x.curB then x.epochA else x.epochA + 1,
                 epochB := if x.curB then x.epochB + 1 else x.epochB, refill := some 0, done := [] }).count 77 0 1).endPublish c r slot stOk

def Dev.awaitLines (d : Dev) (w : ComWait) : Dev := { d with com := { d.com with waits := d.com.waits ++ [w] } }

/-- Draft lines that a publishing holder took while its PUBLISH waited are recalled as well; then the version flips (R304). -/
def Dev.publishStep (d : Dev) (c : Clock) (r : Ref) (slot : Nat) (p : Port) : Dev :=
  match d.com? slot with
  | none => d.endPublish c r slot stOk
  | some x =>
    let q := d.recall slot fun o line => o = p && x.inDraft line
    if q.1.isEmpty then q.2.flip c r slot else q.2.awaitLines ⟨slot, q.1, .publish r p⟩

/-- All snoops of a wait are answered: the operation goes on (R302 to R304, R310). -/
def Dev.comGoOn (d : Dev) (c : Clock) (slot : Nat) (why : ComWhy) : Dev :=
  let clear := fun (x : Dev) => x.setHeader slot fun y => { y with leasePort := none }
  match why with
  | .leaseEnd => clear d
  | .acquire r p keep => (clear d).grantLease c r slot p keep
  | .release r => (clear d).endPublish c r slot stOk
  | .publish r p => d.publishStep c r slot p
  | .drop r tf => d.dropped c r slot tf
  | .revoke r p dpa len tf => d.awaitLines ⟨slot, [], .revoke r p dpa len tf⟩
  | .evict => d
  | .read p op line e => d.comServe c slot p op line e

/-- Starts what waits for snoops, or goes on at once when none is needed. -/
def Dev.comWait (d : Dev) (c : Clock) (slot : Nat) (await : List (Port × Nat)) (why : ComWhy) : Dev :=
  if await.isEmpty then d.comGoOn c slot why else d.awaitLines ⟨slot, await, why⟩

/-- The lease of a slot ends (R302), then `why` goes on: every slot line of the old holder is snooped. -/
def Dev.endLease (d : Dev) (c : Clock) (slot : Nat) (released : Bool) (why : ComWhy) : Dev :=
  match (d.com? slot).bind (·.leasePort) with
  | none => d.comWait c slot [] why
  | some p =>
    let r := d.recall slot fun o _ => o = p
    let d1 := if released then r.2 else r.2.logLease c p slot
    d1.comWait c slot r.1 why

/-- The lease has passed LEASE_END_NS (R301). -/
def ComState.expired (x : ComState) (now : Nat) : Bool := x.leaseEnd != 0 && x.leaseEnd ≤ now

/-- One mem.publish operation on a slot (R301 to R304). -/
def Dev.publishOp (d : Dev) (c : Clock) (cmd : Cmd) : Dev :=
  let slot := cmd.f 0x40 1
  let p := cmd.ref.port
  let keep := cmd.e 0x42 1 = 1
  match d.com? slot with
  | none => d.refuse cmd.ref stBadCmd
  | some x =>
    let holder := x.leasePort = some p && !(x.expired c.now) && cmd.f 0x48 8 = x.leaseGen
    if !(x.writeMask.getLsbD p.val) then d.refuse cmd.ref stAuth
    else
      match cmd.f 0x41 1 with
      | 0 => if x.leasePort.isSome && !(x.expired c.now) then d.refusePublish cmd.ref slot stBusy else d.endLease c slot false (.acquire cmd.ref p keep)
      | 1 =>
        if holder then (d.setHeader slot fun y => { y with leaseEnd := if y.leaseNs = 0 then 0 else c.now + y.leaseNs }).endPublish c cmd.ref slot stOk
        else d.refusePublish cmd.ref slot stPublishConflict
      | 2 =>
        if holder then d.publishStep c cmd.ref slot p
        else (d.count 78 0 1).refusePublish cmd.ref slot stPublishConflict
      | 3 => if holder then d.endLease c slot true (.release cmd.ref) else d.refusePublish cmd.ref slot stPublishConflict
      | _ => d.endLease c slot false (.acquire cmd.ref p keep)

/-- An operation runs at once, or waits its turn behind one that awaits snoops (R304). -/
def publishRun (c : Clock) (d : Dev) (cmd : Cmd) : Dev :=
  if d.comBusy (cmd.f 0x40 1) then { d with com := { d.com with queue := d.com.queue ++ [(cmd.f 0x40 1, cmd.ref)] } } else d.publishOp c cmd

def publishBad (_ : Clock) (d : Dev) (cmd : Cmd) : Bool :=
  cmd.f 0x40 1 > 63 || cmd.f 0x41 1 > 4 || (d.com? (cmd.f 0x40 1)).isNone || cmd.resultLen < 16 || cmd.e 0x42 1 > 1 || (cmd.f 0x41 1 = 4 && !cmd.expert)

def publishRow (op : Nat) (cmd : Cmd) : Bool := cmd.f 0x41 1 = op || (op = 0 && cmd.f 0x41 1 > 4)

def acquire (k : Take) : Clock → Dev → Dev := runSlot 0x0801 (publishRow 0) publishBad noAreas publishRun k
def renew (k : Take) : Clock → Dev → Dev := runSlot 0x0801 (publishRow 1) publishBad noAreas publishRun k
def publish (k : Take) : Clock → Dev → Dev := runSlot 0x0801 (publishRow 2) publishBad noAreas publishRun k
def release (k : Take) : Clock → Dev → Dev := runSlot 0x0801 (publishRow 3) publishBad noAreas publishRun k
def breakLease (k : Take) : Clock → Dev → Dev := runSlot 0x0801 (publishRow 4) publishBad noAreas publishRun k

def execAcquire (k : Take) (s : State) : Host.Outcome State Fault Refusal := happens (.acquire k) k.t (·.onDev (acquire k)) s
def execRenew (k : Take) (s : State) : Host.Outcome State Fault Refusal := happens (.renew k) k.t (·.onDev (renew k)) s
def execPublish (k : Take) (s : State) : Host.Outcome State Fault Refusal := happens (.publish k) k.t (·.onDev (publish k)) s
def execRelease (k : Take) (s : State) : Host.Outcome State Fault Refusal := happens (.release k) k.t (·.onDev (release k)) s
def execBreakLease (k : Take) (s : State) : Host.Outcome State Fault Refusal := happens (.breakLease k) k.t (·.onDev (breakLease k)) s

/-- A lease expires at LEASE_END_NS (R302). -/
def leaseExpiry (c : ComSlot) (k : Clock) (d : Dev) : Dev :=
  match d.com? c.val with
  | none => d
  | some x => if x.leasePort.isSome && x.expired k.now && !(d.comBusy c.val) then d.endLease k c.val false .leaseEnd else d

def execLeaseExpiry (t : Nat) (c : ComSlot) (s : State) : Host.Outcome State Fault Refusal :=
  happens (.leaseExpiry t c) t (·.onDev (leaseExpiry c)) s

/-- The refill copies its next line, whose copies are back-invalidated (R299, R305). -/
def commonsRefill (c : ComSlot) (line : Nat) (_ : Clock) (d : Dev) : Dev :=
  match d.com? c.val with
  | none => d
  | some x =>
    if x.refill != some line || line ≥ x.len / 64 then d
    else
      (if x.done.contains line then d else d.snoopOthers c.val (bufLine x.draftB + line) none).updCom c.val fun x =>
        let y := if x.done.contains line then x else x.copyLine line
        if line + 1 ≥ x.len / 64 then { y with refill := none, done := [] }
        else { y with refill := some (line + 1), done := y.done.filter fun l => l != line }

def execCommonsRefill (t : Nat) (c : ComSlot) (line : Nat) (s : State) : Host.Outcome State Fault Refusal :=
  happens (.commonsRefill t c line) t (·.onDev (commonsRefill c line)) s

/-- COMMONS_DROP: every port is revoked from the window, then the buffers go (R297, R310). -/
def commonsDropBad (_ : Clock) (d : Dev) (cmd : Cmd) : Bool := cmd.f 0x41 1 > 63 || (d.com? (cmd.f 0x41 1)).isNone

def Dev.readers (x : ComState) : List Port := (List.finRange 4).filter fun p => x.readMask.getLsbD p.val

/-- Fences of every port, the end of the lease and the recall of every line; buffers and window go once the write-backs are there (R297, R310). -/
def Dev.dropCommons (d : Dev) (c : Clock) (cmd : Cmd) : Dev :=
  let slot := cmd.f 0x41 1
  match d.com? slot with
  | none => d.refuse cmd.ref stBadCmd
  | some x =>
    let d1 := (List.finRange 4).foldl (fun (y : Dev) p => y.updPort p fun h => { h with fences := h.fences ++ [⟨comBase slot, Config.comWindow, c.now, none, none, 0, 0⟩] }) d
    let d2 := match x.leasePort with | none => d1 | some p => d1.logLease c p slot
    let r := d2.recall slot fun _ _ => true
    r.2.comWait c slot r.1 (.drop cmd.ref c.now)

/-- A COMMONS_DROP waits its turn behind a lease operation that awaits snoops, as those do (R304; DESIGN CHOICE, log 24). -/
def commonsDropRun (c : Clock) (d : Dev) (cmd : Cmd) : Dev :=
  if d.comBusy (cmd.f 0x41 1) then { d with com := { d.com with queue := d.com.queue ++ [(cmd.f 0x41 1, cmd.ref)] } } else d.dropCommons c cmd

/-- Runs the operations that waited for a slot, in order, while none awaits snoops (R304). -/
def Dev.comQueue (d : Dev) (c : Clock) : List (Nat × Ref) → Dev
  | [] => d
  | q :: qs =>
    if d.comBusy q.1 then d.comQueue c qs
    else
      let d1 := { d with com := { d.com with queue := d.com.queue.filter fun x => x != q } }
      (match d1.cmd? q.2 with | none => d1 | some cmd => if cmd.opcode = 0x0800 then d1.dropCommons c cmd else d1.publishOp c cmd).comQueue c qs

def commonsDropRow (cmd : Cmd) : Bool := cmd.f 0x40 1 = 2

def commonsDrop (k : Take) : Clock → Dev → Dev := runSlot 0x0800 commonsDropRow commonsDropBad noAreas commonsDropRun k

def execCommonsDrop (k : Take) (s : State) : Host.Outcome State Fault Refusal :=
  happens (.commonsDrop k) k.t (·.onDev (commonsDrop k)) s

/-- A host answers a back-invalidate snoop, with or without write-back data. -/
def bisnpResponse (p : Port) (c : ComSlot) (line : Nat) (data : Option (List Byte)) (k : Clock) (d : Dev) : Dev :=
  if !(d.com.waits.any fun w => w.slot = c.val && w.lines.contains (p, line)) then d
  else
    let d1 := match data with | none => d | some bs => d.updCom c.val fun x => x.writeBack line bs
    let ws := d1.com.waits.map fun w => if w.slot = c.val then { w with lines := w.lines.filter fun x => x != (p, line) } else w
    let fin := fun (w : ComWait) => w.lines.isEmpty && (match w.why with | .revoke _ _ _ _ _ => false | _ => true)
    let d2 := { d1 with com := { d1.com with waits := ws.filter fun w => !(fin w) } }
    let d3 := (ws.filter fin).foldl (fun (x : Dev) w => x.comGoOn k w.slot w.why) d2
    d3.comQueue k d3.com.queue

def execBisnpResponse (t : Nat) (p : Port) (c : ComSlot) (line : Nat) (data : Option (List Byte)) (s : State) : Host.Outcome State Fault Refusal :=
  happens (.bisnpResponse t p c line data) t (·.onDev (bisnpResponse p c line data)) s

/-! ### Revocation (R309 to R312) -/

/-- The commons slot whose window holds an extent wholly. -/
def slotOfExtent (dpa len : Nat) : Option Nat :=
  if Config.dpaCommons ≤ dpa && dpa < Config.dpaCommonsEnd && (dpa - Config.dpaCommons) % Config.comWindow + len ≤ Config.comWindow then
    some ((dpa - Config.dpaCommons) / Config.comWindow)
  else none

def revokeBad (_ : Clock) (d : Dev) (cmd : Cmd) : Bool :=
  let dpa := cmd.f 0x48 8
  let len := cmd.f 0x50 8
  cmd.f 0x41 1 > 1 || dpa % 4096 != 0 || len % 4096 != 0 || len = 0 ||
    (if h : cmd.f 0x40 1 < 4 then !(d.areaIn ⟨cmd.f 0x40 1, h⟩ dpa len) && (slotOfExtent dpa len).isNone else true)

/-- The areas a running command's body names at fixed places (R292); the others it keeps. -/
def Cmd.bodyAreas (cmd : Cmd) : List (Nat × Nat) :=
  match cmd.opcode with
  | 0x0104 => [(cmd.f 0x48 8, cmd.f 0x50 8)]
  | 0x0201 => [(cmd.f 0x48 8, cmd.f 0x50 8)]
  | 0x0300 => [(cmd.f 0x48 8, cmd.f 0x50 8)]
  | 0x0400 => [(cmd.f 0x48 8, cmd.f 0x44 2 * cmd.f 0x50 4)]
  | 0x0402 => [(cmd.f 0x48 8, cmd.f 0x44 2 * cmd.f 0x50 4)]
  | 0x0403 => [(cmd.f 0x48 8, cmd.f 0x44 2 * cmd.f 0x50 4)]
  | 0x0401 => [(cmd.f 0x48 8, 8 * cmd.f 0x44 2)]
  | 0x0500 => [(cmd.f 0x48 8, 8 * cmd.f 0x50 4)]
  | 0x0501 => [(cmd.f 0x48 8, 16 * cmd.f 0x50 4)]
  | 0x0600 => [(cmd.f 0x48 8, cmd.f 0x50 8)]
  | 0x0700 =>
    if cmd.f 0x40 1 = 1 then [(cmd.f 0x78 8, 8 * cmd.f 0x74 4)]
    else if cmd.f 0x90 8 != 0 then []
    else (cmd.f 0x58 8, cmd.f 0x60 8) :: (if cmd.f 0x43 1 = 2 then [(cmd.f 0x68 8, cmd.f 0x60 8)] else [])
  | 0x0B00 => [(cmd.f 0x50 8, cmd.f 0x58 4)]
  | 0x0B02 => if cmd.e 0x58 1 = 1 then [(cmd.e 0x60 8, cmd.e 0x68 8)] else []
  | _ => []

def Cmd.meets (cmd : Cmd) (dpa len : Nat) : Bool :=
  ((cmd.resultAddr, cmd.resultLen) :: (cmd.bodyAreas ++ cmd.areas)).any fun a => overlaps a.1 a.2 dpa len

/-- A near-bank command stops: its line steps done so far stand and no more follow (R310, R259). -/
def Dev.dropJob (d : Dev) (r : Ref) : Dev :=
  let ids := (d.nb.jobs.filter fun (j : NbJob) => j.ref = some r).map (·.id)
  if ids.isEmpty then d
  else
    { d with nb := { d.nb with jobs := d.nb.jobs.filter fun (j : NbJob) => j.ref != some r,
                               queues := d.nb.queues.map fun q => q.filter fun (t : NbTask) => !(ids.contains t.job),
                               held := d.nb.held.map fun q => q.filter fun (t : NbTask) => !(ids.contains t.job) } }

/-- COUNT that the slot of a running command shows. -/
def Dev.shownCount (d : Dev) (cmd : Cmd) : Nat :=
  let old := d.slotN cmd.ref.port cmd.ref.slot 0x08 8
  if swSeq old = cmd.ref.seq && !(swDone old) then d.slotN cmd.ref.port cmd.ref.slot 0x10 4 else 0

/-- Ends a command whose area is revoked; its COUNT stays (R47, R310). -/
def Dev.endRevoked (d : Dev) (c : Clock) (cmd : Cmd) : Dev :=
  let d1 := d.dropJob cmd.ref
  ({ d1 with root := { d1.root with waiting := d1.root.waiting.filter fun r => r != cmd.ref } }).endCmd c cmd.ref stRevoked 0 (d.shownCount cmd) []

/-- REVOKE records the fence, snoops the target's commons lines, ends its lease and its running commands that meet the extent (R310, steps 1 to 3). -/
def revokeRun (c : Clock) (d : Dev) (cmd : Cmd) : Dev :=
  if h : cmd.f 0x40 1 < 4 then
    let p : Port := ⟨cmd.f 0x40 1, h⟩
    let dpa := cmd.f 0x48 8
    let len := cmd.f 0x50 8
    if (d.port p).fences.length ≥ Config.maxFences then d.refuse cmd.ref stBusy
    else
      let d1 := d.updPort p fun h => { h with fences := h.fences ++ [⟨dpa, len, c.now, none, none, 0, 0⟩] }
      let hit := d1.cmds.running.filter fun x => x.ref.port = p && x.ref != cmd.ref && x.meets dpa len
      match slotOfExtent dpa len with
      | none => (hit.foldl (fun (x : Dev) y => x.endRevoked c y) d1).comWait c 64 [] (.revoke cmd.ref p dpa len c.now)
      | some slot =>
        let lo := (dpa - comBase slot) / 64
        let holds := ((d1.com? slot).bind (·.leasePort)) = some p
        let r := d1.recall slot fun o line => o = p && (holds || (lo ≤ line && line < lo + len / 64))
        let d2 := if holds && !(r.2.leaseEnding slot) then (r.2.logLease c p slot).comWait c slot r.1 .leaseEnd else r.2
        d2.comWait c slot r.1 (.revoke cmd.ref p dpa len c.now)
  else d

def revokeRow (cmd : Cmd) : Bool := cmd.f 0x41 1 != 1

def revoke (k : Take) : Clock → Dev → Dev := runSlot 0x0802 revokeRow revokeBad noAreas revokeRun k

def execRevoke (k : Take) (s : State) : Host.Outcome State Fault Refusal :=
  happens (.revoke k) k.t (·.onDev (revoke k)) s

/-- Requests of a port to a slot's lines that are accepted and not answered (R295). -/
def Dev.openReads (d : Dev) (slot : Nat) (p : Port) (lo n : Nat) : Bool :=
  d.com.waits.any fun w => w.slot = slot && (match w.why with | .read q _ line _ => q = p && lo ≤ line && line < lo + n | _ => false)

/-- Accepted requests to the extent are done: FENCE_SET is logged and REVOKE ends ST_OK (R310, steps 4 and 5). -/
def fenceSet (p : Port) (dpa : Nat) (c : Clock) (d : Dev) : Dev :=
  let mine := fun (w : ComWait) => w.lines.isEmpty &&
    (match w.why with | .revoke _ q a len _ => q = p && a = dpa && !(d.openReads w.slot p ((dpa - comBase w.slot) / 64) (len / 64)) | _ => false)
  match d.com.waits.find? mine with
  | none => d
  | some w =>
    match w.why with
    | .revoke r _ _ _ tf =>
      let d1 := { d with com := { d.com with waits := d.com.waits.erase w } }
      (d1.logEvent c p 3 p.val 1 dpa tf (if w.slot < 64 then w.slot else 0xFFFF)).endCmd c r stOk 0 0 []
    | _ => d

def execFenceSet (t : Nat) (p : Port) (dpa : Nat) (s : State) : Host.Outcome State Fault Refusal :=
  happens (.fenceSet t p dpa) t (·.onDev (fenceSet p dpa)) s

/-- RESTORE removes the fences that lie wholly inside the extent (R312). -/
def restoreRun (c : Clock) (d : Dev) (cmd : Cmd) : Dev :=
  if h : cmd.f 0x40 1 < 4 then
    (d.updPort ⟨cmd.f 0x40 1, h⟩ fun x =>
      { x with fences := x.fences.filter fun f => !(cmd.f 0x48 8 ≤ f.dpa && f.dpa + f.len ≤ cmd.f 0x48 8 + cmd.f 0x50 8) }).endCmd c cmd.ref stOk 0 0 []
  else d

def restoreRow (cmd : Cmd) : Bool := cmd.f 0x41 1 = 1

def restore (k : Take) : Clock → Dev → Dev := runSlot 0x0802 restoreRow revokeBad noAreas restoreRun k

def execRestore (k : Take) (s : State) : Host.Outcome State Fault Refusal :=
  happens (.restore k) k.t (·.onDev (restore k)) s

/-! ### CXL.mem requests (R288 to R300, R305, R311, R531) -/

/-- Bytes of a line under a byte mask: MemWr writes all of them. -/
def mergeLine (old new : List Byte) (mask : BitVec 64) : List Byte :=
  (List.range 64).map fun i => if mask.getLsbD i then nthD new i 0 else nthD old i 0

/-- R299: a commons write that does not take effect. -/
def Dev.writeRefused (d : Dev) (c : Clock) (p : Port) (op : MemOp) (dpa slot : Nat) : Dev :=
  ((d.count 73 p.val 1).logEvent c p 2 p.val 1 dpa 0 slot).respond p op false zeroLine

/-- One access under a fence (R311): the place of the station's record of this kind in the event log, or none when this access is the first of the station and the record takes place n. -/
def Fence.access (f : Fence) (read : Bool) (station n : Nat) : Option Nat × Fence :=
  if read then if f.readMark = some station then (some f.readN, f) else (none, { f with readMark := some station, readN := n })
  else if f.writeMark = some station then (some f.writeN, f)
  else (none, { f with writeMark := some station, writeN := n })

/-- A further access of a station is counted in its record (R311, log 70). -/
def HostPort.raise (h : HostPort) (n : Nat) : HostPort :=
  { h with events := (h.events.zipIdx).map fun (x : EventRec × Nat) => if x.2 = n then { x.1 with count := x.1.count + 1 } else x.1 }

/-- A fence answers an access of the target: poisoned zeros, or the write is dropped; at most one record of each kind a station (R311). -/
def Dev.fencedAccess (d : Dev) (c : Clock) (p : Port) (op : MemOp) (dpa : Nat) (f : Fence) : Dev :=
  let r := f.access op.isRead (d.station c) (d.port p).events.length
  let d1 := (d.updPort p fun h => { h with fences := h.fences.map fun x => if x = f then r.2 else x }).count 74 p.val 1
  let d2 := match r.1 with
    | some n => d1.updPort p fun h => h.raise n
    | none => d1.logEvent c p (if op.isRead then 4 else 5) p.val 1 dpa f.tf ((slotOfExtent f.dpa f.len).getD 0xFFFF)
  d2.respond p op true zeroLine

/-- A private partition line (R271, R288). -/
def Dev.partAccess (d : Dev) (c : Clock) (p : Port) (op : MemOp) (dpa : Nat) (data : List Byte) (mask : BitVec 64) (e : LineErr) : Dev :=
  let h := d.port p
  let line := dpa / 64
  if op = .memWr then (d.partWrite p dpa data).respond p op false []
  else if op = .memWrPtl then
    (d.updPort p fun h => { h with mem := Mem.wrs h.mem dpa (mergeLine (Mem.rds h.mem dpa 64) data mask) }).respond p op false []
  else if op = .memInv then d.respond p op false []
  else if h.poison.contains line then d.respond p op true zeroLine
  else
    match e with
    | .clean => d.respond p op false (d.partRead p dpa 64)
    | .corrected => (d.count 58 (d.readPlace (partRegion p) dpa).1 1).respond p op false (d.partRead p dpa 64)
    | .uncorrectable =>
      let r := d.lineError c (partRegion p) dpa
      if r.1 then r.2.respond p op false (r.2.partRead p dpa 64)
      else r.2.respond p op true zeroLine

/-- A read of a line that another port owns, or whose write-back is still awaited, stays in the queue until the data is there (R295, R299, R300). -/
def Dev.comRead (d : Dev) (c : Clock) (slot : Nat) (p : Port) (op : MemOp) (line : Nat) (e : LineErr) : Dev :=
  let owners := d.com.held.filter fun l => l.slot = slot && l.line = line && l.port != p && l.own
  let r := d.snoop owners
  let await := (d.awaited slot (fun _ l => l = line) ++ r.1).dedup
  if await.isEmpty then d.comServe c slot p op line e
  else (r.2.awaitLines ⟨slot, await, .read p op line e⟩).updPort p fun h => { h with memResp := none }

/-- An access to a commons slot's window (R297 to R300, R305). -/
def Dev.comAccess (d : Dev) (c : Clock) (p : Port) (op : MemOp) (dpa : Nat) (data : List Byte) (mask : BitVec 64) (e : LineErr) : Dev :=
  let slot := (dpa - Config.dpaCommons) / Config.comWindow
  let off := (dpa - Config.dpaCommons) % Config.comWindow
  match d.com? slot with
  | none => d.unmapped c p op dpa
  | some x =>
    let inA := Config.bufA ≤ off && off < Config.bufA + x.len
    let inB := Config.bufB ≤ off && off < Config.bufB + x.len
    if !(x.readMask.getLsbD p.val) || !(off < 4096 || inA || inB) then d.unmapped c p op dpa
    else if off < 4096 then
      (if op.isWrite then d.writeRefused c p op dpa slot
       else if off = 0 then (d.grantLine slot 0 p false).respond p op false x.header
       else d.respond p op false zeroLine)
    else
      let i := (slotLine (off / 64)).2
      let own := d.mayWrite c slot x p && inB = x.draftB
      let d1 := if own && x.toRefill i then (d.snoopOthers slot (off / 64) none).updCom slot fun y => y.touch i else d
      if op.isWrite then
        (if own then
          let d2 := d1.snoopOthers slot (off / 64) (some p)
          (if op = .memWr then (d2.updCom slot fun y => y.writeLine inB i data)
           else d2.updCom slot fun y => y.setBuf inB (Mem.wrs (y.buf inB) (64 * i) (mergeLine (Mem.rds (y.buf inB) (64 * i) 64) data mask)) (y.bad inB)).respond p op false []
         else d.writeRefused c p op dpa slot)
      else d1.comRead c slot p op (off / 64) e

/-- The echo window of a HOST depth-4 loop-back (R531). -/
def Dev.echoAccess (d : Dev) (p : Port) (op : MemOp) (dpa : Nat) (data : List Byte) (mask : BitVec 64) (m : Mem) : Dev :=
  if op = .memWr then (d.updPort p fun h => { h with echo := some (Mem.wrs m dpa data) }).respond p op false []
  else if op = .memWrPtl then (d.updPort p fun h => { h with echo := some (Mem.wrs m dpa (mergeLine (Mem.rds m dpa 64) data mask)) }).respond p op false []
  else if op = .memInv then d.respond p op false []
  else (d.updPort p fun h => { h with echoRead := h.echoRead + 64 }).respond p op false (Mem.rds m dpa 64)

/-- 64 bytes leave a bucket that holds them (R442, R449, R450). -/
def Bucket.take64 (b : Bucket) : Bucket := if 64 ≤ b.level then { b with level := b.level - 64 } else b

/-- Charges a request to the port's limiter (R294, R315). -/
def Dev.chargePort (d : Dev) (p : Port) (op : MemOp) : Dev :=
  if op = .memInv then d
  else
    let d1 := if op.isRead then d.count 69 p.val 64 else d.count 70 p.val 64
    { d1 with adm := { d1.adm with shapers := vupdN d1.adm.shapers (3 + p.val) fun s =>
        { s with p := if s.cfg.pir.isNone then s.p else s.p.take64, c := if s.cfg.cir.isNone then s.c else s.c.take64 } } }

/-- Partition, commons or unmapped (R288). -/
def Dev.plain (d : Dev) (c : Clock) (p : Port) (op : MemOp) (dpa : Nat) (data : List Byte) (mask : BitVec 64) (e : LineErr) : Dev :=
  if dpa < d.partLen p then d.partAccess c p op dpa data mask e
  else if Config.dpaCommons ≤ dpa && dpa < Config.dpaCommonsEnd then d.comAccess c p op dpa data mask e
  else d.unmapped c p op dpa

/-- A request enters the port's queue and is served, unless it must wait for a write-back (log 24). Without credits (R294, R450), a place in the queue (R295), a link, or programmed IDE keys none enters. -/
def hostMemAccess (p : Port) (op : MemOp) (dpa : Nat) (data : List Byte) (mask : BitVec 64) (e : LineErr) (c : Clock) (d : Dev) : Dev :=
  let h := d.port p
  if !(d.portOn p) then d
  else if !((d.shaper (3 + p.val)).peakPasses 64) || Config.portQueue ≤ h.queue then d
  else
    let d1 := (d.chargePort p op).enterQueue p
    if d.start.phase = .backsight || d.pwr.ps = 2 then d1.unmapped c p op dpa
    else
      match h.fences.find? fun f => f.dpa ≤ dpa && dpa < f.dpa + f.len with
      | some f => if op = .memInv then d1.respond p op false [] else d1.fencedAccess c p op dpa f
      | none =>
        match h.echo with
        | some m => if dpa < 65536 then d1.echoAccess p op dpa data mask m else d1.plain c p op dpa data mask e
        | none => d1.plain c p op dpa data mask e

def execHostMemAccess (t : Nat) (p : Port) (op : MemOp) (dpa : Nat) (data : List Byte) (mask : BitVec 64) (e : LineErr) (s : State) :
    Host.Outcome State Fault Refusal :=
  happens (.hostMemAccess t p op dpa data mask e) t (·.onDev (hostMemAccess p op dpa data mask e)) s

/-! ### CXL mailbox and decoders (R289, R410) -/

/-- A mailbox opcode's answer; the CXL specification fixes the payload, of which the manual gives nothing (log 5). -/
def Dev.mailbox (d : Dev) (p : Port) (opcode len : Nat) : Dev :=
  if d.portOn p then
    d.updPort p fun h => { h with mbox := some ⟨opcode, false, (List.range len).map (Config.mailboxByte opcode)⟩ }
  else d

def identifyMemoryDevice (p : Port) (_ : Clock) (d : Dev) : Dev := d.mailbox p 0x4000 0x45
def getSupportedLogs (p : Port) (_ : Clock) (d : Dev) : Dev := d.mailbox p 0x0400 28
/-- Get Log for the Command Effects Log: the bytes asked for. -/
def getLog (p : Port) (off len : Nat) (_ : Clock) (d : Dev) : Dev :=
  if d.portOn p then
    d.updPort p fun h => { h with mbox := some ⟨0x0401, false, (List.range len).map fun i => Config.mailboxByte 0x0401 (off + i)⟩ }
  else d
def getHealthInfo (p : Port) (_ : Clock) (d : Dev) : Dev := d.mailbox p 0x4200 18

/-- Opcodes the mailbox supports (R410). -/
def mailboxOpcodes : List Nat := [0x4000, 0x0400, 0x0401, 0x4200]

/-- Every other mailbox opcode completes with Unsupported. -/
def mailboxUnsupported (p : Port) (opcode : Nat) (_ : Clock) (d : Dev) : Dev :=
  if d.portOn p && !(mailboxOpcodes.contains opcode) then d.updPort p fun h => { h with mbox := some ⟨opcode, true, []⟩ } else d

def execIdentifyMemoryDevice (t : Nat) (p : Port) (s : State) : Host.Outcome State Fault Refusal :=
  happens (.identifyMemoryDevice t p) t (·.onDev (identifyMemoryDevice p)) s
def execGetSupportedLogs (t : Nat) (p : Port) (s : State) : Host.Outcome State Fault Refusal :=
  happens (.getSupportedLogs t p) t (·.onDev (getSupportedLogs p)) s
def execGetLog (t : Nat) (p : Port) (off len : Nat) (s : State) : Host.Outcome State Fault Refusal :=
  happens (.getLog t p off len) t (·.onDev (getLog p off len)) s
def execGetHealthInfo (t : Nat) (p : Port) (s : State) : Host.Outcome State Fault Refusal :=
  happens (.getHealthInfo t p) t (·.onDev (getHealthInfo p)) s
def execMailboxUnsupported (t : Nat) (p : Port) (opcode : Nat) (s : State) : Host.Outcome State Fault Refusal :=
  happens (.mailboxUnsupported t p opcode) t (·.onDev (mailboxUnsupported p opcode)) s

/-- Bit 0: committed; bit 1: the CXL commit-error indication. -/
def commitResult (ok : Bool) : BitVec 2 := if ok then 1 else 2

/-- A host commits a decoder (R289). -/
def hdmDecoderCommit (p : Port) (n : Fin 2) (base size ways : Nat) (_ : Clock) (d : Dev) : Dev :=
  if d.portOn p then
    (if n.val = 0 then d.updPort p fun h => { h with dec0 := commitResult (base = 0 && size = h.part.gib * gib && ways = 1) }
     else d.updPort p fun h =>
       { h with dec1 := commitResult (base = Config.dpaCommons && size = Config.dpaCommonsEnd - Config.dpaCommons && ways = 1 && h.biEnabled) })
  else d

def execHdmDecoderCommit (t : Nat) (p : Port) (n : Fin 2) (base size ways : Nat) (s : State) : Host.Outcome State Fault Refusal :=
  happens (.hdmDecoderCommit t p n base size ways) t (·.onDev (hdmDecoderCommit p n base size ways)) s

/-! ### Host death (R307) -/

/-- Draft lines of a slot that a port owns, unanswered snoops included. -/
def Dev.ownedLines (d : Dev) (x : ComState) (slot : Nat) (p : Port) : List Nat :=
  (((d.com.held.filter fun l => l.slot = slot && l.port = p && l.own).map (·.line) ++ (d.awaited slot fun q _ => q = p).map (·.2)).filter x.inDraft).dedup

/-- Poisons the draft lines of a slot that a dead port owned; one record tells every reader how many (R307, step 3). -/
def Dev.poisonOwned (d : Dev) (c : Clock) (p : Port) (slot : Nat) (x : ComState) : Dev :=
  match d.ownedLines x slot p with
  | [] => d
  | l :: ls =>
    let add := (l :: ls).map fun y => y - bufLine x.draftB
    let old := (x.bad x.draftB).filter fun y => !(add.contains y)
    let d1 := (d.updCom slot fun y => y.setBuf x.draftB (y.buf x.draftB) (add ++ old)).count 79 0 (l :: ls).length
    (Dev.readers x).foldl (fun (z : Dev) q => z.logEvent c q 7 p.val (l :: ls).length (comBase slot + 64 * ls.foldl min l) 0 slot) d1

/-- What waits for a dead port's lines goes on. Its own PUBLISH before the flip is abandoned (R308), its ACQUIRE only ends the old lease, and its reads are completed with no response (R307, step 2). -/
def Dev.dropWaits (d : Dev) (c : Clock) (p : Port) : Dev :=
  let why := fun (w : ComWhy) => match w with
    | .read q o l e => if q = p then ComWhy.evict else .read q o l e
    | .acquire r q k => if q = p then .leaseEnd else .acquire r q k
    | y => y
  let flips := fun (w : ComWait) => match w.why with | .publish _ q => decide (q = p) | _ => false
  let ws := (d.com.waits.filter fun w => !(flips w)).map fun w => ({ w with lines := w.lines.filter (fun x => x.1 != p), why := why w.why } : ComWait)
  let fin := fun (w : ComWait) => w.lines.isEmpty && (match w.why with | .revoke _ _ _ _ _ => false | _ => true)
  let d1 := { d with com := { d.com with waits := ws.filter fun w => !(fin w) } }
  (ws.filter fin).foldl (fun (x : Dev) w => x.comGoOn c w.slot w.why) d1

/-- Drops a dead port's copies and ends its leases, with no write-back (R307, steps 4 and 5). -/
def Dev.endLeases (d : Dev) (c : Clock) (p : Port) : Dev :=
  let d1 := { d with com := { d.com with held := d.com.held.filter fun l => l.port != p } }
  let mine := (d1.com.slots.filter fun e => e.2.leasePort = some p).map (·.1)
  mine.foldl (fun (x : Dev) s => (x.setHeader s fun y => { y with leasePort := none }).logLease c p s) d1

/-- A host port dies: what R307 does but for its commands (R40). -/
def Dev.hostDeath (d : Dev) (c : Clock) (p : Port) : Dev :=
  let lost := d.com.slots.foldl (fun (y : Dev) e => y.poisonOwned c p e.1 e.2) d
  let d1 := (((lost.updPort p fun h => { h with queue := 0 }).dropWaits c p).endLeases c p)
  d1.comQueue c d1.com.queue

end Sys2Proof.Machine
end

