-- ==== Sys2Proof/Machine/Flash.lean ====
section
/-! DEFINITION. Flash media: writes, the journal, reserves, collection, folding, failing blocks and the flash commands (R316 to R349). Board figures the manual leaves to the NAND part are opaque (log 25). -/

namespace Sys2Proof.Machine

def Dev.chan (d : Dev) (c : Nat) : FChan := vgetD d.flash.chans c FChan.reset

def Dev.updChan (d : Dev) (c : Nat) (f : FChan → FChan) : Dev := { d with flash := { d.flash with chans := vupdN d.flash.chans c f } }

/-- Engines start no program or erase but journal programs (R342, R343). -/
def Flash.held (f : Flash) : Bool := f.pf != .idle

/-! ### Pages (R321) -/

/-- Kinds of a page: data, journal, map segment. -/
inductive PageKind | data | journal | mapSegment
  deriving DecidableEq, Repr

def PageKind.code : PageKind → Nat
  | .data => 1
  | .journal => 2
  | .mapSegment => 3

/-- The 32 bytes of metadata of codeword q of a page, with the CHECK over its 4,096 data bytes and the metadata before it. -/
def codewordMeta (unit q : Nat) (kind : PageKind) (wseq : Nat) (data : List Byte) : List Byte :=
  let m := leBytes 4 unit ++ leBytes 1 q ++ leBytes 1 kind.code ++ [0, 0] ++ leBytes 8 wseq ++ List.replicate 12 0
  m ++ leBytes 4 (crc32c (data ++ m))

/-! ### Reserves (R332) -/

def spareCount (b : Nat) : Nat := ceilDiv (2 * b) 100
def segmentCount (b : Nat) : Nat := ceilDiv b 1000
def regionCount (fixedClass : Bool) (b : Nat) : Nat := if fixedClass then ceilDiv (4 * b) 100 else 0
def journalCount (c b : Nat) : Nat := if c = 0 || c = 16 then ceilDiv b 100 else 0

/-- User blocks of a channel with b good blocks. -/
def userBlocks (fixedClass : Bool) (c b : Nat) : Nat :=
  b - spareCount b - ceilDiv (3 * b) 100 - segmentCount b - regionCount fixedClass b - journalCount c b

/-- Dense capacity of a block in bytes. -/
def blockCap (c : Nat) : Nat := Config.flashPage * Config.blockUnits c

/-- Good dense capacity of the working channels (R329). -/
def Dev.denseBytes (d : Dev) : Nat := natSum ((List.range 32).map fun c => if (d.chan c).serving then (d.chan c).good * blockCap c else 0)

/-- A node of 8 TB or less is dynamic (R329). -/
def Dev.classFixed (d : Dev) : Bool := d.denseBytes > 8000000000000

/-- Gives a channel's good blocks their roles after a format: the lowest numbers first (log 26). -/
def FChan.roles (x : FChan) (fixedClass : Bool) (c : Nat) : FChan :=
  let b := x.good
  let s := spareCount b
  let j := s + journalCount c b
  let m := j + segmentCount b
  let r := m + regionCount fixedClass b
  let f := fun (acc : Nat × List FBlock) (k : FBlock) =>
    if k.mode = .retired then (acc.1, acc.2 ++ [k])
    else
      let mode : BlockMode := if acc.1 < s then .spare else if acc.1 < j then .journal else if acc.1 < m then .mapSeg else if acc.1 < r then .oneBit else .free
      (acc.1 + 1, acc.2 ++ [{ k with mode := mode, units := [], used := 0 }])
  { x with blocks := (x.blocks.foldl f (0, [])).2, spares := s, buffer := regionCount fixedClass b, user := userBlocks fixedClass c b * blockCap c,
           map := [], badUnits := [], progs := [], jobs := [], refresh := [], queue := [], dirtySegs := [], retired := 0, bufOver := false,
           state := if x.serving then (if s = 0 then .noSpares else .up) else x.state }

/-! ### Journal (R325, R326) -/

def JRec.size : JRec → Nat
  | .map _ _ _ _ _ _ => Config.recBytes 1
  | .gc _ _ _ => Config.recBytes 2
  | .erased _ _ => Config.recBytes 3
  | .retire _ _ _ => Config.recBytes 4
  | .extent _ _ => Config.recBytes 5
  | .segment _ _ => Config.recBytes 6
  | .format => Config.recBytes 7

/-- Most bytes the tail holds: 32,768 × T_j. -/
def Dev.tailLimit (d : Dev) : Nat := 32768 * min (d.chan 0).targets (d.chan 16).targets

/-- Records that fit a byte limit, from the oldest; the others wait (R325). -/
def tailFit : Nat → List (JRec × Nat) → List (JRec × Nat)
  | _, [] => []
  | room, r :: rs => if r.1.size ≤ room then r :: tailFit (room - r.1.size) rs else []

/-- A record joins the tail, or waits behind it. -/
def Dev.journal (d : Dev) (c : Clock) (r : JRec) : Dev := { d with flash := { d.flash with tail := d.flash.tail ++ [(r, c.now)] } }

/-- Notes that a map segment has changed (R327). -/
def FChan.touchSeg (x : FChan) (now unit : Nat) : FChan :=
  let seg := unit / 1048576
  if x.dirtySegs.any fun s => s.1 = seg then x else { x with dirtySegs := x.dirtySegs ++ [(seg, now)] }

/-! ### Writes (R323, R324, R330, R331, R334) -/

/-- Programs of a block already issued and done. -/
def FChan.filled (x : FChan) (b : FBlock) : Nat := b.used + (x.progs.filter fun p => p.block = b.no).length

def FChan.oneBitCap (x : FChan) (c : Nat) : Nat := if x.density = 0 then 0 else Config.blockUnits c / x.density

def FChan.oneBitBlocks (x : FChan) : Nat := (x.blocks.filter fun b => b.mode = .oneBit).length

/-- User blocks that hold no data in either mode: the collection reserve is none of them (R330, R332). -/
def FChan.emptyBlocks (x : FChan) : Nat :=
  (x.blocks.filter fun b => b.mode = .free || (b.mode = .oneBit && b.units.isEmpty && x.filled b = 0)).length - x.collectReserve

/-- Size limit of the one-bit buffer in blocks (R330); of the region in the fixed class. -/
def FChan.bufferLimit (x : FChan) (fixedClass : Bool) : Nat := if fixedClass then x.buffer else min (x.good / 10) (x.emptyBlocks / 4)

/-- A buffer once above its limit takes no write until it is below it (R330). -/
def FChan.noteBuffer (x : FChan) (fixedClass : Bool) : FChan :=
  if x.bufferLimit fixedClass < x.oneBitBlocks then { x with bufOver := true }
  else if x.oneBitBlocks < x.bufferLimit fixedClass then { x with bufOver := false }
  else x

/-- A block being emptied takes no writes. -/
def FChan.emptying (x : FChan) (b : FBlock) : Bool := x.jobs.any fun j => j.src = b.no

/-- The free block with the lowest erase count, then the lowest number (R333). -/
def FChan.freshBlock (x : FChan) : Option FBlock :=
  leastBy (fun (a b : FBlock) => a.erases < b.erases || (a.erases = b.erases && a.no ≤ b.no)) (x.blocks.filter fun b => b.mode = .free)

def FChan.setMode (x : FChan) (no : Nat) (m : BlockMode) : FChan := { x with blocks := updIf (fun b => b.no = no) (fun b => { b with mode := m }) x.blocks }

/-- Dense destination: an open dense block, or a free one opened. -/
def FChan.denseDest (x : FChan) (c : Nat) : Option (Nat × FChan) :=
  match x.blocks.find? fun b => b.mode = .dense && !(x.emptying b) && x.filled b < Config.blockUnits c with
  | some b => some (b.no, x)
  | none => x.freshBlock.map fun b => (b.no, x.setMode b.no .dense)

/-- Destination of a write: one-bit blocks while the buffer has free space, otherwise dense (R331). -/
def FChan.writeDest (y : FChan) (fixedClass : Bool) (c : Nat) : Option (Nat × FChan) :=
  let x := y.noteBuffer fixedClass
  let fits := fixedClass || (x.oneBitBlocks ≤ x.bufferLimit fixedClass && !x.bufOver)
  match (if fits then x.blocks.find? fun b => b.mode = .oneBit && !(x.emptying b) && x.filled b < x.oneBitCap c else none) with
  | some b => some (b.no, x)
  | none =>
    if !fixedClass && x.oneBitBlocks < x.bufferLimit fixedClass then
      match x.freshBlock with
      | some b => some (b.no, x.setMode b.no .oneBit)
      | none => x.denseDest c
    else x.denseDest c

/-- All four pages of a channel's unit are in the pool (R323). -/
def Dev.unitPooled (d : Dev) (c unit : Nat) : Bool :=
  match d.flash.ownerOf c unit with
  | none => false
  | some o => (List.range 4).all fun i => d.poolHas o.1 (4 * o.2 + i)

/-- Issues a program of a unit to a destination, on the next page of its block; it takes the next WSEQ (R324). A bad unit of which some page is not in the pool stays bad (R322). -/
def Dev.program (d : Dev) (c : Nat) (unit : Nat) (src : Option Nat) (dest : Option (Nat × FChan)) : Dev :=
  match dest with
  | none => d.updChan c fun x => { x with queue := x.queue ++ [unit] }
  | some v =>
    let page := ((v.2.blocks.find? fun b => b.no = v.1).map v.2.filled).getD 0
    let whole := src.isNone && (!(v.2.badUnits.contains unit) || d.unitPooled c unit)
    let p : FProg := ⟨d.flash.wseq, unit, v.1, page, whole, src, ((NMap.get? v.2.map unit).map (·.wseq)).getD 0⟩
    { d with flash := { d.flash with wseq := d.flash.wseq + 1, chans := vupdN d.flash.chans c fun _ => { v.2 with progs := v.2.progs ++ [p] } } }

/-- A unit rewritten while some of its pages are not in the pool has them read from flash (R323). -/
def Dev.readRest (d : Dev) (c unit : Nat) : Dev := if d.unitPooled c unit then d else d.issueRead c unit 3 0

/-- Writes a unit in the foreground or as write-back; it waits while free blocks are at the collection reserve, power is failing or the channel is held (R334, R342, R463). -/
def Dev.writeUnit (d : Dev) (c unit : Nat) : Dev :=
  let x := d.chan c
  if d.flash.held || d.chanHeld c || !x.queue.isEmpty || x.freeBlocks ≤ x.collectReserve then d.updChan c fun x => { x with queue := x.queue ++ [unit] }
  else (d.program c unit none (x.writeDest d.flash.fixedClass c)).readRest c unit

/-- Writes unit idx of an owner. -/
def Dev.writeOwned (d : Dev) (key idx : Nat) : Dev :=
  match d.flash.unitAt key idx with
  | none => d
  | some u => d.writeUnit u.1 u.2

/-- Units that waited are written, oldest first, while blocks are free (R334). -/
def Dev.drainWrites (d : Dev) (c : Nat) : Nat → Dev
  | 0 => d
  | n + 1 =>
    let x := d.chan c
    match x.queue with
    | [] => d
    | u :: us =>
      if d.flash.held || d.chanHeld c || d.flash.readOnly || x.freeBlocks ≤ x.collectReserve then d
      else ((({ d with flash := { d.flash with chans := vupdN d.flash.chans c fun y => { y with queue := us } } }).program c u none
        (({ x with queue := us } : FChan).writeDest d.flash.fixedClass c)).readRest c u).drainWrites c n

def Dev.drainAll (d : Dev) (c : Nat) : Dev := d.drainWrites c (d.chan c).queue.length

/-- A unit is still on its way: queued, in program, or with a record not yet durable. -/
def Flash.unitBusy (f : Flash) (c unit : Nat) : Bool :=
  let x := vgetD f.chans c FChan.reset
  let hit := fun (r : JRec) => match r with | .map a u _ _ _ _ => decide (a = c) && decide (u = unit) | _ => false
  x.queue.contains unit || (x.progs.any fun p => p.unit = unit && p.src.isNone) || f.inflight.any hit || f.tail.any fun r => hit r.1

/-! ### Dirty pool frames (R281 to R284) -/

/-- A page whose unit has an uncorrectable codeword, or whose extent was dropped, reads as uncorrectable until the unit is written whole (R322, R338). -/
def Dev.pageBad (d : Dev) (key page : Nat) : Bool :=
  match d.flash.unitAt key (page / 4) with
  | some u => (d.chan u.1).badUnits.contains u.2
  | none => ((d.flash.extents.filter fun e => e.2.owner = key)[page / 16384]?).isSome

/-- Write-back of a page's unit begins at once; the read-only state stops it (R283, R339). -/
def Dev.writeBack (d : Dev) (key page : Nat) : Dev := if d.flash.readOnly then d else d.writeOwned key (page / 4)

/-- A write to a page of a store on flash: it is made to a pool frame, which becomes dirty; a page not in the pool is filled first, and write-back begins once the frame holds it (R281, R283). -/
def Dev.dirtyPage (d : Dev) (c : Clock) (t : Tier) (key page tenant : Nat) : Dev :=
  let hit := d.poolHas key page
  let d1 := ((if hit then d.touchPool c key page else d).fillPage c ⟨t, key, page, tenant, true⟩).count (if hit then 64 else 65) 0 1
  if d1.poolHas key page then d1.writeBack key page else d1

/-- Frames of a durable unit become clean unless a later write of it is on its way (R283); requests that waited for a frame try again. -/
def Dev.cleanUnit (d : Dev) (t : Clock) (c unit : Nat) : Dev :=
  if d.flash.unitBusy c unit then d
  else
    match d.flash.ownerOf c unit with
    | none => d
    | some o =>
      let hit := fun (f : PoolFrame) => f.key = o.1 && f.page / 4 = o.2 && f.dirty && !f.spill
      let n := (d.mem.pool.filter hit).length
      ((({ d with mem := { d.mem with pool := updIf hit (fun f => { f with dirty := false }) d.mem.pool } }).count 67 0 n).retryPool t).sweepFrees t

/-- The read of a requested page has failed for good: the frame is given up, so that a reader meets the failure itself; a frame that waits to be written takes the write (R177, R281, R322). -/
def Dev.fillFails (d : Dev) (c : Clock) (key page : Nat) : Dev :=
  ({ d with mem := { d.mem with fills := d.mem.fills.filter fun x => x != (key, page),
                                pool := d.mem.pool.filter fun f => !(f.key = key && f.page = page && f.busy && !f.spill) } }).retryPool c

/-- A requested page of a fill has arrived; a write that waited for it goes back to flash (R282, R283). -/
def poolFillComplete (key page : Nat) (c : Clock) (d : Dev) : Dev :=
  if d.mem.fills.contains (key, page) then
    let w := d.mem.pool.any fun f => f.key = key && f.page = page && f.writing
    if d.pageBad key page && !w then d.fillFails c key page
    else
      let d1 := d.fillDone c key page
      if w then d1.writeBack key page else d1
  else d

def execPoolFillComplete (t : Nat) (key page : Nat) (s : State) : Host.Outcome State Fault Refusal :=
  happens (.poolFillComplete t key page) t (·.onDev (poolFillComplete key page)) s

/-! ### Failing blocks (R336 to R340) -/

/-- Copies of leaves that home a list or a store on the channel (R338, R340). -/
def Dev.failHomed (d : Dev) (c : Clock) (ch : Nat) : Dev :=
  let onCh := fun (key : Nat) => d.flash.extents.any fun e => e.2.owner = key && e.2.chan = ch
  let hit := fun (l : Leaf) => (l.lists.any fun x => x.plan.tier = .flash && x.plan.homeChan.val = ch) || onCh (storeKey l.parcel 0) || onCh (storeKey l.parcel 1)
  (d.leaves.filter hit).foldl (fun x l => x.failCopy c l.parcel) d

/-- Capacity that lists homed on the channel need. -/
def Dev.pinnedBytes (d : Dev) (ch : Nat) : Nat := Config.extentBytes * (d.flash.extents.filter fun e => e.2.chan = ch && e.2.pinned).length

/-- A channel without capacity for its own lists fails the copies that home them there (R338). -/
def Dev.checkPinned (d : Dev) (c : Clock) (ch : Nat) : Dev :=
  if d.pinnedBytes ch ≤ (d.chan ch).user then d
  else (d.leaves.filter fun l => l.lists.any fun x => x.plan.tier = .flash && x.plan.homeChan.val = ch).foldl (fun x l => x.failCopy c l.parcel) d

/-- Retires a block: a spare takes its place and its role, or the capacity falls; channels 0 and 16 without a spare make the flash read-only (R336, R338, R339). -/
def Dev.retireBlock (d : Dev) (c : Clock) (ch no cause : Nat) : Dev :=
  let x := d.chan ch
  let role := ((x.blocks.find? fun b => b.no = no).map (·.mode)).getD .free
  let keeps : BlockMode := if role = .journal || role = .mapSeg || (role = .oneBit && d.flash.fixedClass) then role else .free
  let spare := x.blocks.find? fun b => b.mode = .spare
  let set := fun (y : FChan) =>
    let y1 := { y with blocks := updIf (fun b => b.no = no) (fun b => { b with mode := .retired, units := [] }) y.blocks, retired := y.retired + 1,
                       jobs := y.jobs.filter fun j => j.src != no, refresh := y.refresh.filter fun b => b != no }
    match spare with
    | some s => { (if role = .spare then y1 else y1.setMode s.no keeps) with spares := y.spares - 1, state := if y.spares = 1 && y.state = .up then .noSpares else y.state }
    | none => { y1 with user := y.user - blockCap ch, state := if y.state = .up then .noSpares else y.state }
  let d1 := ((d.updChan ch set).journal c (.retire ch no cause)).count 86 ch 1
  let d2 := d1.logErr c 1 3 ch 4 no Config.noParcel 1 0
  let d3 := if spare.isNone && (ch = 0 || ch = 16) then { d2 with flash := { d2.flash with readOnly := true } } else d2
  if spare.isNone then d3.checkPinned c ch else d3

/-! ### flash.format (R346) -/

def flashBad (d : Dev) : Bool := d.flash.noFlash

/-- A leaf with a row store on flash. -/
def LeafFlash (x : LeafCfg) : Bool := x.vecTier != .pin || (x.payloadLen != 0 && x.payTier != .pin)

/-- Some flash-homed list, store, model image or region exists. -/
def Dev.flashInUse (d : Dev) : Bool := !d.flash.extents.isEmpty || d.leaves.any fun (l : Leaf) => (l.cfg.map LeafFlash).getD false

def flashFormatBad (_ : Clock) (d : Dev) (_ : Cmd) : Bool := flashBad d

/-- A flash command that was taken earlier is still running (R346). -/
def Dev.flashCmdBefore (d : Dev) (r : Ref) : Bool :=
  (d.cmds.running.takeWhile fun x => x.ref != r).any fun x => !x.abandoned && 0x0900 ≤ x.opcode && x.opcode ≤ 0x0902

/-- Starts erasing every good block of every working channel; it waits while a journal channel is tested (R528). -/
def flashFormatRun (_ : Clock) (d : Dev) (cmd : Cmd) : Dev :=
  if d.flashInUse || d.flash.format.isSome || d.flashCmdBefore cmd.ref then d.refuse cmd.ref stBusy
  else if d.journalTested then d
  else
    let start := fun (x : FChan) =>
      if x.serving then { x with erases := (x.blocks.filter fun b => b.mode != .retired).map (·.no), progs := [], reads := [], jobs := [], queue := [] } else x
    let chans := d.flash.chans.map start
    { d with flash := { d.flash with chans := chans, format := some cmd.ref, formatLeft := natSum (chans.toList.map fun x => x.erases.length),
                                     formatTotal := natSum (chans.toList.map fun x => x.erases.length),
                                     tail := [], inflight := [] } }

def flashFormat (k : Take) : Clock → Dev → Dev := runSlot 0x0900 allRows flashFormatBad noAreas flashFormatRun k

def execFlashFormat (k : Take) (s : State) : Host.Outcome State Fault Refusal :=
  happens (.flashFormat k) k.t (·.onDev (flashFormat k)) s

/-- Frames of the translation map: 4 bytes for each user unit (R323). -/
def Dev.mapFrames (d : Dev) : Nat := framesOf (4 * natSum (d.flash.chans.toList.map fun x => x.user / Config.flashPage))

/-- The map takes its MIRROR frames as they now must be, where the stacks have room (R265, R323; log 25). -/
def Dev.placeMap (d : Dev) : Dev :=
  let d1 := d.free mapRegion
  if d1.mapFrames = 0 || !(d1.canAlloc .mirror d1.pairsUp d1.mapFrames) then d1 else d1.alloc mapRegion .mirror d1.pairsUp d1.mapFrames .pin 1

/-- Every block is erased and verified: reserves and class anew, and the FORMAT record (R329, R332, R346). -/
def Dev.formatDone (d : Dev) (c : Clock) : Dev :=
  let fx := d.classFixed
  let chans := Vector.ofFn fun (i : Fin 32) => if d.flash.chans[i].serving then d.flash.chans[i].roles fx i.val else d.flash.chans[i]
  (({ d with flash := { d.flash with chans := chans, fixedClass := fx, durable := [], dropped := 0, unformatted := false } }).placeMap).journal c .format

/-- The FORMAT record is durable: read-only clears when channels 0 and 16 have spares, and the command ends. -/
def Dev.formatEnd (d : Dev) (c : Clock) : Dev :=
  match d.flash.format with
  | none => d
  | some r =>
    let ok := decide ((d.chan 0).spares > 0) && decide ((d.chan 16).spares > 0)
    ({ d with flash := { d.flash with format := none, readOnly := d.flash.readOnly && !ok } }).endCmd c r stOk 0 0 []

/-! ### flash.discard (R341) -/

def flashDiscardBad (_ : Clock) (d : Dev) (cmd : Cmd) : Bool :=
  flashBad d || cmd.f 0x48 8 % 4096 != 0 || cmd.f 0x50 8 % 4096 != 0 ||
    (match d.tierRegion (cmd.f 0x40 8) with | none => true | some r => decide (r.tier = .pin) || decide (cmd.f 0x48 8 + cmd.f 0x50 8 > r.len))

/-- Whole units of a byte range. -/
def wholeUnits (off len : Nat) : List Nat :=
  ((List.range (len / Config.flashPage + 1)).map (· + ceilDiv off Config.flashPage)).filter fun u => (u + 1) * Config.flashPage ≤ off + len

/-- Unmaps some whole units of a range with their pool frames, and drops clean frames of the range when told; a frame with the only copy of its page stays. -/
def Dev.unmapRange (d : Dev) (key off len : Nat) (clean : Bool) (units : List Nat) : Dev :=
  let drops := fun (f : PoolFrame) => f.key = key && !f.busy && !f.spill && off ≤ 4096 * f.page && 4096 * f.page < off + len && (units.contains (f.page / 4) || (clean && !f.dirty))
  let d1 := { d with mem := { d.mem with pool := d.mem.pool.filter fun f => !(drops f) } }
  units.foldl (fun (x : Dev) u =>
    match x.flash.unitAt key u with
    | none => x
    | some v =>
      if (NMap.get? (x.chan v.1).map v.2).isNone then x
      else (x.updChan v.1 fun y =>
        { y with map := NMap.del y.map v.2, badUnits := y.badUnits.filter fun b => b != v.2, queue := y.queue.filter fun b => b != v.2,
                 blocks := y.blocks.map fun b => { b with units := b.units.filter fun w => w != v.2 } }).count 92 0 1) d1

/-- A hint: which units are unmapped and whether clean frames are dropped is open (R341), so a free value says it (log 27). In the read-only state nothing is (R339); while a format runs the command is refused, and while a journal channel is tested it waits (R346, R528). -/
def flashDiscardRun (c : Clock) (d : Dev) (cmd : Cmd) : Dev :=
  if d.flash.format.isSome then d.refuse cmd.ref stBusy
  else if d.journalTested then d
  else
    let r := d.fresh
    let us := ((wholeUnits (cmd.f 0x48 8) (cmd.f 0x50 8)).zipIdx.filter fun (x : Nat × Nat) => r.1.testBit (x.2 + 1)).map (·.1)
    (if d.flash.readOnly then d else r.2.unmapRange (regionKey (cmd.f 0x40 8)) (cmd.f 0x48 8) (cmd.f 0x50 8) (r.1.testBit 0) us).endCmd c cmd.ref stOk 0 0 []

def flashDiscard (k : Take) : Clock → Dev → Dev := runSlot 0x0901 allRows flashDiscardBad noAreas flashDiscardRun k

def execFlashDiscard (k : Take) (s : State) : Host.Outcome State Fault Refusal :=
  happens (.flashDiscard k) k.t (·.onDev (flashDiscard k)) s

/-! ### flash.health (R347) -/

def FChan.health (x : FChan) (c : Nat) : List Byte :=
  let live := x.blocks.filter fun b => b.mode != .retired
  let mean := if live.isEmpty then 0 else natSum (live.map (·.erases)) / live.length
  leBytes 1 (chanStateNat x.state) ++ leBytes 1 (if x.state = .off then 0 else x.density) ++ leBytes 1 x.targets ++ [0] ++ leBytes 4 x.rate ++
    leBytes 8 x.user ++ leBytes 8 x.alloc ++ leBytes 4 x.good ++ leBytes 4 x.spares ++ leBytes 4 x.retired ++ leBytes 4 x.freeBlocks ++
    leBytes 4 x.oneBitBlocks ++ leBytes 4 ((x.blocks.map (·.erases)).foldl max 0) ++ leBytes 4 mean ++
    leBytes 4 (if x.state = .off then 0 else Config.ratedCycles c) ++ leBytes 4 x.uncorrectable ++ leBytes 4 0

def flashHealthBytes (d : Dev) : List Byte :=
  let flags := boolNat d.flash.readOnly + 2 * boolNat d.flash.fixedClass + 4 * boolNat d.flash.noFlash
  let sum := fun (f : FChan → Nat) => natSum (d.flash.chans.toList.map f)
  padTo 64 (leBytes 4 flags ++ leBytes 4 0 ++ leBytes 8 (sum (·.user)) ++ leBytes 8 (sum (·.alloc)) ++ leBytes 4 d.flash.dropped) ++
    ((List.range 32).map fun c => (d.chan c).health c).flatten

def flashHealthBad (_ : Clock) (_ : Dev) (cmd : Cmd) : Bool := cmd.resultLen < 2112

def flashHealthRun (c : Clock) (d : Dev) (cmd : Cmd) : Dev :=
  if d.journalTested then d else (d.result cmd 0 (flashHealthBytes d)).endCmd c cmd.ref stOk 0 32 []

def flashHealth (k : Take) : Clock → Dev → Dev := runSlot 0x0902 allRows flashHealthBad noAreas flashHealthRun k

def execFlashHealth (k : Take) (s : State) : Host.Outcome State Fault Refusal :=
  happens (.flashHealth k) k.t (·.onDev (flashHealth k)) s

/-! ### Work that waited for a channel (R463, R528) -/

/-- A hold, a test or a reset of a channel may have ended: queued writes and fills go on. -/
def Dev.chansGoOn (d : Dev) (c : Clock) : Dev := ((List.range 32).foldl (fun (x : Dev) ch => x.drainAll ch) d).retryPool c

/-- Flash commands that waited for a test of a journal channel run. -/
def Dev.flashAgain (d : Dev) (c : Clock) : Dev :=
  if d.journalTested then d
  else (d.cmds.running.filter fun x => !x.abandoned && some x.ref != d.flash.format).foldl (fun (x : Dev) cmd =>
    match cmd.opcode with
    | 0x0900 => flashFormatRun c x cmd
    | 0x0901 => flashDiscardRun c x cmd
    | 0x0902 => flashHealthRun c x cmd
    | _ => x) d

/-! ### Collection, folding, patrol (R331, R333 to R337) -/

/-- Background reads of a channel may start: not held (R463), not in power failure, the governor leaves them some time, and flash is not quiesced for PS2 or PS3 (R342, R345, R471). -/
def Dev.backReads (d : Dev) (c : Nat) : Bool :=
  (d.chan c).serving && !(d.chanHeld c) && !d.flash.held && d.flash.format.isNone && d.pwr.bgNotch < 4 && d.pwr.ps.toNat < 2 && !(d.pwr.transition.isSome && 2 ≤ d.pwr.target.toNat)

/-- Background work that writes: none in the read-only state (R339). -/
def Dev.backRuns (d : Dev) (c : Nat) : Bool := d.backReads c && !d.flash.readOnly

/-- A job with nothing left to copy puts its GC record into the tail (R335, step 2). -/
def Dev.logJob (d : Dev) (c : Clock) (ch src : Nat) : Dev :=
  match (d.chan ch).jobs.find? fun j => j.src = src with
  | none => d
  | some j =>
    if !j.left.isEmpty || j.logged then d
    else (d.updChan ch fun x => { x with jobs := updIf (fun y => y.src = src) (fun y => { y with logged := true }) x.jobs }).journal c (.gc ch src j.copied)

/-- Units with a program into a block under way, or with a record of one not yet durable. -/
def Flash.pendingIn (f : Flash) (c no : Nat) : List Nat :=
  let of := fun (r : JRec) => match r with
    | .map a u b _ _ _ => if a = c && b = no then [u] else []
    | .gc a _ copies => if a = c then (copies.filter fun k => k.2.1 = no).map (·.1) else []
    | _ => []
  (((vgetD f.chans c FChan.reset).progs.filter fun p => p.block = no).map (·.unit)) ++ ((f.inflight ++ f.tail.map (·.1)).map of).flatten

/-- Starts emptying a block: every valid unit is copied, and one still on its way into the block is awaited (R326, R335, step 1). -/
def Dev.startJob (d : Dev) (c : Clock) (ch : Nat) (kind : JobKind) (b : FBlock) : Dev :=
  let d1 := d.updChan ch fun x =>
    { x with jobs := x.jobs ++ [⟨kind, b.no, b.units ++ d.flash.pendingIn ch b.no, [], false, false⟩], refresh := x.refresh.filter fun n => n != b.no }
  let d2 := b.units.foldl (fun (x : Dev) u => (x.issueRead ch u 3 0).program ch u (some b.no) ((x.chan ch).denseDest ch)) d1
  d2.logJob c ch b.no

/-- The block collection picks (R333): fewest valid units, then fewest erases, then lowest number. -/
def FChan.collectPick (x : FChan) : Option FBlock :=
  leastBy (fun (a b : FBlock) => decide (a.units.length < b.units.length) ||
      (a.units.length = b.units.length && (decide (a.erases < b.erases) || (a.erases = b.erases && decide (a.no ≤ b.no)))))
    (x.blocks.filter fun b => b.mode = .dense && !(x.emptying b))

def weekNs : Nat := 604800000000000

/-- A refresh within 7 days of the last retires the block afterwards (R337). -/
def refreshKind (now : Nat) (b : FBlock) : JobKind :=
  match b.refreshed with
  | some t => if now ≤ t + weekNs then .retire else .refresh
  | none => .refresh

def collectionStart (c : Chan) (k : Clock) (d : Dev) : Dev :=
  let x := d.chan c.val
  if !(d.backRuns c.val) then d
  else
    match x.refresh.findSome? fun n => x.blocks.find? fun b => b.no = n && (b.mode = .dense || b.mode = .oneBit) && !(x.emptying b) with
    | some b => d.startJob k c.val (refreshKind k.now b) b
    | none =>
      if x.freeBlocks < 2 * x.collectReserve then
        match x.collectPick with
        | some b => d.startJob k c.val .collect b
        | none => d
      else d

def execCollectionStart (t : Nat) (c : Chan) (s : State) : Host.Outcome State Fault Refusal :=
  happens (.collectionStart t c) t (·.onDev (collectionStart c)) s

/-- Foreground work of a channel (R331). -/
def FChan.foreground (x : FChan) : Bool := !x.queue.isEmpty || (x.reads.any fun r => r.cls < 3) || x.progs.any fun p => p.src.isNone

/-- Folding of one one-bit block (R331). -/
def fold (c : Chan) (k : Clock) (d : Dev) : Dev :=
  let x := d.chan c.val
  let used := (x.blocks.filter fun b => b.mode = .oneBit && b.used > 0).length
  if !(d.backRuns c.val && (2 * used > x.bufferLimit d.flash.fixedClass || !x.foreground)) then d
  else
    match x.blocks.find? fun b => b.mode = .oneBit && b.used > 0 && !(x.emptying b) with
    | none => d
    | some b => d.startJob k c.val .foldJob b

def execFold (t : Nat) (c : Chan) (s : State) : Host.Outcome State Fault Refusal :=
  happens (.fold t c) t (·.onDev (fold c)) s

/-- The weekly read of a block, each of its programmed pages once; one under R322's condition is queued for refresh (R333). Pages of valid units are reads of their own, whose ends tell how they went (R322); pages that hold none count at once. -/
def patrolRead (c : Chan) (block : Nat) (heavy : Bool) (k : Clock) (d : Dev) : Dev :=
  match (d.chan c.val).blocks.find? fun b => b.no = block with
  | none => d
  | some b =>
    if !(d.backReads c.val) || b.mode = .retired then d
    else
      let d1 := (d.updChan c.val fun y =>
        { y with blocks := updIf (fun b => b.no = block) (fun b => { b with patrol := k.now }) y.blocks,
                 refresh := if heavy && !(y.refresh.contains block) then y.refresh ++ [block] else y.refresh }).count 81 (4 * c.val + 3) (b.used - b.units.length)
      b.units.foldl (fun (y : Dev) u => y.issueRead c.val u 3 0) d1

def execPatrolRead (t : Nat) (c : Chan) (block : Nat) (heavy : Bool) (s : State) : Host.Outcome State Fault Refusal :=
  happens (.patrolRead t c block heavy) t (·.onDev (patrolRead c block heavy)) s

/-- A map segment with changes is written to its channel, and a SEGMENT record names it (R327). -/
def segmentCheckpoint (c : Chan) (seg : Nat) (k : Clock) (d : Dev) : Dev :=
  if !((d.chan c.val).serving && !(d.chanHeld c.val) && !d.flash.held && !d.flash.readOnly && ((d.chan c.val).dirtySegs.any fun x => x.1 = seg)) then d
  else ((d.updChan c.val fun x => { x with dirtySegs := x.dirtySegs.filter fun y => y.1 != seg }).count 84 c.val (Config.segmentBytes / Config.flashPage)).journal k (.segment c.val seg)

def execSegmentCheckpoint (t : Nat) (c : Chan) (seg : Nat) (s : State) : Host.Outcome State Fault Refusal :=
  happens (.segmentCheckpoint t c seg) t (·.onDev (segmentCheckpoint c seg)) s

/-- The most recently allocated extent of a channel that may move (R338). -/
def Flash.lastExtent (f : Flash) (c : Nat) : Option (Nat × Extent) := (f.extents.filter fun e => e.2.chan = c && !e.2.pinned).getLast?

/-- An extent is on its way to another channel. -/
def Flash.migrating (f : Flash) (e : Nat) : Bool :=
  let hit := fun (r : JRec) => match r with | .extent x _ => decide (x = e) | _ => false
  f.inflight.any hit || f.tail.any fun r => hit r.1

/-- Drops an extent: its units read as uncorrectable (R338). Channel number 32 stands for none. -/
def Dev.dropExtent (d : Dev) (c : Clock) (no : Nat) (e : Extent) : Dev :=
  let inE := fun (u : Nat) => u / 4096 = e.slot
  let d1 := d.updChan e.chan fun x =>
    { x with alloc := x.alloc - Config.extentBytes, map := x.map.filter fun y => !(inE y.1), blocks := x.blocks.map fun b => { b with units := b.units.filter fun u => !(inE u) } }
  ({ d1 with flash := { d1.flash with extents := NMap.put d1.flash.extents no { e with chan := 32 }, dropped := d1.flash.dropped + 1 } }).logErr c 2 3 e.chan 5 no Config.noParcel 1 0

/-- Migration of one extent of a channel whose extents exceed its capacity (R338); its EXTENT record moves it when durable. -/
def extentMigration (c : Chan) (k : Clock) (d : Dev) : Dev :=
  let x := d.chan c.val
  if !(d.backRuns c.val) || x.alloc ≤ x.user then d
  else
    match d.flash.lastExtent c.val with
    | none => d.checkPinned k c.val
    | some e =>
      if d.flash.migrating e.1 then d
      else
        let best := d.bestChan
        if (d.chan best).room < Config.extentBytes then d.dropExtent k e.1 e.2
        else (d.updChan best fun y => { y with alloc := y.alloc + Config.extentBytes }).journal k (.extent e.1 best)

def execExtentMigration (t : Nat) (c : Chan) (s : State) : Host.Outcome State Fault Refusal :=
  happens (.extentMigration t c) t (·.onDev (extentMigration c)) s

def weightOf (w : BitVec 8) : Nat := if w = 0 then 1 else w.toNat

end Sys2Proof.Machine
end

