-- ==== Sys2Proof/Machine/FieldBook.lean ====
section
/-! DEFINITION. The field book and the information commands (R411 to R420, R423, R428, R432), and writes and clearing reads of registers (R419, R426, R540, R541, R544, R477, R526, R348, R384). -/

namespace Sys2Proof.Machine

/-! ### Submission (R414 to R416) -/

/-- An aligned 8-byte write of CMD_WORD. A new SEQ joins the take order, or waits while the slot's command runs (R415). -/
def cmdWordWrite (p : Port) (n : SlotNo) (w : W64) (_ : Clock) (d : Dev) : Dev :=
  if !(d.portOn p) then d
  else
    let busy := d.slotBusy p n
    d.updPort p fun h =>
      let h1 := { h with slots := Mem.wrN h.slots (slotAt n 0) 8 w.toNat }
      let seq := w.toNat / 2 ^ 32
      if seq = 0 || NMap.get? h.lastSeq n.val = some seq then h1
      else if busy then { h1 with deferred := if h.deferred.contains n then h.deferred else h.deferred ++ [n] }
      else { h1 with order := if h.order.contains n then h.order else h.order ++ [n] }

def execCmdWordWrite (t : Nat) (p : Port) (n : SlotNo) (w : W64) (s : State) : Host.Outcome State Fault Refusal :=
  happens (.cmdWordWrite t p n w) t (·.onDev (cmdWordWrite p n w)) s

/-- The waiting slot takes its place in the order once its command has written DONE (R415, R416). -/
def deferredTake (k : Take) (_ : Clock) (d : Dev) : Dev :=
  let h := d.port k.port
  if d.live && h.linkUp && h.deferred.contains k.slot && !(d.slotBusy k.port k.slot) then
    d.updPort k.port fun h =>
      { h with deferred := h.deferred.filter fun x => x != k.slot,
               order := if d.newSeq k.port k.slot && !(h.order.contains k.slot) then h.order ++ [k.slot] else h.order }
  else d

def execDeferredTake (k : Take) (s : State) : Host.Outcome State Fault Refusal :=
  happens (.deferredTake k) k.t (·.onDev (deferredTake k)) s

/-! ### dev.hello (R423, R424) -/

/-- Highest minor of an accepted major. -/
def highestMinor (major : Nat) : Option Nat :=
  if major = 3 then some 2 else if major = 2 then some 1 else if major = 1 then some 0 else none

def helloResult (major minor : Nat) : List Byte := leBytes 2 major ++ leBytes 1 minor ++ [0] ++ leBytes 2 3 ++ [2, 1]

def devHelloBad (_ : Clock) (_ : Dev) (cmd : Cmd) : Bool := cmd.resultLen < 8

def devHelloRun (c : Clock) (d : Dev) (cmd : Cmd) : Dev :=
  match highestMinor (cmd.f 0x40 2) with
  | none => (d.result cmd 0 (helloResult 0 0)).refuse cmd.ref stVersion
  | some m =>
    let minor := min (cmd.f 0x42 1) m
    let d1 := d.updPort cmd.ref.port fun h => { h with agreed := some (cmd.f 0x40 2, minor) }
    (d1.result cmd 0 (helloResult (cmd.f 0x40 2) minor)).endCmd c cmd.ref stOk 0 0 []

def devHello (k : Take) : Clock → Dev → Dev := runSlot 0x0100 allRows devHelloBad noAreas devHelloRun k

def execDevHello (k : Take) (s : State) : Host.Outcome State Fault Refusal :=
  happens (.devHello k) k.t (·.onDev (devHello k)) s

/-! ### dev.info (R432) -/

/-- VERSION of the running image of a kind: its header's field, or the shipped one (R493, log 14). -/
def Dev.fwVersion (d : Dev) (kind : Nat) : Nat :=
  let img := nthD (if d.start.setB then d.start.setBImgs else d.start.setA) kind []
  if img.isEmpty then Config.fwVersion kind % 2 ^ 64 else fieldN img 8 8

/-- "OM-SPT1-A" in ASCII. -/
def orderingCode : List Byte := [0x4F, 0x4D, 0x2D, 0x53, 0x50, 0x54, 0x31, 0x2D, 0x41]

def devInfoHead (d : Dev) : List Byte :=
  padTo 16 orderingCode ++ [0x42, 0x31, 3, 1] ++ leBytes 1 (boolNat (d.start.phase = .backsight)) ++ [0, 0, 0] ++
    ((List.range 3).map fun i => leBytes 8 (d.fwVersion i)).flatten ++
    (d.scan.dies.toList.map fun a => leBytes 2 a.working).flatten ++ (d.scan.chans.toList.map fun a => leBytes 1 a.working).flatten ++
    (d.mem.stk.toList.map fun s => leBytes 1 (if d.untrained then 0 else stackStateNat s.state)).flatten ++
    (d.flash.chans.toList.map fun x => leBytes 1 (chanStateNat x.state)).flatten ++ leBytes 4 Config.eventCodes.length

/-- Event-code entries that fit after the first 256 bytes. -/
def devInfoFit (len : Nat) : Nat := min Config.eventCodes.length ((len - 256) / 8)

def devInfoCodes (n : Nat) : List Byte :=
  ((Config.eventCodes.take n).map fun e => leBytes 4 e.1 ++ leBytes 1 e.2 ++ [0, 0, 0]).flatten

def devInfoBad (_ : Clock) (_ : Dev) (cmd : Cmd) : Bool := cmd.resultLen < 256

def devInfoRun (c : Clock) (d : Dev) (cmd : Cmd) : Dev :=
  let n := devInfoFit cmd.resultLen
  (d.result cmd 0 (padTo 256 (devInfoHead d) ++ devInfoCodes n)).endCmd c cmd.ref
    (if n < Config.eventCodes.length then stShort else stOk) 0 n []

def devInfo (k : Take) : Clock → Dev → Dev := runSlot 0x0101 allRows devInfoBad noAreas devInfoRun k

def execDevInfo (k : Take) (s : State) : Host.Outcome State Fault Refusal :=
  happens (.devInfo k) k.t (·.onDev (devInfo k)) s

/-! ### dev.log_read (R428, R313, R406, R398, R490) -/

def EventRec.bytes (e : EventRec) : List Byte :=
  padTo 64 (leBytes 2 e.type ++ leBytes 1 (boolNat e.overflow) ++ leBytes 1 e.port ++ leBytes 4 e.count ++ leBytes 8 e.dpa ++
    leBytes 8 e.datum ++ leBytes 8 e.fenceT ++ leBytes 2 e.slot)

def ErrRec.bytes (e : ErrRec) : List Byte :=
  padTo 64 (leBytes 1 e.sev ++ leBytes 1 e.source ++ leBytes 1 e.unit ++ leBytes 1 (boolNat e.overflow) ++ leBytes 4 e.code ++
    leBytes 8 e.datum ++ leBytes 8 e.location ++ leBytes 4 e.parcel ++ leBytes 4 e.count ++ leBytes 8 e.cmdId)

/-- Start log entry with its CHECK (R490). -/
def StartLog.bytes (e : StartLog) : List Byte :=
  let b := leBytes 4 e.startNo ++ leBytes 1 e.stake ++ leBytes 1 e.event ++ leBytes 1 e.unit ++ leBytes 1 e.cls ++ leBytes 1 e.set ++
    leBytes 1 e.consec ++ leBytes 2 e.cause ++ leBytes 4 e.elapsed ++ leBytes 8 e.datum ++ leBytes 4 0
  b ++ leBytes 4 (crc32c b)

/-- The records of a log, each as its bytes, and their size. -/
def Dev.logRecords (d : Dev) (p : Port) (log : Nat) : Nat × List (List Byte) :=
  if log = 0 then (64, (d.port p).events.map EventRec.bytes)
  else if log = 1 then (64, d.regs.errLog.map ErrRec.bytes)
  else if log = 2 then (2, (List.range 4096).map fun n => leBytes 2 (d.lateness n))
  else (32, d.start.log.map StartLog.bytes)

def devLogReadBad (_ : Clock) (_ : Dev) (cmd : Cmd) : Bool := cmd.f 0x40 1 > 3

def devLogReadRun (c : Clock) (d : Dev) (cmd : Cmd) : Dev :=
  let r := d.logRecords cmd.ref.port (cmd.f 0x40 1)
  let fit := cmd.resultLen / r.1
  let n := if cmd.f 0x48 4 = 0 then fit else min fit (cmd.f 0x48 4)
  let out := (r.2.drop (cmd.f 0x44 4)).take n
  (d.result cmd 0 out.flatten).endCmd c cmd.ref stOk 0 out.length []

def devLogRead (k : Take) : Clock → Dev → Dev := runSlot 0x0106 allRows devLogReadBad noAreas devLogReadRun k

def execDevLogRead (k : Take) (s : State) : Host.Outcome State Fault Refusal :=
  happens (.devLogRead k) k.t (·.onDev (devLogRead k)) s

/-! ### time.status (R428) -/

def timeStatusBad (_ : Clock) (_ : Dev) (cmd : Cmd) : Bool := cmd.resultLen < 32

def timeStatusBytes (c : Clock) (d : Dev) : List Byte :=
  leBytes 8 c.now ++ leBytes 8 (d.regTimeStatus c) ++ leBytes 8 (d.station c) ++ leBytes 8 (d.ns c)

def timeStatusRun (c : Clock) (d : Dev) (cmd : Cmd) : Dev :=
  (d.result cmd 0 (timeStatusBytes c d)).endCmd c cmd.ref stOk 0 0 []

def timeStatus (k : Take) : Clock → Dev → Dev := runSlot 0x0C00 allRows timeStatusBad noAreas timeStatusRun k

def execTimeStatus (k : Take) (s : State) : Host.Outcome State Fault Refusal :=
  happens (.timeStatus k) k.t (·.onDev (timeStatus k)) s

/-! ### DONE summary and vector 0 (R419, R420) -/

/-- A read of a DONE_SUMMARY word returns its bits and clears them. -/
def doneSummaryRead (p : Port) (word : Fin 8) (_ : Clock) (d : Dev) : Dev :=
  if d.portOn p then
    d.updPort p fun h =>
      { h with readData := h.doneSummary.extractLsb' (64 * word.val) 64,
               doneSummary := h.doneSummary &&& ~~~(((0xFFFFFFFFFFFFFFFF#64).setWidth 512) <<< (64 * word.val)) }
  else d

def execDoneSummaryRead (t : Nat) (p : Port) (word : Fin 8) (s : State) : Host.Outcome State Fault Refusal :=
  happens (.doneSummaryRead t p word) t (·.onDev (doneSummaryRead p word)) s

/-- Vector 0 may be signalled now: enabled, a bit newly set and still set, MOD_US past the last signal. -/
def HostPort.doneDue (h : HostPort) (now : Nat) : Bool :=
  h.doneEn && h.newDone && h.doneSummary != 0 &&
    (match h.lastSignal with | none => true | some t => decide (t + 1000 * h.modUs.toNat ≤ now))

def doneIrqSignal (p : Port) (c : Clock) (d : Dev) : Dev :=
  if (d.port p).doneDue c.now then
    d.updPort p fun h => { h with vectors := h.vectors ++ [(0, c.now)], lastSignal := some c.now, newDone := false }
  else d

def execDoneIrqSignal (t : Nat) (p : Port) (s : State) : Host.Outcome State Fault Refusal :=
  happens (.doneIrqSignal t p) t (·.onDev (doneIrqSignal p)) s

/-! ### Register writes (R426, R540, R541) -/

/-- Writes take effect only through the BAR0 of a port whose link is up and whose bit is set in CTL.ADMIN_PORTS (R541). -/
def Dev.isAdmin (d : Dev) (p : Port) : Bool := d.portOn p && d.regs.adminPorts.getLsbD p.val

def adminPortsWrite (p : Port) (v : W64) (_ : Clock) (d : Dev) : Dev :=
  if d.isAdmin p then { d with regs := { d.regs with adminPorts := v.setWidth 4 } } else d

def execAdminPortsWrite (t : Nat) (p : Port) (v : W64) (s : State) : Host.Outcome State Fault Refusal :=
  happens (.adminPortsWrite t p v) t (·.onDev (adminPortsWrite p v)) s

def TenantCfg.mode (x : TenantCfg) : Nat := boolNat x.aware + 2 * boolNat x.excess + 4 * boolNat x.unpoliced

/-- A write of ADM.SEL captures the tenant's settings and levels (R544). -/
def admSelWrite (p : Port) (v : W64) (_ : Clock) (d : Dev) : Dev :=
  if d.isAdmin p then
    let x := d.tenant (v.setWidth 12).toNat
    { d with adm := { d.adm with sel := v.setWidth 12,
                                 viewCfg := BitVec.ofNat 64 (x.cfg.defUs * 2 ^ 32 + x.cfg.portMask.toNat * 2 ^ 8 + x.cfg.mode),
                                 viewTc := BitVec.ofNat 64 x.tc.level, viewTp := BitVec.ofNat 64 x.tp.level } }
  else d

def execAdmSelWrite (t : Nat) (p : Port) (v : W64) (s : State) : Host.Outcome State Fault Refusal :=
  happens (.admSelWrite t p v) t (·.onDev (admSelWrite p v)) s

/-- Bits of PWR.HOLD[b] that hold a unit; the others are reserved (R477). -/
def holdMask (b : Nat) : BitVec 32 :=
  if b = 0 then 0x3FF else if b = 1 then 0xFFFFF else if b = 2 then 0xFFFEFFFE else if b = 3 then 0xFF else 0

/-- HELLO to every peer in every connection, naming the ports withdrawn (R463). -/
def Dev.helloAll (d : Dev) (ports : List FabPort) : Dev :=
  { d with sent := d.sent ++ d.fab.conns.map fun k => (k.1 / 4, .hello (k.1 % 4) k.2.version ports) }

/-- A held or released fabric port is withdrawn or offered again in a HELLO to every peer (R463). -/
def Dev.withdrawHeld (d : Dev) (mask : BitVec 32) : Dev :=
  let held := (List.finRange 8).filter fun q => mask.getLsbD q.val
  let d1 := { d with fab := { d.fab with ports := Vector.ofFn fun q => { d.fab.ports[q] with withdrawn := mask.getLsbD q.val } } }
  d1.helloAll held

/-- Fabric peers hear of a port that is held or released; work that waited for a channel goes on when its hold ends. -/
def pwrHoldWrite (p : Port) (b : Fin 4) (v : W64) (c : Clock) (d : Dev) : Dev :=
  if d.isAdmin p then
    let m := v.setWidth 32 &&& holdMask b.val
    let d1 := { d with pwr := { d.pwr with hold := vupd d.pwr.hold b fun _ => m } }
    if b.val = 3 && d.pwr.hold[b] != m then d1.withdrawHeld m else if b.val = 2 then d1.chansGoOn c else d1
  else d

def execPwrHoldWrite (t : Nat) (p : Port) (b : Fin 4) (v : W64) (s : State) : Host.Outcome State Fault Refusal :=
  happens (.pwrHoldWrite t p b v) t (·.onDev (pwrHoldWrite p b v)) s

/-- A change of ENABLE or MACSEC_EN retrains the link (R384). -/
def FPort.retrain (f : FPort) (enable macsec : Bool) : FPort :=
  { f with enable := enable, macsecEn := macsec, macsecUp := false, lanes := 0, link := if enable then .training else .disabled }

/-- A port whose link is not UP supplies no time (R362, R384). -/
def Clock.dropPort (c : Clock) (q : FabPort) : Clock := if c.ptpPort = some q then { c with ptpPort := none } else c

def fabPortWrite (p : Port) (q : FabPort) (v : W64) (c : Clock) (d : Dev) : Clock × Dev :=
  if d.isAdmin p then
    let f := d.fab.ports[q]
    if f.enable = v.getLsbD 0 && f.macsecEn = v.getLsbD 1 then (c, d)
    else (c.dropPort q, { d with fab := { d.fab with ports := vupd d.fab.ports q fun f => f.retrain (v.getLsbD 0) (v.getLsbD 1) } })
  else (c, d)

def execFabPortWrite (t : Nat) (p : Port) (q : FabPort) (v : W64) (s : State) : Host.Outcome State Fault Refusal :=
  happens (.fabPortWrite t p q v) t (·.onClk (fabPortWrite p q v)) s

def readShareWrite (p : Port) (v : W64) (_ : Clock) (d : Dev) : Dev :=
  if d.isAdmin p then
    { d with flash := { d.flash with wChain := v.extractLsb' 0 8, wTrav := v.extractLsb' 8 8, wStream := v.extractLsb' 16 8, wBack := v.extractLsb' 24 8 } }
  else d

def execReadShareWrite (t : Nat) (p : Port) (v : W64) (s : State) : Host.Outcome State Fault Refusal :=
  happens (.readShareWrite t p v) t (·.onDev (readShareWrite p v)) s

/-- A read through any port's BAR0 returns the register and clears its RC field (R14, R541). -/
def peakWRead (p : Port) (_ : Clock) (d : Dev) : Dev :=
  if d.portOn p then
    { d.updPort p (fun h => { h with readData := BitVec.ofNat 64 d.regGov }) with pwr := { d.pwr with peakW := 0 } }
  else d

def execPeakWRead (t : Nat) (p : Port) (s : State) : Host.Outcome State Fault Refusal :=
  happens (.peakWRead t p) t (·.onDev (peakWRead p)) s

def tjPeakRead (p : Port) (_ : Clock) (d : Dev) : Dev :=
  if d.portOn p then
    { d.updPort p (fun h => { h with readData := BitVec.ofNat 64 d.regThermal }) with brd := { d.brd with tjPeak := 0 } }
  else d

def execTjPeakRead (t : Nat) (p : Port) (s : State) : Host.Outcome State Fault Refusal :=
  happens (.tjPeakRead t p) t (·.onDev (tjPeakRead p)) s

/-- CTL.FAULT_CTRL (R407). -/
def Dev.writeFault (d : Dev) (v : W64) : Dev :=
  { d with regs := { d.regs with lapseUs := v.extractLsb' 48 16, floorUs := v.extractLsb' 32 16, frac := v.extractLsb' 24 8, wdogMs := v.extractLsb' 16 8 } }

/-- A register of BAR0 that no other row writes: RW fields take the value, W1C bits written 1 clear, the rest is ignored (R14, R15, R539). -/
def Dev.writePlainReg (d : Dev) (addr : Nat) (v : W64) : Dev :=
  if addr = 0x200 then d.writeFault v
  else if addr = 0x10010 then { d with regs := { d.regs with holdPpb := v.extractLsb' 8 8, source := v.extractLsb' 0 2 } }
  else if addr = 0x30008 then { d with pwr := { d.pwr with wakeAt := v } }
  else if addr = 0x30010 then { d with pwr := { d.pwr with capW := v.setWidth 12 } }
  else if addr = 0x30020 then
    { d with brd := { d.brd with pfSeen := d.brd.pfSeen && !(v.getLsbD 33), uvSeen := d.brd.uvSeen && !(v.getLsbD 32) } }
  else if addr = 0x30028 then { d with brd := { d.brd with hotSeen := d.brd.hotSeen && !(v.getLsbD 17) } }
  else if addr = 0x60108 then
    { d with fab := { d.fab with dscp := ⟨#[v.extractLsb' 0 6, v.extractLsb' 6 6, v.extractLsb' 12 6, v.extractLsb' 18 6], rfl⟩ } }
  else if addr = 0x70000 then { d with regs := { d.regs with warmValid := d.regs.warmValid && !(v.getLsbD 3) } }
  else d

/-- Bytes of a slot that a host may write: STATUS_WORD and COUNT_WORD are dropped (R411). -/
def hostWritable (a : Nat) : Bool := !(8 ≤ a % 4096 && a % 4096 < 24)

/-- A plain write into the port's field book; it starts nothing (R414). -/
def Mem.hostWrite : Mem → Nat → List Byte → Mem
  | m, _, [] => m
  | m, a, b :: bs => Mem.hostWrite (if a < 0x200000 && hostWritable a then Mem.wr m a b else m) (a + 1) bs

/-- IRQ_CTRL (R419). -/
def HostPort.writeIrq (h : HostPort) (v : W64) : HostPort :=
  { h with modUs := v.extractLsb' 16 16, eventEn := v.getLsbD 1, doneEn := v.getLsbD 0 }

/-- A write through BAR2: the field book, where an aligned 8-byte write of CMD_WORD is a submission, or IRQ_CTRL in one aligned 8-byte write (R414, R419, R540). -/
def Dev.writeBar2 (d : Dev) (c : Clock) (p : Port) (addr : Nat) (bs : List Byte) : Dev :=
  if addr < 0x200000 && addr % 4096 = 0 && bs.length = 8 then cmdWordWrite p (Fin.ofNat 512 (addr / 4096)) (BitVec.ofNat 64 (leNat bs)) c d
  else if addr < 0x200000 then d.updPort p fun h => { h with slots := Mem.hostWrite h.slots addr bs }
  else if addr = 0x200040 && bs.length = 8 then d.updPort p fun h => h.writeIrq (BitVec.ofNat 64 (leNat bs))
  else d

/-- A write through BAR0 narrower than 8 bytes or unaligned is dropped (R540), and so is one through a port that is no admin port (R541). -/
def Dev.writeBar0 (d : Dev) (c : Clock) (p : Port) (addr : Nat) (bs : List Byte) : Dev :=
  let v := BitVec.ofNat 64 (leNat bs)
  if !(bs.length = 8 && addr % 8 = 0 && d.isAdmin p) then d
  else if addr = 0x180 then adminPortsWrite p v c d
  else if addr = 0x20000 then admSelWrite p v c d
  else if addr = 0x50200 then readShareWrite p v c d
  else
    match arrayIx addr 0x30100 4 with
    | some b => if h : b < 4 then pwrHoldWrite p ⟨b, h⟩ v c d else d
    | none => d.writePlainReg addr v

def registerWrite (p : Port) (bar2 : Bool) (addr : Nat) (data : List Byte) (c : Clock) (d : Dev) : Clock × Dev :=
  if !(d.portOn p) then (c, d)
  else if bar2 then (c, d.writeBar2 c p addr data)
  else
    match arrayIx addr 0x60000 8 with
    | some q =>
      if h : q < 8 then
        (if data.length = 8 && addr % 8 = 0 then fabPortWrite p ⟨q, h⟩ (BitVec.ofNat 64 (leNat data)) c d else (c, d))
      else (c, d)
    | none => (c, d.writeBar0 c p addr data)

def execRegisterWrite (t : Nat) (p : Port) (bar2 : Bool) (addr : Nat) (data : List Byte) (s : State) : Host.Outcome State Fault Refusal :=
  happens (.registerWrite t p bar2 addr data) t (·.onClk (registerWrite p bar2 addr data)) s

end Sys2Proof.Machine
end

