-- ==== Sys2Proof/Machine/Arrays.lean ====
section
/-! DEFINITION. The arrays of a search die: modes, what traverses and waves hold, matrix tasks of a leaf, self-test (R52, R54, R104, R207). -/

namespace Sys2Proof.Machine

/-- Fragments that traverses of a place hold. -/
def Dev.scanning (d : Dev) (p : Place) : Nat := natSum ((d.scan.travs.filter fun t => t.place = p).map fun t => t.frags.length)

/-- Arrays of a die take matrix mode for a task, those in a traverse left out; each mode change is counted (R52, R207). -/
def Dev.toMatrix (d : Dev) (die n : Nat) : Dev :=
  let a := vgetD d.scan.dies die ⟨0, 0⟩
  let want := min n (a.working - d.scanning ⟨false, die⟩)
  ({ d with scan := { d.scan with dies := vupdN d.scan.dies die fun x => { x with matrix := max x.matrix want } } }).count 42 die (want - a.matrix)

/-- Arrays of a die leave matrix mode as far as the traverse needs them: matrix tasks give them up between tiles (R52, R207; log 89). -/
def Dev.toScan (d : Dev) (die n : Nat) : Dev :=
  let a := vgetD d.scan.dies die ⟨0, 0⟩
  let short := d.scanning ⟨false, die⟩ + n - (a.working - a.matrix)
  ({ d with scan := { d.scan with dies := vupdN d.scan.dies die fun x => { x with matrix := x.matrix - short } } }).count 42 die (min short a.matrix)

/-- Arrays that a die's waves may hold: free of traverses, and at most ARRAYS_PER_DIE for each model (R207). -/
def Dev.waveArrays (d : Dev) : Nat :=
  natSum (d.mdl.waves.map fun w => (((d.mdl.models ++ d.mdl.olds).find? fun m => m.uid = w.uid).map (·.arrays)).getD 0)

/-- Array cycles of a matrix task on a die: open (log 116). -/
def Dev.mxCycles (d : Dev) (die : Nat) : Dev := let w := d.fresh; w.2.count 41 die w.1

/-- A matrix task of the leaf itself, coarse selection or list assignment: at most 64 arrays of a die, which one and how many being open (R95, R101, R207; log 89). -/
def Dev.leafTask (d : Dev) : Dev :=
  let w := d.fresh
  let v := w.2.fresh
  (v.2.toMatrix (w.1 % 10) (v.1 % 65)).mxCycles (w.1 % 10)

/-- A die under self-test or in a block reset serves no fragment (R104, R467). -/
def Dev.dieTested (d : Dev) (die : Nat) : Bool := d.tst.bistHolds 0 die || d.inReset 0 die

end Sys2Proof.Machine
end

