-- ==== Sys2Proof/Machine/Numeric.lean ====
section
/-! DEFINITION. Exact arithmetic and its one rounding: binary floating formats, round-half-away, fp32 sums and products, roots, reciprocals and powers of two (R1, R84 to R101, R205, R211 to R213). -/

namespace Sys2Proof.Machine

/-! ### Formats -/

/-- A binary format: exponent bits, fraction bits, bias. -/
structure FloatFmt where
  eb : Nat
  mb : Nat
  bias : Nat
  deriving DecidableEq, Repr

def f32 : FloatFmt := ⟨8, 23, 127⟩
def f16 : FloatFmt := ⟨5, 10, 15⟩
def bf16 : FloatFmt := ⟨8, 7, 127⟩
def e5m2 : FloatFmt := ⟨5, 2, 15⟩
/-- E4M3 has no infinity; its largest pattern is NaN, and decoding and conversion treat it apart. -/
def e4m3 : FloatFmt := ⟨4, 3, 7⟩
/-- E4M3 with an exponent bit more, so that its upper binade rounds as finite numbers. -/
def e4m3Wide : FloatFmt := ⟨5, 3, 7⟩

/-- Fraction bits of the common unit: 2⁻¹⁴⁹, the smallest fp32 subnormal; every value of every format is a multiple. -/
def unit : Nat := 149

def FloatFmt.signBit (f : FloatFmt) : Nat := 2 ^ (f.eb + f.mb)
def FloatFmt.infMag (f : FloatFmt) : Nat := (2 ^ f.eb - 1) * 2 ^ f.mb
def FloatFmt.neg (f : FloatFmt) (w : Nat) : Bool := bitAt w (f.eb + f.mb)
def FloatFmt.mag (f : FloatFmt) (w : Nat) : Nat := w % f.signBit
def FloatFmt.isNaN (f : FloatFmt) (w : Nat) : Bool := f.infMag < f.mag w
def FloatFmt.isInf (f : FloatFmt) (w : Nat) : Bool := f.mag w = f.infMag
def FloatFmt.isFin (f : FloatFmt) (w : Nat) : Bool := f.mag w < f.infMag

/-- Magnitude of a finite word in units of 2⁻¹⁴⁹. -/
def FloatFmt.exact (f : FloatFmt) (w : Nat) : Nat :=
  let e := f.mag w / 2 ^ f.mb
  let m := f.mag w % 2 ^ f.mb
  if e = 0 then m * 2 ^ (150 - (f.bias + f.mb)) else (2 ^ f.mb + m) * 2 ^ (e - 1 + (150 - (f.bias + f.mb)))

/-- Signed value of a finite word in units of 2⁻¹⁴⁹. -/
def FloatFmt.value (f : FloatFmt) (w : Nat) : Int := if f.neg w then -(f.exact w : Int) else f.exact w

/-- Round-half-away of mag · 2⁻ˢ for a natural s, or mag · 2^(−s) for a negative one. -/
def halfAway (mag : Nat) (s : Int) : Nat :=
  if s ≤ 0 then mag * 2 ^ (-s).toNat else (mag + 2 ^ (s.toNat - 1)) / 2 ^ s.toNat

/-- Round-half-away of a signed number. -/
def halfAwayZ (z : Int) (s : Int) : Int := if z < 0 then -(halfAway z.natAbs s : Int) else halfAway z.natAbs s

/-- The word nearest to mag · 2⁻ᵘ, ties away from zero, subnormals kept; too large a magnitude becomes infinity. -/
def FloatFmt.round (f : FloatFmt) (neg : Bool) (mag u : Nat) : Nat :=
  let s := if neg then f.signBit else 0
  if mag = 0 then s
  else
    let q : Int := max ((Nat.log2 mag : Int) - u) (1 - f.bias) - f.mb
    let n := halfAway mag (u + q)
    s + min (n + (q + f.mb + f.bias - 1).toNat * 2 ^ f.mb) f.infMag

/-- The word nearest to z · 2⁻ᵘ; an exact zero is +0. -/
def FloatFmt.roundZ (f : FloatFmt) (z : Int) (u : Nat) : Nat := f.round (z < 0) z.natAbs u

/-- The quiet NaN of R97, and the one NaN that fp32 arithmetic forms here. -/
def nan32 : Nat := 0x7FC00000

/-- A NaN written in a 16-bit format: the manual gives it no payload or sign (log 28). -/
def FloatFmt.someNaN (f : FloatFmt) : Nat :=
  f.infMag + 1 + Config.nanPayload % (2 ^ f.mb - 1) + (if Config.nanPayload / 2 ^ f.mb % 2 = 1 then f.signBit else 0)

/-- A NaN carried to another format: as given when its payload fits (R83), otherwise open. -/
def FloatFmt.carryNaN (f g : FloatFmt) (w : Nat) : Nat :=
  let p := w % 2 ^ f.mb
  let s := if f.neg w then g.signBit else 0
  if f.mb ≤ g.mb then s + g.infMag + p * 2 ^ (g.mb - f.mb)
  else if p % 2 ^ (f.mb - g.mb) = 0 then s + g.infMag + p / 2 ^ (f.mb - g.mb)
  else g.someNaN

/-- Conversion between formats with infinities and round-half-away; the same format changes nothing. -/
def FloatFmt.conv (f g : FloatFmt) (w : Nat) : Nat :=
  if f = g then w
  else if f.isNaN w then f.carryNaN g w
  else if f.isInf w then g.infMag + (if f.neg w then g.signBit else 0)
  else g.round (f.neg w) (f.exact w) unit

/-! ### fp32 arithmetic, every result rounded half-away (R98) -/

/-- add_fp32 of R99. -/
def add32 (a b : Nat) : Nat :=
  if f32.isNaN a || f32.isNaN b then nan32
  else if f32.isInf a then (if f32.isInf b && f32.neg a != f32.neg b then nan32 else a)
  else if f32.isInf b then b
  else
    let z := f32.value a + f32.value b
    if z = 0 then (if f32.neg a && f32.neg b then f32.signBit else 0) else f32.roundZ z unit

/-- A product formed exactly and rounded to fp32. -/
def mul32 (a b : Nat) : Nat :=
  let s := f32.neg a != f32.neg b
  if f32.isNaN a || f32.isNaN b then nan32
  else if f32.isInf a || f32.isInf b then
    (if (f32.mag a = 0) || (f32.mag b = 0) then nan32 else f32.infMag + (if s then f32.signBit else 0))
  else f32.round s (f32.exact a * f32.exact b) (2 * unit)

/-- x · 2^e, rounded once. -/
def scaleF (x : Nat) (e : Int) : Nat :=
  if f32.isNaN x || f32.isInf x then x else f32.round (f32.neg x) (f32.exact x * 2 ^ (e + 126).toNat) (unit + 126)

def neg32 (a : Nat) : Nat := if f32.neg a then a - f32.signBit else a + f32.signBit

/-- fp32 order: a < b, false when either is NaN. -/
def lt32 (a b : Nat) : Bool :=
  !(f32.isNaN a) && !(f32.isNaN b) &&
    (let x := if f32.neg a then -(f32.mag a : Int) else f32.mag a
     let y := if f32.neg b then -(f32.mag b : Int) else f32.mag b
     decide (x < y))

/-- Bitwise integer square root: the bits from i − 1 downwards. -/
def isqrtBits (n : Nat) : Nat → Nat → Nat
  | 0, r => r
  | i + 1, r => isqrtBits n i (if (r + 2 ^ i) * (r + 2 ^ i) ≤ n then r + 2 ^ i else r)

/-- ⌊√n⌋. -/
def isqrt (n : Nat) : Nat := isqrtBits n (Nat.log2 n / 2 + 1) 0

/-- 1/√n, correctly rounded (R86, R212): the floor at 2⁻²⁵⁶ decides every tie and every rounding. -/
def rsqrt32 (n : Nat) : Nat :=
  if f32.isNaN n || (f32.neg n && f32.mag n != 0) then nan32
  else if f32.mag n = 0 then f32.infMag + (if f32.neg n then f32.signBit else 0)
  else if f32.isInf n then 0
  else f32.round false (isqrt (2 ^ (2 * 256 + unit) / f32.exact n)) 256

/-- 1/x, correctly rounded (R212, R213). -/
def inv32 (x : Nat) : Nat :=
  let s := if f32.neg x then f32.signBit else 0
  if f32.isNaN x then nan32
  else if f32.mag x = 0 then f32.infMag + s
  else if f32.isInf x then s
  else f32.round (f32.neg x) (2 ^ (400 + unit) / f32.exact x) 400

/-- A positive integer as fp32. -/
def nat32 (n : Nat) : Nat := f32.round false n 0

/-- ⌊2²⁵⁶ · 2^(−2^−i)⌋, by repeated square roots. -/
def rootTwo : Nat → Nat
  | 0 => 2 ^ 255
  | i + 1 => isqrt (rootTwo i * 2 ^ 256)

/-- Product of the roots for the fraction bits set in fr, which has 64 bits. -/
def expBits (fr : Nat) : Nat → Nat → Nat
  | 0, acc => acc
  | i + 1, acc => expBits fr i (if bitAt fr i then acc * rootTwo (64 - i) / 2 ^ 256 else acc)

/-- 2^z for z ≤ 0, correctly rounded (R213): formed to 2⁻²⁵⁰ before the one rounding (DEDUCED, log 29). An exponent below −151 gives +0; below 2⁻²⁶ in magnitude, 1. -/
def exp2neg (z : Nat) : Nat :=
  if f32.isNaN z then nan32
  else if f32.isInf z then 0
  else
    let m := f32.exact z
    if m > 151 * 2 ^ unit then 0
    else if m < 2 ^ (unit - 26) then 0x3F800000
    else f32.round false (expBits (m / 2 ^ (unit - 64) % 2 ^ 64) 64 (2 ^ 256)) (256 + m / 2 ^ unit)

/-! ### Fixed-order reductions (R99, R212) -/

/-- Chunks of four, zero padded, added in ascending order to what has been summed. -/
def sumChunks : Option Nat → List Nat → Nat
  | acc, a :: b :: c :: d :: ps =>
    let ch := add32 (add32 a b) (add32 c d)
    sumChunks (some (match acc with | none => ch | some x => add32 x ch)) ps
  | acc, [] => acc.getD 0
  | acc, ps =>
    let a := nthD ps 0 0
    let b := nthD ps 1 0
    let c := nthD ps 2 0
    let ch := add32 (add32 a b) (add32 c 0)
    match acc with | none => ch | some x => add32 x ch

def reduceFixed (ps : List Nat) : Nat := sumChunks none ps

/-- dot_fixed of R99 on operands given as fp32 words. -/
def dotFixed (a b : List Nat) : Nat := reduceFixed (List.zipWith mul32 a b)

/-! ### fp16, bf16 and fp8 words as fp32 -/

def h2f (w : Nat) : Nat := f16.conv f32 w
def f2h (w : Nat) : Nat := f32.conv f16 w
/-- A matrix-mode output as fp16 (R100): a NaN stays some NaN. -/
def outH (w : Nat) : Nat := if f32.isNaN w then f16.someNaN else f2h w
def b2f (w : Nat) : Nat := w * 65536
def f2b (w : Nat) : Nat := f32.conv bf16 w

/-- An fp16 word enters matrix mode as bf16 (R98). -/
def h2b (w : Nat) : Nat := f2b (h2f w)

/-- E4M3 to fp32: magnitude 0x7F is NaN, every other pattern finite (R205). -/
def e4m3ToF (w : Nat) : Nat :=
  if w % 128 = 127 then nan32 else f32.round (bitAt w 7) (e4m3.exact w) unit

def e5m2ToF (w : Nat) : Nat := e5m2.conv f32 w

/-- fp32 to E4M3 (R205): beyond ±448 and infinities saturate; NaN becomes the E4M3 NaN. -/
def fToE4m3 (w : Nat) : Nat :=
  if f32.isNaN w then 0x7F
  else
    let s := if f32.neg w then 128 else 0
    if f32.isInf w || f32.exact w > 448 * 2 ^ unit then s + 0x7E else s + min 0x7E (e4m3Wide.round false (f32.exact w) unit)

/-- fp32 to E5M2 (R205): finite values beyond ±57,344 saturate; infinities and NaN are kept. -/
def fToE5m2 (w : Nat) : Nat :=
  if f32.isNaN w || f32.isInf w then f32.conv e5m2 w
  else
    let s := if f32.neg w then 128 else 0
    s + min 0x7B (e5m2.round false (f32.exact w) unit)

/-- An 8-bit two's-complement number. -/
def int8 (w : Nat) : Int := if w % 256 < 128 then (w % 256 : Nat) else (w % 256 : Nat) - 256

def intToF (z : Int) : Nat := f32.roundZ z 0

/-- clamp(round_half_away(z · 2⁻ᵘ · 2⁻ᵉ), −128, 127) as a byte. -/
def toInt8 (z : Int) (u : Nat) (e : Int) : Nat :=
  let r := halfAwayZ z (u + e)
  (max (-128) (min 127 r) % 256).toNat

/-! ### Keys (R102, R103) -/

/-- key_order in service ordering. -/
def keyOrder (w : W32) : Nat :=
  if f32.isNaN w.toNat then 0xFFFFFFFF
  else if w.msb then 0xFFFFFFFF - w.toNat
  else w.toNat + 0x80000000

/-- key_order in check ordering: −0 ranks as +0. -/
def keyOrderCheck (w : W32) : Nat := if w = 0x80000000#32 then keyOrder 0 else keyOrder w

/-- before() of R103 on (key, ID) pairs, service ordering. -/
def keyBefore (k1 : W32) (i1 : Nat) (k2 : W32) (i2 : Nat) : Bool :=
  keyOrder k1 < keyOrder k2 || (keyOrder k1 = keyOrder k2 && i1 < i2)

end Sys2Proof.Machine
end

