-- ==== Sys2Proof/Machine/Codes.lean ====
section
/-! DEFINITION. Query preparation, distance tables, the scale tensor, item encoding, FX blocks, scan keys, rerank keys and coarse keys (R55 to R57, R80 to R101, R224 to R228). -/

namespace Sys2Proof

/-- Search spaces whose vectors are normalised (R82). -/
def Space.normalising (s : Space) : Bool := s.metric = .cosine || (s.metric = .hamming && s.rerank = .cosine)

/-- Metric of the rerank (R80, R82). -/
def Space.rerankMetric (s : Space) : Metric := if s.metric = .hamming then s.rerank else s.metric

/-- Elements of one subspace (R81). -/
def Space.sub (s : Space) : Nat := if s.m = 0 then 0 else s.dim / s.m

/-- Entries of one subspace's table (R55). -/
def CodeKind.entries (k : CodeKind) : Nat := match k with | .bit8 => 256 | .bit4 => 16 | .binary => 0

/-- Values of M a code kind allows (R55). -/
def CodeKind.subcodes (k : CodeKind) (m : Nat) : Bool :=
  match k with
  | .bit8 => 8 ≤ m && m ≤ 64 && m % 8 = 0
  | .bit4 => 16 ≤ m && m ≤ 128 && m % 16 = 0
  | .binary => 64 ≤ m && m ≤ 512 && m % 64 = 0

/-- A search space within R18, R55, R80 to R82 and R88: D, M and the code kind agree, binary codes belong to HAMMING, and codebook and projection have the sizes that D and M give. -/
def Space.formed (s : Space) : Bool :=
  8 ≤ s.dim && s.dim ≤ 4096 && s.kind.subcodes s.m && decide ((s.metric = .hamming) = (s.kind = .binary)) &&
    (if s.metric = .hamming then s.m = s.dim && s.rerank != .hamming
     else s.dim % s.m = 0 && s.codebook.length = s.m && s.codebook.all fun es => es.length = s.kind.entries && es.all fun c => c.length = s.dim / s.m) &&
    (match s.projection with | none => s.inWidth = s.dim | some rows => rows.length = s.dim && rows.all fun r => r.length = s.inWidth)

/-- Code bytes of an item (R55). -/
def Space.codeBytes (s : Space) : Nat := match s.kind with | .bit8 => s.m | .bit4 => s.m / 2 | .binary => s.m / 8

end Sys2Proof

namespace Sys2Proof.Machine

/-! ### Preparing a vector (R84 to R87, R95) -/

/-- fp16 words as natural numbers. -/
abbrev Vec16 := List Nat

def allFin (x : Vec16) : Bool := x.all f16.isFin

/-- A finite element in units of 2⁻²⁴. -/
def h24 (w : Nat) : Int := if f16.neg w then -((f16.exact w / 2 ^ 125 : Nat) : Int) else ((f16.exact w / 2 ^ 125 : Nat) : Int)

/-- Element of a codebook entry in units of 2⁻²⁴. R88 gives an infinity or a NaN there no value: a free one (DESIGN CHOICE, log 122). -/
def c24 (w : Nat) : Int := if f16.isFin w then h24 w else Config.nonFinite w

/-- Learned projection in matrix mode, rounded to fp16 (R33, R98 to R100). -/
def project (rows : List (List W16)) (x : Vec16) : Vec16 :=
  let xs := x.map fun w => b2f (h2b w)
  rows.map fun r => f2h (dotFixed (r.map fun w => b2f w.toNat) xs)

def projectBy (s : Space) (x : Vec16) : Vec16 := match s.projection with | none => x | some rows => project rows x

/-- Σ x², exact and rounded once to fp32 (R86, step 1). -/
def norm2 (x : Vec16) : Nat := f32.roundZ ((x.map fun w => h24 w * h24 w).foldl (· + ·) 0) 48

/-- Normalisation to a target format (R86). -/
def normaliseTo (f : FloatFmt) (x : Vec16) : List Nat :=
  let r := f32.exact (rsqrt32 (norm2 x))
  x.map fun w => f.round (f16.neg w) (f16.exact w * r) (2 * unit)

/-- The prepared vector of a query or an item from its fp16 vector, with the vector before normalisation; none when it fails (R85, R86, R95). -/
def prepare (s : Space) (x : Vec16) : Option (Vec16 × Vec16) :=
  let y := projectBy s x
  if s.projection.isSome && !(allFin y) then none
  else if s.normalising then (if !(allFin y) || norm2 y = 0 then none else some (normaliseTo f16 y, y))
  else some (y, y)

/-- Greater than zero, +∞ included (R87). -/
def positive16 (w : Nat) : Bool := !(f16.isNaN w) && !(f16.neg w) && f16.mag w != 0

/-- Number spelt by bits, the first lowest. -/
def boolsNat : List Bool → Nat
  | [] => 0
  | b :: bs => (if b then 1 else 0) + 2 * boolsNat bs

/-- Bits packed, bit b in bit b mod 8 of byte b / 8 (R56, R87). -/
def packBits (bs : List Bool) : List Byte := (List.range (ceilDiv bs.length 8)).map fun i => BitVec.ofNat 8 (boolsNat ((bs.drop (8 * i)).take 8))

def vecBits (x : Vec16) : List Byte := packBits (x.map positive16)

/-! ### Distance tables (R88 to R91) -/

/-- Elements of subspace j. -/
def subOf {α : Type} (s : Space) (j : Nat) (x : List α) : List α := (x.drop (j * s.sub)).take s.sub

/-- Exact value of subspace j and an entry, in units of 2⁻⁴⁸ (R88). -/
def tableValue (metric : Metric) (q c : List Int) : Int :=
  match metric with
  | .l2sq => ((List.zipWith (fun a b => (a - b) * (a - b)) q c).foldl (· + ·) 0)
  | _ => -((List.zipWith (· * ·) q c).foldl (· + ·) 0)

/-- v of every subspace and entry. -/
def tableValues (s : Space) (q : Vec16) : List (List Int) :=
  let qs := q.map h24
  (s.codebook.zipIdx).map fun e => e.1.map fun c => tableValue s.metric (subOf s e.2 qs) (c.map fun w => c24 w.toNat)

def minInt : List Int → Int
  | [] => 0
  | x :: xs => xs.foldl min x

def entryMax (k : CodeKind) : Nat := match k with | .bit8 => 65535 | .bit4 => 255 | .binary => 0

/-- Smallest shift from −63 upwards for which U_max fits (R89, step 4); n steps are left. -/
def findShift (u eMax : Nat) : Nat → Int → Int
  | 0, s => s
  | n + 1, s => if halfAway u (48 + s) ≤ eMax then s else findShift u eMax n (s + 1)

def tableShift (u eMax : Nat) : Int := if u = 0 then 0 else findShift u eMax 103 (-63)

/-- Entries, shift and offsets in units of 2⁻⁴⁸ (R89). -/
def buildTables (s : Space) (q : Vec16) : List (List Nat) × Int × List Int :=
  let v := tableValues s q
  let off := v.map minInt
  let u := List.zipWith (fun (vs : List Int) o => vs.map fun x => (x - o).toNat) v off
  let sh := tableShift ((u.map fun us => us.foldl max 0).foldl max 0) (entryMax s.kind)
  (u.map fun us => us.map fun x => min (halfAway x (48 + sh)) (entryMax s.kind), sh, off)

/-- Bytes of the table set (R90). -/
def tableBytes (s : Space) (t : List (List Nat)) (bits : List Byte) : List Byte :=
  match s.kind with
  | .bit8 => (t.map fun es => (es.map (leBytes 2)).flatten).flatten
  | .bit4 => (t.map fun es => (es.map (leBytes 1)).flatten).flatten
  | .binary => bits

def metricNat : Metric → Nat
  | .l2sq => 0
  | .ip => 1
  | .cosine => 2
  | .hamming => 3

def kindNat : CodeKind → Nat
  | .bit8 => 0
  | .bit4 => 1
  | .binary => 2

def offWord (o : Int) : List Byte := leBytes 4 (f32.roundZ o 48)

/-- CELL_WORD of cell c (R91). -/
def cellWord (s : Space) (off : List Int) (c : Nat) : List Byte :=
  let w := fun i => match off[i]? with | some o => offWord o | none => leBytes 4 0
  match s.kind with
  | .bit8 => w c ++ leBytes 4 0
  | .bit4 => w (2 * c) ++ w (2 * c + 1)
  | .binary => leBytes 8 0

/-- TABLE_TAG over the table set and the tensor without its own four bytes (R91). -/
def tableTag (tables scale : List Byte) : Nat := crc32c (tables ++ scale.take 12 ++ scale.drop 16)

/-- The scale tensor (R91). -/
def scaleTensor (s : Space) (tables : List Byte) (sh : Int) (off : List Int) : List Byte :=
  let head := leBytes 1 (sh % 256).toNat ++ leBytes 1 (metricNat s.metric) ++ leBytes 1 (kindNat s.kind) ++ [0] ++ leBytes 2 s.m ++ leBytes 2 s.dim ++
    leBytes 4 s.planGen
  let cells := ((List.range 64).map (cellWord s off)).flatten
  head ++ leBytes 4 (crc32c (tables ++ head ++ cells)) ++ cells

/-- Tables and scale tensor of a prepared query; a HAMMING query has bits, SHIFT 0 and no offsets (R87, R90, R91). -/
def queryTables (s : Space) (q src : Vec16) : List Byte × List Byte :=
  if s.kind = .binary then (vecBits src, scaleTensor s (vecBits src) 0 [])
  else
    let t := buildTables s q
    let bs := tableBytes s t.1 []
    (bs, scaleTensor s bs t.2.1 t.2.2)

/-! ### Scan keys (R55 to R57, R92) -/

def popByte (b : Byte) : Nat := ((List.range 8).filter fun i => b.getLsbD i).length

/-- Contribution of code byte c to the key: the cell c of R57. -/
def cellKey (kind : CodeKind) (m : Nat) (tables : List Byte) (c v : Nat) : Nat :=
  match kind with
  | .bit8 => if c < m then fieldN tables (512 * c + 2 * v) 2 else 0
  | .bit4 => if 2 * c < m then fieldN tables (32 * c + v % 16) 1 + fieldN tables (32 * c + 16 + v / 16) 1 else 0
  | .binary => if 8 * c < m then popByte (BitVec.ofNat 8 v ^^^ nthD tables c 0) else 0

/-- The key of a code: the sum of 64 cells. -/
def scanSum (kind : CodeKind) (m : Nat) (tables code : List Byte) : Nat :=
  natSum (((code.take 64).zipIdx).map fun e => cellKey kind m tables e.2 e.1.toNat)

/-- As it enters selection: the fp32 word equal to K (R92). -/
def scanKey (kind : CodeKind) (m : Nat) (tables code : List Byte) : W32 := BitVec.ofNat 32 (nat32 (scanSum kind m tables code))

/-! ### FX blocks (R224 to R227) -/

def fxBits (f : Fmt) : Nat := if f = .fx6 then 6 else 4
def fxMag (f : Fmt) : Nat := if f = .fx6 then 31 else 7
/-- Largest exponent in a VECTOR row (R226). -/
def fxMaxE (f : Fmt) : Int := if f = .fx6 then 11 else 13

/-- Smallest exponent from e at which magnitude a · 2⁻²⁴ fits; n steps are left. -/
def fxExp (a magMax : Nat) : Nat → Int → Int
  | 0, e => e
  | n + 1, e => if halfAway a (24 + e) ≤ magMax then e else fxExp a magMax n (e + 1)

/-- fx_encode of R227 on elements in units of 2⁻²⁴: exponent, and each element's code. -/
def fxEncode (f : Fmt) (x : List Int) : Int × List Nat :=
  let a := (x.map Int.natAbs).foldl max 0
  let e := if a = 0 then -24 else fxExp a (fxMag f) (fxMaxE f + 24).toNat (-24)
  (e, x.map fun v =>
    let m := min (fxMag f) (halfAway v.natAbs (24 + e))
    (if v < 0 && m > 0 then fxMag f + 1 else 0) + m)

/-- Number spelt by codes of b bits, the first lowest. -/
def packCodes (b : Nat) : List Nat → Nat
  | [] => 0
  | c :: cs => c + 2 ^ b * packCodes b cs

/-- Groups of 32. -/
def groups32 {α : Type} (x : List α) : List (List α) := (List.range (ceilDiv x.length 32)).map fun i => (x.drop (32 * i)).take 32

/-- A VECTOR row in FX (R225): data bytes, then exponents. -/
def fxRow (f : Fmt) (x : List Int) : List Byte :=
  let bs := (groups32 x).map (fxEncode f)
  (bs.map fun b => leBytes (4 * fxBits f) (packCodes (fxBits f) b.2)).flatten ++ (bs.map fun b => leBytes 1 (b.1 % 256).toNat).flatten

/-- Magnitude and sign of element i of an FX row's data. -/
def fxCode (f : Fmt) (row : List Byte) (i : Nat) : Nat :=
  let b := fxBits f
  leNat ((row.drop (i / 32 * 4 * b)).take (4 * b)) / 2 ^ (b * (i % 32)) % 2 ^ b

/-! ### Stored full vectors (R82, R95) -/

/-- A stored element: a number in units of 2⁻²⁴, an infinity or a NaN. -/
inductive VElem | num (z : Int) | inf (neg : Bool) | nan
  deriving DecidableEq, Repr

def elem16 (w : Nat) : VElem := if f16.isNaN w then .nan else if f16.isInf w then .inf (f16.neg w) else .num (h24 w)

/-- bf16 elements below 2⁻¹⁷ are rounded half-away to multiples of 2⁻²⁴ (R96). -/
def elemB (w : Nat) : VElem :=
  if bf16.isNaN w then .nan else if bf16.isInf w then .inf (bf16.neg w) else .num (halfAwayZ (bf16.value w) 125)

def fmtBytes : Fmt → Nat
  | .int8 => 1
  | .e4m3 => 1
  | .e5m2 => 1
  | .bf16 => 2
  | .fp16 => 2
  | .fp32 => 4
  | .fx6 => 0
  | .fx4 => 0

/-- Bytes of a VECTOR row (R225). -/
def rowBytes (f : Fmt) (dim : Nat) : Nat :=
  match f with
  | .fx6 => dim * 6 / 8 + dim / 32
  | .fx4 => dim * 4 / 8 + dim / 32
  | _ => dim * fmtBytes f

/-- Elements of a stored row. -/
def rowElems (f : Fmt) (dim : Nat) (row : List Byte) : List VElem :=
  (List.range dim).map fun i =>
    match f with
    | .int8 => .num (int8 (fieldN row i 1) * 2 ^ 24)
    | .bf16 => elemB (fieldN row (2 * i) 2)
    | .fp16 => elem16 (fieldN row (2 * i) 2)
    | _ =>
      let c := fxCode f row i
      let e := int8 (fieldN row (dim * fxBits f / 8 + i / 32) 1)
      let m := ((c % (fxMag f + 1) * 2 ^ (24 + e).toNat : Nat) : Int)
      .num (if c / (fxMag f + 1) = 1 then -m else m)

/-- The stored row of an item: y before normalisation, x prepared (R95). -/
def storeRow (s : Space) (f : Fmt) (x y : Vec16) : List Byte :=
  match f with
  | .fp16 => (x.map (leBytes 2)).flatten
  | .bf16 => ((if s.normalising then normaliseTo bf16 y else x.map fun w => f16.conv bf16 w).map (leBytes 2)).flatten
  | .int8 => (x.map fun w => leBytes 1 (toInt8 (h24 w) 24 0)).flatten
  | _ => fxRow f (x.map h24)

/-! ### Items (R83, R95, R228) -/

/-- An input element of magnitude 65,520 or more, given as fp32 (R83). -/
def tooBig (w : Nat) : Bool := f32.isFin w && f32.exact w ≥ 65520 * 2 ^ unit

/-- Stores that hold no infinity or NaN (R228). -/
def finiteOnly (f : Fmt) : Bool := f = .int8 || f = .fx6 || f = .fx4

/-- An item's vector, as fp32 words, that the command's first check refuses (R83, R86, R95, R228). -/
def vectorBad (s : Space) (f : Fmt) (v : List Nat) : Bool :=
  let x := v.map f2h
  v.any tooBig || (finiteOnly f && !(allFin x)) || (finiteOnly f && !(allFin (projectBy s x))) || (prepare s x).isNone

/-- Squared distance of a subvector to an entry; an infinity or NaN makes every entry tie. -/
def subDist (x c : List Nat) : Nat :=
  if x.all f16.isFin then (List.zipWith (fun a b => ((h24 a - c24 b) * (h24 a - c24 b)).natAbs) x c).foldl (· + ·) 0 else 0

/-- Index of the least number, the first among equals. -/
def argMin : List Nat → Nat
  | [] => 0
  | x :: xs => ((xs.zipIdx 1).foldl (fun (acc : Nat × Nat) e => if e.1 < acc.1 then (e.1, e.2) else acc) (x, 0)).2

/-- Code bytes of an item (R56, R95). -/
def encodeCode (s : Space) (x src : Vec16) : List Byte :=
  match s.kind with
  | .binary => vecBits src
  | k =>
    let subs := (s.codebook.zipIdx).map fun e => argMin (e.1.map fun c => subDist (subOf s e.2 x) (c.map (·.toNat)))
    if k = .bit8 then subs.map (BitVec.ofNat 8)
    else (List.range (s.m / 2)).map fun i => BitVec.ofNat 8 (nthD subs (2 * i) 0 + 16 * nthD subs (2 * i + 1) 0)

/-! ### Coarse keys (R101) -/

/-- ‖c‖² of a bf16 centroid, exact and rounded once (R101). -/
def centroidNorm (c : List W16) : W32 :=
  BitVec.ofNat 32 (f32.round false ((c.map fun w => bf16.exact w.toNat * bf16.exact w.toNat).foldl (· + ·) 0) (2 * unit))

def bitDiff (a b : List Byte) : Nat := natSum (List.zipWith (fun x y => popByte (x ^^^ y)) a b)

/-- n_c − 2·dot, rounded once. -/
def l2Coarse (nc dot : Nat) : Nat :=
  if f32.isFin nc && f32.isFin dot then f32.roundZ (f32.value nc - 2 * f32.value dot) unit
  else add32 nc (neg32 dot)

/-- Coarse key of a prepared vector and its bits against a list's centroid (R101). -/
def coarseKey (s : Space) (x : Vec16) (bits : List Byte) (centroid : List W16) (cbits : List Byte) (nc : W32) : W32 :=
  let dot := dotFixed (x.map fun w => b2f (h2b w)) (centroid.map fun w => b2f w.toNat)
  BitVec.ofNat 32 (match s.metric with
    | .l2sq => l2Coarse nc.toNat dot
    | .hamming => nat32 (bitDiff bits cbits)
    | _ => neg32 dot)

/-! ### Rerank keys (R96, R97) -/

/-- Sum of the exact products in units of 2⁻⁴⁸, rounded once. -/
def rerankFinite (metric : Metric) (q x : List Int) : Nat :=
  match metric with
  | .l2sq => f32.roundZ ((List.zipWith (fun a b => (a - b) * (a - b)) q x).foldl (· + ·) 0) 48
  | _ => neg32 (f32.roundZ ((List.zipWith (· * ·) q x).foldl (· + ·) 0) 48)

/-- Infinite term of an inner product: none for a finite term, otherwise its sign, or NaN as `some none`. -/
def ipTerm : VElem → VElem → Option (Option Bool)
  | .nan, _ => some none
  | _, .nan => some none
  | .inf a, .inf b => some (some (a != b))
  | .inf a, .num z => if z = 0 then some none else some (some (a != decide (z < 0)))
  | .num z, .inf b => if z = 0 then some none else some (some (decide (z < 0) != b))
  | .num _, .num _ => none

/-- The key when an element is infinite or NaN (R97). -/
def rerankSpecial (metric : Metric) (q x : List VElem) : Nat :=
  let isNaN := fun (e : VElem) => decide (e = .nan)
  let isInf := fun (e : VElem) => match e with | .inf _ => true | _ => false
  if q.any isNaN || x.any isNaN then nan32
  else if metric = .l2sq then (if q.any isInf || x.any isInf then f32.infMag else nan32)
  else
    let ts := (List.zipWith ipTerm q x).filterMap id
    if ts.contains none || (ts.contains (some true) && ts.contains (some false)) then nan32
    else if ts.contains (some true) then f32.infMag else f32.infMag + f32.signBit

def VElem.num? : VElem → Option Int
  | .num z => some z
  | _ => none

/-- The rerank key of a prepared query and a stored row (R96, R97). -/
def rerankKey (metric : Metric) (q : Vec16) (x : List VElem) : W32 :=
  let qe := q.map elem16
  BitVec.ofNat 32 (if (qe ++ x).all fun e => (e.num?).isSome then rerankFinite metric (qe.filterMap VElem.num?) (x.filterMap VElem.num?)
    else rerankSpecial metric qe x)

end Sys2Proof.Machine
end

