-- ==== Sys2Proof/Machine/Select.lean ====
section
/-! DEFINITION. Filter programs, visibility, selectors and merge stages (R105 to R124, R131, R132). -/

namespace Sys2Proof.Machine

def maxDepth (k nrr : Nat) : Nat := max k nrr

/-- Selection tier by T. -/
def tierNo (t : Nat) : Nat := if t ≤ 64 then 1 else if t ≤ 1024 then 2 else if t ≤ 65536 then 3 else 4

end Sys2Proof.Machine

namespace Sys2Proof

open Sys2Proof.Machine

/-- Value of a term before NOT (R108). -/
def FTerm.value (t : FTerm) (a : Attr) (benchSec : Nat) : Bool :=
  match t.op with
  | 0x01 => decide (a.tags &&& t.mask ≠ 0)
  | 0x02 => decide (a.tags &&& t.mask = t.mask)
  | 0x10 => t.lo ≤ a.numA && a.numA ≤ t.hi
  | 0x11 => t.lo ≤ a.numB && a.numB ≤ t.hi
  | 0x12 => t.lo.sle a.numA && a.numA.sle t.hi
  | 0x13 => t.lo.sle a.numB && a.numB.sle t.hi
  | 0x20 => t.lo ≤ a.expiry && a.expiry ≤ t.hi
  | 0x21 => decide (a.expiry = 0) || decide (benchSec + t.lo.toNat < a.expiry.toNat)
  | _ => false

/-- Expired for a fragment (R107). -/
def Attr.expired (a : Attr) (benchSec : Nat) : Bool := decide (a.expiry ≠ 0) && decide (a.expiry.toNat ≤ benchSec)

/-- An item passes a program (R109). -/
def Filter.passes (f : Filter) (a : Attr) (benchSec : Nat) : Bool :=
  (f.keepExpired || !(a.expired benchSec)) && f.clauses.all fun c => c.any fun t => t.value a benchSec != t.neg

def Cand.before (a b : Cand) : Bool := keyBefore a.key a.id b.key b.id

def Cand.kid (c : Cand) : KeyId := ⟨c.key, c.id⟩

def KeyId.before (a b : KeyId) : Bool := keyBefore a.key a.id b.key b.id

def Frag.t (f : Frag) : Nat := maxDepth f.k f.nrr

def Frag.depth (f : Frag) : Nat := f.t + f.margin

def Frag.tier (f : Frag) : Nat := tierNo f.t

/-- Entries a tier 3 or tier 4 pass keeps (R126, R127). -/
def Frag.passSize (f : Frag) : Nat := if f.tier = 3 then 1024 else 65536

end Sys2Proof

namespace Sys2Proof.Machine

/-! ### Filter programs (R107 to R110) -/




/-- Offset of term t of clause c (R108). -/
def termOff (c t : Nat) : Nat := 0x10 + 24 * (4 * c + t)

def readTerm (bs : List Byte) (o : Nat) : FTerm :=
  let op := fieldN bs o 1
  if op < 3 then ⟨op, bitAt (fieldN bs (o + 1) 1) 0, BitVec.ofNat 128 (fieldN bs (o + 8) 16), 0, 0⟩
  else ⟨op, bitAt (fieldN bs (o + 1) 1) 0, 0, BitVec.ofNat 32 (fieldN bs (o + 8) 4), BitVec.ofNat 32 (fieldN bs (o + 12) 4)⟩

/-- The program of 400 bytes (R108). -/
def readFilter (bs : List Byte) : Filter :=
  ⟨bitAt (fieldN bs 1 1) 0, (List.range (fieldN bs 0 1)).map fun c => (List.range (fieldN bs (4 + c) 1)).map fun t => readTerm bs (termOff c t)⟩

def filterOps : List Nat := [0x01, 0x02, 0x10, 0x11, 0x12, 0x13, 0x20, 0x21]

/-- A term in use that R110 refuses. -/
def termBad (bs : List Byte) (o : Nat) : Bool :=
  let t := readTerm bs o
  !(filterOps.contains t.op) || fieldN bs (o + 1) 1 > 1 || fieldN bs (o + 2) 6 != 0 || (t.op ≥ 0x10 && fieldN bs (o + 16) 8 != 0) ||
    ((t.op = 0x10 || t.op = 0x11 || t.op = 0x20) && decide (t.hi < t.lo)) || ((t.op = 0x12 || t.op = 0x13) && t.hi.slt t.lo) ||
    (t.op = 0x21 && t.hi != 0)

/-- A malformed program (R110). -/
def filterBad (bs : List Byte) : Bool :=
  let n := fieldN bs 0 1
  n > 4 || fieldN bs 1 1 > 1 || fieldN bs 2 2 != 0 || fieldN bs 8 8 != 0 ||
    (List.range 4).any fun c =>
      let k := fieldN bs (4 + c) 1
      (if c < n then !(inRange k 1 4) else k != 0) ||
        (List.range 4).any fun t => if c < n && t < k then termBad bs (termOff c t) else fieldN bs (termOff c t) 24 != 0

/-! ### Order and selectors (R103, R115, R116) -/


/-- Candidates in R103 order. Entries of equal key and ID (one item inserted twice) keep the order of the stream, main blocks before side blocks, so that a full selector or a merge keeps the earlier: R103 and R116 do not say which (DESIGN CHOICE, log 119). -/
def sortCands (xs : List Cand) : List Cand := sortBy (fun a b => !(b.before a)) xs

/-- The best n of a stream, with a horizon when some were discarded (R115, R116). -/
def keepBest (n : Nat) (xs : List Cand) : CList :=
  let s := sortCands xs
  ⟨s.take n, if n < s.length then (s.take n).getLast?.map Cand.kid else none⟩

/-- The earlier of two horizons. -/
def earlier (a b : Option KeyId) : Option KeyId :=
  match a, b with
  | none, y => y
  | x, none => x
  | some x, some y => if y.before x then some y else some x

def horizonOf (xs : List CList) : Option KeyId := xs.foldl (fun h x => earlier h x.horizon) none

/-- What a merge stage forms: its list, and the entries it dropped as tombstoned and as duplicates. -/
structure Merged where
  list : CList
  tombs : Nat
  dups : Nat
  deriving DecidableEq, Repr

/-- The walk of merge_stage over entries in order (R117, steps 2 to 5). -/
def mergeWalk (h : Option KeyId) (depth : Nat) (hidden : Cand → Bool) : List Cand → List Cand → Nat → Nat → Merged
  | [], out, t, u => ⟨⟨out, h⟩, t, u⟩
  | e :: es, out, t, u =>
    if (match h with | some x => x.before e.kid | none => false) then ⟨⟨out, h⟩, t, u⟩
    else if hidden e then mergeWalk h depth hidden es out (t + 1) u
    else if out.any fun x => x.id = e.id then mergeWalk h depth hidden es out t (u + 1)
    else if out.length = depth then ⟨⟨out, out.getLast?.map Cand.kid⟩, t, u⟩
    else mergeWalk h depth hidden es (out ++ [e]) t u

/-- merge_stage of R117; `hidden` is the die sorter's tombstone test, false elsewhere. -/
def mergeStage (inputs : List CList) (depth : Nat) (hidden : Cand → Bool) : Merged :=
  mergeWalk (horizonOf inputs) depth hidden (sortCands (inputs.map (·.items)).flatten) [] 0 0

/-- A tombstone hides a candidate at a benchmark (R118). -/
def hiddenBy (tombs : List Tomb) (bench : Nat) (c : Cand) : Bool := tombs.any fun t => t.id = c.id && c.commit < t.t && t.t ≤ bench

/-! ### Depths and tiers (R122 to R124) -/


/-- Margin of the basic form. -/
def basicMargin (t : Nat) : Nat := min 65536 (max 4 (ceilDiv t 16))




/-! ### Scanning items (R61, R72, R111, R112) -/

/-- What an array forms from items for one fragment. -/
structure ScanOut where
  cands : List Cand
  rej : Nat
  pass : Nat
  deriving DecidableEq, Repr

/-- Visible items that pass become candidates; visible ones that do not are counted as rejected. -/
def scanEntries (kind : CodeKind) (m : Nat) (tables : List Byte) (f : Filter) (bench benchSec : Nat) (es : List Entry) : ScanOut :=
  let seen := es.filter fun e => e.commit ≤ bench
  let ok := seen.filter fun e => f.passes e.attr benchSec
  ⟨ok.map fun e => ⟨scanKey kind m tables e.code, e.id, e.commit⟩, seen.length - ok.length, ok.length⟩

end Sys2Proof.Machine
end

