-- ==== Sys2Proof/Machine/Leafs.lean ====
section
/-! DEFINITION. Leaf copies: code blocks, side lists, tombstones, versions, rows, which benchmarks a copy serves, and parcel.drop and parcel.stats (R17, R23, R59 to R64, R105, R106, R151 to R172, R189, R376 to R392, R434). -/

namespace Sys2Proof.Machine

/-! ### Copies in the plat (R368, R376 to R380) -/

/-- The generation that says who holds a leaf at a station: the one in force then, or, for a leaf only announced, the newest. -/
def Dev.genFor (d : Dev) (parcel station : Nat) : Option PlatGen :=
  match (genAt d.plat.gens station).filter fun g => (g.leaf parcel).isSome with
  | some g => some g
  | none => d.newest.filter fun g => (g.leaf parcel).isSome

def Dev.leadAt (d : Dev) (parcel station : Nat) : Option Nat := (d.genFor parcel station).bind fun g => g.lead parcel

/-- Copies of a leaf at a station. -/
def Dev.copiesAt (d : Dev) (parcel station : Nat) : List PlatCopy :=
  (((d.genFor parcel station).bind fun g => g.leaf parcel).map (·.copies)).getD []

/-- ACTIVE following copies at a station (R147). -/
def Dev.followers (d : Dev) (parcel station : Nat) : List Nat :=
  ((d.copiesAt parcel station).filter fun x => x.state = .active && x.node != d.plat.nodeId).map (·.node)

/-- Every other copy at a station, JOINING ones too (R146, R376). -/
def Dev.otherCopies (d : Dev) (parcel station : Nat) : List Nat := ((d.copiesAt parcel station).filter fun x => x.node != d.plat.nodeId).map (·.node)

/-- The leaf as the newest generation that names it and is not yet replaced has it (R23). -/
def Dev.named (d : Dev) (c : Clock) (parcel : Nat) : Option PlatLeaf :=
  if d.namesLeaf c parcel then (d.genFor parcel (d.station c)).bind fun g => g.leaf parcel else none

/-- The search space of a leaf. -/
def Dev.spaceOf (d : Dev) (l : Leaf) : Option Space := l.cfg.bind fun x => d.space x.space

/-! ### Code blocks (R55, R59 to R63, R156) -/

/-- N_cap of R60. -/
def nCap (attr : Bool) (codeBytes : Nat) : Nat := 16320 / (8 + (if attr then 32 else 0) + codeBytes)

def emptyBlock (seq : Nat) : Block := ⟨seq, false, 0, [], 0⟩

/-- Attribute record of an entry in a block (R61): COMMIT_DELTA counts from BASE_STATION. -/
def attrBytes (base : Nat) (e : Entry) : List Byte :=
  leBytes 16 e.attr.tags.toNat ++ leBytes 4 e.attr.numA.toNat ++ leBytes 4 e.attr.numB.toNat ++ leBytes 4 e.attr.expiry.toNat ++ leBytes 4 (e.commit - base)

/-- Bytes 0x0040 to 0x3FFF of a block: the ID column, the attribute column and the code column, free slots as R63 has them (R59 to R61). -/
def blockBody (attr : Bool) (codeBytes : Nat) (b : Block) : List Byte :=
  let cap := nCap attr codeBytes
  let col := fun (n : Nat) (f : Entry → List Byte) (free : Byte) =>
    ((List.range cap).map fun i => match b.items[i]? with | some e => padTo n (f e) | none => List.replicate n free).flatten
  padTo 16320 (col 8 (fun e => leBytes 8 e.id) 255 ++ (if attr then col 32 (attrBytes b.base) 0 else []) ++ col codeBytes (·.code) 0)

/-- Sets SEALED and writes BLOCK_CHECK (R64, R156). -/
def sealBlock (attr : Bool) (codeBytes : Nat) (b : Block) : Block := { b with isSealed := true, check := crc32c (blockBody attr codeBytes b) }

/-- Appends an entry to the last block of a side list: the block takes its first entry's commit station as base; a full one is sealed and the next opened (R62, R156). -/
def appendEntry (codeBytes : Nat) (bs : List Block) (e : Entry) : List Block :=
  let put := fun (b : Block) (rest : List Block) =>
    let b1 : Block := { b with base := if b.items.isEmpty then e.commit else b.base, items := b.items ++ [e] }
    if nCap true codeBytes ≤ b1.items.length then rest ++ [sealBlock true codeBytes b1, emptyBlock (b.seq + 1)] else rest ++ [b1]
  match bs.getLast? with
  | none => put (emptyBlock 0) []
  | some b => if b.isSealed then put (emptyBlock (b.seq + 1)) bs else put b bs.dropLast

def blockItems (bs : List Block) : List Entry := (bs.map (·.items)).flatten

/-- Fills blocks with entries in order, each sealed, from BLOCK_SEQ 0 (R160). -/
def sealedBlocks (attr : Bool) (codeBytes base : Nat) : Nat → Nat → List Entry → List Block
  | 0, _, _ => []
  | n + 1, seq, es =>
    let cap := nCap attr codeBytes
    if es.isEmpty || cap = 0 then [] else sealBlock attr codeBytes ⟨seq, false, base, es.take cap, 0⟩ :: sealedBlocks attr codeBytes base n (seq + 1) (es.drop cap)

/-- Side-list blocks of entries in their order. -/
def sideBlocks (codeBytes : Nat) (es : List Entry) : List Block := es.foldl (appendEntry codeBytes) []

def attrOfBytes (bs : List Byte) : Attr :=
  ⟨BitVec.ofNat 128 (fieldN bs 0 16), BitVec.ofNat 32 (fieldN bs 16 4), BitVec.ofNat 32 (fieldN bs 20 4), BitVec.ofNat 32 (fieldN bs 24 4)⟩

/-- Item i of a loaded block: ID, attributes and code (R60, R61). -/
def blockItem (attr : Bool) (codeBytes : Nat) (bs : List Byte) (i : Nat) : Nat × Attr × List Byte :=
  let cap := nCap attr codeBytes
  let a := if attr then 32 else 0
  (fieldN bs (0x40 + 8 * i) 8, if attr then attrOfBytes ((bs.drop (0x40 + 8 * cap + 32 * i)).take 32) else Attr.zero,
    (bs.drop (0x40 + (8 + a) * cap + codeBytes * i)).take codeBytes)

/-- FLAGS of a block header (R59). -/
def blkSide (bs : List Byte) : Bool := bitAt (fieldN bs 6 2) 0
def blkAttr (bs : List Byte) : Bool := bitAt (fieldN bs 6 2) 1
def blkSealed (bs : List Byte) : Bool := bitAt (fieldN bs 6 2) 2
/-- LIST_ID and BLOCK_SEQ of a block header. -/
def blkList (bs : List Byte) : Nat := fieldN bs 0x0C 4
def blkSeq (bs : List Byte) : Nat := fieldN bs 0x10 4
/-- Items of a loaded block. N_ITEMS above N_cap is no refusal of R64; the block has room for N_cap items and is read as holding that many (DESIGN CHOICE, log 114). -/
def blkItems (codeBytes : Nat) (bs : List Byte) : Nat := min (fieldN bs 0x14 2) (nCap (blkAttr bs) codeBytes)

/-- A block that parcel.load refuses (R64): BLOCK_CHECK is 0 while SEALED is 0. -/
def blockBad (s : Space) (parcel : Nat) (bs : List Byte) : Bool :=
  let flags := fieldN bs 6 2
  bs.length != 16384 || fieldN bs 0 4 != 0x42435053 || fieldN bs 4 2 != 1 || flags ≥ 32 || bitsAt flags 4 3 != kindNat s.kind ||
    fieldN bs 8 4 != parcel || fieldN bs 0x16 2 != s.m || fieldN bs 0x20 4 != s.planGen || fieldN bs 0x28 24 != 0 ||
    fieldN bs 0x24 4 != (if blkSealed bs then crc32c (bs.drop 0x40) else 0)

/-! ### Rows (R168, R170, R172, R189) -/

/-- The slot a reader at a benchmark reads: the greatest effective station at or before it (R189). -/
def rowAt (r : Row) (bench : Nat) : RowSlot :=
  match r.s1 with
  | none => r.s0
  | some x => if x.eff ≤ bench && (r.s0.eff ≤ x.eff || bench < r.s0.eff) then x else r.s0

/-- Slot 1 serves station s, so slot 0 is not in use. -/
def rowUses1 (r : Row) (s : Nat) : Bool :=
  match r.s1 with
  | none => false
  | some x => x.eff ≤ s && (r.s0.eff ≤ x.eff || s < r.s0.eff)

/-- A replacement that takes effect at c fills the slot that does not serve the intake station c − 1 (R189, R190; DEDUCED, log 31). -/
def rowReplace (r : Row) (bytes : List Byte) (c seq : Nat) : Row :=
  if rowUses1 r (c - 1) then { r with s0 := ⟨bytes, c, [], seq⟩ } else { r with s1 := some ⟨bytes, c, [], seq⟩ }

/-- R192 for one row and intake station s: the slot to be overwritten holds a row, and s lies below the drain station of the other slot's effective station. -/
def rowBusy (gens : List PlatGen) (r : Row) (s : Nat) : Bool :=
  match r.s1 with
  | none => false
  | some x => s < drainStation gens (if rowUses1 r s then x.eff else r.s0.eff)

def newRow (bytes : List Byte) (c : Nat) : Row := ⟨⟨bytes, c, [], 0⟩, none⟩

/-- Slots a ROWS line step of a sequence number applies to: the one that serves the current station, and one that a replacement of lower sequence number wrote with its effective station ahead (R256). -/
def rowHits (r : Row) (station seq : Nat) : List Nat :=
  let one := rowUses1 r station
  (if !one || (station < r.s0.eff && r.s0.seq < seq) then [0] else []) ++
    (match r.s1 with | some x => if one || (station < x.eff && x.seq < seq) then [1] else [] | none => [])

def rowMap (r : Row) (station seq : Nat) (f : Nat → RowSlot → RowSlot) : Row :=
  let hit := rowHits r station seq
  ⟨if hit.contains 0 then f 0 r.s0 else r.s0, r.s1.map fun x => if hit.contains 1 then f 1 x else x⟩

/-! ### Versions (R67, R160 to R163) -/

def Version.entries (v : Version) : List Entry := blockItems v.main ++ blockItems v.side

/-- Version of a list that a benchmark reads: 0 the current one, 1 the old one (R162). -/
def Leaf.verNo (l : Leaf) (bench : Nat) : Nat := if bench < l.lastUse && l.oldUse.isSome then 1 else 0

def LList.ver (x : LList) (v : Nat) : Version := if v = 1 then x.old.getD x.cur else x.cur

/-- All entries a benchmark's version holds. -/
def Leaf.entriesAt (l : Leaf) (bench : Nat) : List Entry := (l.lists.map fun x => (x.ver (l.verNo bench)).entries).flatten

def Leaf.entriesCur (l : Leaf) : List Entry := (l.lists.map fun x => x.cur.entries).flatten

def mapBlocks (f : Entry → Entry) (bs : List Block) : List Block := bs.map fun b => { b with items := b.items.map f }

def Version.mapE (f : Entry → Entry) (v : Version) : Version := { v with main := mapBlocks f v.main, side := mapBlocks f v.side }

/-- Rewrites entries in every version the copy holds (R168, R190). -/
def Leaf.mapE (f : Entry → Entry) (l : Leaf) : Leaf :=
  { l with lists := l.lists.map fun x => { x with cur := x.cur.mapE f, next := x.next.map (Version.mapE f), old := x.old.map (Version.mapE f) } }

/-- Entries of every version, for tests that any of them meets. -/
def Leaf.allEntries (l : Leaf) : List Entry :=
  (l.lists.map fun x => x.cur.entries ++ ((x.old.map Version.entries).getD [])).flatten

/-- A tombstone hides an entry at a benchmark (R118, R153). -/
def tombHides (tombs : List Tomb) (bench : Nat) (e : Entry) : Bool := tombs.any fun t => t.id = e.id && e.commit < t.t && t.t ≤ bench

/-- Entries of an ID that qualify at a benchmark (R170). -/
def Leaf.qualifying (l : Leaf) (id bench : Nat) : List Entry :=
  (l.entriesAt bench).filter fun e => e.id = id && e.commit ≤ bench && !(tombHides l.tombs bench e)

/-- The entry whose row answers a key (R170): the highest sequence number. -/
def Leaf.rowEntry (l : Leaf) (id bench : Nat) : Option Entry := leastBy (fun (a b : Entry) => b.seq ≤ a.seq) (l.qualifying id bench)

/-- The entry whose VECTOR row a rerank candidate reads (R172). -/
def Leaf.rerankEntry (l : Leaf) (id commit bench : Nat) : Option Entry :=
  leastBy (fun (a b : Entry) => b.seq ≤ a.seq) ((l.qualifying id bench).filter fun e => e.commit = commit)

/-! ### Service of a copy (R148, R161, R162, R388, R389) -/

/-- The load has ended: its commit station is settled (R23). -/
def Leaf.isLoaded (l : Leaf) : Bool :=
  match l.load with
  | some x => (match x.station with | some n => n ≤ l.settled | none => false)
  | none => false

/-- A switched closure that this copy has still to build: benchmarks from its use station cannot be served (R162). -/
def Leaf.behind (l : Leaf) : Option Nat :=
  match l.closure with
  | some x => if x.outcome = some true && l.lastUse < x.u && !(l.due.any fun y => y.u = x.u) then some x.u else none
  | none => none

/-- Use station of the last closure that switched, its use station begun or not (R159). -/
def Leaf.prevUse (l : Leaf) : Nat := match l.due, l.behind with | some x, _ => x.u | none, some u => u | none, none => l.lastUse

/-- A benchmark is settled here, and a closure that switches at its station or before has taken its version into use (R143, R148, R162). -/
def Leaf.reached (l : Leaf) (bench : Nat) : Bool := bench ≤ l.settled && match l.due with | some x => decide (bench < x.u) | none => true

/-- The copy may serve a benchmark: local state, refused ranges, a closure still to build, and, for a shadow, benchmarks below F (R378, R388, R389). -/
def Leaf.serves (l : Leaf) (bench : Nat) : Bool :=
  (match l.loc with | .current => true | .lapsed c => decide (bench < c) | .failed => false) &&
    !(l.refused.any fun r => r.1 ≤ bench && bench ≤ r.2) &&
    (match l.behind with | some u => decide (bench < u) | none => true) &&
    (match l.shadow with | some f => decide (bench < f) | none => true)

/-! ### Row stores (R166 to R169, R189) -/

def cfgRowLen (x : LeafCfg) (s : Space) (kind : Nat) : Nat := if kind = 0 then rowBytes x.fmt s.dim else x.payloadLen

def cfgTier (x : LeafCfg) (kind : Nat) : Tier := if kind = 0 then x.vecTier else x.payTier

/-- Lines of one slot of a row, and of a place in the store: a REPLACEABLE store holds a header line and two slots for each row (R189), others the row alone. -/
def slotLines (x : LeafCfg) (s : Space) (kind : Nat) : Nat := ceilDiv (cfgRowLen x s kind) 64
def placeLines (x : LeafCfg) (s : Space) (kind : Nat) : Nat := if x.replaceable then 1 + 2 * slotLines x s kind else slotLines x s kind

/-- Place of an entry's rows in the copy's stores, as its row directory record has it (R168). -/
def Leaf.rowIx (l : Leaf) (seq : Nat) : Nat := (l.rowDir.idxOf? (seq + 1)).getD 0

/-- Line of a store at which a slot of a place begins. -/
def rowSlotLine (x : LeafCfg) (s : Space) (kind ix slot : Nat) : Nat :=
  ix * placeLines x s kind + (if x.replaceable then 1 + slot * slotLines x s kind else 0)

/-- Byte offset in its store of a line of a slot of the row at a place. -/
def Dev.rowByteIn (d : Dev) (l : Leaf) (kind ix slot line : Nat) : Nat :=
  match l.cfg, d.spaceOf l with
  | some x, some s => 64 * (rowSlotLine x s kind ix slot + line)
  | _, _ => 0

/-- Byte offset in its store of a line of an entry's row: of kind 0 VECTOR or 1 PAYLOAD (R166, R168, R189). -/
def Dev.rowByte (d : Dev) (l : Leaf) (kind seq slot line : Nat) : Nat := d.rowByteIn l kind (l.rowIx seq) slot line

/-- The monument of a row of this copy. -/
def Dev.monOf (d : Dev) (l : Leaf) (kind : RowKind) (id : Nat) : Option Monument :=
  d.chain.monuments.find? fun m => m.row.parcel = l.parcel && m.row.kind = kind && m.row.id = id

/-- Region and byte offset of a line of a row's copy: the row's own place in its store, or the copy's region, which holds one place (R194, R196). -/
def Dev.copyByte (d : Dev) (l : Leaf) (kind : RowKind) (id seq slot line : Nat) (k : MonCopy) : Nat × Nat :=
  if k.home then (rowRegion l.parcel (kindNo kind), d.rowByte l (kindNo kind) seq slot line)
  else (monRegion ⟨l.parcel, 0, kind, id⟩ k.stack.val, d.rowByteIn l (kindNo kind) 0 slot line)

/-- A row that no monument names lies at its own place. -/
def homeCopy : MonCopy := ⟨0, .live, 0, true⟩

/-- The copies of a row, copy 0 first. -/
def Dev.rowCopies (d : Dev) (l : Leaf) (kind : RowKind) (id : Nat) : List MonCopy := match d.monOf l kind id with | some m => m.copies | none => [homeCopy]

/-- Region and byte offset of a line of a row's copy 0. -/
def Dev.copy0Byte (d : Dev) (l : Leaf) (kind : RowKind) (id seq slot line : Nat) : Nat × Nat :=
  d.copyByte l kind id seq slot line (((d.rowCopies l kind id).head?).getD homeCopy)

/-- The entry's rows take the lowest free place of the stores (DESIGN CHOICE, log 30). -/
def Leaf.giveRow (l : Leaf) (seq : Nat) : Leaf :=
  match l.rowDir.idxOf? 0 with
  | some i => { l with rowDir := l.rowDir.set i (seq + 1) }
  | none => { l with rowDir := l.rowDir ++ [seq + 1] }

/-- Records and rows of entries that no version holds are freed (R168). -/
def Leaf.dropRows (l : Leaf) : Leaf :=
  let live := (l.lists.map fun x => (x.versions.map Version.entries).flatten).flatten
  { l with rowDir := l.rowDir.map fun k => if live.any fun e => e.seq + 1 = k then k else 0 }

/-! ### DRAM of a copy (R62, R65, R157, R168, R264, R265) -/

/-- A region that a copy of a leaf needs: number, PROTECT, STACK_MASK, frames, the groups its frames keep on a stack (a block is aligned to its 16,384 bytes, R59), class of R276. -/
structure OwnRegion where
  id : Nat
  protect : Protect
  mask : BitVec 20
  frames : Nat
  group : Nat
  cls : Nat
  deriving DecidableEq, Repr

/-- Stack of an unprotected block: the two of the home die by turns, or the one that serves (DESIGN CHOICE, log 30). -/
def Dev.blockStack (d : Dev) (die seq : Nat) : Nat :=
  let s := 2 * die + seq % 2
  if d.serves s then s else s ^^^ 1

/-- Regions of a version's blocks: four frames for each, in the two stacks of the home die; main-list blocks of a TIER_FLASH list lie on flash (R65, R265). -/
def Version.regions (d : Dev) (parcel list : Nat) (x : PlanList) (v : Version) : List OwnRegion :=
  let main := fun (b : Block) =>
    let id := blockRegion parcel list v.no false b.seq
    if x.protect = .mirror then (⟨id, .mirror, diePair x.homeDie.val, 4, 4, 3⟩ : OwnRegion) else ⟨id, .none, stackBit (d.blockStack x.homeDie.val b.seq), 4, 4, 3⟩
  (if x.tier = .flash then [] else v.main.map main) ++
    v.side.map fun b => ⟨blockRegion parcel list v.no true b.seq, .mirror, diePair x.homeDie.val, 4, 4, 2⟩

/-- Stacks on which a monument has a place of its own: its copies away from the row's store, and the destination of a move or the source it has left (R194, R196). -/
def Monument.ownStacks (m : Monument) : List Nat :=
  ((m.copies.filter fun k => !k.home && k.use != .gone).map fun k => k.stack.val) ++
    (match m.move with | some v => if v.phase = .flipped && v.home then [] else [v.dest.val] | none => [])

/-- Regions of a monument's copies: one place of the store, unprotected, in the stack named (R194, R264). -/
def Monument.regions (x : LeafCfg) (s : Space) (m : Monument) : List OwnRegion :=
  m.ownStacks.map fun k => ⟨monRegion ⟨m.row.parcel, 0, m.row.kind, m.row.id⟩ k, .none, stackBit k, ceilDiv (64 * placeLines x s (kindNo m.row.kind)) 4096, 1, 4⟩

/-- Every region of a copy (R265): its blocks, its tombstone set on each search die (R157), its row directory, its TIER_PIN row stores, its monuments. -/
def Leaf.regions (d : Dev) (l : Leaf) : List OwnRegion :=
  let blocks := (l.lists.zipIdx.map fun e => (e.1.versions.map fun v => v.regions d l.parcel e.2 e.1.plan).flatten).flatten
  let tombs := if l.tombs.isEmpty then [] else (List.range 10).map fun k =>
    (⟨tombRegion l.parcel k, .mirror, diePair k, framesOf (Config.tombBytes l.tombs.length), 1, 2⟩ : OwnRegion)
  let dir := if l.rowDir.isEmpty then [] else [(⟨dirRegion l.parcel, .mirror, d.pairsUp, framesOf (Config.dirBytes l.rowDir.length), 1, 2⟩ : OwnRegion)]
  let rows := match l.cfg, d.spaceOf l with
    | some x, some s => [0, 1].filterMap fun k =>
        if cfgTier x k != .pin || cfgRowLen x s k = 0 || l.rowDir.isEmpty then none
        else some (⟨rowRegion l.parcel k, l.rowProtect, l.rowMask, ceilDiv (64 * placeLines x s k * l.rowDir.length) 4096, 1, 4⟩ : OwnRegion)
    | _, _ => []
  let mons := match l.cfg, d.spaceOf l with
    | some x, some s => ((d.chain.monuments.filter fun m => m.row.parcel = l.parcel && m.row.kind != .embed).map (Monument.regions x s)).flatten
    | _, _ => []
  blocks ++ tombs ++ dir ++ rows ++ mons

/-- Numbers of the regions that a copy holds. -/
def Dev.leafRegions (d : Dev) (parcel : Nat) : List (Nat × Region) := d.mem.regions.filter fun e => regionLeaf e.1 = some parcel

/-- Frames on a stack that a region still lacks; of a protected one, a stack out of service can take none and is no hindrance (R273). -/
def Dev.lacks (d : Dev) (w : OwnRegion) (s : Nat) : Nat :=
  let r := match NMap.get? d.mem.regions w.id with | some r => r | none => Region.fresh w.protect w.mask .pin w.cls
  if r.protect != .none && !(d.serves s) then 0 else sharesOn r.protect r.mask w.frames s - sharesOn r.protect r.mask (r.len / 4096) s

/-- What the regions lack can be had (R284). -/
def Dev.roomFor (d : Dev) (ws : List OwnRegion) : Bool :=
  let need := (List.range 20).map fun s => natSum (ws.map fun w => d.lacks w s)
  natSum need = 0 || (((List.range 20).all fun s => nthD need s 0 ≤ d.availOn s) && natSum need + Config.poolFloor ≤ d.poolFrames)

/-- Members of a region on stacks out of service, not rebuilt yet, are lost. -/
def Dev.loseDead (d : Dev) (c : Clock) (id : Nat) : Dev :=
  match NMap.get? d.mem.regions id with
  | none => d
  | some r =>
    let dead := (stacksOf r.mask).filter fun s => !(d.serves s)
    let held := (dead.map fun s => (List.range (sharesOn r.protect r.mask (r.len / 4096) s)).map fun ix => r.heldAt s ix).flatten
    (held.filter fun h => !(r.isMoved h.1 h.2)).foldl (fun (x : Dev) h => x.loseMember c id h.1 h.2) d

/-- A region is made, or grows to the frames it needs (R264). -/
def Dev.place (c : Clock) (d : Dev) (w : OwnRegion) : Dev :=
  match NMap.get? d.mem.regions w.id with
  | none => (d.allocBy w.group w.id w.protect w.mask w.frames .pin w.cls).loseDead c w.id
  | some r => if w.frames ≤ r.len / 4096 then d else (d.grow w.id w.group w.frames).loseDead c w.id

/-- The DRAM of a copy follows its content: regions it needs no more are freed, those it lacks are made. A copy that cannot place its content has lost it and is FAILED (R391; DEDUCED, log 115). -/
def Dev.syncLeaf (d : Dev) (c : Clock) (parcel : Nat) : Dev :=
  match d.leaf parcel with
  | none => d
  | some l =>
    let ws := l.regions d
    let d1 := ((d.leafRegions parcel).filter fun e => !(ws.any fun w => w.id = e.1)).foldl (fun (x : Dev) e => x.free e.1) d
    if d1.roomFor ws then ws.foldl (Dev.place c) d1 else d1.failCopy c parcel

/-! ### Allocation of a leaf's stores on flash (R278, R323, R338) -/

/-- Extents that a store of n bytes takes. -/
def extentsFor (n : Nat) : Nat := ceilDiv n Config.extentBytes

/-- Grows an owner's extents to hold n bytes. -/
def Dev.ensureExtents (d : Dev) (owner n : Nat) : Dev :=
  d.addExtents (extentsFor n - (d.flash.extents.filter fun e => e.2.owner = owner).length) owner

/-- A slot of an entry's row written in a store homed on flash makes its pages dirty; a REPLACEABLE store's header line is written with it (R189, R283). -/
def Dev.dirtyRow (d : Dev) (c : Clock) (l : Leaf) (s : Space) (kind slot : Nat) (e : Entry) : Dev :=
  match l.cfg with
  | none => d
  | some x =>
    let ix := l.rowIx e.seq
    let n := slotLines x s kind
    if cfgTier x kind = .pin || n = 0 then d
    else
      let first := rowSlotLine x s kind ix slot
      let head := if x.replaceable then [64 * (ix * placeLines x s kind) / 4096] else []
      let pages := (head ++ (List.range ((first + n - 1) / 64 + 1 - first / 64)).map (· + first / 64)).dedup
      pages.foldl (fun y p => y.dirtyPage c (cfgTier x kind) (storeKey l.parcel kind) p 0) (d.ensureExtents (storeKey l.parcel kind) (64 * placeLines x s kind * (ix + 1)))

/-- Lines of a region that have been written whole read as poison no more (R271). -/
def Dev.cleanLines (d : Dev) (id : Nat) (lines : List Nat) : Dev :=
  { d with mem := { d.mem with regions := NMap.upd d.mem.regions id fun r => { r with poison := r.poison.filter fun x => !(lines.contains x) } } }

/-- Lines of a row's slot have been written whole at every DRAM copy (R195, R271). -/
def Dev.cleanRow (d : Dev) (l : Leaf) (kind : RowKind) (id seq slot : Nat) (lines : List Nat) : Dev :=
  (d.rowCopies l kind id).foldl (fun (x : Dev) k =>
    let w := d.copyByte l kind id seq slot 0 k
    x.cleanLines w.1 (lines.map (· + w.2 / 64))) d

/-- A slot of an entry's row has been written whole, in DRAM at every copy of the row, and in a pool frame where the store is homed on flash (R195, R271, R283). -/
def Dev.wroteRow (d : Dev) (c : Clock) (l : Leaf) (kind slot : Nat) (e : Entry) : Dev :=
  match l.cfg, d.spaceOf l with
  | some x, some s =>
    let d1 := d.cleanRow l (if kind = 0 then .vector else .payload) e.id e.seq slot (List.range (slotLines x s kind))
    if cfgTier x kind = .pin then d1 else d1.dirtyRow c l s kind slot e
  | _, _ => d

/-- Frees the flash a version of a list holds. -/
def Dev.freeVersion (d : Dev) (parcel list : Nat) (x : LList) (v : Version) : Dev :=
  if x.plan.tier = .flash then d.freeExtents (listKey parcel list v.no) else d

/-- Frees everything in DRAM and on flash that a copy holds, and its pool frames. -/
def Dev.freeLeafStores (d0 : Dev) (l : Leaf) : Dev :=
  let d := (d0.leafRegions l.parcel).foldl (fun (x : Dev) e => x.free e.1) d0
  let d1 := (l.lists.zipIdx).foldl (fun (y : Dev) e =>
    ((e.1.cur :: (e.1.next.toList ++ e.1.old.toList))).foldl (fun (z : Dev) v => z.freeVersion l.parcel e.2 e.1 v) y) d
  let keys := [storeKey l.parcel 0, storeKey l.parcel 1]
  let d2 := keys.foldl (fun (y : Dev) k => y.freeExtents k) d1
  { d2 with mem := { d2.mem with pool := d2.mem.pool.filter fun f => !(keys.contains f.key) } }

/-- Writes the main-list blocks of a TIER_FLASH list's version to its home channel (R65, R161). -/
def Dev.writeVersion (d : Dev) (parcel list : Nat) (x : LList) (v : Version) : Dev :=
  if x.plan.tier != .flash then d
  else
    let key := listKey parcel list v.no
    let n := v.main.length
    let d1 := (List.range (extentsFor (n * Config.blockBytes))).foldl (fun (y : Dev) _ => y.addExtent x.plan.homeChan.val key true) d
    (List.range n).foldl (fun (y : Dev) i => y.writeOwned key i) d1

/-- Units of an owner that are still on their way to flash. -/
def Dev.ownerBusy (d : Dev) (owner : Nat) : Bool :=
  (d.flash.extents.filter fun e => e.2.owner = owner && e.2.chan < 32).any fun e =>
    (List.range 4096).any fun i => d.flash.unitBusy e.2.chan (4096 * e.2.slot + i)

/-- The blocks of a copy's load are durable (R23). -/
def Dev.loadDurable (d : Dev) (l : Leaf) : Bool :=
  !((l.lists.zipIdx).any fun e => e.1.plan.tier = .flash && d.ownerBusy (listKey l.parcel e.2 e.1.cur.no)) &&
    !(d.ownerBusy (storeKey l.parcel 0)) && !(d.ownerBusy (storeKey l.parcel 1))

/-- The new version of a closure is durable where its lists are TIER_FLASH (R161). -/
def Dev.nextDurable (d : Dev) (l : Leaf) : Bool :=
  !((l.lists.zipIdx).any fun e => e.1.plan.tier = .flash && (match e.1.next with | some v => d.ownerBusy (listKey l.parcel e.2 v.no) | none => false))

/-! ### A new copy (R23, R376) -/

/-- Highest sequence number before the series starts (R146). -/
def seqStart : Nat := Config.seqBase - 1

def Leaf.new (parcel station : Nat) (held : Bool) : Leaf :=
  { parcel := parcel, shadow := none, cfg := none, planGen := 0, lists := [], tombs := [], nextSeq := Config.seqBase, applied := seqStart,
    early := [], recs := [], closedTo := station, settled := station, loc := .current, refused := [], noIntake := false, intakeHeld := held,
    held := [], dups := [], waits := [], acked := [], marks := [], peers := [], pendingMark := none, ackedTo := 0, closure := none, due := none, lastUse := 0,
    oldUse := none, tombUse := 0, load := none, loaded := 0, ready := false, rowsWait := [], rowMask := 0, rowProtect := .none, rowDir := [] }

/-- This node's state in a leaf's copies of a generation. -/
def Dev.mine (d : Dev) (g : PlatGen) (parcel : Nat) : Option CopyPlat :=
  (g.leaf parcel).bind fun l => (l.copies.find? fun x => x.node = d.plat.nodeId).map (·.state)

/-- A JOINING copy asks the ACTIVE copy of lowest rank for the content (R376). -/
def Dev.askFill (d : Dev) (g : PlatGen) (parcel : Nat) : Dev :=
  match ((g.leaf parcel).map fun l => l.copies.find? fun x => x.state = .active && x.node != d.plat.nodeId).join with
  | some x => d.send clsBulk x.node (.fillRequest parcel)
  | none => d

/-- What a generation that has become known makes of this node's copies (R23, R376, R378, R379): new copies are made, removed ones become shadows from its FROM_STATION, a new lead holds intake until the old lead's mark, and a copy that is lead no more may take intake again if it becomes lead later (R392). -/
def Dev.adoptGen (d : Dev) (c : Clock) (g : PlatGen) : Dev :=
  let before := genAt (d.plat.gens.filter fun x => x.gen != g.gen) (g.fromStation - 1)
  let oldLead := fun (p : Nat) => before.bind fun b => b.lead p
  let d1 := g.leaves.foldl (fun (x : Dev) pl =>
    match x.mine g pl.parcel with
    | none => x
    | some st =>
      let lead := decide (pl.lead = some x.plat.nodeId)
      let wasOther := match oldLead pl.parcel with | some n => decide (n ≠ x.plat.nodeId) | none => false
      if (x.leaf pl.parcel).isSome then
        (if lead && wasOther then x.updLeaf pl.parcel fun l => { l with intakeHeld := true, noIntake := false } else x)
      else
        let y := { x with leaves := x.leaves ++ [Leaf.new pl.parcel (x.station c) (lead && wasOther)] }
        if st = .joining then y.askFill g pl.parcel else y) d
  { d1 with leaves := d1.leaves.map fun l =>
      if l.shadow.isNone && (before.any fun b => (d1.mine b l.parcel).isSome) && (d1.mine g l.parcel).isNone then { l with shadow := some g.fromStation }
      else l }

/-- The NODE_ID under which a generation lists this node, by the addresses of its ports (log 42). -/
def ownId (g : PlatGen) : Option Nat := (g.nodes.find? fun n => n.addrs.any fun a => (List.range 8).any fun p => a = Config.portAddr p).map (·.id)

/-- Search spaces of a generation whose codebooks this node has not fetched (R371). -/
def Dev.missingSpaces (d : Dev) (g : PlatGen) : List PlatSpace := g.spaces.filter fun s => !(d.plat.spaces.any fun x => x.id = s.id && x.planGen = s.planGen && x.tag = s.tag)

/-- The node from which codebooks and generations are fetched: the chair of the last beacon, else the member at position 0. -/
def Dev.askNode (d : Dev) (g : PlatGen) : Nat := ((d.plat.beacon.map (·.chair)).orElse fun _ => g.quorum.head?).getD 0

/-- Adds a generation to those known, once, and adopts it; the codebooks it names are fetched from the chair (R371). -/
def Dev.learnGen (d : Dev) (c : Clock) (g : PlatGen) : Dev :=
  if d.plat.gens.any fun x => x.gen = g.gen then d
  else
    let d1 := { d with plat := { d.plat with nodeId := (ownId g).getD d.plat.nodeId, gens := d.plat.gens ++ [g], wanted := d.plat.wanted.filter fun n => n != g.gen } }
    let d2 := (d1.missingSpaces g).foldl (fun (x : Dev) s => x.send clsControl (x.askNode g) (.fetchCodebook s.id)) d1
    d2.adoptGen c g

/-! ### parcel.drop (R23) -/

def parcelDropBad (c : Clock) (d : Dev) (cmd : Cmd) : Bool := cmd.f 0x40 4 = Config.noParcel || d.namesLeaf c (cmd.f 0x40 4)

/-- Copies and shadows of the leaf are freed at their drain horizons (DRAIN_STATION); nothing else is left to do. -/
def parcelDropRun (c : Clock) (d : Dev) (cmd : Cmd) : Dev := d.endCmd c cmd.ref stOk 0 0 []

def parcelDrop (k : Take) : Clock → Dev → Dev := runSlot 0x0202 allRows parcelDropBad noAreas parcelDropRun k

def execParcelDrop (k : Take) (s : State) : Host.Outcome State Fault Refusal :=
  happens (.parcelDrop k) k.t (·.onDev (parcelDrop k)) s

/-! ### parcel.stats (R434) -/

def locNat : LocalState → Nat
  | .current => 0
  | .lapsed _ => 1
  | .failed => 2

/-- PLAT_STATE of a copy: 0 JOINING, 1 ACTIVE, 2 shadow (R433). -/
def Dev.platState (d : Dev) (c : Clock) (l : Leaf) : Nat :=
  let g := d.genFor l.parcel (d.station c)
  if (match l.shadow with | some f => decide (f ≤ d.station c) | none => false) then 2
  else if (g.bind fun x => d.mine x l.parcel) = some .joining then 0 else 1

/-- Rank of this node's copy; a shadow's is that of the generation before its removal. -/
def Dev.copyRank (d : Dev) (c : Clock) (l : Leaf) : Nat :=
  let st := match l.shadow with | some f => min (d.station c) (f - 1) | none => d.station c
  (((d.genFor l.parcel st).bind fun g => g.leaf l.parcel).bind fun x => x.rankOf d.plat.nodeId).getD 0

/-- DAMAGED regions of a copy, by CLASS, then by REGION_BASE. -/
def Dev.damagedRegions (d : Dev) (parcel : Nat) : List (Nat × Region) :=
  sortBy (fun (a b : Nat × Region) => decide (a.2.cls < b.2.cls) || (a.2.cls = b.2.cls && decide (a.2.base ≤ b.2.base)))
    ((d.leafRegions parcel).filter fun e => e.2.prot = ProtState.damaged)

/-- Regions of a copy in EXPOSED or REBUILDING. -/
def Dev.exposedRegions (d : Dev) (parcel : Nat) : Nat :=
  ((d.leafRegions parcel).filter fun e => e.2.prot = ProtState.exposed || e.2.prot = ProtState.rebuilding).length

/-- DRAM that a copy holds, in bytes: every frame of its regions, copies and parity frames too. -/
def Dev.leafDramBytes (d : Dev) (parcel : Nat) : Nat := 4096 * natSum ((d.leafRegions parcel).map fun e => natSum (e.2.place.map (·.2.2)))

def leafFlashBytes (d : Dev) (l : Leaf) : Nat :=
  let keys := (l.lists.zipIdx).map fun e => (e.1.cur :: (e.1.next.toList ++ e.1.old.toList)).map fun v => listKey l.parcel e.2 v.no
  let all := storeKey l.parcel 0 :: storeKey l.parcel 1 :: keys.flatten
  Config.extentBytes * (d.flash.extents.filter fun e => all.contains e.2.owner).length

def statsBytes (c : Clock) (d : Dev) (l : Leaf) : List Byte :=
  let flags := boolNat l.isLoaded + 2 * boolNat ((l.cfg.map (·.attr)).getD false) + 4 * boolNat ((l.cfg.map (·.replaceable)).getD false)
  padTo 128 (leBytes 4 l.parcel ++ leBytes 1 (d.copyRank c l) ++ leBytes 1 (d.platState c l) ++ leBytes 1 (locNat l.loc) ++ leBytes 1 flags ++
    leBytes 8 (natSum (l.lists.map fun x => (blockItems x.cur.main).length)) ++ leBytes 8 (natSum (l.lists.map fun x => (blockItems x.cur.side).length)) ++
    leBytes 8 l.tombs.length ++ leBytes 4 l.lists.length ++ leBytes 4 (l.lists.filter fun x => x.plan.tier = .flash).length ++
    leBytes 8 ((l.load.bind (·.station)).getD 0) ++ leBytes 8 l.lastUse ++ leBytes 8 l.applied ++ leBytes 8 (d.leafDramBytes l.parcel) ++
    leBytes 8 (leafFlashBytes d l) ++ leBytes 4 (d.damagedRegions l.parcel).length ++ leBytes 4 (d.exposedRegions l.parcel))

/-- Record of a DAMAGED region (R273, R434). -/
def damagedRec (r : Region) : List Byte :=
  padTo 32 (leBytes 1 r.cls ++ leBytes 1 (protNat r.protect) ++ leBytes 1 (protStateNat r.prot) ++ [0] ++ leBytes 4 r.lost.length ++ leBytes 8 r.base ++
    leBytes 8 r.len ++ leBytes 8 (4096 * (leastBy (fun (a b : Nat) => a ≤ b) r.lost).getD 0))

def parcelStatsBad (_ : Clock) (d : Dev) (cmd : Cmd) : Bool :=
  cmd.f 0x44 1 > 1 || (d.leaf (cmd.f 0x40 4)).isNone || cmd.resultLen < (if cmd.f 0x44 1 = 0 then 128 else 16)

def parcelStatsRun (c : Clock) (d : Dev) (cmd : Cmd) : Dev :=
  match d.leaf (cmd.f 0x40 4) with
  | none => d.refuse cmd.ref stBadCmd
  | some l =>
    if cmd.f 0x44 1 = 0 then (d.result cmd 0 (statsBytes c d l)).endCmd c cmd.ref stOk 0 1 []
    else
      let rs := d.damagedRegions l.parcel
      let n := min rs.length ((cmd.resultLen - 16) / 32)
      (d.result cmd 0 (padTo 16 (leBytes 4 rs.length) ++ ((rs.take n).map fun e => damagedRec e.2).flatten)).endCmd c cmd.ref (if n < rs.length then stShort else stOk) 0 n []

def parcelStats (k : Take) : Clock → Dev → Dev := runSlot 0x0204 allRows parcelStatsBad noAreas parcelStatsRun k

def execParcelStats (k : Take) (s : State) : Host.Outcome State Fault Refusal :=
  happens (.parcelStats k) k.t (·.onDev (parcelStats k)) s

/-! ### How a forwarded command ends at its entry node (R149, R191, R254, R400) -/

/-- The result area of a command that ends with an outcome: the commit station of an update command, the poisoned lines of a ROWS bank.op. -/
def outcomeHead (cmd : Cmd) (o : UpdOutcome) : List Byte :=
  if [0x0400, 0x0401, 0x0402, 0x0403].contains cmd.opcode then leBytes 8 o.commit
  else if cmd.opcode = 0x0700 then
    leBytes 8 o.poison.length ++ ((o.poison.take ((cmd.resultLen - 8) / 8)).map (leBytes 8)).flatten
  else []

/-- Ends the command of this node that an outcome names: replayed, refused without a record, or run. -/
def Dev.updateEnd (d : Dev) (c : Clock) (o : UpdOutcome) : Dev :=
  let d1 := { d with plat := { d.plat with forwarded := d.plat.forwarded.filter fun f => f.ref != o.ref } }
  match d.cmd? o.ref with
  | none => d1
  | some cmd =>
    if o.status = stReplayed then
      d1.putReplayed cmd ⟨o.orig, BitVec.ofNat 4 (rflags false false o.degraded true), o.count, if cmd.opcode = 0x0700 then [] else outcomeHead cmd o, c.now⟩
    else if o.status ≥ stBadCmd then d1.refuse cmd.ref o.status
    else (d1.result cmd 0 (outcomeHead cmd o)).endCmd c cmd.ref o.status (rflags false false o.degraded true) o.count (leBytes 8 o.commit)

/-- Gives an outcome to the entry node. -/
def Dev.outcome (d : Dev) (c : Clock) (entry : Nat) (o : UpdOutcome) : Dev :=
  if entry = d.plat.nodeId then d.updateEnd c o else d.send clsControl entry (.updateEnd o)

/-- COUNT_WORD and PROGRESS of a command in progress, at its entry node (R48, R50). -/
def Dev.shows (d : Dev) (entry : Nat) (r : Ref) (done total count : Nat) : Dev :=
  if entry = d.plat.nodeId then d.report r stRunning (progressOf done total) count false false false else d.send clsControl entry (.progress r done total)

def outcomeOf (ref : Ref) (key : CmdKey) (status commit count : Nat) (degraded : Bool) : UpdOutcome := ⟨ref, key, status, 0, commit, count, [], degraded⟩

end Sys2Proof.Machine
end

