-- ==== Sys2Proof/Machine/NearBank.lean ====
section
/-! DEFINITION. Near-bank units and easements: bank.op, line steps, ROWS targets, closure rescales (R236 to R260). -/

namespace Sys2Proof.Machine

/-! ### Element arithmetic (R240 to R243) -/

/-- Bytes of an element by TYPE. -/
def nbSize (ty : Nat) : Nat := if ty = 0 then 1 else if ty = 4 then 4 else 2

def nbFloatTy (ty : Nat) : Bool := 2 ≤ ty

/-- An element as fp32. -/
def nbToF (ty w : Nat) : Nat := if ty = 2 then h2f w else if ty = 3 then b2f w else w

def nbFmt (ty : Nat) : FloatFmt := if ty = 2 then f16 else if ty = 3 then bf16 else f32

/-- An fp32 result as an element; a NaN that arithmetic formed has no stated payload (log 28). -/
def nbFromF (ty w : Nat) (kept : Bool) : Nat := if f32.isNaN w && !kept then (nbFmt ty).someNaN else f32.conv (nbFmt ty) w

/-- s_n of R243 at n = i − 8: σ(n) correctly rounded to fp32. -/
def sigmoidTable : List Nat :=
  [0x39AFD1EF, 0x3A6ED39C, 0x3B220BBC, 0x3BDB4FB4, 0x3C9357D1, 0x3D4241A2, 0x3DF420A9, 0x3E89B2B1, 0x3F000000, 0x3F3B26A8, 0x3F617BEB,
   0x3F73DBE6, 0x3F7B6541, 0x3F7E4961, 0x3F7F5DF4, 0x3F7FC44B, 0x3F7FEA06]

/-- LOGISTIC (R243). -/
def nbLogistic (r : Nat) : Nat :=
  if f32.isNaN r then r
  else if f32.isInf r then (if f32.neg r then nthD sigmoidTable 0 0 else nthD sigmoidTable 16 0)
  else
    let v := f32.value r
    if v < -(8 * 2 ^ unit : Int) then nthD sigmoidTable 0 0
    else if v ≥ (8 * 2 ^ unit : Int) then nthD sigmoidTable 16 0
    else
      let i := ((v + 8 * 2 ^ unit) / (2 ^ unit : Int)).toNat
      let frac := ((v + 8 * 2 ^ unit) % (2 ^ unit : Int)).toNat
      let s0 := nthD sigmoidTable i 0
      let dn := add32 (nthD sigmoidTable (i + 1) 0) (neg32 s0)
      add32 (f32.round false (frac * f32.exact dn) (2 * unit)) s0

def nbActF (p : NbOp) (r : Nat) : Nat :=
  if p.act = 1 then (if f32.isNaN r || lt32 0 r then r else 0)
  else if p.act = 2 then (if lt32 r p.lo.toNat then p.lo.toNat else if lt32 p.hi.toNat r then p.hi.toNat else r)
  else if p.act = 3 then mul32 r r
  else if p.act = 4 then nbLogistic r
  else r

/-- nb_float of R241 for one element; `u` is none when U is NONE. -/
def nbFloat (p : NbOp) (x : Nat) (u : Option Nat) : Nat :=
  let xf := nbToF p.ty x
  let uf := u.map (nbToF p.ty)
  let r := if p.op = 1 then add32 xf (uf.getD p.b.toNat)
    else if p.op = 2 then (match uf with | some v => mul32 xf v | none => mul32 p.a.toNat xf)
    else if p.op = 3 then add32 (mul32 p.a.toNat xf) (match uf with | some v => mul32 p.b.toNat v | none => p.b.toNat)
    else if p.op = 4 then scaleF xf p.e
    else xf
  nbFromF p.ty (nbActF p r) (p.op = 0 && p.act != 3)

def intOf (ty w : Nat) : Int := if ty = 0 then int8 w else if w % 65536 < 32768 then (w % 65536 : Nat) else (w % 65536 : Nat) - 65536

/-- An integer operand of the command: int16 in bits [15:0] (R430). -/
def nbConst (w : W32) : Int := intOf 1 w.toNat

def nbActI (p : NbOp) (r : Int) : Int :=
  if p.act = 1 then max 0 r
  else if p.act = 2 then max (nbConst p.lo) (min (nbConst p.hi) r)
  else if p.act = 3 then r * r
  else r

/-- One integer element (R242): formed exactly, shifted, acted on, saturated. -/
def nbInt (p : NbOp) (x : Nat) (u : Option Nat) : Nat :=
  let xi := intOf p.ty x
  let ui := u.map (intOf p.ty)
  let r := if p.op = 1 then xi + ui.getD (nbConst p.b)
    else if p.op = 2 then (match ui with | some v => xi * v | none => nbConst p.a * xi)
    else if p.op = 3 then nbConst p.a * xi + (match ui with | some v => nbConst p.b * v | none => nbConst p.b)
    else xi
  let r1 := if p.op = 4 then halfAwayZ xi (-p.e) else halfAwayZ r p.shift
  let lim : Int := if p.ty = 0 then 128 else 32768
  (max (-lim) (min (lim - 1) (nbActI p r1)) % (2 * lim)).toNat

/-- Every element of a line. -/
def nbLine (p : NbOp) (x : List Byte) (u : Option (List Byte)) : List Byte :=
  let n := nbSize p.ty
  ((List.range (64 / n)).map fun i =>
    let uw := u.map fun bs => fieldN bs (n * i) n
    leBytes n (if nbFloatTy p.ty then nbFloat p (fieldN x (n * i) n) uw else nbInt p (fieldN x (n * i) n) uw)).flatten

/-! ### The body (R239, R240, R430) -/

/-- The operation at an offset of the body: 0 for bank.op, 0xC0 for a closure's rescale (R428). -/
def Cmd.nbOp (cmd : Cmd) (o : Nat) (uAt : Nat) : NbOp :=
  { rows := cmd.f (0x40 + o) 1 = 1, ty := cmd.f (0x41 + o) 1, op := cmd.f (0x42 + o) 1, u := cmd.f (0x43 + o) 1, act := cmd.e (0x44 + o) 1,
    shift := cmd.e (0x45 + o) 1, fenced := cmd.e (0x46 + o) 1 = 1, e := int8 (cmd.f (0x47 + o) 1), a := BitVec.ofNat 32 (cmd.f (0x48 + o) 4),
    b := BitVec.ofNat 32 (cmd.f (0x4C + o) 4), lo := BitVec.ofNat 32 (cmd.e (0x50 + o) 4), hi := BitVec.ofNat 32 (cmd.e (0x54 + o) 4),
    xAddr := cmd.f (0x58 + o) 8, xLen := cmd.f (0x60 + o) 8, uAddr := cmd.f (0x68 + o) 8, region := if o = 0 then cmd.f 0x90 8 else 0,
    parcel := cmd.f (0x70 + o) 4, nIdx := cmd.f (0x74 + o) 4, indexAddr := cmd.f (0x78 + o) 8, fieldOff := cmd.f (0x80 + o) 4,
    fieldLen := cmd.f (0x84 + o) 4, uOff := cmd.f (0x88 + o) 4, blen := cmd.f (0x8C + o) 2,
    uData := if cmd.f (0x43 + o) 1 = 1 then Mem.rds cmd.slot uAt (cmd.f (0x8C + o) 2) else [], deadline := if o = 0 then cmd.deadline else 0 }

def highZero (w : W32) : Bool := w.toNat < 65536

/-- Parameters that R239 to R243 refuse; `expert`: the expert form. -/
def nbOpBad (p : NbOp) (expert : Bool) : Bool :=
  p.ty > 4 || p.op > 4 || (p.op = 0 && !expert) || p.u > 2 || (p.u = 2 && !expert) || p.act > 4 || p.shift > 31 ||
    (nbFloatTy p.ty && p.shift != 0) || (!(nbFloatTy p.ty) && (p.act = 4 || !(highZero p.a && highZero p.b && highZero p.lo && highZero p.hi))) ||
    (p.op = 4 && (p.u != 0 || (if nbFloatTy p.ty then p.e < -126 || 127 < p.e else p.e < -15 || 15 < p.e))) || (p.op != 4 && p.e != 0) ||
    (p.act = 2 && !(if nbFloatTy p.ty then lt32 p.lo.toNat p.hi.toNat || (!(f32.isNaN p.lo.toNat) && !(f32.isNaN p.hi.toNat) && !(lt32 p.hi.toNat p.lo.toNat))
      else nbConst p.lo ≤ nbConst p.hi)) ||
    (p.u = 1 && (p.blen % 64 != 0 || !(inRange p.blen 64 2048))) || (p.u != 1 && p.blen != 0)

/-- A ROWS target's field within a row of a length (R238, R240). -/
def nbFieldBad (p : NbOp) (payloadLen : Nat) : Bool :=
  p.fieldLen = 0 || p.fieldOff % 64 != 0 || p.fieldLen % 64 != 0 || p.fieldOff + p.fieldLen > payloadLen || (p.u = 1 && p.fieldLen % p.blen != 0) ||
    (p.u = 2 && (p.uOff % 64 != 0 || p.uOff + p.fieldLen > payloadLen || (p.uOff != p.fieldOff && overlaps p.uOff p.fieldLen p.fieldOff p.fieldLen)))

/-! ### Where lines lie (R236, R262, R277) -/

/-- Stack and frame that hold byte offset a of a region for its near-bank units: the member of the frame, under MIRROR the second copy once the first is lost; a rebuilt member lies in its new frame (R253, R274). -/
def Region.nbPlace (r : Region) (a : Nat) : Nat × Nat :=
  let i := a / 4096
  let u := r.unitOf i
  r.memberPlace u (if r.protect = .mirror && r.bad.contains (u, 0) then 1 else r.memberOf i)

/-- Stack and near-bank unit of a line of a region (R236, R262). -/
def Region.linePlace (r : Region) (a : Nat) : Nat × Nat :=
  let p := r.nbPlace a
  (p.1, (placeLine (4096 * p.2 + a % 4096)).2.2.2)

/-- Stack-local address of a line of a region. -/
def Region.lineAddr (r : Region) (a : Nat) : Nat := 4096 * (r.nbPlace a).2 + a % 4096

/-- The region an EXTENT target lies in: the port's partition or a TIER_PIN region (R238). -/
def Dev.nbRegion (d : Dev) (p : NbOp) (port : Port) : Option (Nat × Region) :=
  if p.region = 0 then (NMap.get? d.mem.regions (partRegion port)).map fun r => (partRegion port, r)
  else ((d.tierRegion p.region).filter fun r => r.tier = .pin).map fun r => (p.region, r)

/-- Length of the region an EXTENT lies in. -/
def Dev.nbLen (d : Dev) (p : NbOp) (port : Port) : Nat := if p.region = 0 then d.partLen port else ((d.tierRegion p.region).map (·.len)).getD 0

def servingStacks (d : Dev) : List Nat := (List.range 20).filter fun s => (vgetD d.mem.stk s ⟨.off, 0, 0, 0, 0⟩).serving

/-- Slot of a row that serves a station. -/
def servingSlot (r : Row) (station : Nat) : Nat := boolNat (rowUses1 r station)

/-- Where a line of copy 0 of an entry's row lies: stack, unit and stack-local address (R194, R236, R257). -/
def Dev.rowLine (d : Dev) (l : Leaf) (kind : RowKind) (id seq slot line : Nat) : Nat × Nat × Nat :=
  let a := d.copy0Byte l kind id seq slot line
  match NMap.get? d.mem.regions a.1 with
  | some r => ((r.linePlace a.2).1, (r.linePlace a.2).2, r.lineAddr a.2)
  | none => (0, 0, 0)

/-- Target lines of an EXTENT, ascending. -/
def extentLines (p : NbOp) (r : Region) : List NbLine :=
  (List.range (p.xLen / 64)).map fun i =>
    let a := p.xAddr + 64 * i
    ⟨(r.linePlace a).1, (r.linePlace a).2, 0, 0, a / 64⟩

/-- A stored U keeps the stack rule (R240). -/
def stackRule (r : Region) (p : NbOp) : Bool := (List.range (p.xLen / 64)).all fun i => (r.linePlace (p.xAddr + 64 * i)).1 = (r.linePlace (p.uAddr + 64 * i)).1

/-- Target rows: entries of each ID below a sequence number, in sequence order, with the index-list position (R247, R255). -/
def Leaf.targetRows (l : Leaf) (ids : List Nat) (seq : Nat) : List (Nat × Entry) :=
  ((ids.zipIdx).map fun e =>
    let es := sortBy (fun (a b : Entry) => a.seq ≤ b.seq) (l.allEntries.filter fun x => x.id = e.1 && x.seq < seq)
    ((es.map (·.seq)).dedup.filterMap fun q => es.find? fun x => x.seq = q).map fun x => (e.2, x)).flatten

/-- Target lines of rows: fenced, index-list order and ascending lines of each row (R247); otherwise ascending address (R246). -/
def Dev.rowLines (d : Dev) (c : Clock) (l : Leaf) (p : NbOp) (ids : List Nat) (seq : Nat) : List NbLine :=
  let all := ((l.targetRows ids seq).map fun e => (List.range (p.fieldLen / 64)).map fun j =>
    let line := p.fieldOff / 64 + j
    let slot := match e.2.payload with | some r => servingSlot r (d.station c) | none => 0
    let w := d.rowLine l .payload e.2.id e.2.seq slot line
    (w.2.2, (⟨w.1, w.2.1, e.1, e.2.seq, line⟩ : NbLine))).flatten
  (if p.fenced then all else sortBy (fun a b => a.1 ≤ b.1) all).map (·.2)

/-! ### Jobs and unit tasks (R250, R254) -/

/-- Tasks of a job: one for each unit that holds a line, a fenced job a single one (R250). -/
def NbJob.tasks (j : NbJob) : List (Nat × NbTask) :=
  if j.op.fenced then (match j.todo with | l :: _ => [(l.stack, ⟨j.id, l.unit, true, 0⟩)] | [] => [])
  else ((j.todo.map fun l => (l.stack, l.unit)).dedup).map fun x => (x.1, ⟨j.id, x.2, false, 0⟩)

/-- A ROWS command that no copy has still to apply ends: its outcome goes to its entry node, and to those that repeated it (R255, R258, R400). -/
def Dev.rowsEnd (d : Dev) (c : Clock) (l : Leaf) (w : RowsWait) : Dev :=
  let st := if w.stopped then stDeadline else if !w.poison.isEmpty then stPoison else if w.short then stShort else stOk
  let d1 := d.updLeaf l.parcel fun x => { x with rowsWait := x.rowsWait.filter fun v => v.key != w.key }
  let d2 := if w.key.opcode = 0x0700 then d1.putRec (.leaf l.parcel) w.key (some ⟨st, 1, w.count, [], c.now⟩) else d1
  let o : UpdOutcome := ⟨w.ref, w.key, if w.key.opcode = 0x0700 then st else stOk, 0, 0, w.count, w.poison, false⟩
  let dups := l.dups.filter fun u => u.key = w.key
  let d3 : Dev := dups.foldl (fun (x : Dev) u => x.outcome c u.entry { o with ref := u.ref, status := stReplayed, orig := st }) (d2.outcome c w.entry o)
  d3.updLeaf l.parcel fun x => { x with dups := x.dups.filter fun u => u.key != w.key }

/-- A copy has applied a ROWS command (R255, R258). -/
def Dev.rowsDone (d : Dev) (c : Clock) (key : CmdKey) (node : Nat) : Dev :=
  match d.leaves.find? fun l => l.rowsWait.any fun w => w.key = key with
  | none => d
  | some l =>
    match l.rowsWait.find? fun w => w.key = key with
    | none => d
    | some w =>
      let left := w.left.filter fun n => n != node
      if !left.isEmpty then
        d.updLeaf l.parcel fun x => { x with rowsWait := updIf (fun v => v.key = key) (fun v => { v with left := left }) x.rowsWait }
      else d.rowsEnd c l w

/-- Copies that are FAILED or no longer in the plat will not apply anything: they are awaited no more (R255, R378, R391). -/
def Dev.rowsPrune (d : Dev) (c : Clock) (l : Leaf) : Dev :=
  let here := d.plat.nodeId :: d.otherCopies l.parcel (d.station c)
  let gone := fun (n : Nat) => !(here.contains n) || NMap.get? l.peers n = some .failed
  (l.rowsWait.map fun w => (w.left.filter gone).map fun n => (w.key, n)).flatten.foldl (fun (x : Dev) e => x.rowsDone c e.1 e.2) d

/-- A job without lines left ends: its result area, status and count (R254); a copy's job reports to the lead. -/
def Dev.finishJob (d : Dev) (c : Clock) (j : NbJob) : Dev :=
  let d1 := { d with nb := { d.nb with jobs := d.nb.jobs.filter fun x => x.id != j.id,
                                       queues := d.nb.queues.map fun q => q.filter fun t => t.job != j.id,
                                       held := d.nb.held.map fun q => q.filter fun t => t.job != j.id } }
  match j.ref with
  | some r =>
    match d1.cmd? r with
    | none => d1
    | some cmd =>
      let st := if j.stopped then stDeadline else if !j.poison.isEmpty then stPoison else stOk
      let out := leBytes 8 j.poison.length ++ ((j.poison.take ((cmd.resultLen - 8) / 8)).map (leBytes 8)).flatten
      (d1.result cmd 0 out).endCmd c r st 0 j.done []
  | none =>
    match j.key with
    | none => d1
    | some k =>
      let lead := (d1.leadAt j.op.parcel (d1.station c)).getD d1.plat.nodeId
      if lead = d1.plat.nodeId then
        (d1.updLeaf j.op.parcel fun l => { l with rowsWait := updIf (fun w => w.key = k) (fun w => { w with count := j.done, poison := j.poison, stopped := w.stopped || j.stopped }) l.rowsWait }).rowsDone c k lead
      else
        let d2 := if k.opcode = 0x0700 then
          d1.putRec (.leaf j.op.parcel) k (some ⟨if j.stopped then stDeadline else if j.poison.isEmpty then stOk else stPoison, 1, j.done, [], c.now⟩) else d1
        d2.send clsUpdate lead (.rowsApplied k)

/-- Starts a job: its tasks join the stacks' queues; lines on a stack out of service count as poisoned at once (R277). -/
def Dev.startNb (d : Dev) (c : Clock) (j : NbJob) : Dev :=
  let lost := fun (l : NbLine) => !((vgetD d.mem.stk l.stack ⟨.off, 0, 0, 0, 0⟩).serving)
  let j1 : NbJob := { j with id := d.nb.nextJob, todo := j.todo.filter fun l => !(lost l), poison := ((j.todo.filter lost).map fun l => l.entry j.op.rows) }
  let d1 := { d with nb := { d.nb with nextJob := d.nb.nextJob + 1, jobs := d.nb.jobs ++ [j1],
                                       queues := j1.tasks.foldl (fun q t => vupdN q t.1 fun xs => xs ++ [t.2]) d.nb.queues } }
  if j1.todo.isEmpty then d1.finishJob c j1 else d1

/-- Byte ranges that a job touches: its target, and a stored U that it reads. -/
def NbJob.touches (j : NbJob) : List (Nat × Nat) :=
  if j.op.rows then (j.op.fieldOff, j.op.fieldLen) :: (if j.op.u = 2 then [(j.op.uOff, j.op.fieldLen)] else [])
  else (j.op.xAddr, j.op.xLen) :: (if j.op.u = 2 then [(j.op.uAddr, j.op.xLen)] else [])

/-- Two jobs touch a common line, stepped or not. -/
def NbJob.meets (a b : NbJob) : Bool :=
  a.op.rows == b.op.rows && (a.touches.any fun x => b.touches.any fun y => overlaps x.1 x.2 y.1 y.2) &&
    (if a.op.rows then a.op.parcel = b.op.parcel && a.rows.any fun q => b.rows.contains q
     else a.op.region = b.op.region && (a.op.region != 0 || a.port = b.port))

/-- A job waits for an earlier one that touches its lines to end: when either is fenced (R247), and between ROWS operations of a leaf, which every copy applies in sequence order (R255). -/
def Dev.nbBlocked (d : Dev) (j : NbJob) : Bool := d.nb.jobs.any fun x => x.id < j.id && (x.op.fenced || j.op.fenced || j.op.rows) && j.meets x

/-! ### bank.op (R238 to R240, R254, R259, R463) -/

def bankAreas (_ : Dev) (cmd : Cmd) : List (Nat × Nat) :=
  let p := cmd.nbOp 0 0x800
  if p.rows then [(p.indexAddr, 8 * p.nIdx)]
  else if p.region = 0 then (p.xAddr, p.xLen) :: (if p.u = 2 then [(p.uAddr, p.xLen)] else [])
  else []

/-- Broadcast data beyond BLEN, and fields that the target form does not use, are zero (R430). -/
def nbUnused (cmd : Cmd) (p : NbOp) : Bool :=
  Mem.hasAny cmd.slot (0x800 + p.blen) (0x800 - p.blen) ||
    (if p.rows then p.xAddr != 0 || p.xLen != 0 || p.uAddr != 0 || p.region != 0 || (p.u != 2 && p.uOff != 0)
     else p.parcel != 0 || p.nIdx != 0 || p.indexAddr != 0 || p.fieldOff != 0 || p.fieldLen != 0 || p.uOff != 0 || (p.u != 2 && p.uAddr != 0))

def extentBad (d : Dev) (cmd : Cmd) (p : NbOp) : Bool :=
  match d.nbRegion p cmd.ref.port with
  | none => true
  | some r =>
    let len := d.nbLen p cmd.ref.port
    p.xAddr % 64 != 0 || p.xLen % 64 != 0 || !(inRange p.xLen 64 (2 ^ 34)) || p.xAddr + p.xLen > len || (p.u = 1 && p.xLen % p.blen != 0) ||
      (p.u = 2 && (p.uAddr % 64 != 0 || p.uAddr + p.xLen > len || (p.uAddr != p.xAddr && overlaps p.uAddr p.xLen p.xAddr p.xLen) || !(stackRule r.2 p)))

def bankOpBad (c : Clock) (d : Dev) (cmd : Cmd) : Bool :=
  let p := cmd.nbOp 0 0x800
  cmd.f 0x40 1 > 1 || cmd.e 0x46 1 > 1 || cmd.resultLen < 8 || nbOpBad p cmd.expert || nbUnused cmd p ||
    (if p.rows then !(inRange p.nIdx 1 4096) || nbFieldBad p 65536 || (d.named c p.parcel).isNone else extentBad d cmd p)

/-- Host-side forwarding of an update command is given by `route` (Updates): ROWS go to the lead. -/
def bankOpExtent (c : Clock) (d : Dev) (cmd : Cmd) : Dev :=
  let p := cmd.nbOp 0 0x800
  match d.nbRegion p cmd.ref.port with
  | none => d.refuse cmd.ref stBadCmd
  | some r =>
    let ls := extentLines p r.2
    if d.pwr.ps ≥ 2 || ls.any fun l => d.heldBit 1 l.stack then d.refuse cmd.ref stBusy
    else d.startNb c ⟨0, some cmd.ref, none, p, cmd.ref.port.val, 0, [], ls, ls.length, 0, [], false, false⟩

/-! ### Easements (R249 to R251) -/

/-- Easements a stack may hold: EASE_CAP and the governor limit (R249, R476). -/
def Dev.easeLimit (d : Dev) (s : Nat) : Nat := min (vgetD d.nb.caps s 32) (32 - 4 * d.pwr.easeNotch)

def Dev.job? (d : Dev) (id : Nat) : Option NbJob := d.nb.jobs.find? fun j => j.id = id

/-- A free easement goes to the oldest queued task whose unit is not working and whose command's turn has come; none is granted during a power failure (R513, log 55). -/
def easementGrant (st : StackNo) (_ : Clock) (d : Dev) : Dev :=
  let held := d.nb.held[st]
  if held.length ≥ d.easeLimit st.val || d.flash.pf != .idle then d
  else
    let free := fun (t : NbTask) => !(held.any fun h => h.unit = t.unit) && (match d.job? t.job with | some j => !(d.nbBlocked j) | none => false)
    match d.nb.queues[st].findIdx? free with
    | none => d
    | some i =>
      match d.nb.queues[st][i]? with
      | none => d
      | some t => { d with nb := { d.nb with queues := vupd d.nb.queues st fun q => q.eraseIdx i, held := vupd d.nb.held st fun h => h ++ [{ t with steps := 0 }] } }

def execEasementGrant (t : Nat) (st : StackNo) (s : State) : Host.Outcome State Fault Refusal :=
  happens (.easementGrant t st) t (·.onDev (easementGrant st)) s

/-- Releases the most recent grants above a stack's limit; the tasks rejoin the queue's tail (R250). -/
def Dev.releaseOver (d : Dev) (s : Nat) : Dev :=
  let h := vgetD d.nb.held s []
  let out := h.drop (d.easeLimit s)
  { d with nb := { d.nb with held := vupdN d.nb.held s fun x => x.take (d.easeLimit s), queues := vupdN d.nb.queues s fun q => q ++ out } }

/-- Releases on every stack; a fall of the governor limit counts them (R250, R260). -/
def Dev.releaseAll (d : Dev) (governor : Bool) : Dev :=
  (List.range 20).foldl (fun (x : Dev) s =>
    let n := (vgetD x.nb.held s []).length - x.easeLimit s
    let y := x.releaseOver s
    if governor then y.count 54 s n else y) d

/-! ### Line steps (R244 to R246, R252 to R258) -/

/-- Operand U of a line: broadcast data by line number within the target, or none. -/
def nbBroadcast (p : NbOp) (i : Nat) : Option (List Byte) := if p.u = 1 then some ((p.uData.drop (64 * (i % (p.blen / 64)))).take 64) else none

/-- Bytes and poison of a device region's line at an address. -/
def Dev.lineOf (d : Dev) (p : NbOp) (port : Port) (a : Nat) : List Byte × Bool :=
  if p.region = 0 then (d.partRead port a 64, (d.poisonOf (partRegion port)).contains (a / 64))
  else match d.tierRegion p.region with
    | some r => (Mem.rds r.mem a 64, (d.poisonOf p.region).contains (a / 64))
    | none => ([], true)

def putLine (m : Mem) (poison : List Nat) (a : Nat) (bs : Option (List Byte)) : Mem × List Nat :=
  match bs with
  | some b => (Mem.wrs m a b, poison.filter fun x => x != a / 64)
  | none => (m, if poison.contains (a / 64) then poison else a / 64 :: poison)

/-- Writes a result line whole, or marks it poisoned; a mirror copy and the parity of its stripe follow it (R253, R269). -/
def Dev.setLine (d : Dev) (p : NbOp) (port : Port) (a : Nat) (bs : Option (List Byte)) : Dev :=
  if p.region = 0 then d.updPort port fun h => { h with mem := (putLine h.mem h.poison a bs).1, poison := (putLine h.mem h.poison a bs).2 }
  else { d with mem := { d.mem with regions := NMap.upd d.mem.regions p.region fun r => { r with mem := (putLine r.mem r.poison a bs).1, poison := (putLine r.mem r.poison a bs).2 } } }

/-- An operand line as the unit meets it: corrected and counted, or lost after the redundancy has been tried (R252, R253, R271). -/
def Dev.operand (d : Dev) (c : Clock) (st region a : Nat) (e : LineErr) : Bool × Dev :=
  match e with
  | .clean => (true, d)
  | .corrected => (true, d.count 56 st 1)
  | .uncorrectable => d.lineError c region a

def portOf (n : Nat) : Port := if h : n < 4 then ⟨n, h⟩ else 0

/-- One line of an EXTENT: whether the result is poisoned, and the device. -/
def Dev.stepExtent (d : Dev) (c : Clock) (st : Nat) (j : NbJob) (l : NbLine) (ex eu : LineErr) : Bool × Dev :=
  let port := portOf j.port
  match d.nbRegion j.op port with
  | none => (true, d)
  | some r =>
    let a := 64 * l.line
    let i := (a - j.op.xAddr) / 64
    let x := d.lineOf j.op port a
    let ua := j.op.uAddr + 64 * i
    let u := if j.op.u = 2 then some (d.lineOf j.op port ua) else (nbBroadcast j.op i).map fun b => (b, false)
    let r1 := if j.op.u = 2 then d.operand c st r.1 ua eu else (true, d)
    let r2 := r1.2.operand c st r.1 a ex
    let bad := !r1.1 || !r2.1 || x.2 || (match u with | some v => v.2 | none => false)
    (bad, r2.2.setLine j.op port a (if bad then none else some (nbLine j.op x.1 (u.map (·.1)))))

def patch (bs : List Byte) (off : Nat) (v : List Byte) : List Byte := bs.take off ++ v ++ bs.drop (off + v.length)

/-- A slot of a row after one line step; `home`: its X and U lines at the row's home are lost. -/
def nbSlot (p : NbOp) (line : Nat) (home : Bool) (s : RowSlot) : RowSlot :=
  let i := line - p.fieldOff / 64
  let ul := p.uOff / 64 + i
  let bad := home || s.poison.contains line || (p.u = 2 && s.poison.contains ul)
  let u := if p.u = 2 then some ((s.bytes.drop (64 * ul)).take 64) else nbBroadcast p i
  if bad then { s with poison := if s.poison.contains line then s.poison else line :: s.poison }
  else { s with bytes := patch s.bytes (64 * line) (nbLine p ((s.bytes.drop (64 * line)).take 64) u) }

/-- A slot of a row holds poison in a line. -/
def rowLineBad (r : Row) (line slot : Nat) : Bool :=
  if slot = 0 then r.s0.poison.contains line else match r.s1 with | some x => x.poison.contains line | none => false

/-- A near-bank write makes a cached row invalid until the next refresh (R199, R257). -/
def Dev.invalidateRow (d : Dev) (parcel : Nat) (kind : RowKind) (id : Nat) : Dev :=
  match d.chain.cache.rows.find? fun r => r.valid && r.row.parcel = parcel && r.row.kind = kind && r.row.id = id with
  | none => d
  | some r =>
    ({ d with chain := { d.chain with cache := { d.chain.cache with rows := updIf (fun x => x.row = r.row) (fun x => { x with valid := false }) d.chain.cache.rows } } }).count 39 r.die 1

/-- One line of a row, stepped at copy 0 and written to every copy (R257): every version's entry of that sequence number changes alike (R255, R256). An operand that redundancy cannot serve poisons the result line, which is written whole (R253). -/
def Dev.stepRow (d : Dev) (c : Clock) (st : Nat) (j : NbJob) (l : NbLine) (ex eu : LineErr) : Bool × Dev :=
  match (d.leaf j.op.parcel).bind fun lf => (lf.allEntries.find? fun e => e.seq = l.seq).bind fun e => e.payload.map fun r => (lf, e, r) with
  | none => (false, d)
  | some (lf, e, r) =>
    let id := (d.copy0Byte lf .payload e.id l.seq 0 0).1
    let serving := servingSlot r (d.station c)
    let xa := fun (slot : Nat) => (d.copy0Byte lf .payload e.id l.seq slot l.line).2
    let ua := fun (slot : Nat) => (d.copy0Byte lf .payload e.id l.seq slot (j.op.uOff / 64 + (l.line - j.op.fieldOff / 64))).2
    let r1 := if j.op.u = 2 then d.operand c st id (ua serving) eu else (true, d)
    let r2 := r1.2.operand c st id (xa serving) ex
    let lines := r2.2.poisonOf id
    let home := fun (slot : Nat) => (slot = serving && (!r1.1 || !r2.1)) || lines.contains (xa slot / 64) || (j.op.u = 2 && lines.contains (ua slot / 64))
    let step := fun (v : Row) => rowMap v (d.station c) j.seq fun slot => nbSlot j.op l.line (home slot)
    let hits := rowHits r (d.station c) j.seq
    let f := fun (y : Entry) => if y.seq = l.seq then { y with payload := y.payload.map step } else y
    let d1 := hits.foldl (fun (x : Dev) s => x.cleanRow lf .payload e.id l.seq s [l.line]) (r2.2.updLeaf j.op.parcel (Leaf.mapE f))
    (hits.any (rowLineBad (step r) l.line), d1.invalidateRow j.op.parcel .payload e.id)

/-- A task's next line: its unit's first, or a fenced job's first. -/
def NbJob.nextLine (j : NbJob) (st unit : Nat) : Option NbLine :=
  if j.op.fenced then (match j.todo with | l :: _ => if l.stack = st then some l else none | [] => none)
  else j.todo.find? fun l => l.stack = st && l.unit = unit

/-- A task after a step: it ends, keeps its easement, or releases it after SLICE steps or to follow a fenced job's next line (R250). -/
def Dev.moveTask (d : Dev) (st : StackNo) (t : NbTask) (j : NbJob) : Dev :=
  let keep := fun (t1 : NbTask) => { d with nb := { d.nb with held := vupd d.nb.held st fun h => h.map fun x => if x = t then t1 else x } }
  let out := { d with nb := { d.nb with held := vupd d.nb.held st fun h => h.filter fun x => x != t } }
  let queue := fun (s : Nat) (t1 : NbTask) => { out with nb := { out.nb with queues := vupdN out.nb.queues s fun q => q ++ [{ t1 with steps := 0 }] } }
  let t1 := { t with steps := t.steps + 1 }
  if j.op.fenced then
    match j.todo with
    | [] => out
    | l :: _ =>
      let t2 := { t1 with unit := l.unit }
      if l.stack = st.val && t1.steps < d.nb.slice then keep t2 else queue l.stack t2
  else if (j.nextLine st.val t.unit).isNone then out
  else if t1.steps < d.nb.slice then keep t1
  else queue st.val t1

/-- COUNT_WORD and PROGRESS of a job (R254): of a ROWS command they are those of the lead copy's line steps, which its entry node shows. -/
def Dev.reportJob (d : Dev) (j : NbJob) : Dev :=
  match j.ref with
  | some r => d.report r stRunning (progressOf j.done j.total) j.done false false false
  | none =>
    match (d.leaf j.op.parcel).bind fun l => l.rowsWait.find? fun w => some w.key = j.key with
    | none => d
    | some w => d.shows w.entry w.ref j.done j.total j.done

/-- DEADLINE of the job's command has passed: no further line step starts (R254). -/
def NbJob.late (j : NbJob) (c : Clock) : Bool := j.op.deadline != 0 && j.op.deadline ≤ c.now

/-- Ends a job that has lines left. -/
def Dev.cutJob (d : Dev) (c : Clock) (j : NbJob) : Dev := d.finishJob c { j with stopped := true, todo := [] }

/-- A near-bank unit that holds an easement does one line step; the errors its X and U lines show are the stack's (R244, R252, R253). How many ordinary accesses met the locked line is a free value (R245, R260; log 116). -/
def lineStep (st : StackNo) (unit : Nat) (x u : LineErr) (c : Clock) (d : Dev) : Dev :=
  match d.nb.held[st].find? fun t => t.unit = unit with
  | none => d
  | some t =>
    match d.job? t.job with
    | none => d
    | some j =>
      if j.late c then d.cutJob c j
      else
        match j.nextLine st.val unit with
        | none => d
        | some l =>
          let r := if j.op.rows then d.stepRow c st.val j l x u else d.stepExtent c st.val j l x u
          let j1 : NbJob := { j with todo := j.todo.filter (fun y => y != l), done := j.done + 1, poison := if r.1 then j.poison ++ [l.entry j.op.rows] else j.poison }
          let w := r.2.fresh
          let d1 := ((w.2.count 52 st.val 1).count 57 st.val (boolNat r.1)).count 55 st.val w.1
          let d2 := ({ d1 with nb := { d1.nb with jobs := updIf (fun y => y.id = j.id) (fun _ => j1) d1.nb.jobs } }).moveTask st t j1
          if j1.todo.isEmpty then d2.finishJob c j1 else d2.reportJob j1

def execLineStep (t : Nat) (st : StackNo) (unit : Nat) (x u : LineErr) (s : State) : Host.Outcome State Fault Refusal :=
  happens (.lineStep t st unit x u) t (·.onDev (lineStep st unit x u)) s

/-- A job whose lines are all stepped or lost ends; a fenced one that lost the stack of its task goes on with its next line (R250, R254, R277). -/
def Dev.sweepJob (d : Dev) (c : Clock) (j : NbJob) : Dev :=
  let mine := fun (xs : List NbTask) => xs.any fun t => t.job = j.id
  if j.todo.isEmpty then d.finishJob c j
  else if j.late c then d.cutJob c j
  else if j.op.fenced && !(d.nb.queues.toList.any mine) && !(d.nb.held.toList.any mine) then
    { d with nb := { d.nb with queues := j.tasks.foldl (fun q t => vupdN q t.1 fun xs => xs ++ [t.2]) d.nb.queues } }
  else d

def Dev.sweepJobs (d : Dev) (c : Clock) : Dev := d.nb.jobs.foldl (fun (x : Dev) j => x.sweepJob c j) d

/-- Stops a job: no further line steps (R254, R259). -/
def Dev.stopNb (d : Dev) (c : Clock) (r : Ref) : Dev :=
  match d.nb.jobs.find? fun j => j.ref = some r with
  | none => d
  | some j => d.cutJob c j

/-- Stops the ROWS jobs of a command at this copy. -/
def Dev.stopRows (d : Dev) (c : Clock) (key : CmdKey) : Dev := (d.nb.jobs.filter fun j => j.key = some key).foldl (fun (x : Dev) j => x.cutJob c j) d

/-- The deadline of a bank.op passes at its entry node: no further line step starts here, and the command ends (R254). Other copies stop by their own datum time. -/
def Dev.bankDue (d : Dev) (c : Clock) (cmd : Cmd) : Dev :=
  if cmd.f 0x40 1 = 1 then
    let d1 := d.stopRows c cmd.key
    if (d1.cmd? cmd.ref).isNone then d1 else d1.endCmd c cmd.ref stDeadline 0 (d.shownCount cmd) []
  else d.stopNb c cmd.ref

/-! ### ROWS at a copy and rescales (R255, R258) -/

/-- Starts the line steps of a ROWS operation at this copy, on the entries of its IDs below a bound. -/
def Dev.startRows (d : Dev) (c : Clock) (l : Leaf) (p : NbOp) (ids : List Nat) (bound seq : Nat) (key : CmdKey) : Dev :=
  let ls := d.rowLines c l p ids bound
  d.startNb c ⟨0, none, some key, p, 0, seq, ((l.targetRows ids bound).map (·.2.seq)).dedup, ls, ls.length, 0, [], false, false⟩

/-- After a switch each copy applies the closure's rescale, under its sequence number, to every entry of the new version (R256, R258). -/
def Dev.startRescale (d : Dev) (c : Clock) (l : Leaf) (p : NbOp) (seq : Nat) (key : CmdKey) : Dev :=
  d.startRows c { l with lists := l.lists.map fun x => { x with old := none } } { p with parcel := l.parcel, rows := true, fenced := false } ((l.entriesCur.map (·.id)).dedup) (2 ^ 64) seq key

/-- A copy has applied a ROWS operation or a rescale (R255, R258). -/
def rowsApplied (key : CmdKey) (node : Nat) (c : Clock) (d : Dev) : Dev := d.rowsDone c key node

def execRowsApplied (t : Nat) (key : CmdKey) (node : Nat) (s : State) : Host.Outcome State Fault Refusal :=
  happens (.rowsApplied t key node) t (·.onDev (rowsApplied key node)) s

/-! ### bank.easement_cfg (R251) -/

def bankEasementCfgBad (_ : Clock) (_ : Dev) (cmd : Cmd) : Bool :=
  cmd.f 0x40 4 ≥ 2 ^ 20 || !(inRange (cmd.f 0x44 1) 1 32) || !(inRange (cmd.f 0x48 4) 256 65536)

/-- The change waits for the next station boundary. -/
def bankEasementCfgRun (_ : Clock) (d : Dev) (cmd : Cmd) : Dev :=
  { d with nb := { d.nb with pend := d.nb.pend ++ [(cmd.ref, BitVec.ofNat 20 (cmd.f 0x40 4), cmd.f 0x44 1, cmd.f 0x48 4)] } }

def bankEasementCfg (k : Take) : Clock → Dev → Dev := runSlot 0x0701 allRows bankEasementCfgBad noAreas bankEasementCfgRun k

def execBankEasementCfg (k : Take) (s : State) : Host.Outcome State Fault Refusal :=
  happens (.bankEasementCfg k) k.t (·.onDev (bankEasementCfg k)) s

/-- Settings whose command was taken in an earlier station. -/
def Dev.easeDue (d : Dev) (c : Clock) : List (Ref × BitVec 20 × Nat × Nat) :=
  d.nb.pend.filter fun e => match d.cmd? e.1 with | some x => stationOf d.plat.gens x.takenAt < d.station c | none => true

/-- Installs the waiting settings that are due, in their order, and ends their commands. -/
def Dev.applyEase (d : Dev) (c : Clock) : Dev :=
  let due := d.easeDue c
  let d1 := due.foldl (fun (x : Dev) (e : Ref × BitVec 20 × Nat × Nat) =>
    ({ x with nb := { x.nb with caps := Vector.ofFn fun (s : Fin 20) => if e.2.1.getLsbD s.val then e.2.2.1 else x.nb.caps[s], slice := e.2.2.2 } }).endCmd c e.1 stOk 0 0 []) d
  ({ d1 with nb := { d1.nb with pend := d1.nb.pend.filter fun e => !(due.contains e) } }).releaseAll false

/-- The start of a station: waiting easement settings take effect (R251). -/
def easementCfgApply (c : Clock) (d : Dev) : Dev := if (d.easeDue c).isEmpty then d else d.applyEase c

def execEasementCfgApply (t : Nat) (s : State) : Host.Outcome State Fault Refusal :=
  happens (.easementCfgApply t) t (·.onDev easementCfgApply) s

end Sys2Proof.Machine
end

