-- ==== Sys2Proof/Machine/Updates.lean ====
section
/-! DEFINITION. Update commands from the entry node to the lead copy and the update sequence at every copy: item.*, parcel.create, parcel.load, parcel.closure, ROWS bank.op (R23, R83, R95, R144 to R153, R159, R164, R167, R190 to R192, R228, R255, R339, R371, R379, R383, R392, R400, R431, R551). -/

namespace Sys2Proof.Machine

/-! ### Encoding an item (R95) -/

/-- Index of the list with the smallest coarse key, in service order; a tie goes to the lower LIST_ID (R95, R101). -/
def chooseList (s : Space) (l : Leaf) (x y : Vec16) : Nat :=
  let bits := vecBits y
  let keys := (l.lists.zipIdx).map fun e => (coarseKey s x bits e.1.plan.centroid e.1.plan.bits e.1.nc, e.2)
  ((leastBy (fun a b => !(keyBefore b.1 b.2 a.1 a.2)) keys).map (·.2)).getD 0

def UpdVec (it : UpdItem) : List Nat := it.vec.map (·.toNat)

/-- An item as the lead encodes it: list and entry (R95, R106, R151). -/
def encodeItem (s : Space) (l : Leaf) (x : LeafCfg) (it : UpdItem) (seq commit : Nat) : Nat × Entry :=
  let p := (prepare s ((UpdVec it).map f2h)).getD ([], [])
  (chooseList s l p.1 p.2,
    { id := it.id, attr := if x.attr then it.attr else Attr.zero, code := encodeCode s p.1 p.2, commit := commit, orig := commit, seq := seq,
      vector := newRow (storeRow s x.fmt p.1 p.2) commit, payload := if x.payloadLen = 0 then none else some (newRow it.payload commit) })

/-- The stored VECTOR row of a replacement (R95, R190). -/
def encodeRow (s : Space) (x : LeafCfg) (it : UpdItem) : List Byte :=
  if it.kind = 1 then
    let p := (prepare s ((UpdVec it).map f2h)).getD ([], [])
    storeRow s x.fmt p.1 p.2
  else it.payload.take x.payloadLen

/-- The operation of one update (R146, R151 to R153, R190). -/
def updOp (k : UpdKind) (s : Space) (l : Leaf) (x : LeafCfg) (it : UpdItem) (seq commit : Nat) : UpdOp :=
  match k with
  | .delete => .tomb it.id
  | .upsert => let e := encodeItem s l x it seq commit; .upsert e.1 e.2
  | .replace => .replace it.id it.kind (encodeRow s x it)
  | _ => let e := encodeItem s l x it seq commit; .add e.1 e.2

/-! ### Applying a record at a copy (R146, R151 to R153, R156, R190, R255) -/

/-- An entry joins the side list of its list, and its rows a place of the stores (R151, R168). -/
def Leaf.addEntry (l : Leaf) (codeBytes list : Nat) (e : Entry) : Leaf :=
  ({ l with lists := (l.lists.zipIdx).map fun (x : LList × Nat) => if x.2 = list then { x.1 with cur := { x.1.cur with side := appendEntry codeBytes x.1.cur.side e } } else x.1 }).giveRow e.seq

def Leaf.addTomb (l : Leaf) (t : Tomb) : Leaf := { l with tombs := l.tombs ++ [t] }

/-- The row of a kind of an entry: 1 VECTOR, 2 PAYLOAD. -/
def entryRow (kind : Nat) (e : Entry) : Option Row := if kind = 1 then some e.vector else e.payload

/-- Rewrites the rows of an ID's earlier entries (R190). -/
def replaceRow (kind : Nat) (bytes : List Byte) (commit seq : Nat) (e : Entry) : Entry :=
  if kind = 1 then { e with vector := rowReplace e.vector bytes commit seq } else { e with payload := e.payload.map fun r => rowReplace r bytes commit seq }

/-- Commit station of a load that has not been given one: no benchmark reaches it (R23). -/
def noStation : Nat := 2 ^ 64

/-- Blocks of a plan in its order, with their entries numbered from 0 and the rows beside them (R59 to R61, R168): the bytes of each and what it holds. A block whose ATTR flag disagrees with the leaf is read by its own (DESIGN CHOICE, log 114). -/
def planBlocks (s : Space) (x : LeafCfg) (p : Plan) : List (List Byte × Block) :=
  (p.blocks.foldl (fun (acc : Nat × List (List Byte × Block)) b =>
    let n := blkItems s.codeBytes b
    let es := (List.range n).map fun i =>
      let v := blockItem (blkAttr b) s.codeBytes b i
      let it := p.items[acc.1 + i]?
      ({ id := v.1, attr := if x.attr then v.2.1 else Attr.zero, code := v.2.2, commit := noStation, orig := noStation, seq := acc.1 + i,
         vector := newRow ((it.map (·.vector)).getD []) 0, payload := if x.payloadLen = 0 then none else some (newRow ((it.map (·.payload)).getD []) 0) } : Entry)
    (acc.1 + n, acc.2 ++ [(b, (⟨blkSeq b, blkSealed b, noStation, es, fieldN b 0x24 4⟩ : Block))])) (0, [])).2

def planCount (s : Space) (p : Plan) : Nat := natSum (p.blocks.map (blkItems s.codeBytes))

/-- The blocks of one list of a plan, main or side by their SIDE flag, in the order of BLOCK_SEQ, numbered by their place in it (R59; DESIGN CHOICE for a SIDE block and for numbers that do not run from 0, log 114). -/
def listBlocks (bs : List (List Byte × Block)) (list : Nat) (side : Bool) : List Block :=
  let mine := sortBy (fun (a b : Block) => a.seq ≤ b.seq) ((bs.filter fun e => blkList e.1 = list && blkSide e.1 == side).map (·.2))
  mine.zipIdx.map fun e => { e.1 with seq := e.2 }

/-- The lists of a loaded plan; n_c is computed here (R101). -/
def planLists (s : Space) (x : LeafCfg) (p : Plan) : List LList :=
  let bs := planBlocks s x p
  p.lists.zipIdx.map fun e => { plan := e.1, nc := centroidNorm e.1.centroid, cur := ⟨0, listBlocks bs e.2 false, listBlocks bs e.2 true⟩, next := none, old := none }

/-- STACK_MASK of the row stores: the stacks a plan names, or all that serve (R265, log 87). -/
def Dev.rowStackMask (d : Dev) (ss : List StackNo) : BitVec 20 :=
  if ss.isEmpty then (List.range 20).foldl (fun m s => if d.serves s then m ||| stackBit s else m) 0 else ss.foldl (fun m s => m ||| stackBit s.val) 0

/-- Writes a load's blocks and rows where they are homed on flash. -/
def Dev.writeLoad (d : Dev) (l : Leaf) (s : Space) (x : LeafCfg) : Dev :=
  let d1 := (l.lists.zipIdx).foldl (fun (y : Dev) e => y.writeVersion l.parcel e.2 e.1 e.1.cur) d
  [0, 1].foldl (fun (y : Dev) k =>
    let n := 64 * placeLines x s k * l.loaded
    if cfgTier x k = .pin || n = 0 then y
    else
      let key := storeKey l.parcel k
      let z := y.ensureExtents key n
      (List.range (ceilDiv n Config.flashPage)).foldl (fun (w : Dev) i => w.writeOwned key i) z) d1

/-- Main-list blocks of a load that are not durable yet: those of flash lists still on their way (R23). -/
def Dev.loadBusy (d : Dev) (l : Leaf) : Nat :=
  natSum ((l.lists.zipIdx.filter fun e => e.1.plan.tier = .flash).map fun e =>
    ((List.range e.1.cur.main.length).filter fun i =>
      match d.flash.unitAt (listKey l.parcel e.2 e.1.cur.no) i with | some u => d.flash.unitBusy u.1 u.2 | none => false).length)

/-- PROGRESS of a parcel.load: code blocks written and durable at the lead copy (R50). -/
def Dev.reportLoad (d : Dev) (c : Clock) (l : Leaf) : Dev :=
  match l.load with
  | some v =>
    if v.plan.isSome && v.station.isNone && d.leadAt l.parcel (d.station c) = some d.plat.nodeId then
      let n := natSum (l.lists.map fun x => x.cur.main.length + x.cur.side.length)
      d.shows v.entry v.ref (n - d.loadBusy l) n 0
    else d
  | none => d

def setCommit (st : Nat) (e : Entry) : Entry :=
  if e.commit = noStation then
    { e with commit := st, orig := st, vector := { e.vector with s0 := { e.vector.s0 with eff := st } },
             payload := e.payload.map fun r => { r with s0 := { r.s0 with eff := st } } }
  else e

/-- Every loaded entry takes commit station L (R23). -/
def Leaf.giveStation (l : Leaf) (st : Nat) : Leaf :=
  let l1 := l.mapE (setCommit st)
  { l1 with lists := l1.lists.map fun x => { x with cur := { x.cur with main := x.cur.main.map fun b => { b with base := if b.base = noStation then st else b.base } } },
            load := l1.load.map fun v => { v with station := some st } }

/-- A copy with a plan's content, which no benchmark sees before the load's commit station (R23). -/
def Leaf.withLoad (l : Leaf) (s : Space) (x : LeafCfg) (p : Plan) (mask : BitVec 20) (v : Load) : Leaf :=
  let n := planCount s p
  { l with planGen := p.planGen, lists := planLists s x p, loaded := n, load := some v, rowDir := (List.range n).map (· + 1), rowMask := mask, rowProtect := p.rowProtect }

/-- A load's blocks are installed at a copy, with its commit station once the record brings it (R23). -/
def Dev.installLoad (d : Dev) (c : Clock) (parcel : Nat) (p : Plan) (commit : Nat) (key : CmdKey) : Dev :=
  match d.leaf parcel with
  | none => d
  | some l =>
    match d.spaceOf l, l.cfg with
    | some s, some x =>
      let l1 := l.withLoad s x p (d.rowStackMask p.rowStacks) ⟨some p, [], none, 0, ⟨0, 0, 0, 0⟩, key⟩
      let l2 := if commit = noStation then l1 else l1.giveStation commit
      ((d.updLeaf parcel fun _ => l2).syncLeaf c parcel).writeLoad l2 s x
    | _, _ => d

/-- Rows of an ID's entries below a sequence number. -/
def Leaf.entriesBelow (l : Leaf) (id seq : Nat) : List Entry := l.allEntries.filter fun e => e.id = id && e.seq < seq

def replayKept (key : CmdKey) : Bool := [0x0400, 0x0401, 0x0402, 0x0403, 0x0700].contains key.opcode

/-- Marks where a record of the update sequence is kept (R399). -/
def Dev.keepRec (d : Dev) (parcel : Nat) (key : CmdKey) : Dev :=
  if replayKept key && (d.findRec (.leaf parcel) key).isNone then d.putRec (.leaf parcel) key none else d

/-- Entries and tombstones that an operation brings to a copy (R151 to R153). -/
def Leaf.takeItem (l : Leaf) (codeBytes : Nat) (r : UpdRec) : Leaf :=
  match r.op with
  | .add list e => l.addEntry codeBytes list e
  | .tomb id => l.addTomb ⟨id, r.commit, r.seq⟩
  | .upsert list e => (l.addTomb ⟨e.id, r.commit, r.seq⟩).addEntry codeBytes list e
  | _ => l

/-- Applications that an operation counts for (R153, R164). -/
def opApplied : UpdOp → Nat
  | .add .. => 1
  | .tomb .. => 1
  | .upsert .. => 2
  | _ => 0

/-- The rows of a new entry are written in the stores (R166). -/
def Dev.writeRows (d : Dev) (c : Clock) (parcel : Nat) (e : Entry) : Dev :=
  match d.leaf parcel with
  | none => d
  | some l => (d.wroteRow c l 0 0 e).wroteRow c l 1 0 e

/-- One record's effect on a copy but for its place in the sequence. A copy still building a switched closure when the next one comes cannot complete it and is FAILED (R162; DESIGN CHOICE, log 58). -/
def Dev.applyOp (d : Dev) (c : Clock) (parcel : Nat) (r : UpdRec) : Dev :=
  match d.leaf parcel with
  | none => d
  | some l =>
    let cb := ((d.spaceOf l).map Space.codeBytes).getD 0
    let item := fun (_ : Unit) => ((d.updLeaf parcel fun l => l.takeItem cb r).syncLeaf c parcel).count 20 0 (opApplied r.op)
    match r.op with
    | .add _ e => (item ()).writeRows c parcel e
    | .tomb _ => item ()
    | .upsert _ e => (item ()).writeRows c parcel e
    | .replace id kind bytes =>
      let hit := l.entriesBelow id r.seq
      let seqs := hit.map (·.seq)
      let slot := fun (e : Entry) => match entryRow kind e with | some w => 1 - servingSlot w (r.commit - 1) | none => 0
      let d1 := d.updLeaf parcel fun l => l.mapE fun e => if seqs.contains e.seq then replaceRow kind bytes r.commit r.seq e else e
      (hit.foldl (fun (x : Dev) e => x.wroteRow c l (kind - 1) (slot e) e) d1).count 34 0 (seqs.dedup).length
    | .rows nb ids => d.startRows c l nb ids r.seq r.seq r.key
    | .create cfg => d.updLeaf parcel fun l => { l with cfg := some cfg }
    | .load plan => d.installLoad c parcel plan r.commit r.key
    | .closure k u nb =>
      if l.behind.isSome then d.failCopy c parcel
      else d.updLeaf parcel fun l =>
        { l with closure := some { k := k, u := u, seq := r.seq, building := false, ready := none, readyFrom := [], rescale := nb, outcome := none } }

/-- Applies a record in its place: the copy keeps it for fetches (R146, R389). -/
def Dev.applyRec (d : Dev) (c : Clock) (parcel : Nat) (r : UpdRec) : Dev :=
  ((d.updLeaf parcel fun l => { l with applied := r.seq, recs := l.recs ++ [r] }).applyOp c parcel r).keepRec parcel r.key

/-! ### What the lead refuses -/

/-- A vector of the wrong dimension, or one that R83, R86, R95 or R228 refuses. -/
def badVec (s : Space) (x : LeafCfg) (it : UpdItem) : Bool := it.vec.length != s.inWidth || vectorBad s x.fmt (UpdVec it)

def itemBad (k : UpdKind) (s : Space) (x : LeafCfg) (it : UpdItem) : Bool :=
  it.id = Config.noItem ||
    (match k with
     | .delete => false
     | .replace => !x.replaceable || (if it.kind = 1 then badVec s x it else if it.kind = 2 then x.payloadLen = 0 || it.payload.length < x.payloadLen else true)
     | _ => badVec s x it || it.payload.length != x.payloadLen)

/-- The first row of R149's table, with R167, R191 and R228; also a leaf whose load has not ended (R23). -/
def Dev.itemsBad (d : Dev) (l : Leaf) (u : UpdCmd) : Bool :=
  match d.spaceOf l, l.cfg with
  | some s, some x => !l.isLoaded || !u.recLenOk || u.resultLen < 8 || !(inRange u.items.length 1 Config.maxUpdates) || u.items.any (itemBad u.kind s x)
  | _, _ => true

/-- A lead that cannot take intake (R392), or with a held search die (R463). -/
def Dev.noIntake (d : Dev) (l : Leaf) : Bool := l.loc != .current || l.noIntake || vgetD d.pwr.hold 0 0 != 0

/-- Updates in this node's intake queue: those taken in here whose commit stations are not settled yet (R164; DESIGN CHOICE, log 117: the manual gives the queue's size and not when an update leaves it). -/
def Dev.intakeLoad (d : Dev) : Nat := natSum (d.leaves.map fun l => natSum (l.waits.map (·.n)))

/-- Items that the copies on this node hold (R6). -/
def Dev.itemCount (d : Dev) : Nat := natSum (d.leaves.map fun l => l.entriesCur.length)

def Leaf.sideCount (l : Leaf) : Nat := natSum (l.lists.map fun x => (blockItems x.cur.side).length)

def kindAdds (k : UpdKind) : Bool := k = .insert || k = .upsert
def kindTombs (k : UpdKind) : Bool := k = .delete || k = .upsert

/-- Limits of R6 and R164. -/
def Dev.overLimits (d : Dev) (l : Leaf) (u : UpdCmd) : Bool :=
  let n := u.items.length
  Config.intakeQueue < d.intakeLoad + n || (kindAdds u.kind && Config.maxItems < d.itemCount + n) || (kindAdds u.kind && Config.maxSide < l.sideCount + n) || (kindTombs u.kind && Config.maxTombs < l.tombs.length + n)

/-- R192 for intake station s. -/
def Dev.replaceBusy (d : Dev) (l : Leaf) (u : UpdCmd) (s : Nat) : Bool :=
  u.kind = .replace && u.items.any fun it => (l.entriesBelow it.id (2 ^ 64)).any fun e => match entryRow it.kind e with | some r => rowBusy d.plat.gens r s | none => false

/-! ### Intake (R145, R146, R149, R371, R379, R383, R400) -/

/-- The command ends at its entry node with a status alone. -/
def Dev.answer (d : Dev) (c : Clock) (u : UpdCmd) (status : Nat) : Dev := d.outcome c u.entry (outcomeOf u.ref u.key status 0 0 false)

/-- Commit station of what arrives now: s + 1 with s = ⌊(t_a + UPD_GUARD_NS) / STATION_NS⌋. -/
def Dev.commitNow (d : Dev) (c : Clock) : Nat := stationOf d.plat.gens (c.now + (d.timing c).updGuardNs) + 1

/-- Numbers, applies and sends operations at the lead (R146). -/
def Dev.commitOps (d : Dev) (c : Clock) (parcel : Nat) (recs : List UpdRec) : Dev :=
  let d1 := recs.foldl (fun (x : Dev) r => x.applyRec c parcel r) d
  let d2 := d1.updLeaf parcel fun l => { l with nextSeq := l.nextSeq + recs.length }
  d2.sendAll clsUpdate (d2.otherCopies parcel (d.commitNow c)) (.records parcel recs)

def Dev.addWait (d : Dev) (parcel : Nat) (w : WaitUpd) : Dev := d.updLeaf parcel fun l => { l with waits := l.waits ++ [w] }

/-- Replacements that found an entry (R191). -/
def Leaf.found (l : Leaf) (u : UpdCmd) : Nat := (u.items.filter fun it => !(l.entriesBelow it.id (2 ^ 64)).isEmpty).length

/-- item.insert, item.delete, item.upsert and item.replace_row at the lead. -/
def Dev.intakeItems (d : Dev) (c : Clock) (l : Leaf) (u : UpdCmd) : Dev :=
  let cst := d.commitNow c
  if d.itemsBad l u then d.answer c u stBadCmd
  else
    match d.findRec (.leaf l.parcel) u.key with
    | some r =>
      if r.key.opcode != u.key.opcode || r.key.crc != u.key.crc then d.answer c u stBadCmd
      else
        match r.ended with
        | none => d.updLeaf l.parcel fun l => { l with dups := l.dups ++ [u] }
        | some e => d.outcome c u.entry ⟨u.ref, u.key, stReplayed, e.status, leNat e.head, e.count, [], e.rflags.getLsbD 1⟩
    | none =>
      let busy := fun (x : Dev) => (x.answer c u stBusy).count 22 0 1
      if !(d.holdsTime c) then d.answer c u stNoTime
      else if u.kind != .delete && d.flash.readOnly && (l.cfg.map LeafFlash).getD false then d.answer c u stReadOnly
      else if d.noIntake l || d.overLimits l u then busy d
      else if d.replaceBusy l u (cst - 1) then (busy d).count 35 0 1
      else
        match d.spaceOf l, l.cfg with
        | some s, some x =>
          let recs := (u.items.zipIdx).map fun e => (⟨l.nextSeq + e.2, cst, updOp u.kind s l x e.1 (l.nextSeq + e.2) cst, u.key⟩ : UpdRec)
          if !(d.roomFor ((recs.foldl (fun (y : Leaf) r => y.takeItem s.codeBytes r) l).regions d)) then busy d
          else
            let n := u.items.length
            let cnt := if u.kind = .replace then l.found u else n
            let d1 := if kindAdds u.kind then (d.count 21 0 n).leafTask else d
            (d1.commitOps c l.parcel recs).addWait l.parcel ⟨u.entry, u.ref, u.key, u.kind, cst, n, cnt, cnt < n⟩
        | _, _ => d.answer c u stBadCmd

/-- Formats a space does not take: int8 in a normalising space (R82), FX with D no multiple of 32 (R225). -/
def fmtUnfit (s : Space) (f : Fmt) : Bool := (f = .int8 && s.normalising) || ((f = .fx6 || f = .fx4) && s.dim % 32 != 0)

/-- A parcel.create or parcel.load of this leaf that has not ended. -/
def Leaf.creating (l : Leaf) : Bool := l.waits.any fun w => w.kind = .create

/-- parcel.create at the lead (R23, R551). -/
def Dev.intakeCreate (d : Dev) (c : Clock) (l : Leaf) (u : UpdCmd) (cfg : LeafCfg) : Dev :=
  let cst := d.commitNow c
  if l.cfg.isSome || (match d.space cfg.space with | some s => fmtUnfit s cfg.fmt | none => false) then d.answer c u stBadCmd
  else if !(d.holdsTime c) then d.answer c u stNoTime
  else if d.noIntake l || (LeafFlash cfg && d.flash.format.isSome) then d.answer c u stBusy
  else (d.commitOps c l.parcel [⟨l.nextSeq, cst, .create cfg, u.key⟩]).addWait l.parcel ⟨u.entry, u.ref, u.key, .create, cst, 1, 0, false⟩

/-- A bf16 word of a plan's centroid is finite (R101). -/
def centroidOk (s : Space) (x : PlanList) : Bool :=
  if s.kind = .binary then x.bits.length = s.dim / 8 else x.centroid.length = s.dim && x.centroid.all fun w => bf16.isFin w.toNat

/-- A stored row of a plan that R83 refuses, or that R86 cannot normalise. -/
def planRowBad (s : Space) (x : LeafCfg) (bs : List Byte) : Bool :=
  let es := rowElems x.fmt s.dim bs
  let bad := fun (e : VElem) => match e with | .num z => decide (z.natAbs ≥ 65520 * 2 ^ 24) | _ => s.normalising
  bs.length != rowBytes x.fmt s.dim || es.any bad || (s.normalising && es.all fun e => match e with | .num z => decide (z = 0) | _ => false)

/-- A plan that parcel.load refuses (R64, R83, R86, R101, R166, R167, R265, R279); a block of a list that the plan does not have is refused too (DESIGN CHOICE, log 114). -/
def planBad (s : Space) (x : LeafCfg) (parcel : Nat) (p : Plan) : Bool :=
  let mask := (p.rowStacks.foldl (fun m k => m ||| stackBit k.val) (0 : BitVec 20)).toNat
  p.planGen != s.planGen || p.lists.isEmpty || p.lists.any (fun e => e.tier = .cache || e.protect = .parity) ||
    p.blocks.any (fun b => blockBad s parcel b || p.lists.length ≤ blkList b) || !(p.lists.all (centroidOk s)) || p.items.length != planCount s p ||
    p.items.any (fun it => planRowBad s x it.vector || it.payload.length != x.payloadLen || it.id = Config.noItem) ||
    (mask != 0 && !(maskOk p.rowProtect mask))

/-- A load writes flash. -/
def loadFlash (x : LeafCfg) (p : Plan) : Bool := LeafFlash x || p.lists.any fun e => e.tier = .flash

/-- Extents a load takes on flash: the pinned ones of its lists by channel, and the others. -/
def flashRoom (d : Dev) (s : Space) (x : LeafCfg) (p : Plan) : Bool :=
  let blocks := fun (k : Nat) => (p.blocks.filter fun b => blkList b = k && !(blkSide b)).length
  let pins := p.lists.zipIdx.filter fun e => e.1.tier = .flash
  let perChan := (List.range 32).all fun ch =>
    Config.extentBytes * natSum ((pins.filter fun e => e.1.homeChan.val = ch).map fun e => extentsFor (blocks e.2 * Config.blockBytes)) ≤ (d.chan ch).room
  let store := fun (k : Nat) => if cfgTier x k = .pin then 0 else extentsFor (64 * placeLines x s k * planCount s p)
  perChan && store 0 + store 1 + natSum (pins.map fun e => extentsFor (blocks e.2 * Config.blockBytes)) ≤ d.extentRoom

/-- Room for a load: the items of R6, DRAM for its blocks and row stores (R284), flash for what is homed there. -/
def loadRoom (d : Dev) (l : Leaf) (s : Space) (x : LeafCfg) (p : Plan) : Bool :=
  d.itemCount + planCount s p ≤ Config.maxItems &&
    d.roomFor ((l.withLoad s x p (d.rowStackMask p.rowStacks) ⟨none, [], none, 0, ⟨0, 0, 0, 0⟩, ⟨0, 0, 0, 0⟩⟩).regions d) && (!(loadFlash x p) || flashRoom d s x p)

/-- parcel.load at the lead: the blocks go to every copy; L comes when all ACTIVE copies hold them (R23, R339, R551). -/
def Dev.intakeLoadCmd (d : Dev) (c : Clock) (l : Leaf) (u : UpdCmd) (p : Plan) : Dev :=
  match d.spaceOf l, l.cfg with
  | some s, some x =>
    if l.creating || l.load.isSome || planBad s x l.parcel p || (d.flash.noFlash && loadFlash x p) then d.answer c u stBadCmd
    else if !(d.holdsTime c) then d.answer c u stNoTime
    else if d.flash.readOnly && loadFlash x p then d.answer c u stReadOnly
    else if d.noIntake l || (loadFlash x p && d.flash.format.isSome) || !(loadRoom d l s x p) then d.answer c u stBusy
    else
      let d1 := (d.sendAll clsBulk (d.otherCopies l.parcel (d.commitNow c)) (.blocks l.parcel p)).commitOps c l.parcel [⟨l.nextSeq, noStation, .load p, u.key⟩]
      let d2 := d1.updLeaf l.parcel fun l => { l with load := l.load.map fun v => { v with entry := u.entry, ref := u.ref } }
      match d2.leaf l.parcel with | some l1 => d2.reportLoad c l1 | none => d2
  | _, _ => d.answer c u stBadCmd

/-- parcel.closure at the lead, checked in the order of R159's table. -/
def Dev.intakeClosure (d : Dev) (c : Clock) (l : Leaf) (u : UpdCmd) : Dev :=
  let k := u.closureK.getD (d.station c)
  let pay := (l.cfg.map (·.payloadLen)).getD 0
  if !l.isLoaded || u.closureU < k + 2 || (l.prevUse != 0 && (k < l.prevUse || u.closureU < drainStation d.plat.gens l.prevUse)) ||
      (match u.nb with | some nb => pay = 0 || (l.cfg.map (·.payTier)) != some .pin || nbFieldBad nb pay || nb.u = 2 | none => false) then d.answer c u stBadCmd
  else if !(d.holdsTime c) then d.answer c u stNoTime
  else if d.flash.readOnly && l.lists.any fun x => x.plan.tier = .flash then d.answer c u stReadOnly
  else if d.noIntake l || (match l.closure with | some x => x.outcome.isNone || l.behind.isSome | none => false) then d.answer c u stBusy
  else
    (d.commitOps c l.parcel [⟨l.nextSeq, d.commitNow c, .closure k u.closureU u.nb, u.key⟩]).addWait l.parcel
      ⟨u.entry, u.ref, u.key, .closure, u.closureU, 0, 0, false⟩

/-- A ROWS bank.op at the lead: it takes sequence numbers and no commit station, and ends when every copy has applied it (R255). Its PAYLOAD store lies in DRAM under TIER_PIN: a near-bank operation touches no region of another tier (R238; DEDUCED, log 118). -/
def Dev.intakeRows (d : Dev) (c : Clock) (l : Leaf) (u : UpdCmd) (nb : NbOp) : Dev :=
  let pay := (l.cfg.map (·.payloadLen)).getD 0
  if !l.isLoaded || pay = 0 || (l.cfg.map (·.payTier)) != some .pin || nbFieldBad nb pay then d.answer c u stBadCmd
  else
    match d.findRec (.leaf l.parcel) u.key with
    | some r =>
      if r.key.opcode != u.key.opcode || r.key.crc != u.key.crc then d.answer c u stBadCmd
      else
        match r.ended with
        | none => d.updLeaf l.parcel fun l => { l with dups := l.dups ++ [u] }
        | some e => d.outcome c u.entry ⟨u.ref, u.key, stReplayed, e.status, 0, e.count, [], false⟩
    | none =>
      if d.noIntake l then (d.answer c u stBusy).count 22 0 1
      else
        let ids := u.items.map (·.id)
        let short := ids.any fun i => (l.entriesBelow i (2 ^ 64)).isEmpty
        let w : RowsWait := ⟨u.entry, u.ref, u.key, d.plat.nodeId :: (d.otherCopies l.parcel (d.station c)).filter fun n => NMap.get? l.peers n != some .failed, short, 0, [], false⟩
        (d.updLeaf l.parcel fun l => { l with rowsWait := l.rowsWait ++ [w] }).commitOps c l.parcel [⟨l.nextSeq, 0, .rows nb ids, u.key⟩]

/-- Runs a command at the lead. -/
def Dev.intakeAt (d : Dev) (c : Clock) (l : Leaf) (u : UpdCmd) : Dev :=
  match u.kind with
  | .create => match u.cfg with | some x => d.intakeCreate c l u x | none => d.answer c u stBadCmd
  | .load => match u.plan with | some p => d.intakeLoadCmd c l u p | none => d.answer c u stBadCmd
  | .closure => d.intakeClosure c l u
  | .rows => match u.nb with | some nb => d.intakeRows c l u nb | none => d.answer c u stBadCmd
  | _ => d.intakeItems c l u

/-- ST_STALE_PLAT for a command that reaches a node that does not lead (R383). -/
def Dev.answerStale (d : Dev) (u : UpdCmd) : Dev := (d.send clsControl u.entry (.updateStale u.key)).count 102 0 1

/-- A stale answer at the entry node: it routes again, and gives up at the third (R383). -/
def Dev.staleOnce (d : Dev) (key : CmdKey) : Option (Forwarded × Dev) :=
  match d.plat.forwarded.find? fun f => f.key = key && f.cmd.isSome with
  | none => none
  | some f =>
    let f1 := { f with stale := f.stale + 1 }
    some (f1, { d with plat := { d.plat with forwarded := updIf (fun x => x.ref = f.ref) (fun _ => f1) d.plat.forwarded } })

/-- The lead takes a command in, forwards it once, answers ST_STALE_PLAT, or holds it (R144, R371, R379, R383). -/
def Dev.intake (d : Dev) (c : Clock) (u : UpdCmd) : Dev :=
  let cst := d.commitNow c
  let lead := d.leadAt u.parcel cst
  match (d.leaf u.parcel).filter fun _ => lead = some d.plat.nodeId with
  | none =>
    (match lead with
     | some n =>
       if u.forwarded || n = d.plat.nodeId then d.answerStale u
       else (d.send clsUpdate n (.update { u with forwarded := true })).count 103 0 1
     | none => d.answerStale u)
  | some l =>
    let noBeacon := decide (d.station c < cst - 1) && !(match d.plat.beacon with | some b => decide (b.station ≥ d.station c) | none => false)
    if l.intakeHeld || (noBeacon && d.holdsTime c) then
      (d.updLeaf u.parcel fun l => { l with held := l.held ++ [u] }).count 101 0 (boolNat noBeacon)
    else d.intakeAt c l u

/-- Takes held commands up again, in order (R371, R379). -/
def Dev.retryHeld (d : Dev) (c : Clock) (parcel : Nat) : Dev :=
  match d.leaf parcel with
  | none => d
  | some l => l.held.foldl (fun (x : Dev) u => x.intake c u) (d.updLeaf parcel fun l => { l with held := [] })

def Dev.dropForwarded (d : Dev) (r : Ref) : Dev := { d with plat := { d.plat with forwarded := d.plat.forwarded.filter fun f => f.ref != r } }

/-- Sends a command to the lead of the newest generation known, or takes it in here (R383). -/
def Dev.route (d : Dev) (c : Clock) (u : UpdCmd) : Dev :=
  match d.newest.bind fun g => g.lead u.parcel with
  | none => (d.dropForwarded u.ref).refuse u.ref stStalePlat
  | some n =>
    if n = d.plat.nodeId then d.intake c u else d.send (if u.kind = .load then clsBulk else clsUpdate) n (.update u)

/-- The entry node keeps the command until its outcome comes. -/
def Dev.submit (d : Dev) (c : Clock) (u : UpdCmd) : Dev :=
  ({ d with plat := { d.plat with forwarded := d.plat.forwarded ++ [(⟨u.ref, u.key, some u, 0⟩ : Forwarded)] } } : Dev).route c u

/-- An update command reaches this node from a peer. -/
def updateIntake (u : UpdCmd) (c : Clock) (d : Dev) : Dev := if d.carries then d.intake c u else d

def execUpdateIntake (t : Nat) (u : UpdCmd) (s : State) : Host.Outcome State Fault Refusal :=
  happens (.updateIntake t u) t (·.onDev (updateIntake u)) s

/-- Routes again after ST_STALE_PLAT; the third answer ends the command (R383). The plat is refreshed from a quorum member. -/
def stalePlatUpdateAnswer (key : CmdKey) (c : Clock) (d : Dev) : Dev :=
  match d.staleOnce key with
  | none => d
  | some r =>
    if r.1.stale ≥ 3 then
      (r.2.dropForwarded r.1.ref).refuse r.1.ref stStalePlat
    else
      let q := ((d.newest.map (·.quorum)).getD []).filter fun n => n != d.plat.nodeId
      let d1 := match q.head? with | some n => r.2.send clsControl n (.fetchGen (((d.newest.map (·.gen)).getD 0) + 1)) | none => r.2
      match r.1.cmd with
      | some u => d1.route c u
      | none => d1

def execStalePlatUpdateAnswer (t : Nat) (key : CmdKey) (s : State) : Host.Outcome State Fault Refusal :=
  happens (.stalePlatUpdateAnswer t key) t (·.onDev (stalePlatUpdateAnswer key)) s

/-! ### Reading update records (R144, R167, R431) -/

/-- VFMT of an input vector: its size in bytes. -/
def vfmtOf (v : Nat) : Option (Fmt × Nat) := if v = 5 then some (.fp32, 4) else if v = 4 then some (.fp16, 2) else if v = 3 then some (.bf16, 2) else none

/-- An input element as fp32. -/
def inF (f : Fmt) (w : Nat) : W32 := BitVec.ofNat 32 (match f with | .fp16 => h2f w | .bf16 => b2f w | _ => w)

def readVec (f : Fmt) (size n : Nat) (bs : List Byte) : List W32 := (List.range n).map fun i => inF f (fieldN bs (size * i) size)

/-- Bytes a vector takes in a record. -/
def vecArea (n size : Nat) : Nat := ceilDiv (n * size) 64 * 64

/-- A record of item.insert or item.upsert. -/
def readItem (f : Fmt) (size n : Nat) (bs : List Byte) : UpdItem :=
  ⟨fieldN bs 0 8, attrOfBytes (bs.drop 8), readVec f size n (bs.drop 0x40), bs.drop (0x40 + vecArea n size), 0⟩

/-- A record of item.replace_row. -/
def readReplace (f : Fmt) (size n : Nat) (bs : List Byte) : UpdItem :=
  ⟨fieldN bs 0 8, Attr.zero, if fieldN bs 8 1 = 1 then readVec f size n (bs.drop 0x40) else [], if fieldN bs 8 1 = 1 then [] else bs.drop 0x40, fieldN bs 8 1⟩

/-- Records of an item command as the partition holds them. -/
def Dev.itemRecs (d : Dev) (cmd : Cmd) : List (List Byte) :=
  (List.range (cmd.f 0x44 2)).map fun i => d.partRead cmd.ref.port (cmd.f 0x48 8 + i * cmd.f 0x50 4) (cmd.f 0x50 4)

def Dev.itemSpace (d : Dev) (c : Clock) (parcel : Nat) : Option Space := (d.named c parcel).bind fun l => d.space l.space

/-- REC_LEN of an insert is its base and the payload; of a replacement at least its longest record. -/
def recLenOk (s : Space) (size recLen : Nat) (replace : Bool) (rs : List (List Byte)) : Bool :=
  if replace then 0x40 ≤ recLen && !(rs.any fun r => fieldN r 8 1 = 1 && recLen < 0x40 + s.inWidth * size) else 0x40 + vecArea s.inWidth size ≤ recLen

/-- Non-zero reserved bytes of records (R15). -/
def recReserved (replace : Bool) (rs : List (List Byte)) : Bool :=
  rs.any fun r => if replace then !(allZero ((r.drop 9).take 55)) else !(allZero ((r.drop 0x24).take 28))

/-- Padding between a vector and the payload (R15). -/
def recPadding (s : Space) (size : Nat) (rs : List (List Byte)) : Bool :=
  rs.any fun r => !(allZero ((r.drop (0x40 + s.inWidth * size)).take (vecArea s.inWidth size - s.inWidth * size)))

def itemAreas (del : Bool) (_ : Dev) (cmd : Cmd) : List (Nat × Nat) :=
  if del then [(cmd.f 0x48 8, 8 * cmd.f 0x44 2)] else [(cmd.f 0x48 8, cmd.f 0x44 2 * cmd.f 0x50 4)]

/-- IDs that an item command carries. -/
def Dev.itemIds (d : Dev) (k : UpdKind) (cmd : Cmd) : List Nat :=
  (List.range (cmd.f 0x44 2)).map fun i => d.partReadN cmd.ref.port (cmd.f 0x48 8 + i * (if k = .delete then 8 else cmd.f 0x50 4)) 8

/-- What the entry node can tell of R149's first row: NO_ITEM and reserved bytes always (R11, R15), lengths and padding once it holds the codebook. -/
def itemCmdBad (k : UpdKind) (c : Clock) (d : Dev) (cmd : Cmd) : Bool :=
  let n := cmd.f 0x44 2
  (d.named c (cmd.f 0x40 4)).isNone || !(inRange n 1 Config.maxUpdates) || cmd.resultLen < 8 || (d.itemIds k cmd).contains Config.noItem ||
    (if k = .delete then false
     else cmd.f 0x50 4 < 0x40 || recReserved (k = .replace) (d.itemRecs cmd) ||
       (match vfmtOf (cmd.f 0x46 1), d.itemSpace c (cmd.f 0x40 4) with
        | none, _ => true
        | some _, none => false
        | some v, some s => !(recLenOk s v.2 (cmd.f 0x50 4) (k = .replace) (d.itemRecs cmd)) || (k != .replace && recPadding s v.2 (d.itemRecs cmd))))

def Dev.readItems (d : Dev) (c : Clock) (k : UpdKind) (cmd : Cmd) : List UpdItem :=
  if k = .delete then (List.range (cmd.f 0x44 2)).map fun i => (⟨d.partReadN cmd.ref.port (cmd.f 0x48 8 + 8 * i) 8, Attr.zero, [], [], 0⟩ : UpdItem)
  else
    match vfmtOf (cmd.f 0x46 1), d.itemSpace c (cmd.f 0x40 4) with
    | some v, some s => (d.itemRecs cmd).map (if k = .replace then readReplace v.1 v.2 s.inWidth else readItem v.1 v.2 s.inWidth)
    | _, _ => []

def Dev.updCmd (d : Dev) (k : UpdKind) (cmd : Cmd) (parcel : Nat) (items : List UpdItem) : UpdCmd :=
  { kind := k, parcel := parcel, entry := d.plat.nodeId, ref := cmd.ref, key := cmd.key, vfmt := ((vfmtOf (cmd.f 0x46 1)).map (·.1)).getD .fp32, items := items,
    recLenOk := true, resultLen := cmd.resultLen, cfg := none, plan := none, closureU := 0, closureK := none, nb := none, forwarded := false }

/-- A space whose codebook this node has not fetched yet has no known input width: the command is refused ST_BUSY (DESIGN CHOICE, log 32). -/
def itemRun (k : UpdKind) (c : Clock) (d : Dev) (cmd : Cmd) : Dev :=
  if k != .delete && (d.itemSpace c (cmd.f 0x40 4)).isNone then (d.refuse cmd.ref stBusy).count 22 0 1
  else d.submit c (d.updCmd k cmd (cmd.f 0x40 4) (d.readItems c k cmd))

def itemInsert (k : Take) : Clock → Dev → Dev := runSlot 0x0400 allRows (itemCmdBad .insert) (itemAreas false) (itemRun .insert) k
def itemDelete (k : Take) : Clock → Dev → Dev := runSlot 0x0401 allRows (itemCmdBad .delete) (itemAreas true) (itemRun .delete) k
def itemUpsert (k : Take) : Clock → Dev → Dev := runSlot 0x0402 allRows (itemCmdBad .upsert) (itemAreas false) (itemRun .upsert) k
def itemReplaceRow (k : Take) : Clock → Dev → Dev := runSlot 0x0403 allRows (itemCmdBad .replace) (itemAreas false) (itemRun .replace) k

def execItemInsert (k : Take) (s : State) : Host.Outcome State Fault Refusal := happens (.itemInsert k) k.t (·.onDev (itemInsert k)) s
def execItemDelete (k : Take) (s : State) : Host.Outcome State Fault Refusal := happens (.itemDelete k) k.t (·.onDev (itemDelete k)) s
def execItemUpsert (k : Take) (s : State) : Host.Outcome State Fault Refusal := happens (.itemUpsert k) k.t (·.onDev (itemUpsert k)) s
def execItemReplaceRow (k : Take) (s : State) : Host.Outcome State Fault Refusal := happens (.itemReplaceRow k) k.t (·.onDev (itemReplaceRow k)) s

/-! ### parcel.create, parcel.load, parcel.closure at the entry node (R17, R23, R68, R82, R159, R166, R225, R320) -/

def storeFmt (v : Nat) : Option Fmt :=
  if v = 0 then some .int8 else if v = 3 then some .bf16 else if v = 4 then some .fp16 else if v = 6 then some .fx6 else if v = 7 then some .fx4 else none

def Cmd.leafCfg (cmd : Cmd) : Option LeafCfg :=
  match storeFmt (cmd.f 0x4A 1), tierOf (cmd.f 0x4B 1), tierOf (cmd.f 0x4C 1) with
  | some f, some v, some p =>
    some { space := cmd.f 0x44 4, attr := bitAt (cmd.f 0x48 2) 0, replaceable := bitAt (cmd.f 0x48 2) 1, fmt := f, vecTier := v, payTier := p,
           payloadLen := cmd.f 0x50 4, np := cmd.f 0x54 2, wUs := if cmd.expert then cmd.f 0x56 2 else 100 }
  | _, _, _ => none

def parcelCreateBad (c : Clock) (d : Dev) (cmd : Cmd) : Bool :=
  cmd.f 0x40 4 = Config.noParcel || cmd.f 0x48 2 > 3 ||
    (match d.named c (cmd.f 0x40 4), cmd.leafCfg with
     | some l, some x =>
       x.space != l.space || !(inRange x.np 1 4096) || x.wUs > 1000 || (x.payloadLen != 0 && (x.payloadLen % 64 != 0 || !(inRange x.payloadLen 64 65536))) ||
         (d.flash.noFlash && (x.vecTier != .pin || x.payTier != .pin)) || (match d.space l.space with | some s => fmtUnfit s x.fmt | none => false)
     | _, _ => true)

def parcelCreateRun (c : Clock) (d : Dev) (cmd : Cmd) : Dev := d.submit c { d.updCmd .create cmd (cmd.f 0x40 4) [] with cfg := cmd.leafCfg }

def parcelCreate (k : Take) : Clock → Dev → Dev := runSlot 0x0200 allRows parcelCreateBad noAreas parcelCreateRun k

def execParcelCreate (k : Take) (s : State) : Host.Outcome State Fault Refusal := happens (.parcelCreate k) k.t (·.onDev (parcelCreate k)) s

def parcelLoadBad (c : Clock) (d : Dev) (cmd : Cmd) : Bool := (d.named c (cmd.f 0x40 4)).isNone || cmd.f 0x50 8 = 0

def parcelLoadAreas (_ : Dev) (cmd : Cmd) : List (Nat × Nat) := [(cmd.f 0x48 8, cmd.f 0x50 8)]

/-- The plan is what the bytes at PLAN_ADDR hold (log 15). -/
def parcelLoadRun (plan : Plan) (c : Clock) (d : Dev) (cmd : Cmd) : Dev := d.submit c { d.updCmd .load cmd (cmd.f 0x40 4) [] with plan := some plan }

def parcelLoad (k : Take) (plan : Plan) : Clock → Dev → Dev := runSlot 0x0201 allRows parcelLoadBad parcelLoadAreas (parcelLoadRun plan) k

def execParcelLoad (k : Take) (plan : Plan) (s : State) : Host.Outcome State Fault Refusal := happens (.parcelLoad k plan) k.t (·.onDev (parcelLoad k plan)) s

/-- The rescale of a closure (R258): fields of a ROWS target without ID list and FENCED, U NONE or BROADCAST. -/
def rescaleBad (cmd : Cmd) : Bool :=
  let p := cmd.nbOp 0xC0 0x800
  cmd.f 0x106 1 != 0 || p.u = 2 || nbOpBad p true || Mem.hasAny cmd.slot (0x800 + p.blen) (0x800 - p.blen) || nbFieldBad p 65536

def parcelClosureBad (c : Clock) (d : Dev) (cmd : Cmd) : Bool :=
  (d.named c (cmd.f 0x40 4)).isNone || cmd.e 0x50 1 > 3 || (bitAt (cmd.e 0x50 1) 1 && rescaleBad cmd)

def parcelClosureRun (c : Clock) (d : Dev) (cmd : Cmd) : Dev :=
  let fl := cmd.e 0x50 1
  d.submit c { d.updCmd .closure cmd (cmd.f 0x40 4) [] with
    closureU := cmd.f 0x48 8, closureK := if bitAt fl 0 then some (cmd.f 0x58 8) else none, nb := if bitAt fl 1 then some (cmd.nbOp 0xC0 0x800) else none }

def parcelClosure (k : Take) : Clock → Dev → Dev := runSlot 0x0203 allRows parcelClosureBad noAreas parcelClosureRun k

def execParcelClosure (k : Take) (s : State) : Host.Outcome State Fault Refusal := happens (.parcelClosure k) k.t (·.onDev (parcelClosure k)) s

/-! ### bank.op (R238, R254, R255) -/

def bankOpRun (c : Clock) (d : Dev) (cmd : Cmd) : Dev :=
  let p := cmd.nbOp 0 0x800
  if d.pwr.ps ≥ 2 then (d.refuse cmd.ref stBusy).count 22 0 (boolNat p.rows)
  else if p.rows then
    let ids := (List.range p.nIdx).map fun i => d.partReadN cmd.ref.port (p.indexAddr + 8 * i) 8
    d.submit c { d.updCmd .rows cmd p.parcel (ids.map fun i => (⟨i, Attr.zero, [], [], 0⟩ : UpdItem)) with nb := some p }
  else bankOpExtent c d cmd

def bankOp (k : Take) : Clock → Dev → Dev := runSlot 0x0700 allRows bankOpBad bankAreas bankOpRun k

def execBankOp (k : Take) (s : State) : Host.Outcome State Fault Refusal := happens (.bankOp k) k.t (·.onDev (bankOp k)) s

end Sys2Proof.Machine
end

