-- ==== Sys2Proof/Machine/Settle.lean ====
section
/-! DEFINITION. Settlement of a leaf's stations, lapses, closures, loads, new leads, fills and frees (R23, R147 to R150, R160 to R163, R376 to R379, R389 to R392). -/

namespace Sys2Proof.Machine

/-! ### Replay records of the sequence (R150, R399, R400) -/

/-- COUNT of a sequenced command: its updates, or for replacements those that found an entry (R149, R191). -/
def Leaf.recCount (l : Leaf) (key : CmdKey) : Nat × Nat :=
  let rs := l.recs.filter fun r => r.key = key
  let hit := rs.filter fun r => match r.op with | .replace id _ _ => !(l.entriesBelow id r.seq).isEmpty | _ => true
  (rs.length, hit.length)

/-- A dup of a command whose record has ended takes its outcome (R400). -/
def Dev.endDups (d : Dev) (c : Clock) (parcel : Nat) (key : CmdKey) (e : Ended) : Dev :=
  match d.leaf parcel with
  | none => d
  | some l =>
    let mine := l.dups.filter fun u => u.key = key
    mine.foldl (fun (x : Dev) u => x.outcome c u.entry ⟨u.ref, key, stReplayed, e.status, leNat e.head, e.count, [], e.rflags.getLsbD 1⟩)
      (d.updLeaf parcel fun x => { x with dups := x.dups.filter fun u => u.key != key })

/-- Records of commands whose commit station is now settled take their outcome at this copy. -/
def Dev.endSeqRecs (d : Dev) (c : Clock) (parcel commit : Nat) (degraded : Bool) : Dev :=
  match d.leaf parcel with
  | none => d
  | some l =>
    let keys := ((l.recs.filter fun r => 0 < r.commit && r.commit ≤ commit && replayKept r.key && r.key.opcode != 0x0700).map (·.key)).dedup
    keys.foldl (fun (x : Dev) k =>
      match x.findRec (.leaf parcel) k with
      | some ⟨_, _, none⟩ =>
        let n := l.recCount k
        let st := ((l.recs.find? fun r => r.key = k).map (·.commit)).getD commit
        let e : Ended := ⟨if n.2 < n.1 then stShort else stOk, BitVec.ofNat 4 (rflags false false degraded true), n.2, leBytes 8 st, c.now⟩
        (x.putRec (.leaf parcel) k (some e)).endDups c parcel k e
      | _ => x) d

/-! ### Closures (R159 to R163, R258) -/

/-- The new version of a list for a closure, from what is settled (R160, R161). -/
def buildNext (s : Space) (x : LeafCfg) (l : Leaf) (cl : Closure) (e : LList) : Version :=
  let ts := l.tombs.filter fun t => t.t ≤ cl.u && t.t ≤ l.settled
  let keep := fun (v : Entry) => !(ts.any fun t => t.id = v.id && v.commit < t.t)
  let main := (e.cur.entries.filter fun v => v.commit ≤ cl.k && keep v)
  let order := sortBy (fun (a b : Entry) => a.id < b.id || (a.id = b.id && a.orig ≤ b.orig)) main
  let side := (blockItems e.cur.side).filter fun v => cl.k < v.commit && keep v
  ⟨e.cur.no + 1, sealedBlocks x.attr s.codeBytes cl.u order.length 0 (order.map fun v => { v with commit := cl.u }), sideBlocks s.codeBytes side⟩

def Dev.formNext (d : Dev) (l : Leaf) (cl : Closure) : Leaf :=
  match d.spaceOf l, l.cfg with
  | some s, some x => { l with lists := l.lists.map fun e => { e with next := some (buildNext s x l cl e) } }
  | _, _ => l

/-- Frees the flash and the DRAM of the new version, and drops it. -/
def Dev.freeNext (d : Dev) (c : Clock) (l : Leaf) : Dev :=
  let d1 := (l.lists.zipIdx).foldl (fun (y : Dev) e => match e.1.next with | some v => y.freeVersion l.parcel e.2 e.1 v | none => y) d
  (d1.updLeaf l.parcel fun x => { x with lists := x.lists.map fun e => { e with next := none } }).syncLeaf c l.parcel

/-- The old version and every tombstone with t ≤ U go, with the records and rows of entries that no version holds any more (R163, R168). -/
def Dev.freeOld (d : Dev) (c : Clock) (l : Leaf) (u : Nat) : Dev :=
  let d1 := (l.lists.zipIdx).foldl (fun (y : Dev) e => match e.1.old with | some v => y.freeVersion l.parcel e.2 e.1 v | none => y) d
  (d1.updLeaf l.parcel fun x =>
    ({ x with lists := x.lists.map (fun e => { e with old := none }), oldUse := none, tombUse := 0, tombs := x.tombs.filter fun t => u < t.t } : Leaf).dropRows).syncLeaf c l.parcel

/-- Station x has been drained (R163). -/
def Dev.drained (d : Dev) (c : Clock) (x : Nat) : Bool := drainStation d.plat.gens x ≤ d.station c

/-- The copy takes the new version into use, an older one being freed first; readers below the use station keep the old one, which probes name by its number (R143, R162, R163); a rescale starts (R258). -/
def Dev.switchLeaf (d0 : Dev) (c : Clock) (parcel : Nat) : Dev :=
  match (d0.leaf parcel).bind fun l => l.due.map fun cl => (l, cl) with
  | none => d0
  | some (l0, cl) =>
    let prev := (l0.oldUse.orElse fun _ => some l0.tombUse).getD 0
    let d := if prev != 0 && d0.drained c prev then d0.freeOld c l0 prev else d0
    let l := d.formNext ((d.leaf parcel).getD l0) cl
    let l1 := { l with lists := l.lists.map fun e => { e with old := some e.cur, cur := e.next.getD e.cur, next := none }, lastUse := cl.u, oldUse := some cl.u, tombUse := cl.u, due := none }
    let d1 := ((d.updLeaf parcel fun _ => l1).syncLeaf c parcel).count 24 0 1
    match cl.rescale with
    | some p => d1.startRescale c l1 p cl.seq (((l.recs.find? fun r => r.seq = cl.seq).map (·.key)).getD ⟨0, 0, 0x0203, 0⟩)
    | none => d1

/-- A decided switch takes place once the use station has begun (R143). -/
def Dev.switchDue (d : Dev) (c : Clock) (parcel : Nat) : Dev :=
  match (d.leaf parcel).bind (·.due) with
  | some cl => if cl.u ≤ d.station c then d.switchLeaf c parcel else d
  | none => d

/-- The new version is complete and the closure has switched: it comes into use at its station (R162). -/
def Dev.setDue (d : Dev) (c : Clock) (parcel : Nat) (cl : Closure) : Dev :=
  let cl1 := { cl with building := false, ready := some true, outcome := some true }
  (d.updLeaf parcel fun x => { x with closure := some cl1, due := some cl1 }).switchDue c parcel

/-- A closure's outcome reaches a copy (R162): it switches at its use station, is abandoned, or, when the new version is not complete here, building goes on. -/
def Dev.closureOutcome (d : Dev) (c : Clock) (parcel : Nat) (ok : Bool) : Dev :=
  match d.leaf parcel with
  | none => d
  | some l =>
    match l.closure with
    | none => d
    | some cl =>
      if cl.outcome.isSome then d
      else if !ok then ((d.freeNext c l).updLeaf parcel fun x => { x with closure := none }).count 25 0 1
      else if cl.ready = some true then d.setDue c parcel cl
      else d.updLeaf parcel fun x => { x with closure := some { cl with outcome := some true } }

/-- Side-list entries that a closure merges into main lists (R50, R160). -/
def Leaf.toMerge (l : Leaf) (cl : Closure) : Nat := natSum (l.lists.map fun e => ((blockItems e.cur.side).filter fun v => v.commit ≤ cl.k).length)

/-- PROGRESS of a parcel.closure, from the lead copy's build (R50). -/
def Dev.reportClosure (d : Dev) (c : Clock) (l : Leaf) (done total : Nat) : Dev :=
  match l.waits.find? fun w => w.kind = .closure with
  | some w => if d.leadAt l.parcel (d.station c) = some d.plat.nodeId then d.shows w.entry w.ref done total 0 else d
  | none => d

/-- Free space for a new version where its lists lie: DRAM of the home dies, and the home channels (R161, R284). -/
def Dev.nextRoom (d : Dev) (l : Leaf) : Bool :=
  let pins := l.lists.filter fun e => e.plan.tier = .flash
  d.roomFor (l.regions d) && (List.range 32).all fun ch =>
    Config.extentBytes * natSum ((pins.filter fun e => e.plan.homeChan.val = ch).map fun e => extentsFor (Config.blockBytes * ((e.next.map fun v => v.main.length).getD 0))) ≤ (d.chan ch).room

/-- A copy begins the build once K is settled there; without the space for it the copy is not ready (R161, R162). -/
def closureBuildStart (parcel : Nat) (c : Clock) (d : Dev) : Dev :=
  match d.leaf parcel with
  | none => d
  | some l =>
    match l.closure with
    | none => d
    | some cl =>
      if cl.building || l.due.isSome || cl.outcome = some false || cl.ready.isSome || l.settled < cl.k || l.loc = .failed ||
          (match l.shadow with | some f => decide (f ≤ cl.u) | none => false) then d
      else
        let l1 := d.formNext { l with closure := some { cl with building := true } } cl
        if d.nextRoom l1 then
          let d1 := (d.updLeaf parcel fun _ => l1).syncLeaf c parcel
          ((l1.lists.zipIdx).foldl (fun (y : Dev) e => match e.1.next with | some v => y.writeVersion parcel e.2 e.1 v | none => y) d1).reportClosure c l 0 (l.toMerge cl)
        else if cl.outcome = some true then d.failCopy c parcel
        else d.updLeaf parcel fun x => { x with closure := some { cl with ready := some false } }

def execClosureBuildStart (t : Nat) (parcel : Nat) (s : State) : Host.Outcome State Fault Refusal :=
  happens (.closureBuildStart t parcel) t (·.onDev (closureBuildStart parcel)) s

/-- The new version is complete, durable where it is TIER_FLASH, or cannot be completed (R161, R162). -/
def closureBuildComplete (parcel : Nat) (ok : Bool) (c : Clock) (d : Dev) : Dev :=
  match d.leaf parcel with
  | none => d
  | some l =>
    match l.closure with
    | none => d
    | some cl =>
      if !cl.building || (ok && !(d.nextDurable l)) then d
      else if cl.outcome = some true then (if ok then d.setDue c parcel cl else d.failCopy c parcel)
      else
        (d.updLeaf parcel fun x => { x with closure := some { cl with building := false, ready := some ok } }).reportClosure c l (if ok then l.toMerge cl else 0) (l.toMerge cl)

def execClosureBuildComplete (t : Nat) (parcel : Nat) (ok : Bool) (s : State) : Host.Outcome State Fault Refusal :=
  happens (.closureBuildComplete t parcel ok) t (·.onDev (closureBuildComplete parcel ok)) s

/-! ### The lead settles stations (R147 to R149, R162, R389, R390) -/

/-- Highest sequence number with commit station c or earlier (R147). -/
def Leaf.markSeq (l : Leaf) (commit : Nat) : Nat :=
  match l.recs.find? fun r => commit < r.commit with
  | some r => r.seq - 1
  | none => l.nextSeq - 1

/-- Station number x occurs (R141, R142). -/
def occurs (gens : List PlatGen) (x : Nat) : Bool := occurring gens x = x

def Leaf.peer (l : Leaf) (n : Nat) : LocalState := NMap.getD l.peers n .current

def Leaf.hasAck (l : Leaf) (commit n : Nat) : Bool := commit ≤ NMap.getD l.acked n 0

/-- LAPSE_NS runs from the start of the station, or from the sending of its mark when that is later (R389). -/
def Dev.markFrom (d : Dev) (mk : Mark × Nat) : Nat := max (startOf d.plat.gens mk.1.commit) mk.2

/-- The lead may settle a marked station now (R147, R389). -/
def Dev.canSettle (d : Dev) (c : Clock) (l : Leaf) (mk : Mark × Nat) : Bool :=
  let fs := d.followers l.parcel mk.1.commit
  let cur := fs.filter fun n => l.peer n = .current
  let lap := fs.filter fun n => match l.peer n with | .lapsed _ => true | _ => false
  (cur.all (l.hasAck mk.1.commit) || d.markFrom mk + d.lapseNs ≤ c.now) && (lap.all (l.hasAck mk.1.commit) || d.markFrom mk ≤ c.now)

/-- A LAPSED copy that acknowledged may be CURRENT again unless it reported that it lacks a switched closure's version (R162, R389). -/
def Leaf.catches (l : Leaf) (commit n : Nat) : Bool :=
  l.hasAck commit n && (match l.closure with | some x => !(x.outcome = some true && x.readyFrom.contains (n, false)) | none => true)

/-- The end of a command whose station is settled. -/
def Dev.endWait (d : Dev) (c : Clock) (parcel : Nat) (degraded : Bool) (w : WaitUpd) : Dev :=
  let d1 := d.outcome c w.entry (outcomeOf w.ref w.key (if w.short then stShort else stOk) w.station w.count (degraded && replayKept w.key))
  if w.kind = .create then
    match (d1.leaf parcel).bind (·.cfg) with
    | some x =>
      let nodes := ((d1.genFor parcel w.station).map fun g => (g.nodes.map (·.id)).filter fun n => n != d1.plat.nodeId).getD []
      { d1.sendAll clsControl nodes (.npReport parcel x.np) with adm := { d1.adm with np := NMap.put d1.adm.np parcel x.np } }
    | none => d1
  else d1

/-- The closure whose use station is reached: its outcome by the copies that count (R142, R162). -/
def closureVerdict (l : Leaf) (commit : Nat) (counted : List Nat) : Option Bool :=
  match l.closure with
  | none => none
  | some x =>
    if x.outcome.isSome || commit < x.u then none
    else some (x.u = commit && x.ready = some true && counted.all fun n => x.readyFrom.contains (n, true))

/-- The closure's command ends at its outcome, or, with a rescale, when every copy has applied it (R162, R258). -/
def Dev.endClosure (d : Dev) (c : Clock) (parcel : Nat) (cl : Closure) (ok : Bool) : Dev :=
  match (d.leaf parcel).bind fun l => (l.waits.find? fun w => w.kind = .closure).map fun w => (l, w) with
  | none => d
  | some (l, w) =>
    let d1 := d.updLeaf parcel fun l => { l with waits := l.waits.filter fun x => x.kind != .closure }
    if ok && cl.rescale.isSome then
      let left := d.plat.nodeId :: (d.otherCopies parcel cl.u).filter fun n => NMap.get? l.peers n != some .failed
      d1.updLeaf parcel fun l => { l with rowsWait := l.rowsWait ++ [⟨w.entry, w.ref, w.key, left, false, 0, [], false⟩] }
    else d1.outcome c w.entry (outcomeOf w.ref w.key (if ok then stOk else stDeadline) cl.u 0 false)

/-- Settles one marked station (R147): lapses and returns, waiting commands, the closure's outcome, the settled record. -/
def Dev.settleOne (d : Dev) (c : Clock) (parcel : Nat) (mk : Mark × Nat) : Dev :=
  match d.leaf parcel with
  | none => d
  | some l =>
    let commit := mk.1.commit
    let fs := d.followers parcel commit
    let live := fs.filter fun n => l.peer n != .failed
    let back := live.filter fun n => l.peer n != .current && l.catches commit n
    let lapsed := live.filter fun n => !(l.hasAck commit n) || (l.peer n != .current && !(back.contains n))
    let counted := live.filter fun n => !(lapsed.contains n)
    let peers1 := back.foldl (fun p n => NMap.put p n LocalState.current) l.peers
    let peers2 := lapsed.foldl (fun p n => if NMap.getD p n LocalState.current = .current then NMap.put p n (.lapsed commit) else p) peers1
    let verdict := closureVerdict l commit counted
    let newly := lapsed.filter fun n => NMap.getD peers1 n LocalState.current = .current
    let deg := !lapsed.isEmpty
    let due := l.waits.filter fun w => w.kind != .closure && w.station ≤ commit
    let d1 := d.updLeaf parcel fun x =>
      { x with settled := max x.settled commit, marks := x.marks.drop 1, peers := peers2, waits := x.waits.filter fun w => !(w.kind != .closure && w.station ≤ commit) }
    let d2 : Dev := due.foldl (fun (x : Dev) w => x.endWait c parcel deg w) (d1.count 109 0 newly.length)
    let d3 := d2.endSeqRecs c parcel commit deg
    let d4 := match verdict, l.closure with
      | some ok, some cl => (d3.endClosure c parcel cl ok).closureOutcome c parcel ok
      | _, _ => d3
    d4.sendAll clsControl (d4.otherCopies parcel commit) (.settled ⟨parcel, commit, lapsed, back, verdict, []⟩)

/-- Settles, in order, every marked station that can be settled; a lead that cannot take intake settles nothing (R392). -/
def Dev.trySettle (d : Dev) (c : Clock) (parcel : Nat) : Nat → Dev
  | 0 => d
  | n + 1 =>
    match d.leaf parcel with
    | none => d
    | some l =>
      match l.marks with
      | [] => d
      | m :: _ => if l.loc != .current || l.noIntake || !(d.canSettle c l m) then d else (d.settleOne c parcel m).trySettle c parcel n

def Dev.settleAll (d : Dev) (c : Clock) (parcel : Nat) : Dev := d.trySettle c parcel (((d.leaf parcel).map fun l => l.marks.length).getD 0)

/-- Sends the mark for one station (R147). -/
def Dev.sendMark (d : Dev) (c : Clock) (parcel commit : Nat) : Dev :=
  match d.leaf parcel with
  | none => d
  | some l =>
    let m : Mark := ⟨commit, l.markSeq commit⟩
    (d.updLeaf parcel fun x => { x with marks := x.marks ++ [(m, c.now)], closedTo := commit }).sendAll clsControl (d.otherCopies parcel commit) (.mark parcel m)

/-! ### The load's commit station (R23) -/

/-- Gives the load its commit station once every ACTIVE copy has acknowledged. -/
def Dev.tryLoadStation (d : Dev) (c : Clock) (parcel : Nat) : Dev :=
  match d.leaf parcel with
  | none => d
  | some l =>
    match l.load with
    | none => d
    | some v =>
      match v.plan, v.station with
      | some plan, none =>
        let cst := d.commitNow c
        let need := d.plat.nodeId :: d.followers parcel cst
        if d.leadAt parcel cst != some d.plat.nodeId || !(need.all fun n => v.acks.contains n) || !(d.holdsTime c) || d.noIntake l then d
        else
          let seq := ((l.recs.find? fun r => match r.op with | .load _ => true | _ => false).map (·.seq)).getD Config.seqBase
          let rec1 : UpdRec := ⟨seq, cst, .load plan, v.key⟩
          let d1 := d.updLeaf parcel fun x => { x.giveStation cst with recs := updIf (fun r => r.seq = seq) (fun r => { r with commit := cst }) x.recs }
          (d1.sendAll clsUpdate (d1.otherCopies parcel cst) (.records parcel [rec1])).addWait parcel ⟨v.entry, v.ref, v.key, .load, cst, 1, 0, false⟩
      | _, _ => d

/-- This copy holds every block durably: it tells the lead, once. -/
def Dev.ackLoad (d : Dev) (c : Clock) (parcel : Nat) : Dev :=
  match d.leaf parcel with
  | none => d
  | some l =>
    match l.load with
    | some v =>
      if v.station.isSome || v.acks.contains d.plat.nodeId || !(d.loadDurable l) then d
      else
        let d1 := d.updLeaf parcel fun x => { x with load := some { v with acks := v.acks ++ [d.plat.nodeId] } }
        match d.leadAt parcel (d.station c) with
        | some n => if n = d.plat.nodeId then d1.tryLoadStation c parcel else d1.send clsControl n (.loadAck parcel)
        | none => d1
    | none => d

/-- A copy acknowledges the load at the lead. -/
def loadAcknowledgement (parcel node : Nat) (c : Clock) (d : Dev) : Dev :=
  match (d.leaf parcel).bind (·.load) with
  | some v =>
    if v.acks.contains node then d
    else (d.updLeaf parcel fun x => { x with load := some { v with acks := v.acks ++ [node] } }).tryLoadStation c parcel
  | none => d

def execLoadAcknowledgement (t : Nat) (parcel node : Nat) (s : State) : Host.Outcome State Fault Refusal :=
  happens (.loadAcknowledgement t parcel node) t (·.onDev (loadAcknowledgement parcel node)) s

/-! ### Events at the lead -/

/-- Stations whose intake has closed and that are not marked yet, up to the one whose intake closed last (R147). -/
def Dev.toMark (d : Dev) (c : Clock) (l : Leaf) : List Nat :=
  let hi := d.commitNow c - 1
  ((List.range (hi - l.closedTo)).map fun i => l.closedTo + 1 + i).filter fun x => occurs d.plat.gens x && d.leadAt l.parcel x = some d.plat.nodeId

/-- The lead closes intake and sends commit marks, every station (R147). -/
def intakeClose (parcel : Nat) (c : Clock) (d : Dev) : Dev :=
  match d.leaf parcel with
  | none => d
  | some l =>
    if l.intakeHeld || l.noIntake || l.loc != .current || !d.live then d
    else
      let d1 := (d.toMark c l).foldl (fun (x : Dev) s => x.sendMark c parcel s) d
      ((d1.ackLoad c parcel).tryLoadStation c parcel).settleAll c parcel

def execIntakeClose (t : Nat) (parcel : Nat) (s : State) : Host.Outcome State Fault Refusal :=
  happens (.intakeClose t parcel) t (·.onDev (intakeClose parcel)) s

/-- What the lead keeps from a sequence number onwards; none when an older record is gone (R389). -/
def Leaf.recsFrom (l : Leaf) (seq : Nat) : Option (List UpdRec) :=
  match l.recs with
  | [] => if seq = l.nextSeq then some [] else none
  | r :: _ => if r.seq ≤ seq then some (l.recs.filter fun x => seq ≤ x.seq) else none

/-- A following copy acknowledges a mark, or asks for the updates it misses; a copy that needs a record no longer kept becomes FAILED (R147, R389). -/
def markAck (parcel node commit : Nat) (ready : Option Bool) (fetch : Option Nat) (c : Clock) (d : Dev) : Dev :=
  match d.leaf parcel with
  | none => d
  | some l =>
    match fetch with
    | some seq =>
      (match l.recsFrom seq with
       | some rs => d.send clsUpdate node (.records parcel rs)
       | none => (d.updLeaf parcel fun x => { x with peers := NMap.put x.peers node .failed }).send clsUpdate node (.records parcel []))
    | none =>
      let d1 := d.updLeaf parcel fun x =>
        { x with acked := NMap.put x.acked node (max commit (NMap.getD x.acked node 0)),
                 closure := x.closure.map fun v => match ready with | some b => { v with readyFrom := (node, b) :: v.readyFrom.filter fun y => y.1 != node } | none => v }
      d1.settleAll c parcel

def execMarkAck (t : Nat) (parcel : Nat) (node commit : Nat) (ready : Option Bool) (fetch : Option Nat) (s : State) : Host.Outcome State Fault Refusal :=
  happens (.markAck t parcel node commit ready fetch) t (·.onDev (markAck parcel node commit ready fetch)) s

/-- LAPSE_NS after a station's start, or a station's start for copies already LAPSED: the lead settles without them (R147, R389). -/
def lapseTimeout (parcel : Nat) (c : Clock) (d : Dev) : Dev := d.settleAll c parcel

def execLapseTimeout (t : Nat) (parcel : Nat) (s : State) : Host.Outcome State Fault Refusal :=
  happens (.lapseTimeout t parcel) t (·.onDev (lapseTimeout parcel)) s

/-! ### Following copies (R146, R147, R376, R389) -/

/-- A JOINING copy whose image has not arrived holds its records. -/
def Dev.awaitsImage (d : Dev) (l : Leaf) : Bool :=
  l.cfg.isNone && match (d.newest.bind fun g => d.mine g l.parcel) with | some .joining => true | _ => false

/-- Applies held records in their order (R146). -/
def Dev.drainEarly (d : Dev) (c : Clock) (parcel : Nat) : Nat → Dev
  | 0 => d
  | n + 1 =>
    match d.leaf parcel with
    | none => d
    | some l =>
      match l.early.find? fun r => r.seq = l.applied + 1 with
      | none => d
      | some r => ((d.updLeaf parcel fun x => { x with early := x.early.filter fun y => y.seq != r.seq }).applyRec c parcel r).drainEarly c parcel n

def Dev.drainRecs (d : Dev) (c : Clock) (parcel : Nat) : Dev :=
  match d.leaf parcel with
  | none => d
  | some l => if d.awaitsImage l then d else d.drainEarly c parcel l.early.length

/-- What an acknowledgement says of the closure: ready, not ready, or nothing to say (R161, R162). -/
def Dev.ackReady (d : Dev) (l : Leaf) : Option Bool :=
  match l.closure with
  | some x => if x.outcome.isNone then some (x.ready = some true && d.nextDurable l) else if l.behind.isSome then some false else some true
  | none => none

/-- A JOINING copy reports READY: it holds the image, is within one station of the lead's sequence, and has every switched closure's version (R162, R376). -/
def Dev.checkReady (d : Dev) (_ : Clock) (parcel : Nat) (seq : Nat) : Dev :=
  match d.leaf parcel with
  | none => d
  | some l =>
    match d.newest.bind fun g => d.mine g parcel with
    | some .joining =>
      if l.ready || l.cfg.isNone || l.applied < seq || l.behind.isSome then d
      else
        let q := ((d.newest.map (·.quorum)).getD []).filter fun n => n != d.plat.nodeId
        (d.updLeaf parcel fun x => { x with ready := true }).sendAll clsControl q (.ready parcel)
    | _ => d

/-- Acknowledges the pending mark, or fetches what is missing (R147). -/
def Dev.ackMark (d : Dev) (c : Clock) (parcel : Nat) : Dev :=
  match d.leaf parcel with
  | none => d
  | some l =>
    match l.pendingMark, (l.pendingMark.bind fun m => d.leadAt parcel m.commit) with
    | some m, some n =>
      if l.applied < m.seq then d.send clsControl n (.fetchRecords parcel (l.applied + 1))
      else ((d.updLeaf parcel fun x => { x with pendingMark := none, ackedTo := max x.ackedTo m.commit }).send clsControl n (.markAck parcel m.commit (d.ackReady l))).checkReady c parcel m.seq
    | _, _ => d

/-- A shadow applies no update with a commit station of F or later (R378). -/
def Leaf.takes (l : Leaf) (r : UpdRec) : Bool :=
  l.applied < r.seq && !(l.early.any fun x => x.seq = r.seq) && match l.shadow with | some f => decide (r.commit < f) | none => true

/-- A load's record sent again with its commit station, which the copy may have applied or still hold (R23). -/
def Leaf.takeStation (l : Leaf) (r : UpdRec) : Leaf :=
  match r.op with
  | .load _ =>
    if r.commit = noStation then l
    else
      let held := { l with early := updIf (fun x => x.seq = r.seq) (fun x => { x with commit := r.commit }) l.early }
      match held.load with
      | some v => if v.station.isNone && r.seq ≤ l.applied then
          { held.giveStation r.commit with recs := updIf (fun x => x.seq = r.seq) (fun x => { x with commit := r.commit }) held.recs } else held
      | none => held
  | _ => l

/-- Records reach a copy: they apply strictly in sequence order; an empty answer says that a record it needs is gone (R146, R389). -/
def updateRecordReceipt (parcel : Nat) (recs : List UpdRec) (c : Clock) (d : Dev) : Dev :=
  match d.leaf parcel with
  | none => d
  | some l =>
    if l.loc = .failed || !d.live then d
    else if recs.isEmpty then (if l.pendingMark.isSome then d.failCopy c parcel else d)
    else
      let l1 := recs.foldl (fun (x : Leaf) r => (if x.takes r then { x with early := x.early ++ [r] } else x).takeStation r) l
      ((((d.updLeaf parcel fun _ => l1).drainRecs c parcel).ackLoad c parcel).ackMark c parcel).checkReady c parcel 0

def execUpdateRecordReceipt (t : Nat) (parcel : Nat) (recs : List UpdRec) (s : State) : Host.Outcome State Fault Refusal :=
  happens (.updateRecordReceipt t parcel recs) t (·.onDev (updateRecordReceipt parcel recs)) s

/-- A commit mark reaches a following copy (R147); a shadow takes none of F or later (R378). -/
def markReceipt (parcel : Nat) (m : Mark) (c : Clock) (d : Dev) : Dev :=
  match d.leaf parcel with
  | none => d
  | some l =>
    if l.loc = .failed || !d.live || (match l.shadow with | some f => decide (f ≤ m.commit) | none => false) then d
    else
      let m1 := match l.pendingMark with | some x => if x.commit ≤ m.commit then m else x | none => m
      (d.updLeaf parcel fun x => { x with pendingMark := some m1 }).ackMark c parcel

def execMarkReceipt (t : Nat) (parcel : Nat) (m : Mark) (s : State) : Host.Outcome State Fault Refusal :=
  happens (.markReceipt t parcel m) t (·.onDev (markReceipt parcel m)) s

/-- LAPSED and CURRENT as the settled record names them (R389). -/
def Leaf.noteLapse (l : Leaf) (me : Nat) (r : Settled) : Leaf :=
  if r.lapsed.contains me then (match l.loc with | .current => { l with loc := .lapsed r.commit } | _ => l)
  else if r.current.contains me then
    (match l.loc with | .lapsed x => { l with loc := .current, refused := l.refused ++ [(x, r.commit - 1)] } | _ => l)
  else l

/-- A settled record reaches a copy, or an entry node whose commands it ends (R147, R149, R162, R389). -/
def settledRecordReceipt (r : Settled) (c : Clock) (d : Dev) : Dev :=
  if !d.live then d
  else
    let d0 : Dev := r.outcomes.foldl (fun (x : Dev) o => x.updateEnd c o) d
    match d0.leaf r.parcel with
    | none => d0
    | some l =>
      if l.loc = .failed || (match l.shadow with | some f => decide (f ≤ r.commit) | none => false) then d0
      else
        let d1 := d0.updLeaf r.parcel fun x => { x.noteLapse d.plat.nodeId r with settled := max x.settled r.commit }
        let d2 := match r.closure with | some ok => d1.closureOutcome c r.parcel ok | none => d1
        d2.endSeqRecs c r.parcel r.commit (!r.lapsed.isEmpty)

def execSettledRecordReceipt (t : Nat) (r : Settled) (s : State) : Host.Outcome State Fault Refusal :=
  happens (.settledRecordReceipt t r) t (·.onDev (settledRecordReceipt r)) s

/-! ### New leads and fills (R150, R376, R379) -/

/-- Stations below F that the old lead left unsettled: the new lead marks them from what the surviving copies hold, when the old one cannot (R150, R392). -/
def Dev.markOld (d : Dev) (c : Clock) (parcel : Nat) (m : Mark) : Dev :=
  match d.leaf parcel with
  | none => d
  | some l =>
    let old := d.leadAt parcel m.commit
    let gone := (match old with | some n => decide (n = d.plat.nodeId) || d.plat.unreachable.contains n | none => true) || decide (startOf d.plat.gens (m.commit + 1) ≤ c.now)
    if !gone then d
    else (((List.range (m.commit - l.settled)).map fun i => l.settled + 1 + i).filter (occurs d.plat.gens)).foldl (fun (x : Dev) s => x.sendMark c parcel s) d

/-- The new lead begins intake once it holds the old lead's mark for F − 1, or, with the old lead gone, the mark formed from the surviving copies (R150, R379). -/
def newLeadIntakeStart (parcel : Nat) (m : Mark) (c : Clock) (d : Dev) : Dev :=
  match d.leaf parcel with
  | none => d
  | some l =>
    let leads := decide (d.leadAt parcel (m.commit + 1) = some d.plat.nodeId)
    if !(l.intakeHeld && leads && m.seq ≤ l.applied && l.loc = .current) then d
    else
      let d1 := d.updLeaf parcel fun x => { x with intakeHeld := false, noIntake := false, nextSeq := m.seq + 1, closedTo := m.commit, marks := [], acked := [], peers := [] }
      ((d1.markOld c parcel m).updLeaf parcel fun x => { x with closedTo := m.commit }).retryHeld c parcel

def execNewLeadIntakeStart (t : Nat) (parcel : Nat) (m : Mark) (s : State) : Host.Outcome State Fault Refusal :=
  happens (.newLeadIntakeStart t parcel m) t (·.onDev (newLeadIntakeStart parcel m)) s

/-- A copy's lists as a fill brings them. -/
def imageLists (img : CopyImage) : List LList :=
  (img.lists.zip (img.main.zip img.side)).map fun e => { plan := e.1, nc := centroidNorm e.1.centroid, cur := ⟨0, e.2.1, e.2.2⟩, next := none, old := none }

/-- The closure that an image leaves to be built (R162, R376). -/
def imageClosure (x : ImgClosure) : Closure :=
  { k := x.k, u := x.u, seq := x.seq, building := false, ready := none, readyFrom := [], rescale := x.rescale, outcome := if x.switched then some true else none }

/-- A copy as an image has it; records that the image holds are kept no more but for that of the closure (R376). -/
def Leaf.withImage (l : Leaf) (img : CopyImage) (mask : BitVec 20) : Leaf :=
  let l1 : Leaf := { l with cfg := some img.cfg, lists := imageLists img, tombs := img.tombs, applied := img.seq, settled := img.station, loaded := img.loaded, planGen := img.planGen,
                            nextSeq := img.seq + 1, lastUse := img.lastUse, tombUse := img.lastUse, closure := img.closure.map imageClosure,
                            load := if img.loadStation = 0 then none else some ⟨none, [], some img.loadStation, 0, ⟨0, 0, 0, 0⟩, ⟨0, 0, 0, 0⟩⟩,
                            early := l.early.filter fun r => img.seq < r.seq, recs := l.early.filter fun r => img.closure.any fun x => x.seq = r.seq,
                            rowMask := mask, rowProtect := img.rowProtect }
  { l1 with rowDir := ((l1.entriesCur.map (·.seq)).dedup).map (· + 1) }

/-- A ROWS operation or a rescale that an image already holds has been applied here (R255, R258). -/
def imageHolds (img : CopyImage) (r : UpdRec) : Bool :=
  r.seq ≤ img.seq && (match r.op with | .rows _ _ => true | .closure _ u (some _) => decide (u ≤ img.lastUse) | _ => false)

/-- The fill of a JOINING copy is complete (R376): an image as of a settled station, then every later update in order. -/
def copyFillComplete (parcel : Nat) (img : CopyImage) (c : Clock) (d : Dev) : Dev :=
  match d.leaf parcel with
  | none => d
  | some l =>
    if !(d.awaitsImage l) || !d.live then d
    else
      let l1 := l.withImage img (d.rowStackMask img.rowStacks)
      let d1 := (d.updLeaf parcel fun _ => l1).syncLeaf c parcel
      let d2 := (l1.lists.zipIdx).foldl (fun (y : Dev) e => y.writeVersion parcel e.2 e.1 e.1.cur) d1
      let lead := (d.leadAt parcel (d.station c)).getD d.plat.nodeId
      let d3 := (l.early.filter (imageHolds img)).foldl (fun (y : Dev) r => y.send clsUpdate lead (.rowsApplied r.key)) d2
      ((d3.drainRecs c parcel).ackMark c parcel).checkReady c parcel 0

def execCopyFillComplete (t : Nat) (parcel : Nat) (img : CopyImage) (s : State) : Host.Outcome State Fault Refusal :=
  happens (.copyFillComplete t parcel img) t (·.onDev (copyFillComplete parcel img)) s

/-! ### Frees at drain stations (R163, R367, R378) -/

/-- Frees a leaf's copy with everything it holds. -/
def Dev.freeLeaf (d : Dev) (l : Leaf) : Dev :=
  let d1 := d.freeLeafStores l
  { d1 with leaves := d1.leaves.filter fun x => x.parcel != l.parcel, adm := { d1.adm with np := NMap.del d1.adm.np l.parcel },
            cmds := { d1.cmds with replay := d1.cmds.replay.filter fun r => r.place != .leaf l.parcel },
            chain := { d1.chain with monuments := d1.chain.monuments.filter fun m => m.row.kind = .embed || m.row.parcel != l.parcel } }

/-- A copy that a later generation added again while its shadow still drained is made and filled once the shadow is gone (R376, R378; DESIGN CHOICE, log 58). -/
def Dev.addAgain (d : Dev) (c : Clock) (parcel : Nat) : Dev :=
  match d.newest with
  | none => d
  | some g => if d.mine g parcel = some .joining then ({ d with leaves := d.leaves ++ [Leaf.new parcel (d.station c) false] }).askFill g parcel else d

/-- The start of a drain station; frees wait for valid time (R163, R367, R378). -/
def drainStationEvent (parcel : Nat) (c : Clock) (d : Dev) : Dev :=
  match d.leaf parcel with
  | none => d
  | some l =>
    let past := fun (x : Nat) => d.drained c x
    if !c.valid then d
    else if (match l.shadow with | some f => past f | none => false) then (d.freeLeaf l).addAgain c parcel
    else match l.oldUse with
      | some u => if past u then d.freeOld c l u else d
      | none => if l.tombUse != 0 && past l.tombUse then d.freeOld c l l.tombUse else d

def execDrainStation (t : Nat) (parcel : Nat) (s : State) : Host.Outcome State Fault Refusal :=
  happens (.drainStation t parcel) t (·.onDev (drainStationEvent parcel)) s

/-! ### What a station's start does to leaves (R142, R371, R389) -/

/-- Records older than QUERY_LIFE_NS are dropped (R389). -/
def Leaf.trim (l : Leaf) (lo : Nat) : Leaf :=
  { l with recs := l.recs.dropWhile fun r => r.commit < lo && r.commit != noStation && r.commit ≤ l.settled && (0 < r.commit || r.seq + 1 < l.applied) }

def Dev.leafStation (d : Dev) (c : Clock) : Dev :=
  let life := (d.timing c).queryLifeNs / d.ns c
  let lo := d.station c - life
  let d1 := { d with leaves := d.leaves.map fun (l : Leaf) => l.trim lo }
  let d2 : Dev := (d1.leaves.map fun (l : Leaf) => l.parcel).foldl (fun (x : Dev) p => (((x.switchDue c p).retryHeld c p).tryLoadStation c p).settleAll c p) d1
  (d2.leaves.foldl (fun (x : Dev) l => x.rowsPrune c l) d2).sweepJobs c

end Sys2Proof.Machine
end

