-- ==== Sys2Proof/Machine/Gate.lean ====
section
/-! DEFINITION. Admission of policed commands, the choice of a copy, and what a node does with work addressed to a copy (R27, R28, R31, R32, R140, R182, R380 to R382, R394, R398, R440 to R442). -/

namespace Sys2Proof.Machine

/-! ### Admission (R28, R441) -/

/-- Query contexts in use (R32, R182, R218): queries, gathers, and rows of runs. -/
def Dev.contexts (d : Dev) : Nat :=
  let held := fun (q : Query) => !(q.done && q.frags.all fun f => f.attempts.all fun a => a.state != .running)
  let isGather := fun (r : Reader) => match r.kind with | .gather _ => true | _ => false
  let runRows := fun (r : Run) => if r.ref.isSome then r.rows.length else 0
  (d.root.queries.filter fun e => held e.2).length + (d.chain.readers.filter isGather).length + natSum (d.mdl.runs.map runRows) +
    natSum (d.mdl.waves.map fun w => natSum (w.runs.map runRows))

/-- Deadline of a policed command: its own, or the tenant's default, at most QUERY_LIFE_NS away (R31, R140). -/
def Dev.deadlineOf (d : Dev) (c : Clock) (cmd : Cmd) : Nat :=
  let us := (d.tenant cmd.tenant).cfg.defUs
  if cmd.deadline != 0 then cmd.deadline else c.now + (if us = 0 then (d.timing c).queryLifeNs else min (1000 * us) (d.timing c).queryLifeNs)

/-- An explicit DEADLINE further away than QUERY_LIFE_NS is out of range (R140). -/
def Dev.deadlineFar (d : Dev) (c : Clock) (cmd : Cmd) : Bool := cmd.deadline != 0 && c.now + (d.timing c).queryLifeNs < cmd.deadline

/-- The rows of R28 from the policer on: the first status that refuses, or the device after the debits. -/
def Dev.gate (d : Dev) (c : Clock) (cmd : Cmd) (charge contexts : Nat) (late : Bool) : Nat ⊕ Dev :=
  let r := police (d.tenant cmd.tenant) charge (colourOf cmd.colour)
  if r.1 = .red then .inl stDropped
  else if Config.maxContexts < d.contexts + contexts then .inl stBusy
  else if !(d.holdsTime c) then .inl stNoTime
  else if late then .inl stDeadline
  else .inr (d.letIn cmd.tenant charge r)

/-- Refuses at admission; a drop is counted (R451). -/
def Dev.notAdmitted (d : Dev) (cmd : Cmd) (st : Nat) : Dev :=
  (d.refuse cmd.ref st).countTenant 3 cmd.tenant (boolNat (st = stDropped))

/-! ### Choosing a copy (R27, R394, R398) -/

/-- What this node knows of a copy's local state: its own, and at the lead that of every copy (R388). -/
def Dev.knownState (d : Dev) (parcel node : Nat) : LocalState :=
  match d.leaf parcel with
  | none => if node = d.plat.nodeId then .failed else .current
  | some l => if node = d.plat.nodeId then l.loc else l.peer node

/-- A copy that could receive an attempt: ACTIVE, neither FAILED nor unreachable (R394). -/
def Dev.reachable (d : Dev) (parcel node : Nat) : Bool := d.knownState parcel node != .failed && !(d.plat.unreachable.contains node)

/-- Not LAPSED for a benchmark, as far as the node knows (R27). -/
def Dev.notLapsed (d : Dev) (parcel node bench : Nat) : Bool :=
  (match d.knownState parcel node with | .lapsed c => decide (bench < c) | _ => true) &&
    (node != d.plat.nodeId || (match d.leaf parcel with | some l => l.serves bench | none => false))

def activeNodes (g : PlatGen) (parcel : Nat) : List Nat := (((g.leaf parcel).map (·.copies)).getD []).filterMap fun x => if x.state = .active then some x.node else none

/-- Lowest lateness count, then lower node number. -/
def Dev.leastLate (d : Dev) (ns : List Nat) : Option Nat :=
  leastBy (fun a b => d.lateness a < d.lateness b || (d.lateness a = d.lateness b && a ≤ b)) ns

/-- Copies that R27 considers for a first attempt. -/
def Dev.considered (d : Dev) (g : PlatGen) (parcel bench : Nat) : List Nat :=
  (activeNodes g parcel).filter fun n => d.reachable parcel n && d.notLapsed parcel n bench

/-- Copy of a given rank, when it is among those considered. -/
def Dev.rankedCopy (d : Dev) (g : PlatGen) (parcel bench : Nat) (rank : Option Nat) : Option Nat :=
  match rank with
  | none => none
  | some r => (((g.leaf parcel).bind fun l => l.rank r).map (·.node)).filter fun n => (d.considered g parcel bench).contains n

/-- The copy that receives a fragment's first attempt (R27). -/
def Dev.firstCopy (d : Dev) (g : PlatGen) (parcel bench : Nat) (rank : Option Nat) : Option Nat :=
  match d.rankedCopy g parcel bench rank with
  | some n => some n
  | none => d.leastLate (d.considered g parcel bench)

/-- The copy that receives a later attempt: at most two attempts each, none in progress there (R394). -/
def Dev.nextCopy (d : Dev) (g : PlatGen) (parcel : Nat) (tried busy : List Nat) : Option Nat :=
  d.leastLate ((activeNodes g parcel).filter fun n => d.reachable parcel n && !(busy.contains n) && (tried.filter fun x => x = n).length < 2)

/-- T_late of an attempt (R393). -/
def Dev.tLate (d : Dev) (sent deadline : Nat) : Nat := sent + max (d.regs.floorUs.toNat * 1000) ((deadline - sent) * d.reissueFrac / 256)

/-- A lateness count rises by 1, saturating (R398). -/
def Dev.late (d : Dev) (node : Nat) : Dev := { d with root := { d.root with lateness := NMap.put d.root.lateness node (min 65535 (d.lateness node + 1)) } }

/-! ### Work addressed to a copy (R380 to R382) -/

/-- What a receiver does with a fragment or a remote read. -/
inductive Route | wait | stale (a : StaleAns) | serve | forward (node : Nat)
  deriving DecidableEq, Repr

/-- This node still holds the copy a generation names, live or as its shadow. -/
def Dev.holdsCopy (d : Dev) (g : PlatGen) (parcel rank : Nat) : Bool :=
  (match (g.leaf parcel).bind fun l => l.rank rank with | some x => x.node = d.plat.nodeId && x.state = .active | none => false) && (d.leaf parcel).isSome

/-- The cases of R382, after R381. -/
def Dev.routeWork (d : Dev) (gen bench parcel rank : Nat) (fwd : Bool) : Route :=
  match d.genNo gen with
  | none => .wait
  | some g =>
    match genAt d.plat.gens bench with
    | none => .wait
    | some cur =>
      if cur.gen != gen then .stale ⟨cur.gen, true, none⟩
      else if d.holdsCopy g parcel rank then .serve
      else
        match ((g.leaf parcel).bind fun l => l.rank rank).filter fun x => x.state = .active with
        | some x => if !fwd && x.node != d.plat.nodeId then .forward x.node else .stale ⟨gen, false, some x.node⟩
        | none => .stale ⟨gen, false, none⟩

/-- Asks a quorum member for a generation, once (R381); the wait is counted. -/
def Dev.wantGen (d : Dev) (gen : Nat) : Dev :=
  let d1 := d.count 101 0 1
  if d.plat.wanted.contains gen then d1
  else
    let q := ((d.newest.map (·.quorum)).getD []).filter fun n => n != d.plat.nodeId && !(d.plat.unreachable.contains n)
    let d2 := { d1 with plat := { d1.plat with wanted := d1.plat.wanted ++ [gen] } }
    match q.head? with
    | some n => d2.send clsControl n (.fetchGen gen)
    | none => d2

end Sys2Proof.Machine
end

