-- ==== Sys2Proof/Machine/ModelPlan.lean ====
section
/-! DEFINITION. Model images and run plans: what an image holds, what model.load refuses, Tessel expansion, and the value of every step (R201 to R216, R221, R224 to R230). -/

namespace Sys2Proof.Machine

/-! ### Tensors (R209) -/

/-- A value in a run plan: rows of fp32 words. -/
abbrev Mat := List (List Nat)

def Tensor.elems (t : Tensor) : Nat := t.dims.foldl (· * ·) 1

/-- Elements of one row: the innermost extent that is used (DEDUCED, log 39). -/
def Tensor.width (t : Tensor) : Nat := (t.dims.filter fun n => n != 1).getLast?.getD 1

def Tensor.rows (t : Tensor) : Nat := t.elems / max 1 t.width

/-- Bytes of n elements in a tensor format. -/
def fmtLen (fmt n : Nat) : Nat :=
  if fmt = 6 then 24 * ceilDiv n 32 else if fmt = 7 then 16 * ceilDiv n 32 else if fmt = 5 then 4 * n else if fmt = 3 || fmt = 4 then 2 * n else n

/-- Value of an FX element with exponent byte e (R224). -/
def fxToF (bits code e : Nat) : Nat :=
  let top := 2 ^ (bits - 1)
  if code % top = 0 then 0
  else f32.round (top ≤ code % (2 * top)) (code % top * 2 ^ (int8 e + 149).toNat) unit

/-- Element i of a tensor in a weight space, as fp32. -/
def Tensor.elem (t : Tensor) (space : List Byte) (i : Nat) : Nat :=
  let n := fun (k : Nat) => fieldN space (t.off + k * i) k
  match t.fmt with
  | 0 => intToF (int8 (n 1))
  | 1 => e4m3ToF (n 1)
  | 2 => e5m2ToF (n 1)
  | 3 => b2f (n 2)
  | 4 => h2f (n 2)
  | 5 => n 4
  | 6 => fxToF 6 (fieldN space (t.off + 24 * (i / 32)) 24 / 2 ^ (6 * (i % 32)) % 64) (fieldN space (t.scaleOff + i / 32) 1)
  | _ => fxToF 4 (fieldN space (t.off + 16 * (i / 32)) 16 / 2 ^ (4 * (i % 32)) % 16) (fieldN space (t.scaleOff + i / 32) 1)

/-- A list cut into n rows of w. -/
def reshape (n w : Nat) (xs : List Nat) : Mat := (List.range n).map fun r => (xs.drop (r * w)).take w

def Tensor.mat (t : Tensor) (space : List Byte) : Mat := reshape t.rows t.width ((List.range t.elems).map (t.elem space))

/-! ### The image (R208 to R210) -/

def readTensor (bs : List Byte) (o : Nat) : Tensor :=
  { fmt := fieldN bs o 1, role := fieldN bs (o + 1) 1, layer := fieldN bs (o + 2) 2, dims := (List.range 4).map fun i => fieldN bs (o + 4 + 4 * i) 4,
    off := fieldN bs (o + 0x18) 8, len := fieldN bs (o + 0x20) 8, scaleOff := fieldN bs (o + 0x28) 8 }

def readStep (bs : List Byte) (o : Nat) : PStep :=
  { op := fieldN bs o 1, flags := fieldN bs (o + 1) 1, layer := fieldN bs (o + 2) 2, a := fieldN bs (o + 4) 4, b := fieldN bs (o + 8) 4,
    c := fieldN bs (o + 12) 4, out := fieldN bs (o + 16) 4, attr := (bs.drop (o + 20)).take 12 }

def imgTensors (bs : List Byte) : List Tensor := (List.range (fieldN bs 8 4)).map fun i => readTensor bs (fieldN bs 0x20 8 + 48 * i)
def imgSteps (bs : List Byte) : List PStep := (List.range (fieldN bs 12 4)).map fun i => readStep bs (fieldN bs 0x18 8 + 32 * i)

/-- The header's own checks (R208, R214, R216). TOTAL_LEN is IMAGE_LEN (DEDUCED, log 39). -/
def headerBad (bs : List Byte) : Bool :=
  bs.length < 128 || fieldN bs 0 4 != 0x4C444D53 || !(inRange (fieldN bs 4 2) 1 2) || !(inRange (fieldN bs 6 2) 1 1024) || fieldN bs 8 4 > 65536 ||
    fieldN bs 12 4 > 65536 || fieldN bs 0x10 8 != bs.length || fieldN bs 0x18 8 + 32 * fieldN bs 12 4 > bs.length ||
    fieldN bs 0x20 8 + 48 * fieldN bs 8 4 > bs.length || fieldN bs 0x36 2 != 0 || fieldN bs 0x3C 4 != 0 || fieldN bs 0x38 4 != crc32c (bs.drop 0x80) ||
    (fieldN bs 4 2 = 1 && (fieldN bs 0x28 8 != 0 || fieldN bs 0x30 4 != 0)) || fieldN bs 0x28 8 + 8 * fieldN bs 0x30 4 > bs.length ||
    (List.range 16).any (fun g => !(bitAt (fieldN bs 0x34 2) g) && fieldN bs (0x40 + 4 * g) 4 != 0) ||
    (List.range (fieldN bs 8 4)).any (fun i => fieldN bs (fieldN bs 0x20 8 + 48 * i + 0x14) 4 != 0)

/-! ### Tessel images (R229, R230) -/

/-- Code length of symbol v. -/
def codeLen (table : List Byte) (v : Nat) : Nat := let b := fieldN table (v / 2) 1; if v % 2 = 0 then b % 16 else b / 16

def symbolsOf (table : List Byte) (len : Nat) : List Nat := (List.range 256).filter fun v => codeLen table v = len

/-- The code lengths stay within the Kraft bound (R232). -/
def kraftOk (table : List Byte) : Bool := natSum ((List.range 15).map fun i => (symbolsOf table (i + 1)).length * 2 ^ (14 - i)) ≤ 2 ^ 15

/-- Decodes `left` symbols of a canonical code; leftover bits must be zero. code, len and first: the code read so far, its length, and the first code of the next length. -/
def prefixDecode (syms : List (List Nat)) : List Bool → Nat → Nat → Nat → Nat → List Byte → Option (List Byte)
  | bits, _, _, _, 0, out => if bits.all fun b => !b then some out else none
  | [], _, _, _, _ + 1, _ => none
  | b :: bits, code, len, first, left + 1, out =>
    let code := 2 * code + boolNat b
    let ss := nthD syms len []
    if first ≤ code && code < first + ss.length then prefixDecode syms bits 0 0 0 left (out ++ [BitVec.ofNat 8 (nthD ss (code - first) 0)])
    else if len = 14 then none
    else prefixDecode syms bits code (len + 1) (2 * (first + ss.length)) (left + 1) out

/-- Bits of bytes, bit 0 of the first byte first. -/
def codeBits (bs : List Byte) : List Bool := (bs.map fun b => (List.range 8).map fun i => b.getLsbD i).flatten

/-- Uncompressed bytes of block n of a space of len bytes. -/
def blockLen (len n : Nat) : Nat := min 65536 (len - 65536 * n)

/-- One block expanded, or none where R230 refuses it; `table` gives a resident generation with its tag. -/
def expandBlock (table : Nat → Option (Nat × List Byte)) (bs : List Byte) (len n : Nat) : Option (List Byte) :=
  let o := fieldN bs 0x28 8 + 8 * n
  let start := fieldN bs o 5
  let clen := fieldN bs (o + 5) 2 + 1
  let info := fieldN bs (o + 7) 1
  let data := (bs.drop start).take clen
  let g := info % 16
  if info ≥ 32 || start + clen > bs.length then none
  else if bitAt info 4 then (if g != 0 || clen != blockLen len n then none else some data)
  else
    match table g with
    | none => none
    | some t =>
      if t.1 != fieldN bs (0x40 + 4 * g) 4 || !(bitAt (fieldN bs 0x34 2) g) then none
      else prefixDecode ((List.range 15).map fun i => symbolsOf t.2 (i + 1)) (codeBits data) 0 0 0 (blockLen len n) []

/-- Length of the uncompressed space: its tensors fill it (DEDUCED, log 39). -/
def spaceLen (ts : List Tensor) : Nat :=
  (ts.map fun t => if t.role = 0 || t.role = 2 then max (t.off + t.len) (if t.fmt ≥ 6 then t.scaleOff + ceilDiv t.elems 32 else 0) else 0).foldl max 0

/-- The weight space of an image: the image itself, or its blocks expanded. -/
def weightSpace (table : Nat → Option (Nat × List Byte)) (bs : List Byte) : Option (List Byte) :=
  if fieldN bs 4 2 = 1 then some bs
  else
    let len := spaceLen (imgTensors bs)
    if fieldN bs 0x30 4 != ceilDiv len 65536 then none
    else
      let blocks := (List.range (fieldN bs 0x30 4)).map (expandBlock table bs len)
      if blocks.all fun b => b.isSome then some (blocks.filterMap id).flatten else none

/-! ### Checks on tensors and steps (R202, R209 to R216, R226) -/

def Tensor.isConst (t : Tensor) : Bool := t.role = 0 || t.role = 2

/-- An FX exponent outside its range (R226). -/
def fxBad (t : Tensor) (space : List Byte) : Bool :=
  t.fmt ≥ 6 && (List.range (ceilDiv t.elems 32)).any fun i =>
    let e := int8 (fieldN space (t.scaleOff + i) 1)
    -- FX6 weights allow every byte from −128; −133 lies below a byte's range
    if t.fmt = 6 then e < -133 || 120 < e else e < -9 || 6 < e

def Tensor.bad (t : Tensor) (layers : Nat) (space : List Byte) : Bool :=
  t.fmt > 7 || t.role > 4 || t.dims.any (fun n => n = 0) ||
    (if t.isConst then
       layers ≤ t.layer || t.len != fmtLen t.fmt t.elems || t.off + t.len > space.length ||
         (if t.fmt ≥ 6 then t.scaleOff + ceilDiv t.elems 32 > space.length || fxBad t space else t.scaleOff != 0)
     else t.layer != 0xFFFF || t.fmt ≥ 6 || t.scaleOff != 0)

/-- Operand pairs of R202, once FX4 runs as E4M3 and FX6 as bf16, and an fp16 vector as bf16 (R98, R226); fp16 weights are none. -/
def operandFmt (f : Nat) : Nat := if f = 7 then 1 else if f = 6 || f = 4 then 3 else f

def pairOk (a w : Nat) : Bool :=
  let x := operandFmt a
  let y := operandFmt w
  (x = 0 && y = 0) || ((x = 1 || x = 2) && (y = 1 || y = 2)) || (x = 3 && y ≤ 3)

def sameShape (a b : Tensor) : Bool := a.rows = b.rows && a.width = b.width

/-- Breakpoint i of a FUNC table. -/
def funcX (t : Tensor) (space : List Byte) (i : Nat) : Nat := fieldN space (t.off + 4 * i) 4
def funcA (t : Tensor) (space : List Byte) (i : Nat) : Nat := fieldN space (t.off + 1028 + 8 * i) 4
def funcB (t : Tensor) (space : List Byte) (i : Nat) : Nat := fieldN space (t.off + 1032 + 8 * i) 4

def funcBad (t : Tensor) (space : List Byte) : Bool :=
  !t.isConst || t.len != 3076 || (List.range 257).any (fun i => !(f32.isFin (funcX t space i))) ||
    (List.range 256).any fun i => !(lt32 (funcX t space i) (funcX t space (i + 1)))

def PStep.e (s : PStep) : Int := int8 (fieldN s.attr 0 1)
def PStep.word (s : PStep) (o : Nat) : Nat := fieldN s.attr o 4
def PStep.heads (s : PStep) : Nat := fieldN s.attr 0 2
def PStep.headDim (s : PStep) : Nat := fieldN s.attr 2 2

/-- Tensors that a step reads. -/
def PStep.ins (s : PStep) : List Nat :=
  match s.op with
  | 0x01 => if s.flags = 1 then [s.a, s.b, s.c] else [s.a, s.b]
  | 0x02 => [s.a, s.b]
  | 0x03 => [s.a, s.b]
  | 0x07 => [s.a, s.c]
  | 0x08 => [s.a, s.b]
  | 0x09 => [s.a, s.b, s.c]
  | 0x0B => [s.a, s.b, s.c]
  | 0x0D => [s.a, s.b, s.c]
  | _ => [s.a]

/-- The EMBED table among a step's operands: the first weight or constant (DEDUCED, log 39). -/
def PStep.table (s : PStep) (ts : List Tensor) : Option Tensor := ([s.a, s.b, s.c].filterMap fun i => ts[i]?).find? Tensor.isConst

/-- A step whose shapes, formats or parameters do not fit its operation (R202, R203, R205, R210 to R214; log 39). -/
def shapeBad (s : PStep) (ts : List Tensor) (space : List Byte) (a b c o : Tensor) : Bool :=
  match s.op with
  | 0x01 => !(pairOk a.fmt b.fmt) || b.fmt = 4 || a.width != b.width || a.width > 16384 || o.rows != a.rows || o.width != b.rows || o.fmt != 5 || (s.flags = 1 && c.elems != o.width)
  | 0x02 => !(sameShape a b && sameShape a o) || o.fmt != 5
  | 0x03 => !(sameShape a b && sameShape a o) || o.fmt != 5
  | 0x04 => !(sameShape a o) || o.fmt != 5 || s.e < -126
  | 0x05 => !(sameShape a o) || o.fmt != 5
  | 0x06 => !(sameShape a o) || o.fmt != 5 || f32.isNaN (s.word 0) || f32.isNaN (s.word 4) || lt32 (s.word 4) (s.word 0)
  | 0x07 => !(sameShape a o) || o.fmt != 5 || funcBad c space
  | 0x08 => !(sameShape a o) || o.fmt != 5 || b.elems != a.width
  | 0x09 => !(sameShape a o) || o.fmt != 5 || b.elems != a.width || c.elems != a.width
  | 0x0A => !(sameShape a o) || o.fmt != 5
  | 0x0B => !(sameShape a o) || !(sameShape b c) || o.fmt != 5 || !(inRange s.heads 1 32) || s.headDim % 32 != 0 || !(inRange s.headDim 32 256) ||
      a.width != s.heads * s.headDim || b.width != a.width || b.rows != a.rows || 512 < a.rows
  | 0x0C => !(sameShape a o) || o.fmt > 3 || (o.fmt = 0 && (s.e < -64 || 63 < s.e))
  | 0x0D => (match s.table ts with | none => true | some t => o.width != t.width || t.rows > 1048576 || o.fmt != 3)
  | 0x0E => fieldN s.attr 0 1 > 1 || 512 < a.rows || o.rows != 1 || o.width != a.width || o.fmt != 5
  | 0x0F => o.role != 4 || o.fmt != 4 || !(sameShape a o)
  | _ => true

def zeroTensor : Tensor := ⟨0, 0, 0, [], 0, 0, 0⟩

/-- A step out of range (R210, R214, R216): `done` are the tensors that hold a value when it runs. -/
def stepBad (s : PStep) (layers : Nat) (ts : List Tensor) (space : List Byte) (done : List Nat) : Bool :=
  let g := fun (i : Nat) => (ts[i]?).getD zeroTensor
  let ok := fun (i : Nat) => match ts[i]? with | some t => t.isConst || done.contains i | none => false
  layers ≤ s.layer || s.flags > (if s.op = 1 then 1 else 0) || ts.length ≤ s.out || (g s.out).isConst || (g s.out).role = 3 ||
    (if s.op = 0x0D then false else s.ins.any fun i => !(ok i)) || shapeBad s ts space (g s.a) (g s.b) (g s.c) (g s.out)

/-- All steps in record order. -/
def stepsBad (layers : Nat) (ts : List Tensor) (space : List Byte) : List PStep → List Nat → Bool
  | [], _ => false
  | s :: ss, done => stepBad s layers ts space done || stepsBad layers ts space ss (s.out :: done)

def isTokenPlan (ss : List PStep) : Bool := ss.any fun s => s.op = 0x0D

/-- One run input, one run output, widths within R214 (log 39). -/
def ioBad (ss : List PStep) (ts : List Tensor) : Bool :=
  let ins := ts.filter fun t => t.role = 3
  let outs := ts.filter fun t => t.role = 4
  ins.length != 1 || outs.length != 1 || (ss.filter fun s => s.op = 0x0F).length != 1 ||
    ins.any (fun t => if isTokenPlan ss then !(inRange t.elems 1 512) else !(inRange t.elems 8 4096) || t.fmt != 4) ||
    outs.any (fun t => !(inRange t.elems 8 4096)) || (ss.filter fun s => s.op = 0x0D).length > 1 ||
    ss.any (fun s => s.op = 0x0D && (nthD ts s.out zeroTensor).rows != ((ins.head?).map Tensor.elems).getD 0) ||
    (((ss.filter fun s => s.op = 0x07).map fun s => s.c).dedup).length > 256

/-- Bytes of rows lo to hi of a weight tensor in its window, scales included (R221). -/
def windowBytes (t : Tensor) (n : Nat) : Nat := fmtLen t.fmt (n * t.width) + (if t.fmt ≥ 6 then ceilDiv (n * t.width) 32 else 0)

/-- Weight tensors of a layer's share: GEMM weights whose LAYER it is (R209, R221). -/
def layerWeights (ss : List PStep) (ts : List Tensor) (layer : Nat) : List Tensor :=
  ((ts.zipIdx).filter fun e => e.1.role = 0 && e.1.layer = layer && ss.any fun s => s.op = 1 && s.b = e.2).map (·.1)

/-- Blocks of 8 columns of a weight that a die takes: those whose number is the die's modulo 10 (R221). -/
def colBlocks (t : Tensor) (die : Nat) : List Nat := (List.range (ceilDiv t.rows 8)).filter fun b => b % 10 = die

/-- A die's share of a layer (R221). -/
def shareOf (ss : List PStep) (ts : List Tensor) (layer die : Nat) : Nat :=
  natSum ((layerWeights ss ts layer).map fun t => natSum ((colBlocks t die).map fun b => windowBytes t (min 8 (t.rows - 8 * b))))

/-- Byte ranges of the weight space that a die's share of a layer holds, exponents of FX weights among them (R221, R224). -/
def shareRanges (ss : List PStep) (ts : List Tensor) (layer die : Nat) : List (Nat × Nat) :=
  ((layerWeights ss ts layer).map fun t => ((colBlocks t die).map fun b =>
    let n := min 8 (t.rows - 8 * b) * t.width
    (t.off + fmtLen t.fmt (8 * b * t.width), fmtLen t.fmt n) :: (if t.fmt ≥ 6 then [(t.scaleOff + 8 * b * t.width / 32, ceilDiv n 32)] else [])).flatten).flatten

/-! ### The value of a step (R98, R203, R205, R210 to R213) -/

def rowOp (f : Nat → Nat) (a : Mat) : Mat := a.map fun r => r.map f
def zipMat (f : Nat → Nat → Nat) (a b : Mat) : Mat := List.zipWith (List.zipWith f) a b

def toBf (w : Nat) : Nat := b2f (f2b w)

/-- A matrix operand: int8, fp8 and bf16 values enter as they are, fp16 as bf16. -/
def operand (fmt : Nat) (w : Nat) : Nat := if fmt = 4 then toBf w else w

/-- GEMM of R203. -/
def gemm (a w : Mat) (bias : Option (List Nat)) : Mat :=
  a.map fun x => (w.zipIdx).map fun e => let v := dotFixed x e.1; match bias with | some bs => add32 v (nthD bs e.2 0) | none => v

def relu (x : Nat) : Nat := if f32.isNaN x || lt32 0 x then x else 0
def clampF (lo hi x : Nat) : Nat := if f32.isNaN x then x else if lt32 x lo then lo else if lt32 hi x then hi else x

/-- FUNC of R211. -/
def funcF (t : Tensor) (space : List Byte) (x : Nat) : Nat :=
  if f32.isNaN x then nan32
  else
    let i := (List.range 256).foldl (fun acc i => if lt32 x (funcX t space i) then acc else i) 0
    let a := funcA t space i
    if f32.mag a = 0 then funcB t space i else add32 (mul32 a x) (funcB t space i)

/-- A mean formed as R212 forms it. -/
def meanF (xs : List Nat) : Nat := mul32 (reduceFixed xs) (inv32 (nat32 xs.length))

def rmsNorm (g : List Nat) (eps : Nat) (x : List Nat) : List Nat :=
  let r := rsqrt32 (add32 (meanF (x.map fun v => mul32 v v)) eps)
  List.zipWith (fun v gi => mul32 (mul32 v r) gi) x g

def layerNorm (g b : List Nat) (eps : Nat) (x : List Nat) : List Nat :=
  let mu := meanF x
  let d := x.map fun v => add32 v (neg32 mu)
  let r := rsqrt32 (add32 (meanF (d.map fun v => mul32 v v)) eps)
  List.zipWith (fun (vg : Nat) bi => add32 vg bi) (List.zipWith (fun v gi => mul32 (mul32 v r) gi) d g) b

/-- SOFTMAX of R213. -/
def softmax (x : List Nat) : List Nat :=
  if x.any fun v => f32.isNaN v || v = f32.infMag then x.map fun _ => nan32
  else
    let m := match x with | [] => 0 | v :: vs => vs.foldl (fun m y => if lt32 m y then y else m) v
    let es := x.map fun v => exp2neg (mul32 (add32 v (neg32 m)) 0x3FB8AA3B)
    let inv := inv32 (reduceFixed es)
    es.map fun e => mul32 e inv

def column (a : Mat) (c : Nat) : List Nat := a.map fun r => nthD r c 0

/-- ATTN of R213 for one head: columns j·dim to j·dim + dim − 1. -/
def attnHead (q k v : Mat) (dim scale : Nat) (pads : List Bool) (j : Nat) : Mat :=
  let cut := fun (a : Mat) => a.map fun r => ((r.drop (j * dim)).take dim).map toBf
  let kk := cut k
  let vv := cut v
  (cut q).map fun x =>
    let s := (kk.zipIdx).map fun e => if nthD pads e.2 false then 0xFF800000 else mul32 (dotFixed x e.1) scale
    let p := (softmax s).map toBf
    (List.range dim).map fun c => dotFixed p (column vv c)

def attn (q k v : Mat) (heads dim scale : Nat) (pads : List Bool) : Mat :=
  let hs := (List.range heads).map (attnHead q k v dim scale pads)
  (List.range q.length).map fun i => (hs.map fun h => nthD h i []).flatten

/-- CONVERT of R205, as the fp32 word of the converted value; a NaN has no stated int8 (log 28). -/
def convertF (fmt : Nat) (e : Int) (x : Nat) : Nat :=
  match fmt with
  | 0 =>
    if f32.isNaN x then intToF (int8 Config.nanInt8)
    else if f32.isInf x then intToF (if f32.neg x then -128 else 127)
    else intToF (int8 (toInt8 (f32.value x) unit e))
  | 1 => e4m3ToF (fToE4m3 x)
  | 2 => e5m2ToF (fToE5m2 x)
  | _ => toBf x

/-- POOL: the mean over non-pad positions, or position 0. -/
def pool (mode width : Nat) (pads : List Bool) (a : Mat) : List Nat :=
  if mode = 1 then nthD a 0 []
  else
    let keep := ((a.zipIdx).filter fun e => !(nthD pads e.2 false)).map (·.1)
    (List.range width).map fun c => meanF (column keep c)

/-- Where a plan's run has come: tensor values, and the fp16 words of the run output once written. -/
structure Env where
  mats : NMap Mat
  out : List Nat
  deriving DecidableEq, Repr

def padToken : Nat := 0xFFFFFFFF

/-- EMBED: bf16 rows of the table by token; a pad's row is open (log 38). -/
def embedMat (t : Tensor) (space : List Byte) (tokens : List Nat) : Mat :=
  tokens.map fun k => (List.range t.width).map fun c =>
    if k = padToken then b2f (Config.padElem c % 65536) else toBf (t.elem space (k * t.width + c))

end Sys2Proof.Machine

namespace Sys2Proof.Machine

/-- The EMBED tensor of a model (R210, R215). -/
def Model.embed? (m : Model) : Option Tensor := (m.steps.find? fun s => s.op = 0x0D).bind fun s => s.table m.tensors

def Tensor.rowLen (t : Tensor) : Nat := if t.rows = 0 then 0 else t.len / t.rows

/-- A token model (R218). -/
def Model.tokens (m : Model) : Bool := isTokenPlan m.steps

def Model.inLen (m : Model) : Nat := ((m.tensors.find? fun t => t.role = 3).map Tensor.elems).getD 0
def Model.outLen (m : Model) : Nat := ((m.tensors.find? fun t => t.role = 4).map Tensor.elems).getD 0

def Model.value (m : Model) (e : Env) (i : Nat) : Mat :=
  match NMap.get? e.mats i with
  | some v => v
  | none => match m.tensors[i]? with | some t => t.mat m.space | none => []

def Model.fmtOf (m : Model) (i : Nat) : Nat := ((m.tensors[i]?).map (·.fmt)).getD 0

/-- One step. -/
def Model.runStep (m : Model) (tokens : List Nat) (pads : List Bool) (e : Env) (s : PStep) : Env :=
  let a := m.value e s.a
  let b := m.value e s.b
  let c := m.value e s.c
  let put := fun (v : Mat) => { e with mats := NMap.put e.mats s.out v }
  match s.op with
  | 0x01 => put (gemm (rowOp (operand (m.fmtOf s.a)) a) (rowOp (operand (m.fmtOf s.b)) b) (if s.flags = 1 then some c.flatten else none))
  | 0x02 => put (zipMat add32 a b)
  | 0x03 => put (zipMat mul32 a b)
  | 0x04 => put (rowOp (fun x => scaleF x s.e) a)
  | 0x05 => put (rowOp relu a)
  | 0x06 => put (rowOp (clampF (s.word 0) (s.word 4)) a)
  | 0x07 => put (rowOp (funcF ((m.tensors[s.c]?).getD zeroTensor) m.space) a)
  | 0x08 => put (a.map (rmsNorm b.flatten (s.word 0)))
  | 0x09 => put (a.map (layerNorm b.flatten c.flatten (s.word 0)))
  | 0x0A => put (a.map softmax)
  | 0x0B => put (attn a b c s.heads s.headDim (s.word 4) pads)
  | 0x0C => put (rowOp (convertF (m.fmtOf s.out) s.e) a)
  | 0x0D => (match m.embed? with | some t => put (embedMat t m.space tokens) | none => e)
  | 0x0E => put [pool (fieldN s.attr 0 1) ((m.tensors[s.a]?).map Tensor.width |>.getD 0) pads a]
  | 0x0F => { e with out := a.flatten.map outH }
  | _ => e

/-- One row of a run: its fp16 outputs. A token row shorter than the sequence length ends in pads (log 39). -/
def Model.runRow (m : Model) (row : List Nat) : List Nat :=
  let tokens := row ++ List.replicate (m.inLen - row.length) padToken
  let input := m.tensors.findIdx? fun t => t.role = 3
  let start : Env := match input with
    | some i => if m.tokens then ⟨[], []⟩ else ⟨[(i, reshape ((m.tensors[i]?).map Tensor.rows |>.getD 0) ((m.tensors[i]?).map Tensor.width |>.getD 0) (row.map h2f))], []⟩
    | none => ⟨[], []⟩
  (m.steps.foldl (m.runStep tokens (tokens.map fun k => m.tokens && k = padToken)) start).out

/-- The model an image makes, or none where R216 refuses it. -/
def modelOf (table : Nat → Option (Nat × List Byte)) (bs : List Byte) : Option Model :=
  if headerBad bs then none
  else
    match weightSpace table bs with
    | none => none
    | some space =>
      let ts := imgTensors bs
      let ss := imgSteps bs
      let n := fieldN bs 6 2
      if ts.any (fun t => t.bad n space) || ioBad ss ts || stepsBad n ts space ss ((ts.zipIdx.filter fun e => e.1.role = 3).map (·.2)) then none
      else
        some { id := 0, uid := 0, check := fieldN bs 0x38 4, image := bs, space := space, layers := n, tensors := ts, steps := ss, tier := .pin, embedTier := .pin,
               windowMib := 32, arrays := 128, holder := 0xFFFF, genMask := fieldN bs 0x34 2, genTags := (List.range 16).map fun g => fieldN bs (0x40 + 4 * g) 4,
               tessel := fieldN bs 4 2 = 2, filled := [] }

/-- Some die's share of some layer exceeds half the window (R222). -/
def Model.shareBad (m : Model) : Bool :=
  (List.range m.layers).any fun l => (List.range 10).any fun d => m.windowMib * 1048576 < 2 * shareOf m.steps m.tensors l d

/-- Every layer's share fits in the window together on every die, so filled layers stay (R222). -/
def Model.fits (m : Model) : Bool :=
  (List.range 10).all fun d => natSum ((List.range m.layers).map fun l => shareOf m.steps m.tensors l d) ≤ m.windowMib * 1048576

end Sys2Proof.Machine
end

