-- ==== Sys2Proof/Machine/Chain.lean ====
section
/-! DEFINITION. The chain engine: row sources, reads in flight, coalescing windows, delivery, chain.gather, remote reads and rerank (R37, R113, R123, R166 to R188, R397). -/

namespace Sys2Proof.Machine

/-! ### Parts -/

def Dev.reader? (d : Dev) (id : Nat) : Option Reader := d.chain.readers.find? fun r => r.id = id

def Dev.updReader (d : Dev) (id : Nat) (f : Reader → Reader) : Dev :=
  { d with chain := { d.chain with readers := updIf (fun r => r.id = id) f d.chain.readers } }

def Reader.updSlot (r : Reader) (no : Nat) (f : WSlot → WSlot) : Reader := { r with window := updIf (fun s => s.no = no) f r.window }

/-- Live reads of a slot. -/
def Dev.slotReads (d : Dev) (id no : Nat) : List Read := d.chain.reads.filter fun x => x.live && x.reader = id && x.slot = no

/-- Removes a reader that has ended and has no read outstanding: its query context is free (R32). -/
def Dev.sweepReader (d : Dev) (id : Nat) : Dev :=
  if d.chain.reads.any fun x => x.reader = id then d
  else { d with chain := { d.chain with readers := d.chain.readers.filter fun r => !(r.id = id && r.ended) } }

/-- A reader ends: its reads serve nobody any more. -/
def Dev.endReader (d : Dev) (id : Nat) : Dev :=
  let d1 := d.updReader id fun r => { r with ended := true, window := [] }
  ({ d1 with chain := { d1.chain with reads := updIf (fun x => x.reader = id) (fun x => { x with live := false }) d1.chain.reads } }).sweepReader id

/-- A read gives its tag back. -/
def Dev.dropRead (d : Dev) (tag reader : Nat) : Dev :=
  ({ d with chain := { d.chain with reads := d.chain.reads.filter fun x => x.tag != tag } }).sweepReader reader


/-! ### Fragments at the leaf that end (R73, R121, R188) -/

/-- Pool frames of a fragment's spill and emitted-ID sets (R127). -/
def LFrag.frames (f : LFrag) : List Nat := (f.dies.map (·.frames)).flatten

/-- Forgets a fragment: its probes, its pool frames, its rerank. Traverses that hold it run on. -/
def Dev.dropFrag (d : Dev) (key : FragKey) : Dev :=
  let mine := ((d.scan.frags.filter fun f => f.frag.key = key).map LFrag.frames).flatten
  let d1 := { d with scan := { d.scan with frags := d.scan.frags.filter fun f => f.frag.key != key, probes := d.scan.probes.filter fun p => p.key != key },
                     mem := { d.mem with pool := d.mem.pool.filter fun f => !(f.spill && mine.contains f.no) } }
  match d1.chain.readers.find? fun r => r.kind = .rerank key with
  | some r => d1.endReader r.id
  | none => d1

/-- Answers a fragment as failed (R73, R188, R388). -/
def Dev.failFrag (d : Dev) (key : FragKey) : Dev := ((d.send clsQuery key.root (.fragFailed key)).count 108 0 1).dropFrag key

/-- A horizon before every entry: for a truncated list without an entry (DEDUCED, log 33). -/
def firstKey : KeyId := ⟨0xFF800000#32, 0⟩

/-- Sends a fragment's list to its root; a complete one ends the fragment here. -/
def Dev.fragReturn (d : Dev) (f : LFrag) (items : List KeyId) (horizon : Option KeyId) (complete : Bool) : Dev :=
  let d1 := d.send clsQuery f.frag.key.root (.fragRes ⟨f.frag.key, items, horizon, complete, f.nRej, f.p, f.widened⟩)
  if complete then d1.dropFrag f.frag.key else d1

/-- The reranked keys in order, the first k + m of them; truncated when cut, or when the scan list was short (R123). -/
def rerankList (f : LFrag) : List KeyId × Option KeyId :=
  let s := sortBy (fun a b => !(b.before a)) f.reranked
  let out := s.take (f.frag.k + f.frag.margin)
  (out, if out.length < s.length || f.scanShort then some (out.getLast?.getD firstKey) else none)

def Dev.rerankDone (d : Dev) (f : LFrag) : Dev := d.fragReturn f (rerankList f).1 (rerankList f).2 true

/-! ### Read tags (R174) -/

def shareCap : Share → Nat
  | .rerank => 16384
  | .remote => 8192
  | .encoder => 4096
  | .shared => 36864

def Dev.shareUsed (d : Dev) (s : Share) : Nat := (d.chain.reads.filter fun x => x.share = s).length

/-- A tag from the reader's share, otherwise from the shared pool. -/
def Dev.takeShare (d : Dev) (s : Share) : Option Share :=
  if d.shareUsed s < shareCap s then some s else if d.shareUsed .shared < shareCap .shared then some .shared else none

def Reader.share (r : Reader) : Share :=
  match r.kind with
  | .gather _ => .shared
  | .rerank _ => .rerank
  | .embed _ _ => .encoder
  | .remote _ => .remote

/-! ### Sources (R175, R176, R195, R245, R278) -/

/-- A near-bank command has begun on lines of an entry's row and has more to do there (R195). -/
def Dev.rowWriting (d : Dev) (l : Leaf) (id : Nat) : Bool :=
  let seqs := (l.allEntries.filter fun e => e.id = id).map (·.seq)
  d.nb.jobs.any fun j => j.op.rows && j.op.parcel = l.parcel && j.todo.length < j.total && j.todo.any fun x => seqs.contains x.seq

/-- A monument copy that readers may read at a station (R194). -/
def MonCopy.readable (k : MonCopy) (station : Nat) : Bool := match k.use with | .live => true | .leaving f => decide (station < f) | _ => false

/-- A DRAM copy of a row for one reader: the stack that serves a read of it, its region, and the byte offset of the row there. -/
structure RowCopy where
  stack : Nat
  region : Nat
  off : Nat
  deriving DecidableEq, Repr

/-- Copy 0's slot for a benchmark, as a copy of its region. -/
def Dev.rowCopyOf (d : Dev) (l : Leaf) (kind : RowKind) (id seq slot : Nat) (k : MonCopy) : RowCopy :=
  let a := d.copyByte l kind id seq slot 0 k
  ⟨(d.readPlace a.1 a.2).1, a.1, a.2⟩

/-- DRAM copies of a leaf's row that may be read: copy 0 only while a write is in progress on the row (R194, R195). A TIER_PIN row none of whose copies is left is read at its place, as poison (R177). -/
def Dev.dramCopies (d : Dev) (c : Clock) (l : Leaf) (kind : RowKind) (id seq slot : Nat) : List RowCopy :=
  let pin := (l.cfg.map fun x => cfgTier x (kindNo kind)) = some .pin
  let all := match d.monOf l kind id with
    | some m => m.copies
    | none => if pin then [homeCopy] else []
  let ks := all.filter fun k => k.readable (d.station c)
  let ks1 := if kind = .payload && d.rowWriting l id then ks.take 1 else ks
  (if ks1.isEmpty && pin then [homeCopy] else ks1).map fun k => d.rowCopyOf l kind id seq slot k

/-- The DRAM copy with the fewest reads outstanding, then the lower stack (R176). -/
def Dev.bestStack (d : Dev) (ss : List Nat) : Option Nat := leastBy (fun a b => d.readsOn a < d.readsOn b || (d.readsOn a = d.readsOn b && a ≤ b)) ss

/-- 4 KiB pages of a row. -/
def rowPages (off len : Nat) : List Nat := (List.range (ceilDiv (off + len) 4096 - off / 4096)).map (· + off / 4096)

/-- Where a row lies in a store on flash: owner, pages a reader needs, tier. -/
structure RowHome where
  key : Nat
  pages : List Nat
  tier : Tier
  deriving DecidableEq, Repr

/-- Pool frames that hold pages of an owner. -/
def Dev.framesFor (d : Dev) (key : Nat) (pages : List Nat) : List Nat :=
  (d.mem.pool.filter fun f => f.key = key && pages.contains f.page && !f.busy && !f.spill).map (·.no)

/-- The source of a row on this node, or none while it must wait for a fill or a held channel (R175, R278, R463). A TIER_CACHE page whose unit is uncorrectable is read from flash, where the read fails (R177, R322). -/
def Dev.localSource (d : Dev) (hot : Bool) (dram : List Nat) (h : RowHome) : Option Source :=
  if hot then some .hotRow
  else
    match d.bestStack dram with
    | some s => some (.dram s)
    | none =>
      let out := h.pages.filter fun p => !(d.poolHas h.key p)
      if out.isEmpty then some (.pool (d.framesFor h.key h.pages))
      else if h.tier = .flash || out.any fun p => d.pageBad h.key p then
        let ch := ((d.flash.unitAt h.key ((h.pages.head?).getD 0 / 4)).map (·.1)).getD 32
        if d.chanHeld ch then none else some (.flash ch)
      else none

/-- Accesses to the pages a row needs (R278, R281, R282, R287): a row's first request counts as an access; while it waits, a page that has gone is asked for again. A page read from flash becomes a pool frame. -/
def Dev.fillRow (d : Dev) (c : Clock) (h : RowHome) (tenant : Nat) (first : Bool) : Dev :=
  if h.tier = .pin then d
  else
    (h.pages.filter fun p => d.poolHas h.key p || !(d.pageBad h.key p)).foldl (fun (x : Dev) p =>
      if first then x.poolAccess c h.tier h.key p tenant
      else if x.poolHas h.key p then x.touchPool c h.key p
      else if x.inPool h.key p then x
      else x.fillPage c ⟨h.tier, h.key, p, tenant, false⟩) d

def Dev.cached (d : Dev) (k : RowKey) : Bool := d.chain.cache.rows.any fun x => x.valid && x.row = k

/-! ### Rows (R166, R170 to R172, R184, R189) -/

def entryRowOf (k : RowKind) (e : Entry) : Option Row := match k with | .vector => some e.vector | .payload => e.payload | .embed => none

/-- The entry that answers a key at this node's copy: the candidate's own for a rerank (R170, R172). -/
def Reader.entry (r : Reader) (l : Leaf) (key : Nat) : Option Entry :=
  match r.kind with
  | .rerank _ => (r.keys.idxOf? key).bind fun i => l.rerankEntry key (nthD r.commits i 0) r.bench
  | _ => l.rowEntry key r.bench

def Dev.model? (d : Dev) (uid : Nat) : Option Model := (d.mdl.models ++ d.mdl.olds).find? fun m => m.uid = uid

def Model.embedRow (m : Model) (i : Nat) : List Byte :=
  match m.embed? with
  | some t => (m.space.drop (t.off + i * t.rowLen)).take t.rowLen
  | none => []

/-- The home of a leaf's row on flash: its slot for a reader, and a REPLACEABLE store's header line (R189). -/
def Dev.leafHome (d : Dev) (l : Leaf) (k : RowKind) (e : Entry) (slot : Nat) : RowHome :=
  let len := match l.cfg, d.spaceOf l with | some x, some s => cfgRowLen x s (kindNo k) | _, _ => 0
  let head := match l.cfg, d.spaceOf l with | some x, some s => if x.replaceable then [64 * (l.rowIx e.seq * placeLines x s (kindNo k)) / 4096] else [] | _, _ => []
  ⟨storeKey l.parcel (kindNo k), (head ++ rowPages (d.rowByte l (kindNo k) e.seq slot 0) len).dedup, ((l.cfg.map fun x => cfgTier x (kindNo k)).getD .pin)⟩

def Model.rowLen (m : Model) : Nat := ((m.embed?).map Tensor.rowLen).getD 0

def Dev.embedHome (_ : Dev) (m : Model) (i : Nat) : RowHome := ⟨embedKey m.uid, rowPages (i * m.rowLen) m.rowLen, m.embedTier⟩

/-- The DRAM copy of an EMBED row: its place in the TIER_PIN store of a model that this node keeps (R166, R215). -/
def Dev.embedCopies (d : Dev) (m : Model) (i : Nat) : List RowCopy :=
  if m.embedTier = .pin && m.holder = 0xFFFF then [⟨(d.readPlace (embedRegion m.uid) (i * m.rowLen)).1, embedRegion m.uid, i * m.rowLen⟩] else []

/-! ### Results of a gather (R184 to R186, R397) -/

/-- Entries written without a gap from the first: COUNT. -/
def prefixLen : Nat → NMap Nat → Nat
  | n, [] => n
  | n, e :: m => if e.1 = n then prefixLen (n + 1) m else n

def ceil64 (n : Nat) : Nat := ceilDiv n 64 * 64

def Reader.count (r : Reader) : Nat := prefixLen 0 r.statuses

/-- Status of a gather whose rows are all written (R186). -/
def gatherStatus (statuses : NMap Nat) : Nat :=
  if statuses.any fun e => e.2 = 2 then stPoison else if statuses.any fun e => e.2 = 1 then stShort else stOk

/-- Ends a gather with its prefix. -/
def Dev.gatherEnd (d : Dev) (c : Clock) (r : Reader) (ref : Ref) (status : Nat) (degraded : Bool) : Dev :=
  (d.endCmd c ref status (rflags false false degraded true) r.count []).endReader r.id

/-- Writes row r, then its status byte (R184, R185). -/
def Dev.putRow (d : Dev) (r : Reader) (ref : Ref) (pos status : Nat) (bytes : List Byte) : Dev :=
  match d.cmd? ref with
  | none => d
  | some cmd =>
    let row := if status = 0 then padTo r.rMax bytes else List.replicate r.rMax 0
    (d.result cmd (ceil64 r.keys.length + pos * ceil64 r.rMax) row).result cmd pos [BitVec.ofNat 8 status]

/-- Reports a gather's progress, or ends it when every row is written. -/
def Dev.gatherStep (d : Dev) (c : Clock) (r : Reader) (ref : Ref) : Dev :=
  if r.statuses.length = r.keys.length then d.gatherEnd c r ref (gatherStatus r.statuses) false
  else d.report ref stRunning (progressOf r.delivered r.keys.length) r.count (0 < r.count) false false

/-! ### A slot's row is known (R177, R178, R180) -/

/-- Gives a slot its row: other attempts for it are no longer followed. -/
def Dev.slotDone (d : Dev) (r : Reader) (no status : Nat) (bytes : List Byte) : Dev :=
  let d1 := if status = 2 then d.count 32 0 1 else d
  match r.kind with
  | .rerank key => if status = 0 then fill d1 else d1.failFrag key
  | .remote q => (d1.send clsBulk q.root (.rowReply q.tag (if status = 2 then .poison else .remote (if status = 1 then none else some bytes)))).endReader r.id
  | _ => fill d1
where
  fill (d : Dev) : Dev :=
    let d1 := d.updReader r.id fun x => { (x.updSlot no fun s => { s with row := some (status, bytes) }) with inflight := x.inflight - 1 }
    { d1 with chain := { d1.chain with reads := updIf (fun x => x.reader = r.id && x.slot = no) (fun x => { x with live := false }) d1.chain.reads } }

/-- No copy can give a row (R397): a gather ends at its prefix with ST_SHORT and DEGRADED; a remote reader answers as failed. -/
def Dev.rowLost (d : Dev) (c : Clock) (r : Reader) : Dev :=
  match r.kind with
  | .gather ref => (d.gatherEnd c r ref stShort true).count 107 0 1
  | .rerank key => d.failFrag key
  | .remote q => ((d.send clsBulk q.root (.rowReply q.tag .failed)).count 108 0 1).endReader r.id
  | .embed _ _ => d

/-! ### Issuing a read (R171, R173 to R176, R397) -/

/-- Where a key's row is: nowhere, not to be had yet, in a store that does not exist, in a row of a leaf on this node, on another node, or on no copy at all. -/
inductive Where | absent | wait | noStore | here (l : Leaf) (e : Entry) | there (parcel node : Nat) | lost
  deriving DecidableEq, Repr

/-- The copy a reader asks: rerank and remote service read this node's own; a gather this node's when it holds one, unless COPY_RANK names another; later attempts follow R394. -/
def Dev.pickCopy (d : Dev) (r : Reader) (parcel : Nat) (tried busy : List Nat) : Option Nat :=
  match r.kind with
  | .gather _ =>
    (match d.genNo r.gen with
     | none => none
     | some g =>
       if tried.isEmpty then
         match d.rankedCopy g parcel r.bench r.copyRank with
         | some n => some n
         | none => if (d.considered g parcel r.bench).contains d.plat.nodeId then some d.plat.nodeId else d.firstCopy g parcel r.bench none
       else d.nextCopy g parcel tried busy)
  | _ => some d.plat.nodeId

/-- Searches the leaves in ascending PARCEL_ID for the one that has a qualifying entry (R171). -/
def Dev.findKey (d : Dev) (r : Reader) (key : Nat) (tried busy : List Nat) : List Nat → List Nat × Where
  | [] => ([], .absent)
  | p :: ps =>
    match d.pickCopy r p tried busy with
    | none => (p :: ps, if busy.isEmpty then .lost else .wait)
    | some n =>
      if n != d.plat.nodeId then (p :: ps, .there p n)
      else
        match d.leaf p with
        | none => (p :: ps, .lost)
        | some l =>
          if !(l.serves r.bench) then (p :: ps, .lost)
          else if !(l.reached r.bench) then (p :: ps, .wait)
          else
            match r.entry l key with
            | none => d.findKey r key [] [] ps
            | some e => (p :: ps, if (entryRowOf r.rows e).isNone then .noStore else .here l e)

/-- Adds a read with a tag of the share given (R174, R200). -/
def Dev.addRead (d : Dev) (c : Clock) (r : Reader) (no : Nat) (row : RowKey) (src : Source) (share : Share) : Dev :=
  let ix := match src with | .hotRow => 0 | .dram _ => 1 | .pool _ => 2 | .flash _ => 3 | .remote _ => 4
  let x : Read := ⟨d.chain.nextTag, r.id, no, row, src, share, [], c.now, false, true⟩
  ({ d with chain := { d.chain with reads := d.chain.reads ++ [x], nextTag := d.chain.nextTag + 1 } }).count 26 ix 1

/-- Array cycles in which a reader waited for a tag or a walk for a slot: open, as R200 counts them (log 116). -/
def Dev.waited (d : Dev) (k : Nat) : Dev := let w := d.fresh; w.2.count k 0 w.1

/-- Issues a read of a row on this node, when a source and a tag are to be had. -/
def Dev.issueLocal (d : Dev) (c : Clock) (r : Reader) (no : Nat) (row : RowKey) (dram : List RowCopy) (h : RowHome) (first : Bool) : Dev :=
  match d.localSource (d.cached row) (dram.map (·.stack)) h with
  | none => d.fillRow c h r.tenant first
  | some src =>
    match d.takeShare r.share with
    | none => d.waited 29
    | some sh =>
      let d1 := match src with | .pool _ => d.fillRow c h r.tenant first | .flash _ => d.fillRow c h r.tenant first | _ => d
      d1.addRead c r no row src sh

/-- Issues a read on another node (R175, R382). -/
def Dev.issueRemote (d : Dev) (c : Clock) (r : Reader) (no : Nat) (row : RowKey) (n : Nat) (again : Bool) : Dev :=
  match d.takeShare r.share with
  | none => d.waited 29
  | some sh =>
    let tag := d.chain.nextTag
    let d1 := (d.addRead c r no row (.remote n) sh).count 105 0 (boolNat again)
    (d1.updReader r.id fun x => x.updSlot no fun y => { y with tried := y.tried ++ [n] }).send clsBulk n
      (.rowRequest ⟨d.plat.nodeId, tag, row.parcel, row.rank, r.gen, r.bench, r.rows, row.id, false⟩)

/-- Slot of an entry's row that a benchmark reads (R189). -/
def benchSlot (e : Entry) (k : RowKind) (bench : Nat) : Nat := match entryRowOf k e with | some x => boolNat (rowUses1 x bench) | none => 0

/-- Issues, or issues again, the read of a slot; EMBED rows of a model that another node keeps are read there (R175, R215; log 62). -/
def Dev.launch (d : Dev) (c : Clock) (r : Reader) (s : WSlot) (first : Bool) : Dev :=
  if r.rows = .embed then
    match d.model? (nthD r.leaves 0 0) with
    | some m =>
      let row : RowKey := ⟨m.id, 0, .embed, s.key⟩
      if m.holder != 0xFFFF && !(d.cached row) then d.issueRemote c r s.no row m.holder false
      else d.issueLocal c r s.no row (d.embedCopies m s.key) (d.embedHome m s.key) first
    | none => d.slotDone r s.no 1 []
  else
    let busy := (d.slotReads r.id s.no).filterMap fun x => match x.src with | .remote n => some n | _ => none
    let f := d.findKey r s.key s.tried busy s.left
    let moved := f.1 != s.left
    let d1 := d.updReader r.id fun x => x.updSlot s.no fun y => { y with left := f.1, tried := if moved then [] else y.tried }
    match f.2 with
    | .wait => d1
    | .absent => d1.slotDone r s.no 1 []
    | .noStore =>
      (match r.kind with
       | .remote q => (d1.send clsBulk q.root (.rowReply q.tag (.remote (some [])))).endReader r.id
       | _ => d1.slotDone r s.no 1 [])
    | .lost => d1.rowLost c r
    | .here l e =>
      let slot := benchSlot e r.rows r.bench
      d1.issueLocal c r s.no ⟨l.parcel, d.copyRank c l, r.rows, s.key⟩ (d1.dramCopies c l r.rows s.key e.seq slot) (d1.leafHome l r.rows e slot) first
    | .there p n =>
      let rank := (((d.genNo r.gen).bind fun g => g.leaf p).bind fun x => x.rankOf n).getD 0
      d1.issueRemote c r s.no ⟨p, rank, r.rows, s.key⟩ n (!(s.tried.isEmpty) && !moved)

/-- The slot is without a row and without a read. -/
def Dev.slotWaits (d : Dev) (id no : Nat) : Bool :=
  match d.reader? id with
  | none => false
  | some r => !r.ended && (r.window.any fun s => s.no = no && s.row.isNone) && (d.slotReads id no).isEmpty

/-- Slots that wait for their read are tried in order until one goes; whether one did. -/
def Dev.tryWaiting (d : Dev) (c : Clock) (id : Nat) : List WSlot → Bool × Dev
  | [] => (false, d)
  | s :: ss =>
    match d.reader? id with
    | none => (true, d)
    | some r =>
      let d1 := d.launch c r s false
      if d1.slotWaits id s.no then d1.tryWaiting c id ss else (true, d1)

/-- A gather past its DEADLINE ends with the prefix that is written (R186). -/
def Reader.due (r : Reader) (c : Clock) : Bool := match r.kind with | .gather _ => decide (r.deadline ≤ c.now) | _ => false
def Dev.gatherLate (d : Dev) (c : Clock) (r : Reader) : Dev := match r.kind with | .gather ref => d.gatherEnd c r ref stDeadline false | _ => d

/-- The slot for a new key: a free one, or the one that has been idle longest (R178). -/
def Reader.freeSlot (r : Reader) : Option Nat :=
  if r.window.length < Config.windowSlots then
    (List.range (r.window.length + 1)).find? fun i => !(r.window.any fun s => s.no = i)
  else (leastBy (fun (a b : WSlot) => a.lastUse ≤ b.lastUse) (r.window.filter fun s => s.row.isSome && s.occ.isEmpty)).map (·.no)

/-- The walk's next key joins its slot, takes a new one, or waits (R173, R174, R178). -/
def Dev.walkKey (d : Dev) (c : Clock) (r : Reader) : Dev :=
  match r.keys[r.pos]? with
  | none => d
  | some key =>
    match r.kind, decide (key = Config.noItem) && r.rows != .embed with
    | .gather ref, true =>
      let r1 := { r with pos := r.pos + 1, statuses := NMap.put r.statuses r.pos 3, delivered := r.delivered + 1 }
      ((d.updReader r.id fun _ => r1).putRow r1 ref r.pos 3 []).gatherStep c r1 ref
    | _, _ =>
      match r.window.find? fun s => s.key = key with
      | some s => (d.updReader r.id fun x => { (x.updSlot s.no fun y => { y with occ := y.occ ++ [x.pos] }) with pos := x.pos + 1 }).count 27 0 1
      | none =>
        if r.limit ≤ r.inflight then d
        else
          match r.freeSlot with
          | none => d.waited 30
          | some no =>
            let s : WSlot := ⟨no, key, r.leaves, [], none, [r.pos], 0⟩
            let r1 := { r with pos := r.pos + 1, inflight := r.inflight + 1, window := (r.window.filter fun y => y.no != no) ++ [s] }
            (d.updReader r.id fun _ => r1).launch c r1 s true

/-- One step of a reader's walk: a slot that waits for its read is tried again; when none can go, the walk takes its next key (R173, R174, R178). -/
def chainReadIssue (id : Nat) (c : Clock) (d : Dev) : Dev :=
  match d.reader? id with
  | none => d
  | some r =>
    if r.ended then d
    else if r.due c then d.gatherLate c r
    else
      let w := d.tryWaiting c id (r.window.filter fun s => s.row.isNone && (d.slotReads id s.no).isEmpty)
      if w.1 then w.2 else match w.2.reader? id with | some r1 => w.2.walkKey c r1 | none => w.2

def execChainReadIssue (t : Nat) (reader : Nat) (s : State) : Host.Outcome State Fault Refusal :=
  happens (.chainReadIssue t reader) t (·.onDev (chainReadIssue reader)) s

/-! ### A read completes (R177, R188, R271, R272, R322, R397) -/

/-- Content of a row on this node: its bytes, or none when it is poisoned; a row that has gone is absent. -/
def Dev.localRow (d : Dev) (r : Reader) (k : RowKey) : Nat × List Byte :=
  if r.rows = .embed then
    match d.model? (nthD r.leaves 0 0) with
    | some m => (0, m.embedRow k.id)
    | none => (1, [])
  else
    match d.leaf k.parcel with
    | none => (1, [])
    | some l =>
      match (r.entry l k.id).bind (entryRowOf r.rows) with
      | none => (1, [])
      | some row => let s := rowAt row r.bench; if s.poison.isEmpty then (0, s.bytes) else (2, [])

/-- DRAM copies of the row that a read in flight is for, and the row's length (R194, R195). -/
def Dev.keyCopies (d : Dev) (c : Clock) (r : Reader) (k : RowKey) : List RowCopy × Nat :=
  if r.rows = .embed then
    match d.model? (nthD r.leaves 0 0) with
    | some m => (d.embedCopies m k.id, m.rowLen)
    | none => ([], 0)
  else
    match d.leaf k.parcel with
    | none => ([], 0)
    | some l =>
      match r.entry l k.id with
      | some e => (d.dramCopies c l r.rows k.id e.seq (benchSlot e r.rows r.bench), match l.cfg, d.spaceOf l with | some x, some s => cfgRowLen x s (kindNo r.rows) | _, _ => 0)
      | none => ([], 0)

/-- The copy on a stack reads as poison: the stack is out of service, or lines of the copy are lost (R177, R273). -/
def Dev.copyBad (d : Dev) (v : List RowCopy × Nat) (s : Nat) : Bool :=
  !(d.serves s) || match v.1.find? fun k => k.stack = s with
    | some k => let lines := d.poisonOf k.region; (List.range (ceilDiv v.2 64)).any fun i => lines.contains (k.off / 64 + i)
    | none => false

/-- Pages of the row's home on flash. -/
def Dev.keyHome (d : Dev) (r : Reader) (k : RowKey) : Option RowHome :=
  if r.rows = .embed then (d.model? (nthD r.leaves 0 0)).map fun m => d.embedHome m k.id
  else (d.leaf k.parcel).bind fun l => (r.entry l k.id).map fun e => d.leafHome l r.rows e (benchSlot e r.rows r.bench)

/-- The source cannot give the row clean, whatever the read itself reports (R177, R273, R322). -/
def Dev.sourceBad (d : Dev) (c : Clock) (r : Reader) (x : Read) : Bool :=
  match x.src with
  | .dram s => d.copyBad (d.keyCopies c r x.key) s
  | .flash _ => (match d.keyHome r x.key with | some h => h.pages.any fun p => !(d.poolHas h.key p) && d.pageBad h.key p | none => false)
  | _ => false

/-- A read met a poisoned line: another DRAM copy is read, or the row is poisoned (R177). -/
def Dev.retryDram (d : Dev) (c : Clock) (r : Reader) (x : Read) : Dev :=
  let all := (d.keyCopies c r x.key).1.map (·.stack)
  let tried := x.src :: x.tried
  match d.bestStack (all.filter fun s => !(tried.contains (.dram s))) with
  | some s =>
    ({ d with chain := { d.chain with reads := updIf (fun y => y.tag = x.tag) (fun y => { y with src := .dram s, tried := tried }) d.chain.reads } }).count 26 1 1
  | none => (d.slotDone r x.slot 2 []).dropRead x.tag r.id

/-- The slot's attempt failed: another starts, unless the deadline has come (R393). -/
def Dev.retryRemote (d : Dev) (c : Clock) (r : Reader) (x : Read) : Dev :=
  let d1 := d.dropRead x.tag r.id
  if r.deadline ≤ c.now then d1
  else match (d1.reader? r.id).bind fun y => y.window.find? fun s => s.no = x.slot with
    | some s => d1.launch c r s false
    | none => d1

/-- A DRAM read met an uncorrectable line; which of the row's lines it was is open (log 116). Redundancy serves it, or it stays poisoned until it is written whole (R271, R272). -/
def Dev.metLine (d : Dev) (c : Clock) (r : Reader) (x : Read) (s : Nat) : Bool × Dev :=
  let v := d.keyCopies c r x.key
  match v.1.find? fun k => k.stack = s with
  | some k => let w := d.fresh; w.2.lineError c k.region (k.off + 64 * (w.1 % max 1 (ceilDiv v.2 64)))
  | none => (false, d)

/-- A read of this node's own source has its row. -/
def Dev.gotRow (d : Dev) (r : Reader) (x : Read) : Dev :=
  let v := d.localRow r x.key
  let d1 := match x.src, d.chain.cache.rows.find? fun y => y.row = x.key with | .hotRow, some y => d.count 38 y.die 1 | _, _ => d
  (d1.slotDone r x.slot v.1 v.2).dropRead x.tag r.id

/-- A source of this node gives the row poisoned. -/
def Dev.gotPoison (d : Dev) (c : Clock) (r : Reader) (x : Read) : Dev :=
  match x.src with
  | .dram _ => d.retryDram c r x
  | .hotRow => d.retryDram c r x
  | _ => (d.slotDone r x.slot 2 []).dropRead x.tag r.id

/-- A read of this node's own source completes. -/
def Dev.completeLocal (d : Dev) (c : Clock) (r : Reader) (x : Read) (o : ReadOutcome) : Dev :=
  match o with
  | .ok => if d.sourceBad c r x then d.gotPoison c r x else d.gotRow r x
  | .corrected => if d.sourceBad c r x then d.gotPoison c r x else (match x.src with | .dram s => d.count 58 s 1 | _ => d).gotRow r x
  | .poison => d.gotPoison c r x
  | .uncorrectable =>
    (match x.src with
     | .dram s =>
       let v := d.metLine c r x s
       if v.1 && !(v.2.sourceBad c r x) then v.2.gotRow r x else v.2.gotPoison c r x
     | _ => d.gotPoison c r x)
  | _ => d

/-- Another node's answer. An EMBED row that its HOLDER cannot give is poisoned (R405; log 62). -/
def Dev.completeRemote (d : Dev) (c : Clock) (r : Reader) (x : Read) (n : Nat) (o : ReadOutcome) : Dev :=
  let ends := fun (y : Dev) (st : Nat) (bs : List Byte) => (y.slotDone r x.slot st bs).dropRead x.tag r.id
  match o, decide (r.rows = .embed) with
  | .remote (some bs), _ => ends d (if bs.isEmpty then 1 else 0) bs
  | .poison, _ => ends d 2 []
  | _, true => ends d 2 []
  | .remote none, false =>
    let d1 := (d.updReader r.id fun y => y.updSlot x.slot fun s => { s with left := s.left.drop 1, tried := [] }).dropRead x.tag r.id
    (match (d1.reader? r.id).bind fun y => y.window.find? fun s => s.no = x.slot with
     | some s => d1.launch c r s false
     | none => d1)
  | .failed, false => (d.late n).retryRemote c r x
  | .unreachable, false => d.retryRemote c r x
  | .stale a, false =>
    let d1 := d.count 102 0 1
    if (d.genNo a.gen).isNone then (d1.wantGen a.gen).retryRemote c r x
    else (d1.updReader r.id fun y => { y with gen := if a.case1 then a.gen else y.gen }).retryRemote c { r with gen := if a.case1 then a.gen else r.gen } x
  | _, false => d

def chainReadComplete (tag : Nat) (o : ReadOutcome) (c : Clock) (d : Dev) : Dev :=
  match d.chain.reads.find? fun x => x.tag = tag with
  | none => d
  | some x =>
    match d.reader? x.reader with
    | none => d.dropRead tag x.reader
    | some r =>
      if !x.live || r.ended then d.dropRead tag x.reader
      else if r.due c then (d.gatherLate c r).dropRead tag x.reader
      else match x.src with
        | .remote n => d.completeRemote c r x n o
        | .dram st => if d.stackBarred st then d else d.completeLocal c r x o
        | .pool ns => if ns.any fun n => d.stackBarred (n / Config.allFrames) then d else d.completeLocal c r x o
        | _ => d.completeLocal c r x o

def execChainReadComplete (t : Nat) (tag : Nat) (o : ReadOutcome) (s : State) : Host.Outcome State Fault Refusal :=
  happens (.chainReadComplete t tag o) t (·.onDev (chainReadComplete tag o)) s

/-- An attempt of a remote read reaches T_late (R393, R397, R398). -/
def Dev.readLate (d : Dev) (c : Clock) (tag : Nat) : Dev :=
  match d.chain.reads.find? fun x => x.tag = tag with
  | none => d
  | some x =>
    match x.src, d.reader? x.reader with
    | .remote n, some r =>
      if !x.live || x.late || r.ended || c.now < d.tLate x.sentAt r.deadline then d
      else
        let d1 := (({ d with chain := { d.chain with reads := updIf (fun y => y.tag = tag) (fun y => { y with late := true }) d.chain.reads } }).late n).count 106 0 1
        let newest := (d.slotReads r.id x.slot).all fun y => y.tag ≤ tag
        if !newest || r.deadline ≤ c.now then d1
        else match r.window.find? fun s => s.no = x.slot with
          | some s => d1.launch c r s false
          | none => d1
    | _, _ => d

/-! ### Delivery (R179, R180, R185 to R187) -/

/-- The rerank key of one candidate (R187). -/
def Dev.formKey (d : Dev) (key : FragKey) (id : Nat) (bytes : List Byte) : Dev :=
  match d.scan.frags.find? fun f => f.frag.key = key with
  | none => d
  | some f =>
    match (d.leaf key.parcel).bind fun l => (d.spaceOf l).bind fun s => l.cfg.map fun x => (s, x) with
    | none => d
    | some v =>
      let w := rerankKey v.1.rerankMetric (f.frag.q.map (·.toNat)) (rowElems v.2.fmt v.1.dim bytes)
      let f1 := { f with reranked := f.reranked ++ [⟨w, id⟩] }
      let d1 := ({ d with scan := { d.scan with frags := updIf (fun x => x.frag.key = key) (fun _ => f1) d.scan.frags } }).count 33 0 1
      if f1.reranked.length = f1.toRerank then d1.rerankDone f1 else d1

/-- A lane delivers one occurrence of a slot's row. -/
def rowDelivery (id pos : Nat) (c : Clock) (d : Dev) : Dev :=
  match d.reader? id with
  | none => d
  | some r =>
    if r.due c then d.gatherLate c r
    else match r.window.find? fun s => s.occ.contains pos with
    | none => d
    | some s =>
      match s.row with
      | none => d
      | some v =>
        let r1 := { (r.updSlot s.no fun y => { y with occ := y.occ.filter fun p => p != pos, lastUse := r.delivered + 1 }) with
                    statuses := NMap.put r.statuses pos v.1, delivered := r.delivered + 1 }
        let d1 := (d.updReader id fun _ => r1).count 28 (s.no % Config.lanes) 1
        match r.kind with
        | .gather ref => (((d1.count 31 0 (boolNat (v.1 = 1))).putRow r1 ref pos v.1 v.2).gatherStep c r1 ref)
        | .rerank key => d1.formKey key s.key v.2
        | _ => d1

def execRowDelivery (t : Nat) (reader pos : Nat) (s : State) : Host.Outcome State Fault Refusal :=
  happens (.rowDelivery t reader pos) t (·.onDev (rowDelivery reader pos)) s

/-! ### Reads for other nodes (R175, R380 to R382) -/

def Reader.new (id : Nat) (kind : ReaderKind) (rows : RowKind) (leaves : List Nat) (gen bench : Nat) (keys : List Nat) : Reader :=
  { id := id, kind := kind, rows := rows, leaves := leaves, gen := gen, bench := bench, copyRank := none, keys := keys, commits := [], pos := 0,
    window := [], statuses := [], rMax := 0, inflight := 0, limit := Config.readTags, deadline := 0, delivered := 0, tenant := 0, ended := false }

def Dev.addReader (d : Dev) (r : Reader) : Dev :=
  { d with chain := { d.chain with readers := d.chain.readers ++ [{ r with id := d.chain.nextReader }], nextReader := d.chain.nextReader + 1 } }

/-- A row is asked of this node: of a leaf copy (R380 to R382), or an EMBED row of a model it keeps (R215). -/
def remoteReadRequest (q : RemoteReq) (_ : Clock) (d : Dev) : Dev :=
  if !d.carries then d
  else if q.kind = .embed then
    match d.mdl.models.find? fun m => m.id = q.parcel && (m.embed?).isSome with
    | some m => d.addReader (Reader.new 0 (.remote q) .embed [m.uid] q.gen q.bench [q.id])
    | none => d.send clsBulk q.root (.rowReply q.tag .failed)
  else
    match d.routeWork q.gen q.bench q.parcel q.rank q.fwd with
    | .wait => ({ d with plat := { d.plat with waitReads := d.plat.waitReads ++ [q] } }).wantGen q.gen
    | .stale a => (d.send clsBulk q.root (.rowReply q.tag (.stale a))).count 102 0 1
    | .forward n => (d.send clsBulk n (.rowRequest { q with fwd := true })).count 103 0 1
    | .serve => d.addReader (Reader.new 0 (.remote q) q.kind [q.parcel] q.gen q.bench [q.id])

def execRemoteReadRequest (t : Nat) (r : RemoteReq) (s : State) : Host.Outcome State Fault Refusal :=
  happens (.remoteReadRequest t r) t (·.onDev (remoteReadRequest r)) s

/-! ### chain.gather (R171, R181 to R184) -/

/-- Benchmark of a gather: that of its admission, or BENCHMARK (R182, R183). -/
def Dev.gatherBench (d : Dev) (c : Clock) (cmd : Cmd) : Nat := if bitAt (cmd.e 0x41 1) 1 then cmd.e 0x58 8 else d.station c

def Dev.gatherGen (d : Dev) (c : Clock) (cmd : Cmd) : Option PlatGen := genAt d.plat.gens (d.gatherBench c cmd)

def sortNat (xs : List Nat) : List Nat := sortBy (fun a b => a ≤ b) xs

/-- What is known of a leaf: this node's own copy, otherwise what its copies told (R23, R184; log 34). -/
def Dev.factOf (d : Dev) (facts : List LeafFact) (parcel : Nat) : LeafFact :=
  match (d.leaf parcel).bind fun l => (d.spaceOf l).bind fun s => l.cfg.map fun x => (l, s, x) with
  | some v => ⟨parcel, v.1.isLoaded, rowBytes v.2.2.fmt v.2.1.dim, v.2.2.payloadLen⟩
  | none => (facts.find? fun f => f.parcel = parcel).getD ⟨parcel, false, 0, 0⟩

def factLen (f : LeafFact) (k : RowKind) : Nat := if k = .vector then f.vecLen else f.payLen

/-- Model that EMBED rows are gathered from. -/
def Dev.gatherModel (d : Dev) (cmd : Cmd) : Option Model := d.mdl.models.find? fun m => m.id = cmd.f 0x44 4 && (m.embed?).isSome

/-- R_max of the gather; 0 when no leaf it reaches has a store of the kind. -/
def Dev.gatherRMax (d : Dev) (c : Clock) (facts : List LeafFact) (cmd : Cmd) : Nat :=
  match rowKindOf (cmd.f 0x40 1), d.gatherGen c cmd with
  | some .embed, _ => ((d.gatherModel cmd).bind fun m => (m.embed?).map Tensor.rowLen).getD 0
  | some k, some g => ((resolved g (cmd.f 0x44 4)).map fun p => factLen (d.factOf facts p) k).foldl max 0
  | _, _ => 0

def Dev.gatherKeys (d : Dev) (cmd : Cmd) : List Nat := (List.range (cmd.f 0x50 4)).map fun i => d.partReadN cmd.ref.port (cmd.f 0x48 8 + 8 * i) 8

/-- Targets of a gather that R28's first row refuses. -/
def Dev.gatherTargetBad (d : Dev) (c : Clock) (facts : List LeafFact) (cmd : Cmd) : Bool :=
  let rank := if bitAt (cmd.e 0x41 1) 0 then some (cmd.e 0x42 1) else none
  match rowKindOf (cmd.f 0x40 1) with
  | none => true
  | some .embed =>
    (match d.gatherModel cmd with
     | none => true
     | some m => rank.isSome || (d.gatherKeys cmd).any fun k => ((m.embed?).map Tensor.rows).getD 0 ≤ k)
  | some _ =>
    match d.gatherGen c cmd with
    | none => true
    | some g =>
      let ls := resolved g (cmd.f 0x44 4)
      ls.isEmpty || ((g.leaf (cmd.f 0x44 4)).isSome && !(d.factOf facts (cmd.f 0x44 4)).loaded) ||
        (match rank with | none => false | some r => decide ((ls.map fun p => (((g.leaf p).map (·.copies)).getD []).length).foldl max 0 ≤ r))

/-- BENCHMARK out of its range (R183). -/
def Dev.benchBad (d : Dev) (c : Clock) (cmd : Cmd) : Bool :=
  bitAt (cmd.e 0x41 1) 1 && (d.station c < cmd.e 0x58 8 || cmd.e 0x58 8 + ((d.timing c).queryLifeNs / d.ns c - 1) < d.station c)

def chainGatherBad (facts : List LeafFact) (c : Clock) (d : Dev) (cmd : Cmd) : Bool :=
  let n := cmd.f 0x50 4
  let rMax := d.gatherRMax c facts cmd
  cmd.e 0x41 1 > 3 || !(inRange n 1 16777216) || cmd.f 0x48 8 % 8 != 0 || cmd.e 0x54 2 > 16384 || d.deadlineFar c cmd || d.benchBad c cmd ||
    d.gatherTargetBad c facts cmd || rMax = 0 || cmd.resultAddr % 64 != 0 || cmd.resultLen < ceil64 n + n * ceil64 rMax

def gatherAreas (_ : Dev) (cmd : Cmd) : List (Nat × Nat) := [(cmd.f 0x48 8, 8 * cmd.f 0x50 4)]

/-- The gather's deadline: that of R31 and R140, and with BENCHMARK given the end of that benchmark's life (R183). -/
def Dev.gatherDeadline (d : Dev) (c : Clock) (cmd : Cmd) : Nat :=
  if bitAt (cmd.e 0x41 1) 1 then min (d.deadlineOf c cmd) (startOf d.plat.gens (cmd.e 0x58 8) + (d.timing c).queryLifeNs) else d.deadlineOf c cmd

def chainGatherRun (facts : List LeafFact) (c : Clock) (d : Dev) (cmd : Cmd) : Dev :=
  let dl := d.gatherDeadline c cmd
  match d.gate c cmd (cmd.f 0x50 4) 1 (dl ≤ c.now), rowKindOf (cmd.f 0x40 1) with
  | .inl st, _ => d.notAdmitted cmd st
  | .inr d1, some k =>
    let leaves := if k = .embed then [((d.gatherModel cmd).map (·.uid)).getD 0] else sortNat (((d.gatherGen c cmd).map fun g => resolved g (cmd.f 0x44 4)).getD [])
    let r := Reader.new 0 (.gather cmd.ref) k leaves (((d.gatherGen c cmd).map (·.gen)).getD 0) (d.gatherBench c cmd) (d.gatherKeys cmd)
    d1.addReader { r with copyRank := if bitAt (cmd.e 0x41 1) 0 then some (cmd.e 0x42 1) else none, rMax := d.gatherRMax c facts cmd,
                          limit := if cmd.e 0x54 2 = 0 then 4096 else cmd.e 0x54 2, deadline := dl, tenant := cmd.tenant }
  | .inr d1, none => d1

def chainGather (k : Take) (facts : List LeafFact) : Clock → Dev → Dev :=
  runSlot 0x0500 allRows (chainGatherBad facts) gatherAreas (chainGatherRun facts) k

def execChainGather (k : Take) (facts : List LeafFact) (s : State) : Host.Outcome State Fault Refusal :=
  happens (.chainGather k facts) k.t (·.onDev (chainGather k facts)) s

end Sys2Proof.Machine
end

