-- ==== Sys2Proof/Machine/Hot.lean ====
section
/-! DEFINITION. Monuments, monument moves and the hot-row cache (R194 to R199). -/

namespace Sys2Proof.Machine

def Dev.monument? (d : Dev) (k : RowKey) : Option Monument := d.chain.monuments.find? fun m => m.row = k

def Dev.updMonument (d : Dev) (k : RowKey) (f : Monument → Monument) : Dev :=
  { d with chain := { d.chain with monuments := updIf (fun m => m.row = k) f d.chain.monuments } }

def stackOf (v : Nat) : Option StackNo := if h : v < 20 then some ⟨v, h⟩ else none

/-- Row that chain.monument_set and chain.monument_move name. -/
def Cmd.monRow (cmd : Cmd) : RowKey := ⟨cmd.f 0x40 4, cmd.f 0x44 1, (rowKindOf (cmd.f 0x45 1)).getD .embed, cmd.f 0x48 8⟩

/-- The row lies in a copy on this node: its leaf, its rank, a store of its kind and an entry of its ID (DESIGN CHOICE, log 35). -/
def Dev.rowHere (d : Dev) (c : Clock) (k : RowKey) : Bool :=
  match d.leaf k.parcel with
  | none => false
  | some l => d.copyRank c l = k.rank && l.allEntries.any fun e => e.id = k.id && (entryRowOf k.kind e).isSome

/-- Stack of a row's own place in its store (R197); of a row without one in DRAM, stack 0 (DESIGN CHOICE, log 37). -/
def Dev.homeStack (d : Dev) (k : RowKey) : StackNo :=
  match d.leaf k.parcel with
  | none => 0
  | some l =>
    let seq := ((l.allEntries.find? fun e => e.id = k.id).map (·.seq)).getD 0
    (stackOf (d.rowCopyOf l k.kind k.id seq 0 homeCopy).stack).getD 0

/-- The row's store is TIER_PIN, so that its home copy is a place in DRAM. -/
def Dev.pinned (d : Dev) (k : RowKey) : Bool := ((d.leaf k.parcel).bind (·.cfg)).map (fun x => cfgTier x (kindNo k.kind)) = some .pin

/-- Places of the monument's copies are made and freed (R194, R196, R264). -/
def Dev.syncRow (d : Dev) (c : Clock) (k : RowKey) : Dev := d.syncLeaf c k.parcel

/-- The frames that a change of monuments needs can be had. -/
def Dev.monRoom (d : Dev) (k : RowKey) : Bool := match d.leaf k.parcel with | some l => d.roomFor (l.regions d) | none => true

/-! ### chain.monument_set (R194) -/

def Cmd.monStacks (cmd : Cmd) : List Nat := (List.range (cmd.f 0x46 1)).map fun i => cmd.f (0x50 + i) 1

/-- Copy 0's stack: that of the monument, or of the row's own place. -/
def Dev.copy0Stack (d : Dev) (k : RowKey) : Option Nat :=
  match (d.monument? k).bind fun m => m.copies.head? with
  | some x => some x.stack.val
  | none => if d.pinned k then some (d.homeStack k).val else none

/-- A stack out of service is refused like a stack number that does not exist (DESIGN CHOICE, log 35). -/
def chainMonumentSetBad (c : Clock) (d : Dev) (cmd : Cmd) : Bool :=
  let ss := cmd.monStacks
  let k := cmd.monRow
  !(inRange (cmd.f 0x46 1) 1 8) || k.kind = .embed || ss.any (fun s => 20 ≤ s || !(d.serves s)) || !(distinct ss) || !(d.rowHere c k) ||
    (match d.copy0Stack k with | some x => decide (ss.head? ≠ some x) | none => false)

/-- A copy that the list keeps is kept; one leaving that is still read comes back; one that is read no more, or a new one, is to be filled. -/
def keepCopy (old : List MonCopy) (station : Nat) (s : StackNo) : MonCopy :=
  match old.find? fun k => k.stack = s with
  | some k => { k with use := match k.use with | .leaving f => if station < f then .live else .filling | u => u }
  | none => ⟨s, .filling, 0, false⟩

/-- A copy that the list leaves out: one that was never read goes at once; another is read until the next station boundary and freed at the one after (R194). -/
def leaveCopy (station : Nat) (x : MonCopy) : Option MonCopy :=
  match x.use with
  | .live => some { x with use := .leaving (station + 1) }
  | .leaving f => some { x with use := .leaving f }
  | _ => none

/-- A row's first monument: copy 0 is the row's own place, or, of a store on flash, a copy to be filled. -/
def Dev.firstCopies (d : Dev) (k : RowKey) : List MonCopy := if d.pinned k then [⟨d.homeStack k, .live, 0, true⟩] else []

def Dev.putMonument (d : Dev) (m : Monument) : Dev :=
  { d with chain := { d.chain with monuments := d.chain.monuments.filter (fun x => x.row != m.row) ++ [m] } }

/-- Too many rows with more than one copy, a row that is being moved, or no room for a copy: ST_BUSY (R194; DESIGN CHOICE, log 35). -/
def chainMonumentSetRun (c : Clock) (d : Dev) (cmd : Cmd) : Dev :=
  let k := cmd.monRow
  let ss := cmd.monStacks.filterMap stackOf
  let many := (d.chain.monuments.filter fun m => 1 < m.copies.length && m.row != k).length
  let m := (d.monument? k).getD ⟨k, d.firstCopies k, none⟩
  let gone := (m.copies.filter fun x => !(ss.contains x.stack)).filterMap (leaveCopy (d.station c))
  let d1 := d.putMonument { m with copies := ss.map (keepCopy m.copies (d.station c)) ++ gone }
  if m.move.isSome || (1 < ss.length && Config.maxMonuments ≤ many) || !(d1.monRoom k) then d.refuse cmd.ref stBusy
  else (d1.syncRow c k).endCmd c cmd.ref stOk 0 0 []

def chainMonumentSet (k : Take) : Clock → Dev → Dev := runSlot 0x0502 allRows chainMonumentSetBad noAreas chainMonumentSetRun k

def execChainMonumentSet (k : Take) (s : State) : Host.Outcome State Fault Refusal :=
  happens (.chainMonumentSet k) k.t (·.onDev (chainMonumentSet k)) s

/-- What a station boundary does to the copies of a monument: filled ones may be read, removed ones are freed at the boundary after, while datum time is valid (R194, R367). -/
def Monument.boundary (m : Monument) (station : Nat) (valid : Bool) : Monument :=
  let live := m.copies.map fun x => if x.use = .ready && x.since < station then { x with use := .live } else x
  { m with copies := live.filter fun x => match x.use with | .leaving f => !(valid && f + 1 ≤ station) | _ => true }

/-- The frame of the row's own place is lost and cannot be rebuilt (R273, R277). -/
def Dev.homeLost (d : Dev) (m : Monument) : Bool :=
  match (d.leaf m.row.parcel).bind fun l => (l.allEntries.find? fun e => e.id = m.row.id).map fun e => d.copyByte l m.row.kind m.row.id e.seq 0 0 homeCopy with
  | some a => (match NMap.get? d.mem.regions a.1 with | some r => r.lost.contains (a.2 / 4096) | none => false)
  | none => false

/-- Copy 0 is lost: the lowest-numbered copy that survives becomes copy 0; a move of the lost copy is over (R196, R277). -/
def Monument.inherit (m : Monument) (homeLost : Bool) : Monument :=
  match m.copies with
  | k :: ks =>
    if (k.use = .gone || (k.home && homeLost)) && !ks.isEmpty then
      { m with copies := ks, move := (m.move.filter fun v => v.copy != 0).map fun v => { v with copy := v.copy - 1 } }
    else m
  | [] => m

/-- The row's own place may have been rebuilt on another stack (R274). -/
def Monument.follow (m : Monument) (home : StackNo) : Monument := { m with copies := m.copies.map fun k => if k.home then { k with stack := home } else k }

/-- The start of a station for one monument (R194, R277); places that are no longer needed are freed. -/
def Dev.monBoundary (d : Dev) (c : Clock) (m : Monument) : Dev :=
  let m1 := (((m.boundary (d.station c) c.valid).inherit (d.homeLost m)).follow (d.homeStack m.row))
  let d1 := (d.updMonument m.row fun _ => m1).syncRow c m.row
  match m.move with
  | some v => if m1.move.isNone then (d1.endCmd c v.ref stDeadline 0 0 []).count 37 0 1 else d1
  | none => d1

def Dev.monStation (d : Dev) (c : Clock) : Dev := d.chain.monuments.foldl (fun (x : Dev) m => x.monBoundary c m) d

/-! ### chain.monument_move (R196, R463) -/

def Dev.movedCopies (d : Dev) (k : RowKey) : List MonCopy := ((d.monument? k).map (·.copies)).getD (d.firstCopies k)

def chainMonumentMoveBad (c : Clock) (d : Dev) (cmd : Cmd) : Bool :=
  let k := cmd.monRow
  let cs := d.movedCopies k
  k.kind = .embed || !(d.rowHere c k) || cs.length ≤ cmd.f 0x50 1 || 20 ≤ cmd.f 0x51 1 || (cs.any fun x => x.stack.val = cmd.f 0x51 1) || cmd.f 0x58 8 < d.station c + 2

/-- A second move, a held stack (R463), and, the spec naming no status, a copy that is not read, a destination out of service or without room: ST_BUSY (DESIGN CHOICE, log 35). -/
def chainMonumentMoveRun (c : Clock) (d : Dev) (cmd : Cmd) : Dev :=
  let k := cmd.monRow
  let cs := d.movedCopies k
  match stackOf (cmd.f 0x51 1), cs[cmd.f 0x50 1]? with
  | some dest, some x =>
    let d1 := d.putMonument { (d.monument? k).getD ⟨k, cs, none⟩ with move := some ⟨cmd.f 0x50 1, dest, cmd.f 0x58 8, false, .dual, cmd.ref, x.home⟩ }
    let busy := (match d.monument? k with | some m => m.move.isSome | none => false) || d.heldBit 1 x.stack.val || d.heldBit 1 dest.val
    if busy || x.use != .live || !(d.serves dest.val) || !(d1.monRoom k) then d.refuse cmd.ref stBusy else d1.syncRow c k
  | _, _ => d

def chainMonumentMove (k : Take) : Clock → Dev → Dev := runSlot 0x0503 allRows chainMonumentMoveBad noAreas chainMonumentMoveRun k

def execChainMonumentMove (k : Take) (s : State) : Host.Outcome State Fault Refusal :=
  happens (.chainMonumentMove k) k.t (·.onDev (chainMonumentMove k)) s

/-- The fill of a copy ends: an added copy may be read from the next station boundary on, a moved one is ready to switch if station W has not begun (R194, R196). -/
def monumentFillComplete (row : RowKey) (copy : Nat) (c : Clock) (d : Dev) : Dev :=
  d.updMonument row fun m =>
    match m.copies[copy]? with
    | some x =>
      if x.use = .filling then { m with copies := m.copies.set copy { x with use := .ready, since := d.station c } }
      else { m with move := m.move.map fun v => if v.copy = copy && v.phase = .dual && d.station c < v.w then { v with filled := true } else v }
    | none => m

def execMonumentFillComplete (t : Nat) (row : RowKey) (copy : Nat) (s : State) : Host.Outcome State Fault Refusal :=
  happens (.monumentFillComplete t row copy) t (·.onDev (monumentFillComplete row copy)) s

/-- Abandons a move (R196). -/
def Dev.abandonMove (d : Dev) (c : Clock) (row : RowKey) (v : MonMove) : Dev :=
  (((d.updMonument row fun m => { m with move := none }).syncRow c row).endCmd c v.ref stDeadline 0 0 []).count 37 0 1

/-- Station W begins: the descriptor flips when the fill is complete and datum time valid; otherwise the move is abandoned (R196, R367). -/
def monumentSwitch (row : RowKey) (c : Clock) (d : Dev) : Dev :=
  match d.monument? row with
  | none => d
  | some m =>
    match m.move with
    | none => d
    | some v =>
      if v.phase = .flipped || d.station c < v.w then d
      else if !v.filled || !(d.holdsTime c) then d.abandonMove c row v
      else
        match m.copies[v.copy]? with
        | none => d.abandonMove c row v
        | some x =>
          (d.updMonument row fun m => { m with copies := m.copies.set v.copy { x with stack := v.dest, home := false }, move := some { v with dest := x.stack, phase := .flipped, home := x.home } }).count 36 0 1

def execMonumentSwitch (t : Nat) (row : RowKey) (s : State) : Host.Outcome State Fault Refusal :=
  happens (.monumentSwitch t row) t (·.onDev (monumentSwitch row)) s

/-- Station W + 1 has begun and datum time is valid: the source is freed and the command ends (R196, R367). -/
def monumentFree (row : RowKey) (c : Clock) (d : Dev) : Dev :=
  match (d.monument? row).bind (·.move) with
  | none => d
  | some v =>
    if v.phase = .flipped && v.w + 1 ≤ d.station c && c.valid then ((d.updMonument row fun m => { m with move := none }).syncRow c row).endCmd c v.ref stOk 0 0 []
    else d

def execMonumentFree (t : Nat) (row : RowKey) (s : State) : Host.Outcome State Fault Refusal :=
  happens (.monumentFree t row) t (·.onDev (monumentFree row)) s

/-! ### The hot-row cache (R197 to R199) -/

/-- A set entry of 16 bytes (R428). -/
def setEntry (bs : List Byte) : RowKey := ⟨fieldN bs 0 4, fieldN bs 4 1, (rowKindOf (fieldN bs 5 1)).getD .embed, fieldN bs 8 8⟩

def Dev.setEntries (d : Dev) (cmd : Cmd) : List (List Byte) := (List.range (cmd.f 0x50 4)).map fun i => d.partRead cmd.ref.port (cmd.f 0x48 8 + 16 * i) 16

def chainCacheLoadBad (_ : Clock) (d : Dev) (cmd : Cmd) : Bool :=
  64 < cmd.f 0x40 1 || !(inRange (cmd.f 0x44 4) 1 65536) || (d.setEntries cmd).any fun e => (rowKindOf (fieldN e 5 1)).isNone || fieldN e 6 2 != 0

def cacheLoadAreas (_ : Dev) (cmd : Cmd) : List (Nat × Nat) := [(cmd.f 0x48 8, 16 * cmd.f 0x50 4)]

/-- Sets size and period; the set becomes the pending one, and the command of a set it replaces ends ST_DEADLINE (DESIGN CHOICE, log 36). -/
def chainCacheLoadRun (c : Clock) (d : Dev) (cmd : Cmd) : Dev :=
  let keys := (d.setEntries cmd).map setEntry
  let d1 := match d.chain.cache.pend with | some p => d.endCmd c p.2 stDeadline 0 0 [] | none => d
  { d1 with chain := { d1.chain with cache := { d1.chain.cache with mib := cmd.f 0x40 1, refresh := cmd.f 0x44 4, pend := some (keys, cmd.ref) } } }

def chainCacheLoad (k : Take) : Clock → Dev → Dev := runSlot 0x0501 allRows chainCacheLoadBad cacheLoadAreas chainCacheLoadRun k

def execChainCacheLoad (k : Take) (s : State) : Host.Outcome State Fault Refusal :=
  happens (.chainCacheLoad k) k.t (·.onDev (chainCacheLoad k)) s

/-- Bytes a cached row takes, both slots and the header line of a replaceable store, and the die that owns its copy 0's stack, die 0 where the row has no copy in DRAM (DESIGN CHOICE); none for a row that is not on this node (R197, R199; log 37). -/
def Dev.cacheSize (d : Dev) (c : Clock) (k : RowKey) : Option (Nat × Nat) :=
  if k.kind = .embed then
    (d.mdl.models.find? fun m => m.id = k.parcel).bind fun m => (m.embed?).bind fun t =>
      if k.id < t.rows then some (t.rowLen, (((d.embedCopies m k.id).head?.map (·.stack)).getD 0) / 2) else none
  else if !(d.rowHere c k) then none
  else
    match (d.leaf k.parcel).bind fun l => (d.spaceOf l).bind fun s => l.cfg.map fun x => (s, x) with
    | some v =>
      let len := cfgRowLen v.2 v.1 (kindNo k.kind)
      some (if v.2.replaceable then 64 + 2 * len else len, ((d.copy0Stack k).getD 0) / 2)
    | none => none

/-- Loading a set: rows cached so far, bytes used by die, rows by die that did not fit. -/
structure CacheFill where
  rows : List CachedRow
  used : NMap Nat
  unfit : NMap Nat
  deriving DecidableEq, Repr

/-- One row of a set, in order: loaded when it fits. -/
def Dev.cacheRow (d : Dev) (c : Clock) (f : CacheFill) (k : RowKey) : CacheFill :=
  if f.rows.any fun x => x.row = k then f
  else
    match d.cacheSize c k with
    | none => f
    | some v =>
      if NMap.getD f.used v.2 0 + v.1 ≤ 1048576 * d.chain.cache.mib then
        { f with rows := f.rows ++ [⟨k, v.2, true⟩], used := NMap.put f.used v.2 (NMap.getD f.used v.2 0 + v.1) }
      else { f with unfit := NMap.put f.unfit v.2 (NMap.getD f.unfit v.2 0 + 1) }

/-- A refresh: at the start of every station whose number is a multiple of REFRESH, or that stands for one that never occurs (R142, R198). -/
def hotRowCacheRefresh (c : Clock) (d : Dev) : Dev :=
  let h := d.chain.cache
  if !(d.live) || occurring d.plat.gens (d.station c / h.refresh * h.refresh) != d.station c || h.last = some (d.station c) then d
  else
    let set := match h.pend with | some p => p.1 | none => h.set
    let valid := h.rows.filter fun x => x.valid && set.contains x.row && (match d.cacheSize c x.row with | some v => v.2 = x.die | none => false)
    let kept := (set.filter fun k => valid.any fun x => x.row = k).foldl (d.cacheRow c) ⟨[], [], []⟩
    let f := set.foldl (d.cacheRow c) { kept with unfit := [] }
    let n := natSum (f.unfit.map (·.2))
    let d1 := { d with chain := { d.chain with cache := { h with set := set, pend := none, rows := f.rows, last := some (d.station c) } } }
    match h.pend with
    | some p => (f.unfit.foldl (fun (x : Dev) e => x.count 40 e.1 e.2) d1).endCmd c p.2 stOk 0 n []
    | none => d1

def execHotRowCacheRefresh (t : Nat) (s : State) : Host.Outcome State Fault Refusal :=
  happens (.hotRowCacheRefresh t) t (·.onDev hotRowCacheRefresh) s

end Sys2Proof.Machine
end

