-- ==== Sys2Proof/Machine/Search.lean ====
section
/-! DEFINITION. The root of a search: search.batch, preparation, fan-out, attempts, certification, query ends (R4, R20 to R50, R84 to R94, R114 to R136, R140, R371, R382, R386 to R398, R429). -/

namespace Sys2Proof.Machine

/-! ### Parameters (R42 to R44, R122 to R124, R128) -/

/-- A query descriptor as read from the host's partition. -/
structure Desc where
  parcel : Nat
  k : Nat
  input : Nat
  modelId : Nat
  n : Nat
  widen : Bool
  copyRank : Option Nat
  kPrime : Nat
  np : Nat
  pMax : Nat
  nrr : Nat
  margin : Nat
  bytes : List Byte
  deriving DecidableEq, Repr

/-- Element bytes by INPUT. -/
def inputSize (v : Nat) : Nat := if v = 0 || v = 3 then 4 else 2

/-- DLEN of a descriptor (R429). -/
def descLen (bs : List Byte) : Nat := ceilDiv (0x200 + fieldN bs 0x0E 2 * inputSize (fieldN bs 0x0C 1)) 64 * 64

/-- Parameters after the derivations of the basic form (R42, R43, R122, R124). -/
def readDesc (expert : Bool) (bs : List Byte) : Desc :=
  let k := fieldN bs 8 4
  let fl := fieldN bs 0x10 2
  let nrr := if expert then fieldN bs 0x18 4 else min (2 * k) 65536
  let t := maxDepth k nrr
  let margin := if expert then fieldN bs 0x1C 4 else basicMargin t
  { parcel := fieldN bs 0 4, k := k, input := fieldN bs 0x0C 1, modelId := fieldN bs 0x0D 1, n := fieldN bs 0x0E 2,
    widen := expert && bitAt fl 0, copyRank := if expert && bitAt fl 1 then some (fieldN bs 0x12 1) else none,
    kPrime := if expert then fieldN bs 0x13 1 else if tierNo t = 1 then min 64 (t + margin) else 64, np := if expert then fieldN bs 0x14 2 else 0,
    pMax := fieldN bs 0x16 2, nrr := nrr, margin := margin, bytes := bs }

def Desc.t (q : Desc) : Nat := maxDepth q.k q.nrr

/-- Parameters out of range (R42, R44, R124, R128). -/
def Desc.paramBad (q : Desc) (expert : Bool) : Bool :=
  q.k = 0 || (q.nrr != 0 && q.nrr < q.k) || q.nrr > 65536 || q.margin > 65536 ||
    (expert && (!(inRange q.np 1 4096) || !(inRange q.kPrime 1 64) || (q.widen && !(inRange q.pMax q.np 4096)))) ||
    (tierNo q.t ≥ 2 && q.kPrime != 64) || (tierNo q.t ≤ 2 && 1088 < q.t + q.margin)

/-- Reserved and padding bytes of a descriptor (R15, R429). -/
def Desc.reservedBad (q : Desc) : Bool :=
  fieldN q.bytes 0x10 2 ≥ 4 || !(allZero ((q.bytes.drop 0x20).take 0x20)) || !(allZero ((q.bytes.drop 0x1D0).take 0x30)) ||
    !(allZero (q.bytes.drop (0x200 + q.n * inputSize q.input)))

/-- The vector's elements as fp32 words. -/
def Desc.vec (q : Desc) : List Nat :=
  let f : Fmt := if q.input = 0 then .fp32 else if q.input = 1 then .fp16 else .bf16
  (List.range q.n).map fun i => (inElem f (fieldN q.bytes (0x200 + inputSize q.input * i) (inputSize q.input)))
where
  inElem (f : Fmt) (w : Nat) : Nat := match f with | .fp16 => h2f w | .bf16 => b2f w | _ => w

def Desc.tokens (q : Desc) : List Nat := (List.range q.n).map fun i => fieldN q.bytes (0x200 + 4 * i) 4

/-- An element that R84 refuses. -/
def queryElemBad (w : Nat) : Bool := f32.isNaN w || f32.isInf w || tooBig w

/-- Token IDs that R218 refuses of a model. -/
def Model.tokensBad (m : Model) (ts : List Nat) : Bool :=
  m.inLen < ts.length || ts.all (fun k => k = padToken) || ts.any fun k => k != padToken && ((m.embed?).map Tensor.rows).getD 0 ≤ k

/-- A loaded model by its MODEL_ID. -/
def Dev.modelId? (d : Dev) (id : Nat) : Option Model := d.mdl.models.find? fun m => m.id = id

/-- Descriptors lie back to back; none when the walk leaves DESC_LEN (R429). -/
def Dev.descs (d : Dev) (cmd : Cmd) : Nat → Nat → Option (List Desc)
  | 0, off => if off = cmd.f 0x50 8 then some [] else none
  | n + 1, off =>
    if cmd.f 0x50 8 < off + 0x200 then none
    else
      let head := d.partRead cmd.ref.port (cmd.f 0x48 8 + off) 0x200
      let len := descLen head
      if fieldN head 4 4 != len || cmd.f 0x50 8 < off + len then none
      else
        match d.descs cmd n (off + len) with
        | none => none
        | some qs => some (readDesc cmd.expert (d.partRead cmd.ref.port (cmd.f 0x48 8 + off) len) :: qs)

def Dev.batch (d : Dev) (cmd : Cmd) : List Desc := (d.descs cmd (cmd.f 0x40 2) 0).getD []

/-- Offsets of the records and their total (R133). -/
def recLen (k : Nat) : Nat := ceilDiv (64 + 8 * k) 64 * 64
def recOffsets (qs : List Desc) : List Nat := (List.range qs.length).map fun i => natSum ((qs.take i).map fun q => recLen q.k)

/-- Search space of a target, as its generation describes it (R20, R94). -/
def Dev.targetSpace (d : Dev) (g : PlatGen) (parcel : Nat) : Option Space :=
  ((resolved g parcel).head?).bind fun p => (g.leaf p).bind fun l => d.spaceIn g l.space

/-- What R28's first row and R429 say of one query by itself, whatever generation is known (R15, R42, R84, R110, R124, R128, R218). -/
def Dev.descFormBad (d : Dev) (expert : Bool) (q : Desc) : Bool :=
  q.paramBad expert || q.reservedBad || filterBad ((q.bytes.drop 0x40).take 400) || q.input > 3 ||
    (if q.input = 3 then !(inRange q.n 1 512) || (match d.modelId? q.modelId with | none => true | some m => !m.tokens || m.tokensBad q.tokens)
     else q.modelId != 0xFF || q.vec.any queryElemBad)

/-- What they say of it against the generation in force; a space without a codebook here is looked at once it has been fetched. -/
def Dev.descPlatBad (d : Dev) (g : PlatGen) (q : Desc) : Bool :=
  let ls := resolved g q.parcel
  ls.isEmpty ||
    (match q.copyRank with | none => false | some r => decide ((ls.map fun p => (((g.leaf p).map (·.copies)).getD []).length).foldl max 0 ≤ r)) ||
    (match d.targetSpace g q.parcel with
     | none => false
     | some s => if q.input = 3 then (match d.modelId? q.modelId with | none => true | some m => m.outLen != s.inWidth) else q.n != s.inWidth)

def searchBatchBad (c : Clock) (d : Dev) (cmd : Cmd) : Bool :=
  let n := cmd.f 0x40 2
  let qs := d.batch cmd
  !(inRange n 1 Config.maxBatch) || cmd.f 0x48 8 % 64 != 0 || cmd.resultAddr % 64 != 0 || d.deadlineFar c cmd || qs.length != n ||
    cmd.resultLen < natSum (qs.map fun q => recLen q.k) || natSum (qs.map (·.k)) ≥ 2 ^ 32 || qs.any (d.descFormBad cmd.expert) ||
    (match d.genNow c with | none => false | some g => qs.any (d.descPlatBad g))

def searchAreas (_ : Dev) (cmd : Cmd) : List (Nat × Nat) := [(cmd.f 0x48 8, cmd.f 0x50 8)]

/-! ### Queries as the root keeps them -/

def Dev.query? (d : Dev) (ctx : Nat) : Option Query := NMap.get? d.root.queries ctx

def Dev.updQuery (d : Dev) (ctx : Nat) (f : Query → Query) : Dev := { d with root := { d.root with queries := NMap.upd d.root.queries ctx f } }

/-- Attempts are all in: the context is released once the final status is written (R32). -/
def Query.attemptsIn (q : Query) : Bool := q.frags.all fun f => f.attempts.all fun a => a.state != .running

/-- Contexts that nothing needs any more. -/
def Dev.sweepQueries (d : Dev) : Dev :=
  { d with root := { d.root with queries := d.root.queries.filter fun e => !(e.2.done && e.2.attemptsIn && (d.cmd? e.2.ref).isNone) } }

/-- The attempt whose list the root has in full. -/
def QFrag.returned (f : QFrag) : Option Attempt := f.attempts.find? fun a => a.state = .returned

def QFrag.horizon (f : QFrag) : Option KeyId := f.returned.bind (·.horizon)

/-- Completed: returned without a horizon (R121). -/
def QFrag.complete (f : QFrag) : Bool := f.returned.isSome && f.horizon.isNone

def QFrag.updAttempt (f : QFrag) (no : Nat) (g : Attempt → Attempt) : QFrag := { f with attempts := updIf (fun a => a.no = no) g f.attempts }

def Query.updFrag (q : Query) (parcel : Nat) (g : QFrag → QFrag) : Query := { q with frags := updIf (fun f => f.parcel = parcel) g q.frags }

/-! ### Certification (R38, R114, R117, R121, R129, R132) -/

/-- Drops every entry whose ID has occurred. -/
def dedupIds : List KeyId → List KeyId → List KeyId
  | [], out => out
  | e :: es, out => dedupIds es (if out.any fun x => x.id = e.id then out else out ++ [e])

/-- Entries of all fragments in R103 order, each ID once. -/
def Query.merged (q : Query) : List KeyId := dedupIds (sortBy (fun a b => !(b.before a)) (q.frags.map (·.taken)).flatten) []

/-- The earliest horizon of a returned list. -/
def Query.bound (q : Query) : Option KeyId := q.frags.foldl (fun h f => earlier h f.horizon) none

/-- Every fragment has completed or delivered an entry that orders after e; a horizon stands for one delivered there. -/
def Query.certifies (q : Query) (e : KeyId) : Bool :=
  q.frags.all fun f =>
    f.complete || (match f.horizon with
      | some h => !(h.before e)
      | none => f.returned.isNone && (match f.taken.getLast? with | some x => e.before x | none => false))

def Query.certified (q : Query) : List KeyId := q.merged.takeWhile q.certifies

/-- QFLAGS.HORIZON (R129). -/
def Query.atHorizon (q : Query) (count : Nat) : Bool :=
  decide (count < q.k) && (match q.bound with | none => false | some h => (q.merged.filter fun e => !(h.before e)).all q.certifies)

def Query.tie (q : Query) (count : Nat) : Bool :=
  let cs := q.certified
  decide (count = q.k) && decide (0 < q.k) && (match cs[q.k - 1]?, cs[q.k]? with | some a, some b => keyOrder a.key = keyOrder b.key | _, _ => false)

/-- Attempts that reported N_rej, probes and widening, with a whole list or with part of one (R129, R131, R134). -/
def Query.reports (q : Query) : List Attempt := (q.frags.map (·.attempts)).flatten

/-- Status of a query whose fragments have all returned or been lost (R129, R396). -/
def Query.mergeStatus (q : Query) (count : Nat) : Nat :=
  if q.frags.any (·.lost) then stShort
  else if q.k ≤ count then stOk
  else if q.bound.isSome then stShort
  else if q.reports.any fun a => decide (0 < a.nRej) then stFilterShort
  else stShort

/-! ### The result area (R133 to R135) -/

/-- The fixed fields of a header, from 0x04 on (R134, R135). -/
def Query.header (q : Query) : List Byte :=
  leBytes 2 stRunning ++ leBytes 2 0 ++ leBytes 2 q.index ++ leBytes 2 0 ++ leBytes 4 0 ++ leBytes 2 0 ++ leBytes 2 0 ++ leBytes 4 q.k ++
    leBytes 4 q.frags.length ++ leBytes 8 q.bench ++ leBytes 8 q.gen ++ leBytes 4 0 ++ leBytes 20 0

def Dev.putQuery (d : Dev) (q : Query) (off : Nat) (bs : List Byte) : Dev :=
  match d.cmd? q.ref with
  | none => d
  | some cmd => d.result cmd (q.addr + off) bs

/-- Newly certified entries, then COUNT and FRAGS_DONE. -/
def Dev.writeQuery (d : Dev) (ctx : Nat) (q : Query) : Dev :=
  let ids := (q.certified.take q.k).map (·.id)
  let n := max q.count ids.length
  let d1 := d.putQuery q (64 + 8 * q.count) (((ids.drop q.count).map (leBytes 8)).flatten)
  let d2 := (d1.putQuery q 0x08 (leBytes 4 n)).putQuery q 0x28 (leBytes 4 (q.frags.filter fun f => f.returned.isSome).length)
  d2.updQuery ctx fun x => { x with count := n }

/-! ### The batch (R41, R50) -/

def Dev.batchOf (d : Dev) (r : Ref) : List Query := sortBy (fun (a b : Query) => a.index ≤ b.index) ((d.root.queries.filter fun e => e.2.ref = r).map (·.2))

def qTie : BitVec 16 := 2
def qDegraded : BitVec 16 := 4

/-- The slot words of the batch; DONE once every query is done. -/
def Dev.batchStep (d : Dev) (c : Clock) (r : Ref) : Dev :=
  let qs := d.batchOf r
  let count := natSum (qs.map (·.count))
  let tie := qs.any fun q => q.qflags &&& qTie != 0
  let deg := qs.any fun q => q.qflags &&& qDegraded != 0
  if qs.all (·.done) then
    (d.endCmd c r (((qs.find? fun q => q.status != stOk).map (·.status)).getD stOk) (rflags tie false deg true) count []).sweepQueries
  else
    let done := natSum (qs.map fun q => (q.frags.filter QFrag.complete).length)
    d.report r stRunning (progressOf done (natSum (qs.map fun q => q.frags.length))) count (0 < count) deg tie

def qFlagsOf (tie deg hz wide filt : Bool) : Nat := 1 + 2 * boolNat tie + 4 * boolNat deg + 8 * boolNat hz + 16 * boolNat wide + 32 * boolNat filt

/-- Ends a query: entries, padding, PROBES and COUNT, then STATUS and QFLAGS with DONE (R129, R130, R135). -/
def Dev.queryEnd (d : Dev) (c : Clock) (ctx status : Nat) : Dev :=
  match (d.query? ctx).filter fun q => !q.done with
  | none => d
  | some q0 =>
    let d1 := d.writeQuery ctx q0
    let q := (d1.query? ctx).getD q0
    let rs := q.reports
    let hz := q.atHorizon q.count
    let fl := qFlagsOf (q.tie q.count) (q.frags.any (·.lost)) hz (rs.any (·.widened)) (rs.any fun a => 0 < a.nRej)
    let d2 := d1.putQuery q (64 + 8 * q.count) ((List.replicate (q.k - q.count) (leBytes 8 Config.noItem)).flatten)
    let d3 := (d2.putQuery q 0x0C (leBytes 2 ((rs.map (·.probes)).foldl max 0))).putQuery q 0x08 (leBytes 4 q.count)
    let d4 := d3.putQuery q 0 (leBytes 2 status ++ leBytes 2 fl ++ leBytes 2 q.index ++ leBytes 2 0)
    let d5 := d4.updQuery ctx fun x => { x with done := true, status := status, qflags := BitVec.ofNat 16 fl }
    let d6 := ((d5.count 16 0 (boolNat (status = stShort))).count 17 0 (boolNat hz)).count 18 0 (boolNat (status = stFilterShort))
    (d6.batchStep c q.ref).sweepQueries

/-- A query that fails after admission: no fragment is sent, count 0 (R85, R134). -/
def Dev.queryFail (d : Dev) (c : Clock) (ctx : Nat) : Dev :=
  let d1 := d.updQuery ctx fun q => { q with frags := [] }
  match d1.query? ctx with
  | none => d1
  | some q => (d1.putQuery q 0x14 (leBytes 4 0)).queryEnd c ctx stBadCmd

/-- What has arrived is certified, written and reported; the query ends when every fragment has returned or is lost (R38, R39, R396). -/
def Dev.queryStep (d : Dev) (c : Clock) (ctx : Nat) : Dev :=
  match (d.query? ctx).filter fun q => !q.done with
  | none => d
  | some q =>
    let d1 := d.writeQuery ctx q
    let q1 := (d1.query? ctx).getD q
    if q1.frags.all fun f => f.returned.isSome || f.lost then d1.queryEnd c ctx (q1.mergeStatus q1.count) else d1.batchStep c q.ref

/-! ### Attempts (R26, R27, R393 to R395) -/

/-- A new attempt of a fragment at a node. -/
def QFrag.send (f : QFrag) (g : PlatGen) (node now : Nat) : QFrag × Frag :=
  let no := f.attempts.length
  let rank := ((g.leaf f.parcel).bind fun l => l.rankOf node).getD 0
  let fr := { f.frag with key := { f.frag.key with attempt := no }, rank := rank, fwd := false, gen := g.gen }
  ({ f with frag := fr, attempts := f.attempts ++ [⟨no, node, g.gen, now, [], none, false, .running, false, 0, 0, false⟩] }, fr)

/-- Sends every fragment of a query: one bundle to each node (R25, R27). -/
def Dev.fanOut (d : Dev) (c : Clock) (ctx : Nat) : Dev :=
  match d.query? ctx with
  | none => d
  | some q =>
    match d.genNo q.gen with
    | none => d
    | some g =>
      if q.deadline ≤ c.now then d
      else
        let made := q.frags.map fun f => match d.firstCopy g f.parcel q.bench q.copyRank with
          | some n => let s := f.send g n c.now; (s.1, some (n, s.2))
          | none => ({ f with lost := true }, none)
        let out := made.filterMap (·.2)
        let d1 := (d.updQuery ctx fun x => { x with frags := made.map (·.1) }).count 107 0 (made.filter fun m => m.2.isNone).length
        let nodes := sortBy (fun (a b : Nat) => a ≤ b) ((out.map (·.1)).dedup)
        let d2 := nodes.foldl (fun (x : Dev) n => x.send clsQuery n (.fragments ((out.filter fun m => m.1 = n).map (·.2)))) d1
        d2.queryStep c ctx

/-- Starts another attempt where R394 allows one; without one in progress the fragment is lost (R393, R394, R396). -/
def Dev.reissue (d : Dev) (c : Clock) (ctx parcel : Nat) : Dev :=
  match (d.query? ctx).filter fun q => !q.done && decide (c.now < q.deadline) with
  | none => d
  | some q =>
    match q.frags.find? fun f => f.parcel = parcel && f.returned.isNone && f.want.isNone with
    | none => d
    | some f =>
      match d.genNo f.frag.gen with
      | none => d
      | some g =>
        let busy := (f.attempts.filter fun a => a.state = .running).map (·.node)
        match d.nextCopy g parcel (f.attempts.map (·.node)) busy with
        | some n =>
          let s := f.send g n c.now
          ((d.updQuery ctx fun x => x.updFrag parcel fun _ => s.1).send clsQuery n (.fragments [s.2])).count 105 0 1
        | none => if busy.isEmpty then (d.updQuery ctx fun x => x.updFrag parcel fun y => { y with lost := true }).count 107 0 1 else d

/-- Which attempt is followed and what is taken from it (R121, R395). -/
def QFrag.followed (f : QFrag) : QFrag :=
  let last := f.taken.getLast?
  let after := fun (e : KeyId) => match last with | some x => x.before e | none => true
  let alive := f.attempts.filter fun a => a.state != .failed
  let cur := f.attempts.find? fun a => a.no = f.follow
  let change := (match cur with | none => true | some a => decide (a.state = .failed)) ||
    alive.any fun a => a.no != f.follow && (match a.items.getLast? with | some e => after e | none => false)
  let pick := leastBy (fun (a b : Attempt) => decide (b.items.length < a.items.length) || (a.items.length = b.items.length && decide (a.no ≤ b.no))) alive
  match (if change then pick else cur) with
  | none => f
  | some a => { f with follow := a.no, taken := f.taken ++ a.items.filter after }

/-- The running attempt that a key names here. -/
def Dev.attempt? (d : Dev) (k : FragKey) : Option (Query × QFrag × Attempt) :=
  if k.root != d.plat.nodeId then none
  else (d.query? k.ctx).bind fun q => (q.frags.find? fun f => f.parcel = k.parcel).bind fun f =>
    (f.attempts.find? fun a => a.no = k.attempt && a.state = .running).map fun a => (q, f, a)

/-- DEADLINE has come (R39, R396). -/
def Dev.pastDeadline (d : Dev) (c : Clock) (ctx : Nat) : Dev :=
  match (d.query? ctx).filter fun q => !q.done && decide (q.deadline ≤ c.now) with
  | none => d
  | some q =>
    let d1 := { d with mdl := { d.mdl with runs := d.mdl.runs.filter fun r => r.ctx != some ctx } }
    d1.queryEnd c ctx (if q.frags.any (·.lost) then stShort else stDeadline)

/-- A list, or part of one, from a leaf. -/
def fragmentResult (r : FragRes) (c : Clock) (d : Dev) : Dev :=
  let d0 := d.pastDeadline c r.key.ctx
  match d0.attempt? r.key with
  | none => d0
  | some (q, _, a) =>
    let a1 := { a with items := a.items ++ r.items, nRej := r.nRej, probes := r.probes, widened := r.widened,
                       horizon := if r.complete then r.horizon else none, complete := r.complete, state := if r.complete then .returned else .running }
    let d1 := d0.updQuery r.key.ctx fun x => x.updFrag r.key.parcel fun f => f.updAttempt a.no fun _ => a1
    if q.done then d1.sweepQueries
    else (d1.updQuery r.key.ctx fun x => x.updFrag r.key.parcel QFrag.followed).queryStep c r.key.ctx

def execFragmentResult (t : Nat) (r : FragRes) (s : State) : Host.Outcome State Fault Refusal :=
  happens (.fragmentResult t r) t (·.onDev (fragmentResult r)) s

/-- An attempt ends without its list. -/
def Dev.attemptFails (d : Dev) (c : Clock) (k : FragKey) (st : AttState) (again : Bool) : Dev :=
  match d.attempt? k with
  | none => d
  | some (q, _, a) =>
    let d1 := d.updQuery k.ctx fun x => x.updFrag k.parcel fun f => f.updAttempt a.no fun b => { b with state := st }
    if q.done then d1.sweepQueries
    else
      let d2 := d1.updQuery k.ctx fun x => x.updFrag k.parcel QFrag.followed
      (if again then d2.reissue c k.ctx k.parcel else d2).queryStep c k.ctx

/-- An answer of failure raises the node's lateness count; an expired one does not, and starts no attempt (R140, R393, R398). -/
def fragmentFailedAnswer (k : FragKey) (expired : Bool) (c : Clock) (d : Dev) : Dev :=
  let d0 := d.pastDeadline c k.ctx
  match d0.attempt? k with
  | none => d0
  | some (_, _, a) => if expired then d0.attemptFails c k .expired false else (d0.late a.node).attemptFails c k .failed true

def execFragmentFailedAnswer (t : Nat) (key : FragKey) (expired : Bool) (s : State) : Host.Outcome State Fault Refusal :=
  happens (.fragmentFailedAnswer t key expired) t (·.onDev (fragmentFailedAnswer key expired)) s

/-- ST_STALE_PLAT: a new attempt in the generation in force at the benchmark, once it is held (R382). -/
def stalePlatAnswer (k : FragKey) (a : StaleAns) (c : Clock) (d : Dev) : Dev :=
  let d0 := d.pastDeadline c k.ctx
  match d0.attempt? k with
  | none => d0
  | some _ =>
    let d1 := d0.updQuery k.ctx fun x => x.updFrag k.parcel fun f =>
      { f with frag := { f.frag with gen := if a.case1 then a.gen else f.frag.gen }, want := if (d0.genNo a.gen).isNone then some a.gen else none }
    let d2 := d1.attemptFails c k .failed true
    if (d0.genNo a.gen).isNone then d2.wantGen a.gen else d2

def execStalePlatAnswer (t : Nat) (key : FragKey) (a : StaleAns) (s : State) : Host.Outcome State Fault Refusal :=
  happens (.stalePlatAnswer t key a) t (·.onDev (stalePlatAnswer key a)) s

/-- Fragments that waited for a generation are sent again. -/
def Dev.resendWanted (d : Dev) (c : Clock) (gen : Nat) : Dev :=
  d.root.queries.foldl (fun (x : Dev) e =>
    (e.2.frags.filter fun f => f.want = some gen).foldl (fun (y : Dev) f =>
      ((y.updQuery e.1 fun q => q.updFrag f.parcel fun z => { z with want := none }).reissue c e.1 f.parcel).queryStep c e.1) x) d

/-- An attempt reaches T_late (R393, R398). -/
def Dev.fragLate (d : Dev) (c : Clock) (k : FragKey) : Dev :=
  match d.attempt? k with
  | none => d
  | some (q, f, a) =>
    if a.late || c.now < d.tLate a.sentAt q.deadline then d
    else
      let d1 := ((d.updQuery k.ctx fun x => x.updFrag k.parcel fun y => y.updAttempt a.no fun b => { b with late := true }).late a.node).count 106 0 1
      if a.no + 1 = f.attempts.length && !q.done && f.returned.isNone then (d1.reissue c k.ctx k.parcel).queryStep c k.ctx else d1

/-- The end of a query's life (R39, R140). -/
def queryDeadline (ctx : Nat) (c : Clock) (d : Dev) : Dev := d.pastDeadline c ctx

def execQueryDeadline (t : Nat) (ctx : Nat) (s : State) : Host.Outcome State Fault Refusal :=
  happens (.queryDeadline t ctx) t (·.onDev (queryDeadline ctx)) s

/-- Every lateness count halves at the start of a station that is a multiple of 16, or that stands for one that never occurs (R142, R398). -/
def latenessHalving (c : Clock) (d : Dev) : Dev :=
  let st := d.station c
  if d.timeRuns && occurring d.plat.gens (st / 16 * 16) = st && d.root.halved != st then
    { d with root := { d.root with lateness := d.root.lateness.map fun e => (e.1, e.2 / 2), halved := st } }
  else d

def execLatenessHalving (t : Nat) (s : State) : Host.Outcome State Fault Refusal :=
  happens (.latenessHalving t) t (·.onDev latenessHalving) s

/-! ### search.batch (R28 to R34, R84, R85, R371, R440) -/

/-- The generation in force at the benchmark is known (R371): the newest beacon names no newer one that has started. -/
def Dev.knowsGen (d : Dev) (st : Nat) : Bool :=
  (genAt d.plat.gens st).isSome &&
    (match d.plat.beacon with | some b => decide (st < b.newestFrom) || (d.genNo b.newestGen).isSome | none => true)

/-- Policer charge of one query (R440). -/
def Dev.queryCharge (d : Dev) (g : PlatGen) (q : Desc) : Nat :=
  natSum ((resolved g q.parcel).map fun p => if q.np = 0 then NMap.getD d.adm.np p 1 else q.np) + (if q.input = 3 then 64 else 0)

/-- Tables, scale tensor and fp16 vector of a query, or none where R85 fails it. -/
def buildQuery (s : Space) (x : Vec16) : Option (List Byte × List Byte × Vec16) :=
  if !(allFin x) then none
  else (prepare s x).map fun p => let t := queryTables s p.1 p.2; (t.1, t.2, p.1)

/-- The fragment of a leaf before the query's tables are known. -/
def Dev.fragOf (d : Dev) (c : Clock) (g : PlatGen) (ctx deadline : Nat) (q : Desc) (parcel : Nat) : QFrag :=
  let fr : Frag :=
    { key := ⟨d.plat.nodeId, ctx, parcel, 0⟩, rank := 0, fwd := false, bench := d.station c, gen := g.gen, deadline := deadline, tables := [],
      scale := [], q := [], filter := readFilter ((q.bytes.drop 0x40).take 400), kPrime := q.kPrime, leafDepth := q.k + q.margin, margin := q.margin, np := q.np,
      nrr := q.nrr, widen := q.widen, pMax := q.pMax }
  ⟨parcel, fr, [], 0, [], none, false⟩

/-- The query's vector is known: tables go into its fragments, which are sent, or the query fails (R85). -/
def Dev.haveVector (d : Dev) (c : Clock) (ctx : Nat) (x : Vec16) : Dev :=
  match (d.query? ctx).filter fun q => !q.done with
  | none => d
  | some q =>
    match ((d.genNo q.gen).bind fun g => d.targetSpace g q.target).bind fun s => buildQuery s x with
    | none => d.queryFail c ctx
    | some b =>
      let put := fun (f : QFrag) => { f with frag := { f.frag with tables := b.1, scale := b.2.1, q := b.2.2.map (BitVec.ofNat 16) } }
      (d.updQuery ctx fun y => { y with frags := y.frags.map put }).fanOut c ctx

/-- Every GEN_TAG of an image matches a resident table (R234). -/
def Dev.tagsOk (d : Dev) (m : Model) : Bool :=
  (List.range 16).all fun g => !(bitAt m.genMask g) || (match NMap.get? d.mdl.gens g with | some t => t.tag = nthD m.genTags g 0 | none => false)

/-- Generations that a run of a model must wait for (R234). -/
def Dev.tagsPending (d : Dev) (m : Model) : List Nat :=
  (List.range 16).filter fun g => bitAt m.genMask g && (match NMap.get? d.mdl.gens g with | some t => t.pend.isSome | none => false)

/-- Queues a run of a model, waiting where an operation on one of its generations is pending. -/
def Dev.addRun (d : Dev) (m : Model) (r : Run) : Dev :=
  let w := d.tagsPending m
  { d.count 51 0 (boolNat !w.isEmpty) with mdl := { d.mdl with runs := d.mdl.runs ++ [{ r with uid := m.uid, tgWait := w }] } }

/-- Starts one query of an admitted batch. -/
def Dev.startQuery (d : Dev) (c : Clock) (ctx : Nat) (q : Desc) : Dev :=
  if q.input = 3 then
    match d.modelId? q.modelId with
    | none => d.queryFail c ctx
    | some m =>
      if (d.tagsPending m).isEmpty && !(d.tagsOk m) then d.queryFail c ctx
      else d.addRun m ⟨m.uid, none, some ctx, [q.tokens.map (BitVec.ofNat 32)], [], 0⟩
  else d.haveVector c ctx (q.vec.map f2h)

/-- The contexts of a batch, in order, with their headers (R30, R135). -/
def Dev.makeQueries (d : Dev) (c : Clock) (cmd : Cmd) (g : PlatGen) (deadline : Nat) : List (Desc × Nat) → Nat → Dev
  | [], _ => d
  | e :: es, i =>
    let ctx := d.root.nextCtx
    let q : Query :=
      { ref := cmd.ref, index := i, bench := d.station c, gen := g.gen, deadline := deadline, admitted := c.now, target := e.1.parcel, k := e.1.k,
        nrr := e.1.nrr, addr := e.2, count := 0, copyRank := e.1.copyRank, model := if e.1.input = 3 then some e.1.modelId else none,
        frags := (resolved g e.1.parcel).map (d.fragOf c g ctx deadline e.1), done := false, status := 0, qflags := 0, abandoned := false }
    let d1 := { d with root := { d.root with queries := NMap.put d.root.queries ctx q, nextCtx := ctx + 1 } }
    (d1.putQuery q 0 q.header).makeQueries c cmd g deadline es (i + 1)

/-- Admission, or the wait of R371, during which nothing is reported: ST_RUNNING follows the headers (R135). -/
def searchAdmit (c : Clock) (d : Dev) (cmd : Cmd) : Dev :=
  if d.pwr.ps != 0 || vgetD d.pwr.hold 0 0 != 0 then d.refuse cmd.ref stBusy
  else
    let qs := d.batch cmd
    let miss := match d.genNow c with
      | none => false
      | some g => !(d.knowsGen (d.station c)) || qs.any fun q => (d.targetSpace g q.parcel).isNone
    if miss && d.holdsTime c then ({ d with root := { d.root with waiting := d.root.waiting ++ [cmd.ref] } }).count 101 0 1
    else
      let charge := match d.genNow c with | some g => natSum (qs.map (d.queryCharge g)) | none => 0
      match d.gate c cmd charge qs.length (cmd.deadline != 0 && cmd.deadline ≤ c.now), d.genNow c with
      | .inl st, _ => d.notAdmitted cmd st
      | .inr _, none => d.refuse cmd.ref stNoTime
      | .inr d1, some g =>
        let first := d1.root.nextCtx
        let d2 := (d1.makeQueries c cmd g (d1.deadlineOf c cmd) (qs.zip (recOffsets qs)) 0).showRunning cmd.ref
        (qs.zipIdx).foldl (fun (x : Dev) e => x.startQuery c (first + e.2) e.1) d2

def searchBatch (k : Take) : Clock → Dev → Dev := runSlot 0x0300 allRows searchBatchBad searchAreas searchAdmit k

def execSearchBatch (k : Take) (s : State) : Host.Outcome State Fault Refusal :=
  happens (.searchBatch k) k.t (·.onDev (searchBatch k)) s

/-- Searches that waited are looked at again (R371). -/
def Dev.retrySearches (d : Dev) (c : Clock) : Dev :=
  d.root.waiting.foldl (fun (x : Dev) r =>
    match x.cmd? r with
    | none => x
    | some cmd => if searchBatchBad c x cmd then x.refuse r stBadCmd else searchAdmit c x cmd) { d with root := { d.root with waiting := [] } }

end Sys2Proof.Machine
end

