-- ==== Sys2Proof/Machine/Models.lean ====
section
/-! DEFINITION. Loading models, decode-table generations, runs, waves and weight windows (R207, R215 to R223, R229 to R235, R405), and T_late (R393). -/

namespace Sys2Proof.Machine

/-! ### Loading (R214 to R217, R220, R222, R284, R320, R339) -/

/-- A decode table as a block being loaded may use it: resident, with its tag (R230). -/
def Dev.tables (d : Dev) (g : Nat) : Option (Nat × List Byte) := (NMap.get? d.mdl.gens g).map fun t => (t.tag, t.table)

/-- The image of a load: the bytes at IMAGE_ADDR, or what HOLDER holds under the same MODEL_ID (R215; log 40). -/
def Dev.imageOf (d : Dev) (cmd : Cmd) (held : Option (List Byte)) : Option (List Byte) :=
  let h := if cmd.expert then cmd.f 0x46 2 else 0xFFFF
  if h = 0xFFFF || h = d.plat.nodeId then some (d.partRead cmd.ref.port (cmd.f 0x48 8) (cmd.f 0x50 8)) else held

/-- The model a load makes, with its parameters. -/
def Dev.newModel (d : Dev) (cmd : Cmd) (held : Option (List Byte)) : Option Model :=
  ((d.imageOf cmd held).bind (modelOf d.tables)).bind fun m =>
    match tierOf (cmd.e 0x41 1), tierOf (if cmd.expert then cmd.f 0x42 1 else 0) with
    | some t, some e =>
      some { m with id := cmd.f 0x40 1, uid := d.mdl.nextUid, tier := t, embedTier := e, windowMib := if cmd.expert then cmd.f 0x43 1 else 32,
                    arrays := if cmd.expert then cmd.f 0x44 2 else 128,
                    holder := if cmd.expert && cmd.f 0x46 2 != d.plat.nodeId then cmd.f 0x46 2 else 0xFFFF }
    | _, _ => none

def Model.embedLen (m : Model) : Nat := ((m.embed?).map (·.len)).getD 0

def modelLoadBad (held : Option (List Byte)) (_ : Clock) (d : Dev) (cmd : Cmd) : Bool :=
  cmd.f 0x40 1 > 63 ||
    (if cmd.f 0x50 8 = 0 then false
     else
       (cmd.expert && (cmd.f 0x43 1 % 8 != 0 || !(inRange (cmd.f 0x43 1) 8 96) || cmd.f 0x44 2 % 8 != 0 || !(inRange (cmd.f 0x44 2) 8 1024))) ||
         (match d.newModel cmd held with
          | none => true
          | some m => cmd.f 0x48 8 % 64 != 0 && decide (m.holder = 0xFFFF) || m.shareBad ||
              (d.flash.noFlash && (m.tier != .pin || m.embedTier != .pin))))

def modelLoadAreas (d : Dev) (cmd : Cmd) : List (Nat × Nat) :=
  let h := if cmd.expert then cmd.f 0x46 2 else 0xFFFF
  if cmd.f 0x50 8 = 0 || !(h = 0xFFFF || h = d.plat.nodeId) then [] else [(cmd.f 0x48 8, cmd.f 0x50 8)]

/-- A run of a model exists. -/
def Models.hasRuns (x : Models) (uid : Nat) : Bool := (x.runs.any fun r => r.uid = uid) || x.waves.any fun w => w.uid = uid

/-- MiB of windows on each die: loaded and loading models, and replaced ones with runs (R217, R220). A load of the same MODEL_ID that is replaced leaves room when it has no runs. -/
def Dev.windows (d : Dev) (id : Nat) : Nat :=
  natSum ((d.mdl.models.filter fun m => m.id != id || d.mdl.hasRuns m.uid).map (·.windowMib)) +
    natSum ((d.mdl.olds.filter fun m => d.mdl.hasRuns m.uid).map (·.windowMib)) + natSum (d.mdl.loading.map fun x => x.2.windowMib)

def servingMask (d : Dev) : BitVec 20 := BitVec.ofNat 20 (natSum ((servingStacks d).map fun s => 2 ^ s))

/-- Frames of a model's image and of its EMBED store under TIER_PIN, each a region of its own (R166, R264; log 62). -/
def Model.imageFrames (m : Model) : Nat := if m.holder = 0xFFFF && m.tier = .pin then framesOf m.image.length else 0
def Model.embedFrames (m : Model) : Nat := if m.holder = 0xFFFF && m.embedTier = .pin then framesOf m.embedLen else 0

/-- The TIER_PIN stores of a model are made, when there is room for both (R284). -/
def Dev.pinModel (d : Dev) (m : Model) : Option Dev :=
  let put := fun (x : Dev) (id n : Nat) =>
    if n = 0 then some x else if x.canAlloc .none (servingMask x) n then some (x.alloc id .none (servingMask x) n .pin 4) else none
  (put d (modelRegion m.uid) m.imageFrames).bind fun x => put x (embedRegion m.uid) m.embedFrames

/-- Bytes of a model's stores on flash. -/
def Model.flashLen (m : Model) : Nat := if m.holder = 0xFFFF && m.tier != .pin then m.image.length else 0
def Model.flashEmbed (m : Model) : Nat := if m.holder = 0xFFFF && m.embedTier != .pin then m.embedLen else 0

/-- Working channels, ascending. -/
def Dev.workChans (d : Dev) : List Nat := (List.range 32).filter fun c => (d.chan c).serving

/-- Index, within a striped owner's extents, of 16 KiB page i: 65,536-byte units go round the channels (R215). -/
def stripeIx (n i : Nat) : Nat :=
  let u := i / 4
  let page := u / n * 4 + i % 4
  (page / 4096 * n + u % n) * 4096 + page % 4096

/-- Writes a TIER_FLASH image striped over all channels, another image where extents fall. -/
def Dev.writeImage (d : Dev) (key len : Nat) (striped : Bool) : Dev :=
  let pages := ceilDiv len Config.flashPage
  let cs := d.workChans
  if striped && !cs.isEmpty then
    let rounds := ceilDiv (ceilDiv pages (4 * cs.length) * 4) 4096
    let d1 := (List.range rounds).foldl (fun (x : Dev) _ => cs.foldl (fun (y : Dev) c => y.addExtent c key true) x) d
    (List.range pages).foldl (fun (x : Dev) i => x.writeOwned key (stripeIx cs.length i)) d1
  else (List.range pages).foldl (fun (x : Dev) i => x.writeOwned key i) (d.addExtents (extentsFor len) key)

/-- A striped image finds room on every working channel, another on any. -/
def Dev.imageRoom (d : Dev) (m : Model) : Bool :=
  let n := d.workChans.length
  let per := if m.tier = .flash && n != 0 then ceilDiv (ceilDiv (ceilDiv m.flashLen Config.flashPage) (4 * n) * 4) 4096 else 0
  (if m.tier = .flash then d.workChans.all fun c => per * Config.extentBytes ≤ (d.chan c).room else true) &&
    (if m.tier = .flash then per * n else extentsFor m.flashLen) + extentsFor m.flashEmbed ≤ d.extentRoom

/-- The model that a load replaces goes; its runs keep it until they end (R217). -/
def Dev.retireModel (d : Dev) (id : Nat) : Dev :=
  { d with mdl := { d.mdl with models := d.mdl.models.filter fun m => m.id != id, olds := d.mdl.olds ++ d.mdl.models.filter fun m => m.id = id } }

/-- Everything of a model's image is on flash, or none of it belongs there. -/
def Dev.modelDurable (d : Dev) (m : Model) : Bool := !(d.ownerBusy (weightKey m.uid)) && !(d.ownerBusy (embedKey m.uid))

/-- Ends loads whose image is in its tier, and reports the others (R50, R215, R217). -/
def Dev.ackModels (d : Dev) (c : Clock) : Dev :=
  d.mdl.loading.foldl (fun (x : Dev) e =>
    if x.modelDurable e.2 then
      let y := x.retireModel e.2.id
      ({ y with mdl := { y.mdl with models := y.mdl.models ++ [e.2], loading := y.mdl.loading.filter fun z => z.1 != e.1 } }).endCmd c e.1 stOk 0 0 []
    else
      let n := ceilDiv (e.2.flashLen + e.2.flashEmbed) Config.flashPage
      let busy := fun (key : Nat) => natSum ((x.flash.extents.filter fun y => y.2.owner = key && y.2.chan < 32).map fun y =>
        ((List.range 4096).filter fun i => x.flash.unitBusy y.2.chan (4096 * y.2.slot + i)).length)
      x.report e.1 stRunning (progressOf (n - (busy (weightKey e.2.uid) + busy (embedKey e.2.uid))) n) 0 false false false) d

/-- An unload, or the load of a new image. -/
def modelLoadRun (held : Option (List Byte)) (c : Clock) (d : Dev) (cmd : Cmd) : Dev :=
  let id := cmd.f 0x40 1
  if cmd.f 0x50 8 = 0 then
    match d.modelId? id with
    | none => d.endCmd c cmd.ref stOk 0 0 []
    | some m => let y := d.retireModel id; { y with mdl := { y.mdl with unloads := y.mdl.unloads ++ [(m.uid, cmd.ref)] } }
  else
    match d.newModel cmd held with
    | none => d.refuse cmd.ref stBadCmd
    | some m =>
      let ids := (d.mdl.models.map (·.id) ++ d.mdl.loading.map fun x => x.2.id).dedup
      let onFlash := m.flashLen + m.flashEmbed != 0
      if Config.windowMib < d.windows id + m.windowMib || (!(ids.contains id) && Config.maxModels ≤ ids.length) then d.refuse cmd.ref stBusy
      else if onFlash && d.flash.readOnly then d.refuse cmd.ref stReadOnly
      else
      match (d.pinModel m).filter fun _ => !(onFlash && (d.flash.format.isSome || !(d.imageRoom m))) with
      | none => d.refuse cmd.ref stBusy
      | some d1 =>
        let d2 := if m.flashLen = 0 then d1 else d1.writeImage (weightKey m.uid) m.flashLen (m.tier = .flash)
        let d3 := if m.flashEmbed = 0 then d2 else d2.writeImage (embedKey m.uid) m.flashEmbed false
        ({ d3 with mdl := { d3.mdl with nextUid := m.uid + 1, loading := d3.mdl.loading ++ [(cmd.ref, m)] } }).ackModels c

def modelLoad (k : Take) (held : Option (List Byte)) : Clock → Dev → Dev :=
  runSlot 0x0600 allRows (modelLoadBad held) modelLoadAreas (modelLoadRun held) k

def execModelLoad (k : Take) (held : Option (List Byte)) (s : State) : Host.Outcome State Fault Refusal :=
  happens (.modelLoad k held) k.t (·.onDev (modelLoad k held)) s

/-- A replaced or unloaded model without runs and without readers of its EMBED rows is freed; an unload ends (R217). -/
def modelImageFree (uid : Nat) (c : Clock) (d : Dev) : Dev :=
  match d.mdl.olds.find? fun m => m.uid = uid with
  | none => d
  | some m =>
    if d.mdl.hasRuns uid || (d.chain.readers.any fun r => r.rows = .embed && r.leaves = [uid] && !r.ended) then d
    else
      let keys := [weightKey uid, embedKey uid]
      let d1 := (((d.free (modelRegion uid)).free (embedRegion uid)).freeExtents (weightKey uid)).freeExtents (embedKey uid)
      let d2 := { d1 with mem := { d1.mem with pool := d1.mem.pool.filter fun f => !(keys.contains f.key) },
                          mdl := { d1.mdl with olds := d1.mdl.olds.filter fun x => x.uid != m.uid, unloads := d1.mdl.unloads.filter fun x => x.1 != uid } }
      (d.mdl.unloads.filter fun x => x.1 = uid).foldl (fun (x : Dev) u => x.endCmd c u.2 stOk 0 0 []) d2

def execModelImageFree (t : Nat) (model : Nat) (s : State) : Host.Outcome State Fault Refusal :=
  happens (.modelImageFree t model) t (·.onDev (modelImageFree model)) s

/-! ### Decode-table generations (R232 to R234) -/

/-- References of a generation: runs admitted and not yet in a wave, and waves whose fills are not over (R233). -/
def Dev.genInUse (d : Dev) (g : Nat) : Bool :=
  let names := fun (uid : Nat) => match d.model? uid with | some m => m.tessel && bitAt m.genMask g | none => false
  (d.mdl.runs.any fun r => r.tgWait.isEmpty && names r.uid) || d.mdl.waves.any fun w => !w.need.isEmpty && names w.uid

/-- A run that may not run: refused at its admission, or its query fails as R85 says (R234). -/
def Dev.runRefused (d : Dev) (c : Clock) (r : Run) : Dev :=
  match r.ref, r.ctx with
  | some ref, _ => d.refuse ref stBadCmd
  | none, some ctx => d.queryFail c ctx
  | none, none => d

/-- Runs that waited for a generation go on, or are refused when a tag no longer matches. -/
def Dev.releaseRuns (d : Dev) (c : Clock) (g : Nat) : Dev :=
  let freed := { d with mdl := { d.mdl with runs := d.mdl.runs.map fun r => { r with tgWait := r.tgWait.filter fun x => x != g } } }
  (d.mdl.runs.filter fun r => r.tgWait = [g]).foldl (fun (x : Dev) r =>
    match x.model? r.uid with
    | some m => if x.tagsOk m then x
                else ({ x with mdl := { x.mdl with runs := x.mdl.runs.filter fun y => !(y.ref = r.ref && y.ctx = r.ctx) } }).runRefused c r
    | none => x) freed

def tableGenBad (op : Nat) (_ : Clock) (_ : Dev) (cmd : Cmd) : Bool :=
  let t := Mem.rds cmd.slot 0x80 128
  cmd.f 0x40 1 > 15 || cmd.f 0x41 1 > 1 || (op = 0 && (cmd.f 0x44 4 != crc32c t || !(kraftOk t)))

/-- The cases of R232 in their order. -/
def tableGenRun (c : Clock) (d : Dev) (cmd : Cmd) : Dev :=
  let g := cmd.f 0x40 1
  let new := if cmd.f 0x41 1 = 0 then some (cmd.f 0x44 4, Mem.rds cmd.slot 0x80 128) else none
  let set := fun (x : Dev) (v : Option TableGen) =>
    { x with mdl := { x.mdl with gens := match v with | some t => NMap.put x.mdl.gens g t | none => NMap.del x.mdl.gens g } }
  match NMap.get? d.mdl.gens g, new with
  | none, none => d.endCmd c cmd.ref stOk 0 0 []
  | none, some t => if Config.maxGens ≤ d.mdl.gens.length then d.refuse cmd.ref stBusy else (set d (some ⟨t.1, t.2, none⟩)).endCmd c cmd.ref stOk 0 0 []
  | some old, new =>
    if old.pend.isSome then d.refuse cmd.ref stBusy
    else if (match new with | some t => decide (t.1 = old.tag) | none => false) then d.endCmd c cmd.ref stOk 0 0 []
    else if d.genInUse g then (set d (some { old with pend := some (cmd.ref, new) })).report cmd.ref stInUse 0 0 false false false
    else (set d (new.map fun t => ⟨t.1, t.2, none⟩)).endCmd c cmd.ref stOk 0 0 []

def isLoadOp (cmd : Cmd) : Bool := cmd.f 0x41 1 != 1
def isRemoveOp (cmd : Cmd) : Bool := cmd.f 0x41 1 = 1

def tableGenLoad (k : Take) : Clock → Dev → Dev := runSlot 0x0602 isLoadOp (tableGenBad 0) noAreas tableGenRun k
def tableGenRemove (k : Take) : Clock → Dev → Dev := runSlot 0x0602 isRemoveOp (tableGenBad 1) noAreas tableGenRun k

def execTableGenLoad (k : Take) (s : State) : Host.Outcome State Fault Refusal := happens (.tableGenLoad k) k.t (·.onDev (tableGenLoad k)) s
def execTableGenRemove (k : Take) (s : State) : Host.Outcome State Fault Refusal := happens (.tableGenRemove k) k.t (·.onDev (tableGenRemove k)) s

/-- The references of a generation reach zero: its table is replaced or freed, and the command ends (R234). -/
def tableGenRelease (g : Nat) (c : Clock) (d : Dev) : Dev :=
  match NMap.get? d.mdl.gens g with
  | none => d
  | some old =>
    match old.pend with
    | none => d
    | some p =>
      if d.genInUse g then d
      else
        let gens := match p.2 with | some t => NMap.put d.mdl.gens g ⟨t.1, t.2, none⟩ | none => NMap.del d.mdl.gens g
        (({ d with mdl := { d.mdl with gens := gens } }).endCmd c p.1 stOk 0 0 []).releaseRuns c g

def execTableGenRelease (t : Nat) (gen : Nat) (s : State) : Host.Outcome State Fault Refusal :=
  happens (.tableGenRelease t gen) t (·.onDev (tableGenRelease gen)) s

/-- DEADLINE passes while an operation is pending: the old table stays and its runs go on (R234). -/
def Dev.tableGenDeadline (d : Dev) (c : Clock) (g : Nat) (r : Ref) : Dev :=
  (({ d with mdl := { d.mdl with gens := NMap.upd d.mdl.gens g fun t => { t with pend := none } } }).endCmd c r stDeadline 0 0 []).releaseRuns c g

/-! ### model.run (R218, R234) -/

def Model.rowIn (m : Model) : Nat := if m.tokens then 4 * m.inLen else 2 * m.inLen

/-- S_out. -/
def Model.rowOut (m : Model) : Nat := ceil64 (2 * m.outLen)

def Dev.runRow (d : Dev) (m : Model) (cmd : Cmd) (r : Nat) : List Nat :=
  let n := if m.tokens then 4 else 2
  (List.range m.inLen).map fun i => d.partReadN cmd.ref.port (cmd.f 0x48 8 + r * m.rowIn + n * i) n

def Dev.runRows (d : Dev) (m : Model) (cmd : Cmd) : List (List Nat) := (List.range (cmd.f 0x44 4)).map (d.runRow m cmd)

def modelRunBad (c : Clock) (d : Dev) (cmd : Cmd) : Bool :=
  !(inRange (cmd.f 0x44 4) 1 4096) || d.deadlineFar c cmd ||
    (match d.modelId? (cmd.f 0x40 1) with
     | none => true
     | some m => cmd.resultLen < cmd.f 0x44 4 * m.rowOut || (m.tokens && (d.runRows m cmd).any m.tokensBad) || ((d.tagsPending m).isEmpty && !(d.tagsOk m)))

def modelRunAreas (d : Dev) (cmd : Cmd) : List (Nat × Nat) := [(cmd.f 0x48 8, cmd.f 0x44 4 * ((d.modelId? (cmd.f 0x40 1)).map Model.rowIn).getD 0)]

def modelRunRun (c : Clock) (d : Dev) (cmd : Cmd) : Dev :=
  if d.pwr.ps != 0 || vgetD d.pwr.hold 0 0 != 0 then d.refuse cmd.ref stBusy
  else
    let n := cmd.f 0x44 4
    match d.gate c cmd (64 * n) n (cmd.deadline != 0 && cmd.deadline ≤ c.now), d.modelId? (cmd.f 0x40 1) with
    | .inl st, _ => d.notAdmitted cmd st
    | .inr d1, some m => (d1.noteAreas cmd.ref (modelRunAreas d cmd)).addRun m ⟨m.uid, some cmd.ref, none, (d.runRows m cmd).map fun r => r.map (BitVec.ofNat 32), [], d.deadlineOf c cmd⟩
    | .inr d1, none => d1.refuse cmd.ref stBadCmd

def modelRun (k : Take) : Clock → Dev → Dev := runSlot 0x0601 allRows modelRunBad modelRunAreas modelRunRun k

def execModelRun (k : Take) (s : State) : Host.Outcome State Fault Refusal := happens (.modelRun k) k.t (·.onDev (modelRun k)) s

/-! ### Waves and windows (R207, R219 to R223, R231) -/

/-- Runs of a wave: those that wait, in admission order, up to 4,096 rows. -/
def waveTake : Nat → List Run → List Run
  | _, [] => []
  | room, r :: rs => if room < r.rows.length then [] else r :: waveTake (room - r.rows.length) rs

/-- (layer, die) pairs with a share. -/
def Model.shares (m : Model) : List (Nat × Nat) :=
  ((List.range m.layers).map fun l => ((List.range 10).filter fun d => shareOf m.steps m.tensors l d != 0).map fun d => (l, d)).flatten

/-- Tessel blocks that hold a die's share of a layer (R221, R229). -/
def Model.dieBlocks (m : Model) (layer die : Nat) : List Nat :=
  ((shareRanges m.steps m.tensors layer die).map fun r => (List.range (ceilDiv (r.1 + r.2) 65536 - r.1 / 65536)).map (· + r.1 / 65536)).flatten.dedup

/-- Bytes of the stored image that a share is read from: its own, or, of a Tessel image, the blocks that hold it (R229). -/
def Model.storedRanges (m : Model) (layer die : Nat) : List (Nat × Nat) :=
  if m.tessel then
    (m.dieBlocks layer die).map fun n =>
      let o := fieldN m.image 0x28 8 + 8 * n
      (fieldN m.image o 5, fieldN m.image (o + 5) 2 + 1)
  else shareRanges m.steps m.tensors layer die

/-- Pool pages that a share of a TIER_CACHE model needs (R278, R280). -/
def Model.sharePages (m : Model) (layer die : Nat) : List Nat :=
  if m.tier = .cache && m.holder = 0xFFFF then ((m.storedRanges layer die).map fun r => rowPages r.1 r.2).flatten.dedup else []

/-- Accesses to the pages of a share; a page that is being filled is waited for (R278, R282). -/
def Dev.askShare (d : Dev) (c : Clock) (m : Model) (layer die : Nat) : Dev :=
  ((m.sharePages layer die).filter fun p => !(d.pageBad (weightKey m.uid) p)).foldl (fun (x : Dev) p =>
    if x.inPool (weightKey m.uid) p && !(x.poolHas (weightKey m.uid) p) then x else x.poolAccess c .cache (weightKey m.uid) p 0) d

/-- A share's pages are in the pool; one that cannot be read does not come (R405). -/
def Dev.shareIn (d : Dev) (m : Model) (layer die : Nat) : Bool :=
  (m.sharePages layer die).all fun p => d.poolHas (weightKey m.uid) p || d.pageBad (weightKey m.uid) p

/-- Tokens of a run that name EMBED rows. -/
def Run.tokens (r : Run) : List Nat := (r.rows.flatten.map (·.toNat)).filter fun k => k != padToken

/-- Readers gather the EMBED rows of each run of a wave through the encoder share (R174, R210). -/
def Dev.embedReaders (d : Dev) (m : Model) (runs : List Run) : Dev :=
  if !m.tokens then d
  else (runs.zipIdx).foldl (fun (x : Dev) e => x.addReader (Reader.new 0 (.embed m.uid e.2) .embed [m.uid] 0 0 e.1.tokens)) d

/-- A wave takes the runs that wait; layers that are not in the window are to be filled, the first two slots first (R219, R222). -/
def modelWaveStart (uid : Nat) (c : Clock) (d : Dev) : Dev :=
  match d.model? uid with
  | none => d
  | some m =>
    let runs := waveTake Config.waveRows (d.mdl.runs.filter fun r => r.uid = uid && r.tgWait.isEmpty)
    if runs.isEmpty || (d.mdl.waves.any fun w => w.uid = uid) || !d.arraysRun || vgetD d.pwr.hold 0 0 != 0 || (List.range 10).any d.dieTested then d
    else
      let need := m.shares.filter fun x => !(m.filled.contains x)
      let d1 := { d with mdl := { d.mdl with runs := d.mdl.runs.filter fun r => !(runs.contains r), waves := d.mdl.waves ++ [(⟨uid, runs, 0, need⟩ : Wave)] } }
      let d2 := (need.filter fun x => x.1 ≤ 1).foldl (fun (x : Dev) e => x.askShare c m e.1 e.2) d1
      ((List.range 10).foldl (fun (x : Dev) i => x.toMatrix i x.waveArrays) (d2.count 43 0 1)).embedReaders m runs

def execModelWaveStart (t : Nat) (model : Nat) (s : State) : Host.Outcome State Fault Refusal :=
  happens (.modelWaveStart t model) t (·.onDev (modelWaveStart model)) s

/-- Bytes a die's expander passes for a share, as RAW and as coded blocks, counted by whole blocks (R231, R235; log 41). -/
def Model.expanderBytes (m : Model) (layer die : Nat) (raw : Bool) : Nat :=
  if !m.tessel then 0
  else natSum (((m.dieBlocks layer die).filter fun n => bitAt (fieldN m.image (fieldN m.image 0x28 8 + 8 * n + 7) 1) 4 = raw).map fun n => blockLen m.space.length n)

/-- The layer a wave has come to: the first with a share still out. -/
def Wave.front (w : Wave) (layers : Nat) : Nat := (w.need.map (·.1)).foldl min layers

/-- Sources a share can wait for (R223): DRAM for TIER_PIN and for pool frames, flash, a holder node, and the expander of a Tessel image. -/
def Model.waitsFor (m : Model) (src : Nat) : Bool :=
  if src = 3 then m.tessel
  else if m.holder != 0xFFFF then src = 2
  else src = (if m.tier = .flash then 1 else 0) || (m.tier = .cache && src = 1)

/-- Cycles a die waited for a share, each counted once against the source of its oldest block outstanding (R223). -/
def Dev.countWaits (d : Dev) (m : Model) (die : Nat) (waits : List (Fin 4 × Nat)) : Dev :=
  (waits.filter fun e => m.waitsFor e.1.val).foldl (fun (x : Dev) (e : Fin 4 × Nat) => x.count (45 + e.1.val) die e.2) d

/-- A die's share of a layer is complete in its window; it waited for the sources `src`, for each the cycles in `waited` (R222, R223). The pages of a TIER_CACHE model come through the pool first (R278, R280). -/
def windowFillComplete (uid layer : Nat) (die : Die) (src : List (Fin 4)) (waited : List Nat) (c : Clock) (d : Dev) : Dev :=
  match d.model? uid, d.mdl.waves.find? fun w => w.uid = uid with
  | some m, some w =>
    if !(w.need.contains (layer, die.val)) || w.front m.layers + 1 < layer then d
    else if !(d.shareIn m layer die.val) then d.askShare c m layer die.val
    else
      let w1 := { w with need := w.need.filter fun x => x != (layer, die.val) }
      let keep := fun (x : Model) => if x.uid = uid && x.fits then { x with filled := x.filled ++ [(layer, die.val)] } else x
      let d1 := { d with mdl := { d.mdl with waves := updIf (fun x => x.uid = uid) (fun _ => ({ w1 with layer := w1.front m.layers } : Wave)) d.mdl.waves,
                                             models := d.mdl.models.map keep, olds := d.mdl.olds.map keep } }
      let d2 := (m.sharePages layer die.val).foldl (fun (x : Dev) p => x.touchPool c (weightKey uid) p) d1
      ((d2.countWaits m die.val (src.zip waited)).count 49 die.val (m.expanderBytes layer die.val true)).count 50 die.val (m.expanderBytes layer die.val false)
  | _, _ => d

def execWindowFillComplete (t : Nat) (model layer : Nat) (d : Die) (src : List (Fin 4)) (waited : List Nat) (s : State) : Host.Outcome State Fault Refusal :=
  happens (.windowFillComplete t model layer d src waited) t (·.onDev (windowFillComplete model layer d src waited)) s

/-- A weight block that cannot be read (R405): a lost frame of the image's region, or an uncorrectable unit on flash. -/
def Dev.weightsPoisoned (d : Dev) (m : Model) : Bool :=
  (match NMap.get? d.mem.regions (modelRegion m.uid) with | some r => !r.lost.isEmpty || !r.poison.isEmpty | none => false) ||
    d.flash.extents.any fun e => e.2.owner = weightKey m.uid &&
      (e.2.chan ≥ 32 || (d.chan e.2.chan).badUnits.any fun u => u / 4096 = e.2.slot)

/-- Reader of a run's EMBED rows. -/
def Dev.embedReader (d : Dev) (uid ix : Nat) : Option Reader := d.chain.readers.find? fun r => r.kind = .embed uid ix && !r.ended

def Dev.embedsIn (d : Dev) (m : Model) (w : Wave) : Bool :=
  !m.tokens || (List.range w.runs.length).all fun i => match d.embedReader m.uid i with | some r => decide (r.statuses.length = r.keys.length) | none => true

/-- A run ends: its rows are written and then its count, or it meets poison (R46, R218, R405); an encoder's output goes on to its query (R34). -/
def Dev.runEnds (d : Dev) (c : Clock) (m : Model) (ix : Nat) (r : Run) : Dev :=
  let bad := d.weightsPoisoned m || (match d.embedReader m.uid ix with | some x => x.statuses.any fun e => e.2 != 0 | none => false)
  let d1 := (match d.embedReader m.uid ix with | some x => d.endReader x.id | none => d).count 44 0 r.rows.length
  match r.ref, r.ctx with
  | some ref, _ =>
    (match d1.cmd? ref with
     | none => d1
     | some cmd =>
       if bad then d1.endCmd c ref stPoison 0 0 []
       else
         let d2 := (r.rows.zipIdx).foldl (fun (x : Dev) e => x.result cmd (e.2 * m.rowOut) (((m.runRow (e.1.map (·.toNat))).map (leBytes 2)).flatten)) d1
         d2.endCmd c ref stOk 0 r.rows.length [])
  | none, some ctx =>
    if bad then
      let d2 := d1.updQuery ctx fun q => { q with frags := [] }
      (match d2.query? ctx with | some q => (d2.putQuery q 0x14 (leBytes 4 0)).queryEnd c ctx stPoison | none => d2)
    else d1.haveVector c ctx (m.runRow (((r.rows.head?).getD []).map (·.toNat)))
  | none, none => d1

/-- A wave ends once every share has been filled and every EMBED row delivered. -/
def modelWaveEnd (uid : Nat) (c : Clock) (d : Dev) : Dev :=
  match d.model? uid, d.mdl.waves.find? fun w => w.uid = uid with
  | some m, some w =>
    if !w.need.isEmpty || !(d.embedsIn m w) then d
    else
      let d0 := (List.range 10).foldl Dev.mxCycles d
      let d1 := { d0 with mdl := { d0.mdl with waves := d0.mdl.waves.filter fun x => x.uid != uid } }
      (w.runs.zipIdx).foldl (fun (x : Dev) e => x.runEnds c m e.2 e.1) d1
  | _, _ => d

def execModelWaveEnd (t : Nat) (model : Nat) (s : State) : Host.Outcome State Fault Refusal :=
  happens (.modelWaveEnd t model) t (·.onDev (modelWaveEnd model)) s

/-! ### T_late (R393, R397) -/

/-- An attempt at a fragment, or at a remote row read, reaches its T_late. -/
def tLateExpiry (key : FragKey) (read : Option Nat) (c : Clock) (d : Dev) : Dev :=
  match read with
  | some tag => d.readLate c tag
  | none => d.fragLate c key

def execTLateExpiry (t : Nat) (key : FragKey) (read : Option Nat) (s : State) : Host.Outcome State Fault Refusal :=
  happens (.tLateExpiry t key read) t (·.onDev (tLateExpiry key read)) s

end Sys2Proof.Machine
end

