-- ==== Sys2Proof/Machine/Scan.lean ====
section
/-! DEFINITION. Fragments at their leaf: arrival, settlement, probes, traverses, die sorters, leaf merge, widening, tiers, and the ends of a fragment (R35, R36, R51 to R79, R93, R101, R105 to R131, R137, R140, R148, R155, R380 to R382, R463, R470). -/

namespace Sys2Proof.Machine

/-! ### Fragments held here -/

def Dev.frag? (d : Dev) (key : FragKey) : Option LFrag := d.scan.frags.find? fun f => f.frag.key = key

def Dev.updFrag (d : Dev) (key : FragKey) (f : LFrag → LFrag) : Dev :=
  { d with scan := { d.scan with frags := updIf (fun x => x.frag.key = key) f d.scan.frags } }

/-- Answers ST_STALE_PLAT for a fragment. -/
def Dev.fragStale (d : Dev) (f : Frag) (a : StaleAns) : Dev := (d.send clsQuery f.key.root (.stale f.key a)).count 102 0 1

/-- PLAN_GEN of a scale tensor (R91). -/
def scalePlanGen (scale : List Byte) : Nat := fieldN scale 8 4

/-- The load's commit station has come for a benchmark: before it the leaf holds no entry (R23). -/
def Leaf.loadedAt (l : Leaf) (bench : Nat) : Bool := match l.load.bind (·.station) with | some n => decide (n ≤ bench) | none => false

/-- The check at the leaf (R23, R93, R388, R389, R463, R470), then the wait for settlement (R148). -/
def Dev.acceptFrag (d : Dev) (c : Clock) (f : Frag) : Dev :=
  if (d.frag? f.key).isSome then d
  else
    match d.leaf f.key.parcel with
    | none => d.failFrag f.key
    | some l =>
      if f.deadline ≤ c.now then d.send clsQuery f.key.root (.fragExpired f.key)
      else if !(l.serves f.bench) || d.pwr.ps != 0 || vgetD d.pwr.hold 0 0 != 0 || fieldN f.scale 12 4 != tableTag f.tables f.scale then d.failFrag f.key
      else if l.loadedAt f.bench && l.planGen != scalePlanGen f.scale then d.fragStale f ⟨f.gen, false, none⟩
      else
        let x : LFrag := ⟨f, .unsettled, [], 0, [], 0, [], 0, 0, [], false, [], 0, false, false⟩
        ({ d with scan := { d.scan with frags := d.scan.frags ++ [x] } }).count 23 0 (boolNat !(l.reached f.bench))

/-- One fragment of a bundle (R381, R382). -/
def Dev.takeFrag (d : Dev) (c : Clock) (f : Frag) : Dev :=
  match d.routeWork f.gen f.bench f.key.parcel f.rank f.fwd with
  | .wait => ({ d with plat := { d.plat with waitFrags := d.plat.waitFrags ++ [f] } }).wantGen f.gen
  | .stale a => d.fragStale f a
  | .forward n => (d.send clsQuery n (.fragments [{ f with fwd := true }])).count 103 0 1
  | .serve => d.acceptFrag c f

def fragmentArrival (fs : List Frag) (c : Clock) (d : Dev) : Dev := if d.carries then fs.foldl (fun (x : Dev) f => x.takeFrag c f) d else d

def execFragmentArrival (t : Nat) (frags : List Frag) (s : State) : Host.Outcome State Fault Refusal :=
  happens (.fragmentArrival t frags) t (·.onDev (fragmentArrival frags)) s

/-! ### Probes and queues (R35, R65, R68, R70, R76, R101) -/

/-- Lists in coarse order: smallest key first, then lower LIST_ID (R101). -/
def coarseOrder (s : Space) (l : Leaf) (f : Frag) : List Nat :=
  let q := f.q.map (·.toNat)
  let keys := (l.lists.zipIdx).map fun e => (coarseKey s q f.tables e.1.plan.centroid e.1.plan.bits e.1.nc, e.2)
  (sortBy (fun a b => !(keyBefore b.1 b.2 a.1 a.2)) keys).map (·.2)

/-- Where a list's main blocks are scanned. -/
def LList.place (x : LList) : Place := if x.plan.tier = .flash then ⟨true, x.plan.homeChan.val⟩ else ⟨false, x.plan.homeDie.val⟩

/-- Traverses that a list's probe takes: one, or a flash traverse and its companion (R77). -/
def LList.parts (x : LList) : Nat := if x.plan.tier = .flash then 2 else 1

/-- Adds n traverses to be awaited on a die. -/
def awaitOn (ds : List DieList) (die n : Nat) : List DieList :=
  if ds.any fun x => x.die = die then updIf (fun x => x.die = die) (fun x => { x with left := x.left + n }) ds
  else sortBy (fun a b => a.die ≤ b.die) (⟨die, [], n, none, false, ⟨[], none⟩, false, []⟩ :: ds)

/-- New probes of a fragment, with what they await. -/
def LFrag.addProbes (f : LFrag) (l : Leaf) (lists : List Nat) : LFrag :=
  lists.foldl (fun (x : LFrag) i =>
    match l.lists[i]? with
    | none => x
    | some ll => { x with toQueue := x.toQueue ++ [(ll.place, i, (ll.ver (l.verNo f.frag.bench)).no)], dies := awaitOn x.dies ll.plan.homeDie.val ll.parts }) f

/-- Entries of a probe queue in use. -/
def Dev.queueUsed (d : Dev) (p : Place) : Nat := (d.scan.probes.filter fun x => x.place = p && x.set = 0).length

def queueSize (p : Place) : Nat := if p.chan then Config.probeQueueChan else Config.probeQueueDie

/-- MiB of model windows on every die: those of loaded models, of models being loaded, and of replaced models with runs (R217, R220). -/
def Dev.allWindows (d : Dev) : Nat :=
  let runs := fun (uid : Nat) => (d.mdl.runs.any fun r => r.uid = uid) || d.mdl.waves.any fun w => w.uid = uid
  natSum (d.mdl.models.map (·.windowMib)) + natSum ((d.mdl.olds.filter fun m => runs m.uid).map (·.windowMib)) + natSum (d.mdl.loading.map fun x => x.2.windowMib)

/-- Bytes of die-level state in a die's staging SRAM (R119). -/
def Dev.dieUsed (d : Dev) (die : Nat) : Nat :=
  natSum (d.scan.frags.map fun f => if f.dies.any fun x => x.die = die && x.held then Config.dieState f.frag.depth else 0)

/-- A fragment's die-level state fits beside model windows and the hot-row cache, or is alone there (R119, R220; log 112). -/
def Dev.dieFits (d : Dev) (die n : Nat) : Bool :=
  d.dieUsed die = 0 || d.dieUsed die + n + 1048576 * (d.allWindows + d.chain.cache.mib) ≤ Config.stagingBytes

/-- A fragment takes its place on a die: staging SRAM for its state there, and in tier 4 the pool frames of its spill (R119, R127). -/
def Dev.holdDie (d : Dev) (c : Clock) (key : FragKey) (x : DieList) : Dev :=
  match d.frag? key with
  | none => d
  | some f =>
    let hold := fun (y : Dev) (ns : List Nat) => y.updFrag key fun g => { g with dies := updIf (fun z => z.die = x.die) (fun z => { z with held := true, frames := z.frames ++ ns }) g.dies }
    if x.held || x.left = 0 || !(d.dieFits x.die (Config.dieState f.frag.depth)) then d
    else if f.frag.tier != 4 || !x.frames.isEmpty then hold d []
    else
      match d.takeSpill c (Config.spillFrames f.frag.depth) with
      | some r => hold r.1 r.2
      | none => d.updFrag key fun g => { g with poolWait := true }

/-- The home die of a list the fragment probes holds its state. -/
def LFrag.onDie (f : LFrag) (l : Leaf) (i : Nat) : Bool :=
  match l.lists[i]? with | some x => f.dies.any fun y => y.die = x.plan.homeDie.val && y.held | none => true

/-- The probes of one place whose dies have room enter its queue when it has room for all of them; a window of 0 has run out at once (R68, R70). -/
def Dev.enqueueAt (d : Dev) (c : Clock) (key : FragKey) (p : Place) : Dev :=
  match d.frag? key, d.leaf key.parcel with
  | some f, some l =>
    let mine := f.toQueue.filter fun x => x.1 = p && f.onDie l x.2.1
    if queueSize p < d.queueUsed p + mine.length then d
    else
      let w : Nat := (l.cfg.map (·.wUs)).getD 0
      let ps := mine.map fun x => (⟨p, key, x.2.1, x.2.2, c.now, decide (w = 0), 0⟩ : Probe)
      let d1 := { d with scan := { d.scan with probes := d.scan.probes ++ ps } }
      d1.updFrag key fun x => { x with toQueue := x.toQueue.filter fun y => !(mine.contains y) }
  | _, _ => d

/-- Enqueues what it can; a fragment with probes left over is held at the input (R70, R119, R127). -/
def Dev.enqueue (d0 : Dev) (c : Clock) (key : FragKey) : Dev :=
  let d := d0.updFrag key fun x => { x with poolWait := false }
  match d.frag? key with
  | none => d
  | some f =>
    let d1 := f.dies.foldl (fun (x : Dev) y => x.holdDie c key y) d
    let d2 := ((f.toQueue.map (·.1)).dedup).foldl (fun (x : Dev) p => x.enqueueAt c key p) d1
    d2.updFrag key fun x => { x with stage := if x.toQueue.isEmpty then .probing else .held }

/-- A fragment probes a list homed on a held channel or on a die under self-test (R104, R463). -/
def Dev.probesHeld (d : Dev) (l : Leaf) (lists : List Nat) : Bool :=
  lists.any fun i => match l.lists[i]? with
    | some x => (decide (x.plan.tier = .flash) && d.chanHeld x.plan.homeChan.val) || d.dieTested x.plan.homeDie.val
    | none => false

/-! ### The die sorters and the leaf merge (R112 to R127) -/

def scanDepth (f : Frag) : Nat := if f.nrr = 0 then f.k + f.margin else f.depth

/-- What leaves the leaf merge: to the root as it stands, or to the chain engine for its rerank keys (R113, R123). -/
def Dev.handOff (d : Dev) (_ : Clock) (f : LFrag) (list : CList) : Dev :=
  if f.frag.nrr = 0 then d.fragReturn f ((list.items.drop f.emitted.length).map Cand.kid) list.horizon true
  else
    let cs := list.items.take f.frag.nrr
    let f1 := { f with stage := .rerank, dies := f.dies.map (fun x => { x with held := false }), toRerank := cs.length, scanShort := list.horizon.isSome && decide (list.items.length < f.frag.nrr) }
    let d1 := d.updFrag f.frag.key fun _ => f1
    if cs.isEmpty then d1.rerankDone f1
    else
      let r := Reader.new 0 (.rerank f.frag.key) .vector [f.frag.key.parcel] f.frag.gen f.frag.bench (cs.map (·.id))
      d1.addReader { r with commits := cs.map (·.commit), deadline := f.frag.deadline }

/-- Counts of a merge on a die. -/
def Dev.countMerge (d : Dev) (die : Nat) (m : Merged) (isDie : Bool) : Dev :=
  ((d.count 12 die m.tombs).count 13 die m.dups).count 11 die (boolNat (isDie && m.list.horizon.isSome))

/-- Tiers 1 and 2: every die forms its list, and the leaf merges them (R117, R120, R123 to R125). -/
def Dev.mergeOnce (d : Dev) (c : Clock) (l : Leaf) (f : LFrag) : Dev :=
  let hidden := hiddenBy l.tombs f.frag.bench
  let ms := f.dies.map fun x => (x.die, mergeStage x.inputs f.frag.depth hidden)
  let d1 := ms.foldl (fun (x : Dev) m => x.countMerge m.1 m.2 true) d
  let top := mergeStage (ms.map fun m => m.2.list) (scanDepth f.frag) fun _ => false
  (d1.countMerge (f.frag.key.parcel % 10) top false).handOff c f top.list

/-- One pass of a die in tier 3 or 4: the best distinct survivors beyond its floor (R126, R127). -/
def DieList.pass (x : DieList) (size : Nat) (hidden : Cand → Bool) : DieList × Merged :=
  let beyond := fun (e : Cand) => match x.floor with | some h => h.before e.kid | none => true
  let m := mergeStage (x.inputs.map fun i => ⟨i.items.filter beyond, none⟩) size hidden
  ({ x with inputs := [], floor := (m.list.items.getLast?).map Cand.kid |>.or x.floor, more := m.list.horizon.isSome,
            out := ⟨x.out.items ++ m.list.items, none⟩ }, m)

/-- The leaf merge of what the dies have formed so far. -/
def leafMerge (ds : List DieList) : Merged := mergeStage (ds.map fun x => x.out) (2 ^ 40) fun _ => false

/-- Entries certified at the leaf: at or before the earliest floor of a die with more (R126). -/
def leafCertified (ds : List DieList) : List Cand :=
  let bound := (ds.filter (·.more)).foldl (fun h x => earlier h x.floor) none
  (leafMerge ds).list.items.filter fun e => match bound with | some h => !(h.before e.kid) | none => true

/-- Entries spilled in a pass: at least those kept, at most 262,144 and at most those gated; how many is open (R127). -/
def Dev.countSpill (d : Dev) (die kept gated : Nat) : Dev :=
  let r := d.fresh
  r.2.count 15 die (kept + r.1 % (min gated 262144 - kept + 1))

/-- Tiers 3 and 4: the dies' passes end; the leaf stops at its depth or when every die is exhausted, or the dies with more go on (R126). -/
def Dev.mergePass (d : Dev) (c : Clock) (l : Leaf) (f : LFrag) : Dev :=
  let ran := fun (x : DieList) => f.passes = 0 || x.more
  let ps := f.dies.map fun x => if ran x then (x, x.pass f.frag.passSize (hiddenBy l.tombs f.frag.bench)) else (x, (x, ⟨⟨[], none⟩, 0, 0⟩))
  let d1 := ps.foldl (fun (y : Dev) p =>
    if !(ran p.1) then y
    else
      let z := (y.countMerge p.1.die p.2.2 true).count 14 p.1.die 1
      if f.frag.tier = 4 then z.countSpill p.1.die p.2.2.list.items.length (natSum (p.1.inputs.map fun i => i.items.length)) else z) d
  let ds := ps.map fun p => p.2.1
  let d1 := d1.count 13 (f.frag.key.parcel % 10) ((leafMerge ds).dups - (leafMerge f.dies).dups)
  let all := leafCertified ds
  let depth := f.frag.depth
  let f1 := { f with dies := ds, passes := f.passes + 1 }
  let open_ := ds.any (·.more)
  if depth ≤ all.length || !open_ then
    let out := all.take depth
    d1.handOff c f1 ⟨out, if depth < all.length || (open_ && depth ≤ all.length) then (out.getLast?).map Cand.kid else none⟩
  else
    let probed := f.order.take f.p
    let again := probed.filter fun i => match l.lists[i]? with | some x => ds.any fun y => y.more && y.die = x.plan.homeDie.val | none => false
    let f2 := { f1 with emitted := if f.frag.nrr = 0 then all else [] }
    let d2 := if f.frag.nrr = 0 && f.emitted.length < all.length then d1.fragReturn f1 ((all.drop f.emitted.length).map Cand.kid) none false else d1
    (d2.updFrag f.frag.key fun _ => f2.addProbes l again).enqueue c f.frag.key

/-- All traverses of a round have ended: the probe set widens or is final (R131). A spill that a failed stack took with it cannot be merged: the fragment fails (DEDUCED, log 113). -/
def Dev.roundEnd (d : Dev) (c : Clock) (key : FragKey) : Dev :=
  match d.frag? key, d.leaf key.parcel with
  | some f, some l =>
    if f.stage != .probing || !f.toQueue.isEmpty || f.dies.any (fun x => x.left != 0) then d
    else if f.frag.widen && f.passes = 0 && f.nPass < f.frag.depth && 0 < f.nRej && f.p < min f.frag.pMax f.order.length then
      let n := min (min f.p (f.frag.pMax - f.p)) (f.order.length - f.p)
      let new := (f.order.drop f.p).take n
      if d.probesHeld l new then d.failFrag key
      else ((d.count 19 0 1).updFrag key fun x => ({ x with p := x.p + n, widened := true }).addProbes l new).enqueue c key
    else if f.frag.tier ≤ 2 then d.mergeOnce c l f
    else if !(f.frames.all fun n => d.mem.pool.any fun x => x.spill && x.no = n) then d.failFrag key
    else (d.mergePass c l f).retryPool c
  | _, _ => d

/-- The benchmark is settled here: lists are selected and probed (R35, R101, R148). -/
def fragmentSettledStart (key : FragKey) (c : Clock) (d : Dev) : Dev :=
  match (d.frag? key).filter fun f => f.stage = .unsettled, d.leaf key.parcel with
  | some f, some l =>
    if !(l.reached f.frag.bench) || f.frag.deadline ≤ c.now then d
    else if !(l.serves f.frag.bench) then d.failFrag key
    else
      match (d.spaceOf l).filter fun _ => l.loadedAt f.frag.bench with
      | none => d.fragReturn f [] none true
      | some s =>
        let order := coarseOrder s l f.frag
        let p := min order.length (if f.frag.np = 0 then ((l.cfg.map (·.np)).getD 1) else f.frag.np)
        if d.probesHeld l (order.take p) || d.dieTested (key.parcel % 10) then d.failFrag key
        else
          let d1 := d.leafTask.updFrag key fun x => ({ x with order := order, p := p }).addProbes l (order.take p)
          (d1.enqueue c key).roundEnd c key
  | _, _ => d

def execFragmentSettledStart (t : Nat) (key : FragKey) (s : State) : Host.Outcome State Fault Refusal :=
  happens (.fragmentSettledStart t key) t (·.onDev (fragmentSettledStart key)) s

/-- Probes that were held at the input enter their queues (R70). -/
def probeEnqueue (key : FragKey) (c : Clock) (d : Dev) : Dev :=
  match (d.frag? key).filter fun f => f.stage = .held with
  | none => d
  | some _ => d.enqueue c key

def execProbeEnqueue (t : Nat) (key : FragKey) (s : State) : Host.Outcome State Fault Refusal :=
  happens (.probeEnqueue t key) t (·.onDev (probeEnqueue key)) s

/-! ### Traverses (R66 to R77) -/

/-- Order in which probes are taken: entry time, then root node, then query context (R68). -/
def Probe.le (a b : Probe) : Bool :=
  decide (a.time < b.time) || (a.time = b.time && (decide (a.key.root < b.key.root) || (a.key.root = b.key.root && decide (a.key.ctx ≤ b.key.ctx))))

/-- Probes waiting at a place for a list version; companions stand apart, in the order they were made. -/
def Dev.group (d : Dev) (p : Place) (parcel list ver : Nat) : List Probe :=
  sortBy Probe.le (d.scan.probes.filter fun x => x.place = p && x.key.parcel = parcel && x.list = list && x.ver = ver && x.set = 0)

def Dev.companions (d : Dev) (p : Place) (parcel list ver : Nat) : List Probe :=
  let all := d.scan.probes.filter fun x => x.place = p && x.key.parcel = parcel && x.list = list && x.ver = ver && x.set != 0
  match all.head? with
  | none => []
  | some x => all.filter fun y => y.set = x.set

/-- The batch window of the oldest probes runs out (R68). -/
def batchWindowExpiry (chan : Bool) (unit parcel list ver : Nat) (c : Clock) (d : Dev) : Dev :=
  match d.leaf parcel with
  | none => d
  | some l =>
    let w := 1000 * (l.cfg.map (·.wUs)).getD 0
    let hit := fun (x : Probe) => x.place = ⟨chan, unit⟩ && x.key.parcel = parcel && x.list = list && x.ver = ver && x.set = 0 && decide (x.time + w ≤ c.now)
    { d with scan := { d.scan with probes := updIf hit (fun x => { x with due := true }) d.scan.probes } }

def execBatchWindowExpiry (t : Nat) (chan : Bool) (unit parcel list ver : Nat) (s : State) : Host.Outcome State Fault Refusal :=
  happens (.batchWindowExpiry t chan unit parcel list ver) t (·.onDev (batchWindowExpiry chan unit parcel list ver)) s

/-- Working arrays of a place as fragments it can hold at once: one each on a die, the twelve rotation slots of each array on a channel (R54, R66, R74). With fewer than 8 working arrays a channel's largest traverse holds 12 fragments for each: R54 says so of dies only (DESIGN CHOICE, log 120). -/
def Dev.capacity (d : Dev) (p : Place) : Nat := if p.chan then 12 * (vgetD d.scan.chans p.unit ⟨0, 0⟩).working else (vgetD d.scan.dies p.unit ⟨0, 0⟩).working

def fanOf (p : Place) : Nat := if p.chan then Config.chanFan else Config.dieFan

/-- Fragments that the place can still take: on a die the free arrays; a flash traverse fills its channel's arrays and slots from the first on, so that one runs at a time (R75; DEDUCED, log 120). -/
def Dev.freeSeats (d : Dev) (p : Place) : Nat := if p.chan && d.scanning p != 0 then 0 else d.capacity p - d.scanning p

/-- Array and rotation slot of the i-th fragment of a flash traverse (R75), over the arrays that work. -/
def Dev.seatsOf (d : Dev) (p : Place) (n : Nat) : List (Nat × Nat) :=
  let w := max 1 (min 8 (vgetD d.scan.chans p.unit ⟨0, 0⟩).working)
  if p.chan then (List.range n).map fun i => (i % w, i / w) else []

/-- The fragments of the next traverse of a group, or none while it may not start. -/
def Dev.nextTraverse (d : Dev) (p : Place) (parcel list ver : Nat) : Option (List Probe × Bool) :=
  let cap := min (fanOf p) (d.capacity p)
  let free := d.freeSeats p
  let cs := if p.chan then [] else d.companions p parcel list ver
  let g := d.group p parcel list ver
  let ok := fun (ps : List Probe) => !ps.isEmpty && decide (ps.length ≤ free)
  if ok (cs.take cap) then some (cs.take cap, true)
  else if (fanOf p ≤ g.length || g.any (·.due)) && ok (g.take cap) then some (g.take cap, false)
  else none

/-- Blocks of a list version on its home channel are read, in order (R75). -/
def Dev.readBlocks (d : Dev) (parcel list : Nat) (v : Version) (id : Nat) : Dev :=
  (List.range v.main.length).foldl (fun (x : Dev) i => x.readUnit (listKey parcel list v.no) i 1 id) d

def LList.byNo (x : LList) (no : Nat) : Option Version := (x.cur :: (x.old.toList ++ x.next.toList)).find? fun v => v.no = no

def traverseStart (chan : Bool) (unit parcel list ver : Nat) (_ : Clock) (d : Dev) : Dev :=
  let p : Place := ⟨chan, unit⟩
  if !d.arraysRun || (if chan then d.chanHeld unit else d.heldBit 0 unit || d.dieTested unit) then d
  else
    match d.nextTraverse p parcel list ver, (d.leaf parcel).bind fun l => l.lists[list]? with
    | some g, some ll =>
      let id := d.scan.nextTrav + 1
      let keys := g.1.map (·.key)
      let t : Trav := ⟨id, p, parcel, list, ver, keys, g.2, d.seatsOf p keys.length⟩
      let comp : List Probe := if chan then g.1.map fun x => { x with place := ⟨false, ll.plan.homeDie.val⟩, due := true, set := id } else []
      let d0 := if chan then d else d.toScan unit keys.length
      let d1 := { d0 with scan := { d0.scan with travs := d0.scan.travs ++ [t], nextTrav := id, probes := (d0.scan.probes.filter fun x => !(g.1.contains x)) ++ comp } }
      let d2 := (d1.count (if chan then 7 else 0) unit 1).count (if chan then 8 else 1) unit keys.length
      if chan then (match ll.byNo ver with | some v => d2.readBlocks parcel list v id | none => d2) else d2
    | _, _ => d

def execTraverseStart (t : Nat) (chan : Bool) (unit parcel list ver : Nat) (s : State) : Host.Outcome State Fault Refusal :=
  happens (.traverseStart t chan unit parcel list ver) t (·.onDev (traverseStart chan unit parcel list ver)) s

/-- Cycles of a traverse: codes accepted in full, `n` of them for each fragment, or as far as it came; waits, throttling and pacing are open (R79; log 116). -/
def Dev.travCycles (d : Dev) (t : Trav) (n : Option Nat) : Dev :=
  let a := d.fresh
  let b := a.2.fresh
  let e := b.2.fresh
  if t.place.chan then a.2.count 9 t.place.unit a.1
  else ((e.2.count 3 t.place.unit (match n with | some k => k * t.frags.length | none => e.1)).count 4 t.place.unit a.1).count 5 t.place.unit b.1

/-- Every fragment of a traverse, and of one that shares its blocks, is answered as failed (R73). -/
def Dev.abandonTrav (d : Dev) (t : Trav) : Dev :=
  let ts := d.scan.travs.filter fun x => x.place = t.place && x.parcel = t.parcel && x.list = t.list && x.ver = t.ver
  let d1 := { d with scan := { d.scan with travs := d.scan.travs.filter fun x => !(ts.contains x) } }
  let d2 := ts.foldl (fun (x : Dev) y => x.travCycles y none) (if t.place.chan then d1 else d1.count 2 t.place.unit ts.length)
  ((ts.map (·.frags)).flatten.dedup).foldl (fun (x : Dev) k => if (x.frag? k).isSome then x.failFrag k else x) d2

/-- BENCH_SEC (R107). -/
def Dev.benchSec (d : Dev) (bench : Nat) : Nat := bench * ((genAt d.plat.gens bench).map fun g => g.timing.stationNs).getD timingDefault.stationNs / 1000000000

/-- Entries a traverse reads for every fragment: main and side blocks, or one of them where a companion scans the side list (R66, R77, R155). -/
def travEntries (t : Trav) (ll : LList) : List Entry :=
  match ll.byNo t.ver with
  | none => []
  | some v => if t.place.chan then blockItems v.main else if t.companion then blockItems v.side else v.entries

/-- One fragment's list from a traverse reaches its die sorter (R72, R111, R116, R125). CNT.SEL_TRUNCATED has no instance for a channel: a channel array's list counts at its home die. CNT.FLT_REJECTED counts the rejections of every pass, N_rej those of the first (DESIGN CHOICE, log 121). -/
def Dev.travList (d : Dev) (t : Trav) (_ : Leaf) (s : Space) (ll : LList) (es : List Entry) (key : FragKey) : Dev :=
  match d.frag? key with
  | none => d
  | some f =>
    let o := scanEntries s.kind s.m f.frag.tables f.frag.filter f.frag.bench (d.benchSec f.frag.bench) es
    let list := if f.frag.tier = 1 then keepBest f.frag.kPrime o.cands else ⟨o.cands, none⟩
    let die := ll.plan.homeDie.val
    let give := fun (x : DieList) => { x with inputs := x.inputs ++ [list], left := x.left - 1, held := x.held && decide (1 < x.left) }
    let first := f.passes = 0
    let d1 := d.updFrag key fun x =>
      { x with dies := updIf (fun y => y.die = die) give x.dies, nRej := x.nRej + (if first then o.rej else 0), nPass := x.nPass + (if first then o.pass else 0) }
    (d1.count 10 (if t.place.chan then 16 + t.place.unit else t.place.unit) o.rej).count 11 die (boolNat list.horizon.isSome)

/-- A flash traverse ends when its last page has been read. -/
def Dev.travReading (d : Dev) (t : Trav) : Bool :=
  t.place.chan && (vgetD d.flash.chans t.place.unit FChan.reset).reads.any fun r => r.cls = 1 && r.owner = t.id

/-- Blocks in DRAM that a traverse reads (R66, R77). -/
def travRegions (t : Trav) (ll : LList) : List Nat :=
  match ll.byNo t.ver with
  | none => []
  | some v => (if t.companion then [] else v.main.map fun b => blockRegion t.parcel t.list v.no false b.seq) ++ v.side.map fun b => blockRegion t.parcel t.list v.no true b.seq

/-- A block of the traverse cannot be had: poisoned, lost with its stacks, or lost or uncorrectable on flash (R73, R277). -/
def Dev.travLost (d : Dev) (t : Trav) (ll : LList) : Bool :=
  if t.place.chan then
    (match ll.byNo t.ver with
     | none => true
     | some v => (List.range v.main.length).any fun i => match d.flash.unitAt (listKey t.parcel t.list v.no) i with
        | none => true
        | some u => (vgetD d.flash.chans u.1 FChan.reset).badUnits.contains u.2)
  else
    let ids := travRegions t ll
    d.mem.regions.any fun e => ids.contains e.1 && (e.2.homeGone || !e.2.poison.isEmpty)

/-- `bad`: a code block was poisoned or uncorrectable; on a channel, also one whose BLOCK_CHECK did not match (R64). -/
def traverseEnd (id : Nat) (bad : Bool) (c : Clock) (d : Dev) : Dev :=
  match d.scan.travs.find? fun t => t.id = id with
  | none => d
  | some t =>
    if d.travReading t then d
    else
      match (d.leaf t.parcel).bind fun l => (d.spaceOf l).bind fun s => (l.lists[t.list]?).map fun ll => (l, s, ll) with
      | none => d.abandonTrav t
      | some v =>
        if bad || d.travLost t v.2.2 then d.abandonTrav t
        else
          let es := travEntries t v.2.2
          let d0 := ({ d with scan := { d.scan with travs := d.scan.travs.filter fun x => x.id != id } }).travCycles t (some es.length)
          let d1 := if t.place.chan then d0 else d0.toMatrix t.place.unit d0.waveArrays
          let d2 := t.frags.foldl (fun (x : Dev) k => x.travList t v.1 v.2.1 v.2.2 es k) d1
          t.frags.foldl (fun (x : Dev) k => x.roundEnd c k) d2

def execTraverseEnd (t : Nat) (id : Nat) (bad : Bool) (s : State) : Host.Outcome State Fault Refusal :=
  happens (.traverseEnd t id bad) t (·.onDev (traverseEnd id bad)) s

/-! ### DEADLINE at the leaf (R140) -/

/-- An expired answer, with no further entries; a fragment that waits for its generation ends too. -/
def fragmentDeadline (key : FragKey) (c : Clock) (d : Dev) : Dev :=
  let waits := d.plat.waitFrags.filter fun f => f.key = key && decide (f.deadline ≤ c.now)
  match (d.frag? key).filter fun f => decide (f.frag.deadline ≤ c.now) with
  | some _ => (d.send clsQuery key.root (.fragExpired key)).dropFrag key
  | none =>
    if waits.isEmpty then d
    else ({ d with plat := { d.plat with waitFrags := d.plat.waitFrags.filter fun f => f.key != key } }).send clsQuery key.root (.fragExpired key)

def execFragmentDeadline (t : Nat) (key : FragKey) (s : State) : Host.Outcome State Fault Refusal :=
  happens (.fragmentDeadline t key) t (·.onDev (fragmentDeadline key)) s

end Sys2Proof.Machine
end

