-- ==== Sys2Proof/Machine/Plat.lean ====
section
/-! DEFINITION. The plat: operations of a proposal, the chair, beacons and elections, joining and founding a domain, and what a station's start does (R19, R20, R22, R138 to R142, R358, R363, R367 to R375, R381, R399, R433, R435, R436, R552, R553). -/

namespace Sys2Proof.Machine

/-! ### Operations (R372, R436) -/

/-- Length of a record whose operands take n bytes after the 8-byte head. -/
def opLen (n : Nat) : Nat := ceilDiv (8 + n) 8 * 8

def readIds (bs : List Byte) (off size n : Nat) : List Nat := (List.range n).map fun i => fieldN bs (off + size * i) size

def readNode (bs : List Byte) : PlatNode := ⟨fieldN bs 8 2, fieldN bs 10 2, fieldN bs 12 2, readIds bs 16 16 8⟩

/-- Operand bytes of a record; none for a value R372 does not name. -/
def opBytes (bs : List Byte) : Option Nat :=
  match fieldN bs 0 1 with
  | 0x01 => some 136
  | 0x02 => some 2
  | 0x03 => some (16 + 2 * fieldN bs 16 1)
  | 0x04 => some 4
  | 0x05 => some 6
  | 0x06 => some 6
  | 0x07 => some 6
  | 0x08 => some (8 + 2 * fieldN bs 12 1)
  | 0x09 => some (8 + 4 * fieldN bs 12 4)
  | 0x0A => some 4
  | 0x0B => some 32
  | 0x0C => some 32
  | 0x0D => some 10
  | 0x0E => some 1
  | _ => none

/-- Reserved bytes inside a record's operands (R15). -/
def opGaps (op : Nat) : List (Nat × Nat) :=
  if op = 0x01 then [(14, 2)] else if op = 0x03 then [(17, 7)] else if op = 0x08 then [(13, 3)] else if op = 0x0B then [(20, 4)] else []

/-- A record of the length its operands ask for, with its reserved and padding bytes zero. -/
def opFormed (bs : List Byte) : Bool :=
  match opBytes bs with
  | none => false
  | some n =>
    fieldN bs 2 2 = opLen n && bs.length = opLen n && fieldN bs 1 1 = 0 && fieldN bs 4 4 = 0 && allZero (bs.drop (8 + n)) &&
      (opGaps (fieldN bs 0 1)).all fun g => allZero ((bs.drop g.1).take g.2)

/-- The operation a well-formed record spells. -/
def readOp (bs : List Byte) : PlatOp :=
  let p := fieldN bs 8 4
  match fieldN bs 0 1 with
  | 0x01 => .nodeAdd (readNode bs)
  | 0x02 => .nodeRemove (fieldN bs 8 2)
  | 0x03 => .leafAdd p (fieldN bs 12 4) (readIds bs 24 2 (fieldN bs 16 1))
  | 0x04 => .leafDrop p
  | 0x05 => .copyAdd p (fieldN bs 12 2)
  | 0x06 => .copyActivate p (fieldN bs 12 2)
  | 0x07 => .copyRemove p (fieldN bs 12 2)
  | 0x08 => .copyRank p (readIds bs 16 2 (fieldN bs 12 1))
  | 0x09 => .groupSet p (readIds bs 16 4 (fieldN bs 12 4))
  | 0x0A => .groupDrop p
  | 0x0B => .spaceAdd ⟨p, fieldN bs 12 4, fieldN bs 16 4⟩ (fieldN bs 24 8) (fieldN bs 32 8)
  | 0x0C => .timingSet ⟨fieldN bs 8 8, fieldN bs 16 8, fieldN bs 24 8, fieldN bs 32 8⟩
  | 0x0D => .quorumSet (readIds bs 8 2 5)
  | _ => .versionSet (fieldN bs 8 1)

/-- Records back to back over exactly the bytes given (R436). -/
def readOps : Nat → List Byte → Option (List PlatOp)
  | 0, bs => if bs.isEmpty then some [] else none
  | n + 1, bs =>
    let r := bs.take (fieldN bs 2 2)
    if opFormed r then (readOps n (bs.drop (fieldN bs 2 2))).map fun os => readOp r :: os else none

/-! ### Applying a proposal (R372, R552) -/

/-- Renumbers a leaf's copies: ACTIVE ones first, each kind in its order (R552). -/
def repack (l : PlatLeaf) : PlatLeaf :=
  { l with copies := (l.copies.filter fun x => x.state = .active) ++ l.copies.filter fun x => x.state = .joining }

def updPlatLeaf (g : PlatGen) (parcel : Nat) (f : PlatLeaf → PlatLeaf) : PlatGen :=
  { g with leaves := updIf (fun l => l.parcel = parcel) (fun l => repack (f l)) g.leaves }

/-- The leaf has a copy on a node. -/
def leafOn (g : PlatGen) (parcel node : Nat) : Bool := match g.leaf parcel with | some l => l.copies.any fun x => x.node = node | none => false

def listsNode (g : PlatGen) (node : Nat) : Bool := g.nodes.any fun n => n.id = node

/-- The copies of a leaf in a given node order, when it lists every copy once. -/
def rankCopies (l : PlatLeaf) (ns : List Nat) : Option (List PlatCopy) :=
  if ns.length = l.copies.length && ns.dedup.length = ns.length && l.copies.all fun x => ns.contains x.node then
    some (ns.filterMap fun n => l.copies.find? fun x => x.node = n)
  else none

/-- What one operation makes of a generation; none where R373 refuses it. `top`: the lowest VER_MAX of the domain; `ready`: JOINING copies that report READY, as (leaf, node). -/
def applyPlatOp (top : Nat) (ready : List (Nat × Nat)) (g : PlatGen) : PlatOp → Option PlatGen
  | .nodeAdd n => if listsNode g n.id || 4096 ≤ n.id || Config.maxRacks ≤ n.rack then none else some { g with nodes := g.nodes ++ [n] }
  | .nodeRemove id =>
    if listsNode g id then
      some { g with nodes := g.nodes.filter (fun n => n.id != id), leaves := g.leaves.map fun l => if l.copies.any fun x => x.node = id then repack { l with copies := l.copies.filter fun x => x.node != id } else l }
    else none
  | .leafAdd p sp ns =>
    if p = Config.noParcel || (g.leaf p).isSome || (g.group p).isSome then none
    else some { g with leaves := g.leaves ++ [⟨p, sp, ns.map fun n => (⟨n, .active⟩ : PlatCopy)⟩] }
  | .leafDrop p => if (g.leaf p).isSome then some { g with leaves := g.leaves.filter fun l => l.parcel != p } else none
  | .copyAdd p n => if (g.leaf p).isSome && !(leafOn g p n) then some (updPlatLeaf g p fun l => { l with copies := l.copies ++ [⟨n, .joining⟩] }) else none
  | .copyActivate p n =>
    if ((g.leaf p).map fun l => l.copies.any fun x => x.node = n && x.state = .joining) = some true && ready.contains (p, n) then
      some (updPlatLeaf g p fun l => { l with copies := (l.copies.filter fun x => x.node != n && x.state = .active) ++ [⟨n, .active⟩] ++ l.copies.filter fun x => x.node != n && x.state = .joining })
    else none
  | .copyRemove p n => if leafOn g p n then some (updPlatLeaf g p fun l => { l with copies := l.copies.filter fun x => x.node != n }) else none
  | .copyRank p ns =>
    match (g.leaf p).bind fun l => rankCopies l ns with
    | some cs => some { g with leaves := updIf (fun l => l.parcel = p) (fun l => { l with copies := cs }) g.leaves }
    | none => none
  | .groupSet p ms =>
    if p = Config.noParcel || (g.leaf p).isSome || ms.contains Config.noParcel || !(inRange ms.length 1 Config.maxMembers) then none
    else some { g with groups := (g.groups.filter fun x => x.parcel != p) ++ [⟨p, ms⟩] }
  | .groupDrop p => if (g.group p).isSome then some { g with groups := g.groups.filter fun x => x.parcel != p } else none
  | .spaceAdd s _ _ => if g.spaces.any fun x => x.id = s.id then none else some { g with spaces := g.spaces ++ [s] }
  | .timingSet v => some { g with timing := v }
  | .quorumSet q => some { g with quorum := q }
  | .versionSet v => if inRange v g.version top then some { g with version := v } else none

def applyPlatOps (top : Nat) (ready : List (Nat × Nat)) : List PlatOp → PlatGen → Option PlatGen
  | [], g => some g
  | o :: os, g => (applyPlatOp top ready g o).bind (applyPlatOps top ready os)

/-! ### Checks of the result (R19, R20, R22, R139, R141, R358, R373) -/

def timingBad (v : Timing) : Bool :=
  !(inRange v.stationNs 100000 10000000) || v.stationNs % 2000 != 0 || v.updGuardNs < 5000 || v.stationNs < 4 * v.updGuardNs || v.updGuardNs % 1000 != 0 ||
    v.queryLifeNs < 4 * v.stationNs || 10000000000 < v.queryLifeNs || v.queryLifeNs % v.stationNs != 0 || !(inRange v.peerDeadNs 500000 100000000)

def trayOf (g : PlatGen) (n : Nat) : Option Nat := (g.nodes.find? fun x => x.id = n).map (·.tray)

/-- Every node is listed, and no two lie on one tray. -/
def traysBad (g : PlatGen) (ns : List Nat) : Bool := ns.any (fun n => !(listsNode g n)) || (ns.map (trayOf g)).dedup.length != ns.length

def quorumBad (g : PlatGen) : Bool := g.quorum.length != 5 || traysBad g g.quorum

/-- No ACTIVE copy, more than four, two on one tray, or a JOINING copy before an ACTIVE one. -/
def leafBad (g : PlatGen) (l : PlatLeaf) : Bool :=
  !(inRange l.copies.length 1 4) || !(l.copies.any fun x => x.state = .active) || l.copies != (repack l).copies || traysBad g (l.copies.map (·.node)) ||
    !(g.spaces.any fun s => s.id = l.space)

/-- Parcels reached from some through their members, in n rounds. -/
def reached (g : PlatGen) : Nat → List Nat → List Nat
  | 0, ps => ps
  | n + 1, ps => reached g n ((ps ++ (ps.map fun p => ((g.group p).map (·.members)).getD []).flatten).dedup)

/-- A member that names nothing, a group inside itself, too many leaves, or several spaces (R20). -/
def groupBad (g : PlatGen) (x : PlatGroup) : Bool :=
  let all := reached g g.groups.length x.members.dedup
  let ls := all.filterMap g.leaf
  (all.any fun p => (g.leaf p).isNone && (g.group p).isNone) || all.contains x.parcel || Config.maxGroupLeaves < ls.length ||
    1 < ((ls.map (·.space)).dedup).length

/-- Copies that a generation places on a node. -/
def copiesOn (g : PlatGen) (n : Nat) : Nat := (g.leaves.filter fun l => l.copies.any fun x => x.node = n).length

/-- A domain beyond the largest of R6: 4,096 nodes in 64 racks; each node is listed once. -/
def domainBad (g : PlatGen) : Bool :=
  g.nodes.any (fun n => 4096 ≤ n.id || Config.maxRacks ≤ n.rack) || (g.nodes.map (·.id)).dedup.length != g.nodes.length

/-- A generation that breaks R6, R20, R22, R139 or R373. -/
def genBad (g : PlatGen) : Bool :=
  timingBad g.timing || quorumBad g || domainBad g || g.leaves.any (leafBad g) || g.groups.any (groupBad g) || g.nodes.any fun n => Config.maxLeafCopies < copiesOn g n.id

/-- Versions a node supports, as far as this node knows (R358). -/
def Dev.rangeOf (d : Dev) (n : Nat) : Option (Nat × Nat) := if n = d.plat.nodeId then some (Config.verMin, Config.verMax) else NMap.get? d.plat.ranges n

/-- Lowest VER_MAX among the nodes of a generation. -/
def Dev.topVersion (d : Dev) (g : PlatGen) : Nat := ((g.nodes.filterMap fun n => d.rangeOf n.id).map (·.2)).foldl min Config.verMax

def Dev.versionBad (d : Dev) (g : PlatGen) : Bool := g.nodes.any fun n => match d.rangeOf n.id with | some r => !(inRange g.version r.1 r.2) | none => false

/-! ### Holding and announcing (R369, R370) -/

/-- The five members at a station. -/
def Dev.quorumAt (d : Dev) (st : Nat) : List Nat := ((genAt d.plat.gens st).orElse fun _ => d.newest).map (·.quorum) |>.getD []

def Dev.quorumNow (d : Dev) (c : Clock) : List Nat := d.quorumAt (d.station c)

/-- This node's position among the members (R369). -/
def Dev.position (d : Dev) (c : Clock) : Option Nat := (d.quorumNow c).findIdx? fun n => n = d.plat.nodeId

/-- The first station a generation can start at: REQ_FROM or two stations after the beacon, and under a smaller STATION_NS the first whose start is a multiple of both (R141, R370). -/
def announceFrom (old new reqFrom a : Nat) : Nat :=
  let x := max reqFrom (a + 2)
  if new < old then let m := new / Nat.gcd old new; ceilDiv x m * m else x

/-- The newer of two beacons by station (R369). -/
def laterBeacon (a b : Option Beacon) : Option Beacon :=
  match a, b with
  | some x, some y => if x.station ≤ y.station then some y else some x
  | none, y => y
  | x, none => x

/-- Highest term this member has seen a chair of. -/
def Plat.chairTerm (p : Plat) : Nat := max ((p.stored.map (·.term)).getD 0) ((p.beacon.map (·.term)).getD 0)

/-- A member stores a beacon (R369); a new chair's first is counted. -/
def Dev.store (d : Dev) (b : Beacon) : Dev :=
  let d1 := d.count 104 0 (boolNat (d.plat.chairTerm < b.term))
  { d1 with plat := { d1.plat with stored := laterBeacon d1.plat.stored (some b), term := max d1.plat.term b.term } }

/-- Ends the commands of a proposal whose outcome an agreed beacon records: the one that was forwarded or applied with its result, others under its key replayed (R372, R400). -/
def Dev.endProposal (d : Dev) (c : Clock) (o : ProposalRec) : Dev :=
  let head := leBytes 8 o.gen ++ leBytes 8 o.fromStation
  let e : Ended := ⟨stOk, 1, 0, head, c.now⟩
  let first := (d.plat.forwarded.find? fun f => f.key = o.key).map (·.ref)
  let d1 := if (d.findRec .beacon o.key).isSome then d else d.putRec .beacon o.key (some e)
  let d2 : Dev := (d1.cmds.running.filter fun x => x.opcode = 0x0B00 && x.key = o.key).foldl (fun (x : Dev) (cmd : Cmd) =>
    if first = some cmd.ref then ((x.result cmd 0 head).endCmd c cmd.ref stOk (rflags false false false true) 0 head).dropForwarded cmd.ref
    else x.putReplayed cmd e) d1
  if (d2.plat.proposal.map (·.key)) = some o.key then { d2 with plat := { d2.plat with proposal := none } } else d2

/-- Work that waited for a generation, a beacon or a codebook is taken up again (R371, R379, R381). -/
def Dev.retryAll (d : Dev) (c : Clock) : Dev :=
  let fs := d.plat.waitFrags
  let rs := d.plat.waitReads
  let d1 := fs.foldl (fun (x : Dev) f => x.takeFrag c f) { d with plat := { d.plat with waitFrags := [], waitReads := [] } }
  let d2 := rs.foldl (fun (x : Dev) r => remoteReadRequest r c x) d1
  let d3 := ((d2.plat.gens.map (·.gen))).foldl (fun (x : Dev) n => x.resendWanted c n) d2
  ((d3.leaves.map fun (l : Leaf) => l.parcel).foldl (fun (x : Dev) p => x.retryHeld c p) d3).retrySearches c

/-- The generations that a beacon brings; one it only names is fetched (R370). -/
def Dev.adoptBeacon (d : Dev) (c : Clock) (b : Beacon) : Dev :=
  let d1 := b.announced.foldl (fun (x : Dev) g => x.learnGen c g) d
  if b.newestGen != 0 && (d1.genNo b.newestGen).isNone then d1.wantGen b.newestGen else d1

/-- What an agreed beacon brings: its generations, and the ends of proposals it records (R372). -/
def Dev.learnBeacon (d : Dev) (c : Clock) (b : Beacon) : Dev := b.outcomes.foldl (fun (x : Dev) o => x.endProposal c o) (d.adoptBeacon c b)

/-- An agreed beacon is held when it is newer than the one held (R367, R370). -/
def Dev.hold (d : Dev) (c : Clock) (b : Beacon) : Dev :=
  if (match d.plat.beacon with | some x => decide (b.station ≤ x.station) | none => false) then d
  else
    let d1 := { d with plat := { d.plat with beacon := some b, term := max d.plat.term b.term, heard := max d.plat.heard b.station,
                                             chair := d.plat.chair && b.chair = d.plat.nodeId } }
    (d1.learnBeacon c b).retryAll c

/-- Nodes to which a member relays: those whose NODE_ID mod 5 is its position (R370). -/
def Dev.relayTargets (d : Dev) (c : Clock) (pos : Nat) : List Nat :=
  ((d.genNow c).orElse fun _ => d.newest).map (fun g => (g.nodes.map (·.id)).filter fun n => n % 5 = pos && n != d.plat.nodeId) |>.getD []

/-- A chair stops: its beacon in progress is dropped, and a proposal it has not announced is refused for want of a chair (R369, R373). -/
def Dev.stepDown (d : Dev) : Dev :=
  let d1 := { d with plat := { d.plat with chair := false, composing := none, proposal := none } }
  match d.plat.proposal with
  | some p => if (d.plat.composing.map fun x => x.beacon.announced.any fun g => g.gen = p.result.gen) = some true then d1 else (d1.dropForwarded p.ref).refuse p.ref stBusy
  | none => d1

/-- A chair that loses valid datum time stops: its clock is not valid, or two stations have passed without an agreed beacon (R367, R369). -/
def Dev.chairLapsed (d : Dev) (c : Clock) : Bool := d.plat.chair && (!c.valid || d.plat.heard + 1 < d.station c)

/-- The beacon of an earlier term that a new chair adopted and that was never agreed here: the chair announces again what it announces (R369, R370). -/
def Dev.adopted (d : Dev) : Option Beacon :=
  d.plat.stored.filter fun b => b.term < d.plat.term && (match d.plat.beacon with | some x => decide (x.station < b.station) | none => true)

/-- The chair composes the beacon of the current station, once (R370, R553). -/
def beaconCompose (c : Clock) (d : Dev) : Dev :=
  let a := d.station c
  if d.chairLapsed c then d.stepDown
  else if !(d.plat.chair && d.live && (d.position c).isSome) || (match d.plat.stored with | some b => decide (a ≤ b.station) | none => false) then d
  else
    let new := d.plat.proposal.map fun p =>
      let old := (d.newest.map fun g => g.timing.stationNs).getD timingDefault.stationNs
      ({ p.result with term := d.plat.term, fromStation := announceFrom old p.result.timing.stationNs p.reqFrom a } : PlatGen)
    let top := new.orElse fun _ => d.newest
    let outs := match d.plat.proposal, new with | some p, some g => [(⟨p.key, g.gen, g.fromStation⟩ : ProposalRec)] | _, _ => []
    let old := d.adopted
    let b : Beacon := ⟨a, d.plat.term, d.plat.nodeId, (top.map (·.gen)).getD 0, (top.map (·.fromStation)).getD 0,
      (old.map (·.announced)).getD [] ++ new.toList, (old.map (·.outcomes)).getD [] ++ outs⟩
    let d1 := d.store b
    ({ d1 with plat := { d1.plat with composing := some ⟨b, [d.plat.nodeId]⟩ } }).sendAll clsControl ((d.quorumNow c).filter fun n => n != d.plat.nodeId) (.storeBeacon b)

def execBeaconCompose (t : Nat) (s : State) : Host.Outcome State Fault Refusal := happens (.beaconCompose t) t (·.onDev beaconCompose) s

/-- The domain exists once three founding members have stored the first generation; position 0 is chair of term 1 (R374). -/
def Dev.foundStored (d : Dev) (c : Clock) (g : PlatGen) (members : List Nat) (member : Nat) : Dev :=
  let ms := if members.contains member || !(g.quorum.contains member) then members else members ++ [member]
  if ms.length < 3 then { d with plat := { d.plat with founding := some (g, ms) } }
  else { d with plat := { d.plat with founding := none, term := max d.plat.term 1, heard := d.station c, chair := decide (g.quorum.head? = some d.plat.nodeId) } }

/-- A member has stored what this node composed, or the first generation, named by term 1 and station 0. At three the record is agreed: the chair holds its beacon, sends it, and the proposal's command ends (R369, R370, R372). -/
def beaconAgreed (member term station : Nat) (c : Clock) (d : Dev) : Dev :=
  match d.plat.founding with
  | some f => if term = 1 && station = 0 then d.foundStored c f.1 f.2 member else d
  | none =>
    match d.plat.composing.filter fun x => x.beacon.term = term && x.beacon.station = station && d.plat.chair with
    | none => d
    | some x =>
      let q := d.quorumNow c
      let ms := if x.stored.contains member || !(q.contains member) then x.stored else x.stored ++ [member]
      if ms.length < 3 then { d with plat := { d.plat with composing := some { x with stored := ms } } }
      else
        let cbs := (d.plat.proposal.map (·.codebooks)).getD []
        let d1 := { d with plat := { d.plat with composing := none, spaces := d.plat.spaces ++ cbs } }
        let targets := (q.filter fun n => n != d.plat.nodeId) ++ (d1.relayTargets c ((d.position c).getD 0)).filter fun n => !(q.contains n)
        (d1.sendAll clsControl targets (.beacon x.beacon)).hold c x.beacon

def execBeaconAgreed (t : Nat) (member term station : Nat) (s : State) : Host.Outcome State Fault Refusal :=
  happens (.beaconAgreed t member term station) t (·.onDev (beaconAgreed member term station)) s

/-- A beacon arrives: from the chair for a member to store (`agreed` false), or agreed, which a member relays (R369, R370). A node without a generation has no domain whose beacons it follows. -/
def beaconReceipt (b : Beacon) (agreed : Bool) (c : Clock) (d : Dev) : Dev :=
  if !(d.live) || d.plat.gens.isEmpty then d
  else if agreed then
    if (match d.plat.beacon with | some x => decide (b.station ≤ x.station) | none => false) then d
    else
      let d1 := match d.position c with
        | some p => (d.store b).sendAll clsControl (d.relayTargets c p) (.beacon b)
        | none => d
      (if d.plat.chair && b.chair != d.plat.nodeId then d1.stepDown else d1).hold c b
  else if (d.position c).isNone || b.term < d.plat.term || (match d.plat.stored with | some x => decide (b.station ≤ x.station) | none => false) then d
  else (((if d.plat.chair then d.stepDown else d).store b).send clsControl b.chair (.stored b.term b.station))

def execBeaconReceipt (t : Nat) (b : Beacon) (agreed : Bool) (s : State) : Host.Outcome State Fault Refusal :=
  happens (.beaconReceipt t b agreed) t (·.onDev (beaconReceipt b agreed)) s

/-! ### Elections (R369) -/

/-- Stations without a beacon since the last one heard, up to the current one. -/
def Dev.silence (d : Dev) (c : Clock) : Nat := d.station c - d.plat.heard - 1

/-- A member offers itself after two stations and one more for each position without a beacon (R369). -/
def chairCandidacy (c : Clock) (d : Dev) : Dev :=
  match d.position c with
  | none => d
  | some p =>
    if !(d.live) || d.plat.chair || !c.valid || d.silence c < 2 + p || d.plat.founding.isSome then d
    else
      let term := d.plat.term + 1
      let d1 := { d with plat := { d.plat with term := term, candTerm := some term, votes := [d.plat.nodeId], voted := NMap.put d.plat.voted term d.plat.nodeId,
                                               heard := d.station c } }
      d1.sendAll clsControl ((d.quorumNow c).filter fun n => n != d.plat.nodeId) (.candidacy term ((d.plat.stored.map (·.station)).getD 0))

def execChairCandidacy (t : Nat) (s : State) : Host.Outcome State Fault Refusal := happens (.chairCandidacy t) t (·.onDev chairCandidacy) s

/-- One vote a term, and only to a candidate whose latest stored beacon is at least as recent (R369). -/
def voteRequest (cand term station : Nat) (c : Clock) (d : Dev) : Dev :=
  if !(d.live) || (d.position c).isNone || !((d.quorumNow c).contains cand) || term < d.plat.term || (NMap.get? d.plat.voted term).isSome ||
      station < (d.plat.stored.map (·.station)).getD 0 then d
  else
    let d1 := if d.plat.chair && d.plat.term < term then d.stepDown else d
    ({ d1 with plat := { d1.plat with term := max d1.plat.term term, voted := NMap.put d1.plat.voted term cand,
                                      candTerm := d1.plat.candTerm.filter fun x => x ≥ term } }).send clsControl cand (.vote term)

def execVoteRequest (t : Nat) (cand term station : Nat) (s : State) : Host.Outcome State Fault Refusal :=
  happens (.voteRequest t cand term station) t (·.onDev (voteRequest cand term station)) s

/-- A vote with the voter's latest stored beacon; with three the candidate is chair and adopts the most recent of them (R369, R370). -/
def voteGrant (member term : Nat) (b : Option Beacon) (c : Clock) (d : Dev) : Dev :=
  if d.plat.candTerm != some term || !((d.quorumNow c).contains member) || d.plat.votes.contains member then d
  else
    let d1 := { d with plat := { d.plat with votes := d.plat.votes ++ [member], stored := laterBeacon d.plat.stored b } }
    if d1.plat.votes.length < 3 then d1
    else
      let d2 := { d1 with plat := { d1.plat with chair := true, candTerm := none, votes := [], term := term, heard := d.station c, composing := none } }
      match d2.plat.stored with
      | some x => d2.adoptBeacon c x
      | none => d2

def execVoteGrant (t : Nat) (member term : Nat) (b : Option Beacon) (s : State) : Host.Outcome State Fault Refusal :=
  happens (.voteGrant t member term b) t (·.onDev (voteGrant member term b)) s

/-! ### plat.propose (R372, R373) -/

/-- NODE_ID of the chair as far as this node knows: itself, or the chair of a beacon of the current station or the one before. -/
def Dev.knownChair (d : Dev) (c : Clock) : Option Nat :=
  if d.plat.chair then some d.plat.nodeId else if d.beaconCur c then d.plat.beacon.map (·.chair) else none

def Dev.proposeOps (d : Dev) (cmd : Cmd) : Option (List PlatOp) := readOps (cmd.f 0x5C 2) (d.partRead cmd.ref.port (cmd.f 0x50 8) (cmd.f 0x58 4))

/-- The codebook that a SPACE_ADD names is among those given, under its identifier, plan generation and tag, and is a search space R81 allows. -/
def hasCodebook (cbs : List Space) : PlatOp → Bool
  | .spaceAdd s _ _ => cbs.any fun x => x.id = s.id && x.planGen = s.planGen && x.tag = s.tag && x.formed
  | _ => true

def proposeBad (cbs : List Space) (_ : Clock) (d : Dev) (cmd : Cmd) : Bool :=
  !(inRange (cmd.f 0x5C 2) 1 4096) || cmd.resultLen < 16 || (match d.proposeOps cmd with | none => true | some os => !(os.all (hasCodebook cbs)))

def cbAreas : PlatOp → List (Nat × Nat)
  | .spaceAdd _ a l => [(a, l)]
  | _ => []

def proposeAreas (d : Dev) (cmd : Cmd) : List (Nat × Nat) := (cmd.f 0x50 8, cmd.f 0x58 4) :: ((d.proposeOps cmd).map fun os => (os.map cbAreas).flatten).getD []

/-- R373 in the order of its table. -/
def Dev.propose (d : Dev) (cmd : Cmd) (os : List PlatOp) (cbs : List Space) (ready : List (Nat × Nat)) : Nat ⊕ Dev :=
  match d.genNo (cmd.f 0x40 8) with
  | none => .inl stStalePlat
  | some base =>
    match applyPlatOps (d.topVersion base) ready os base with
    | none => .inl stBadCmd
    | some g0 =>
      let g := { g0 with gen := base.gen + 1 }
      if genBad g || base.timing.stationNs < g.timing.stationNs || d.versionBad g then .inl stBadCmd
      else if (d.newest.map (·.gen)) != some base.gen then .inl stStalePlat
      else if d.plat.proposal.isSome then .inl stBusy
      else .inr { d with plat := { d.plat with proposal := some ⟨cmd.key, cmd.ref, cmd.f 0x48 8, g, cbs⟩ } }

/-- JOINING copies that report READY: those told to this node, and its own (R376). -/
def Dev.readyList (d : Dev) (told : List (Nat × Nat)) : List (Nat × Nat) :=
  told ++ (d.leaves.filter fun (l : Leaf) => l.ready).map fun l => (l.parcel, d.plat.nodeId)

def proposeRun (cbs : List Space) (ready : List (Nat × Nat)) (c : Clock) (d : Dev) (cmd : Cmd) : Dev :=
  let note := d.noteAreas cmd.ref (proposeAreas d cmd)
  let keep := fun (x : Dev) => { x with plat := { x.plat with forwarded := x.plat.forwarded ++ [(⟨cmd.ref, cmd.key, none, 0⟩ : Forwarded)] } }
  match d.findRec .beacon cmd.key with
  | some r =>
    if r.key.crc != cmd.crc || r.key.opcode != cmd.opcode then d.turnAway cmd stBadCmd
    else match r.ended with | some e => d.putReplayed cmd e | none => d
  | none =>
    if d.plat.forwarded.any fun f => f.key = cmd.key then d
    else
      match d.knownChair c, d.proposeOps cmd with
      | some n, some os =>
        if n = d.plat.nodeId then (match note.propose cmd os cbs (d.readyList ready) with | .inl st => d.refuse cmd.ref st | .inr d1 => keep d1)
        else keep (note.send clsControl n (.propose cmd.key (cmd.f 0x40 8) (cmd.f 0x48 8) os cbs))
      | _, _ => d.refuse cmd.ref stBusy

/-- `codebooks`: what stands at the CB_ADDRs (log 15); `ready`: copies on other nodes that report READY (log 16). -/
def platPropose (k : Take) (codebooks : List Space) (ready : List (Nat × Nat)) : Clock → Dev → Dev :=
  runSlot 0x0B00 allRows (proposeBad codebooks) proposeAreas (proposeRun codebooks ready) k

def execPlatPropose (k : Take) (codebooks : List Space) (readyCopies : List (Nat × Nat)) (s : State) : Host.Outcome State Fault Refusal :=
  happens (.platPropose k codebooks readyCopies) k.t (·.onDev (platPropose k codebooks readyCopies)) s

/-! ### plat.status (R375, R433) -/

def Dev.copyRecord (d : Dev) (c : Clock) (l : Leaf) : List Byte :=
  padTo 16 (leBytes 4 l.parcel ++ leBytes 1 (d.copyRank c l) ++ leBytes 1 (d.platState c l) ++ leBytes 1 (locNat l.loc) ++
    leBytes 1 (boolNat (l.ready && d.platState c l = 0)))

def Dev.memberByte (d : Dev) (n : Nat) : Nat := if n = d.plat.nodeId then 2 else if d.plat.unreachable.contains n then 0 else 1

def Dev.statusBytes (d : Dev) (c : Clock) (n : Nat) : List Byte :=
  padTo 64 (leBytes 8 ((d.newest.map (·.gen)).getD 0) ++ leBytes 8 ((d.newest.map (·.fromStation)).getD 0) ++ leBytes 8 (((d.genNow c).map (·.gen)).getD 0) ++
    leBytes 8 d.plat.term ++ leBytes 2 ((d.knownChair c).getD 0xFFFF) ++ leBytes 6 0 ++ leBytes 8 ((d.plat.beacon.map (·.station)).getD 0) ++
    padTo 5 (((d.quorumNow c).map fun m => leByte (d.memberByte m) 0)) ++ leBytes 3 0 ++ leBytes 4 n)

def platStatusBad (_ : Clock) (_ : Dev) (cmd : Cmd) : Bool := cmd.resultLen < 64

def platStatusRun (c : Clock) (d : Dev) (cmd : Cmd) : Dev :=
  let n := min d.leaves.length ((cmd.resultLen - 64) / 16)
  (d.result cmd 0 (d.statusBytes c n ++ ((d.leaves.take n).map (d.copyRecord c)).flatten)).endCmd c cmd.ref (if n < d.leaves.length then stShort else stOk) 0 n []

def platStatus (k : Take) : Clock → Dev → Dev := runSlot 0x0B01 allRows platStatusBad noAreas platStatusRun k

def execPlatStatus (k : Take) (s : State) : Host.Outcome State Fault Refusal := happens (.platStatus k) k.t (·.onDev (platStatus k)) s

/-! ### plat.join and the founding of a domain (R352, R358, R363, R374, R435) -/

/-- The domain this node is in. -/
def Dev.domain? (d : Dev) : Option Nat := d.newest.map (·.domain)

/-- Leaves another domain: none of its generations, copies or beacons remain. -/
def Dev.leaveDomain (d : Dev) : Dev :=
  let d1 := d.leaves.foldl (fun (x : Dev) (l : Leaf) => x.freeLeaf l) d
  { d1 with plat := { Plat.reset with cak := d1.plat.cak, nodeId := d1.plat.nodeId, unreachable := d1.plat.unreachable, ranges := d1.plat.ranges },
            cmds := { d1.cmds with replay := d1.cmds.replay.filter fun r => r.place != .beacon } }

/-- Takes a generation as the domain's newest, with the codebooks given beside it: the join record is written (R363). -/
def Dev.enterDomain (d : Dev) (c : Clock) (g : PlatGen) (cbs : List Space) (member : Nat) (cak : Option (List Byte)) : Dev :=
  let d0 := if d.domain?.isSome && d.domain? != some g.domain then d.leaveDomain else d
  let d1 := { d0 with plat := { d0.plat with cak := cak.orElse fun _ => d0.plat.cak, spaces := d0.plat.spaces ++ cbs.filter (fun x => !(d0.plat.spaces.contains x)), heard := max d0.plat.heard (d0.station c), joining := none },
                      start := { d0.start with dir := { d0.start.dir with join := some ⟨g.domain, g.epochS, g.ptpDomain, member⟩ } } }
  (d1.learnGen c g).retryAll c

def versionOk (v : Nat) : Bool := inRange v Config.verMin Config.verMax

/-- The member's answer ends plat.join. -/
def Dev.endJoin (d : Dev) (c : Clock) (j : Joining) (g : PlatGen) : Dev :=
  if g.domain != j.domain then { d with plat := { d.plat with joining := none } }.refuse j.ref stBadCmd
  else if !(versionOk g.version) then { d with plat := { d.plat with joining := none } }.refuse j.ref stVersion
  else (d.enterDomain c g [] j.member j.cak).endCmd c j.ref stOk 0 0 []

def Cmd.cak (cmd : Cmd) : Option (List Byte) := if cmd.expert then some (Mem.rds cmd.slot 0x80 32) else none

/-- FOUND other than 0 and 1 belongs to no row of its own and is out of range here. -/
def joinRow (cmd : Cmd) : Bool := cmd.e 0x58 1 != 1
def foundRow (cmd : Cmd) : Bool := cmd.e 0x58 1 = 1

def joinBad (_ : Clock) (_ : Dev) (cmd : Cmd) : Bool := cmd.e 0x58 1 > 1 || 4096 ≤ cmd.f 0x44 2

/-- `fetched`: the member's answer, where it comes at once; otherwise the command runs until GENERATION_FETCHED. -/
def joinRun (fetched : Option PlatGen) (c : Clock) (d : Dev) (cmd : Cmd) : Dev :=
  let j : Joining := ⟨cmd.ref, cmd.f 0x40 4, cmd.f 0x44 2, cmd.cak⟩
  match fetched with
  | some g => d.endJoin c j g
  | none =>
    if d.plat.joining.isSome then d.refuse cmd.ref stBusy
    else ({ d with plat := { d.plat with joining := some j } }).send clsControl (cmd.f 0x44 2) (.fetchGen 0)

/-- A node that changes its domain takes another DATUM_EPOCH_S: its datum-time unit starts again from UNSYNC (R363, R365). -/
def onDomain (f : Clock → Dev → Dev) (c : Clock) (d : Dev) : Clock × Dev :=
  let d1 := f c d
  (if d.domain?.isSome && d1.domain? != d.domain? then { c with state := .unsync, errBound := 0xFFFFFFFF, valid := false, lockRun := 0, ptpPort := none, pins := false } else c, d1)

def platJoin (k : Take) (fetched : Option PlatGen) : Clock → Dev → Dev := runSlot 0x0B02 joinRow joinBad noAreas (joinRun fetched) k

def execPlatJoin (k : Take) (fetched : Option PlatGen) (s : State) : Host.Outcome State Fault Refusal :=
  happens (.platJoin k fetched) k.t (·.onClk (onDomain (platJoin k fetched))) s

/-- Parcels and search spaces of a first generation: one of each identifier, none NO_PARCEL, groups of 1 to 4,096 members (R17, R19). -/
def namesBad (g : PlatGen) : Bool :=
  let ps := g.leaves.map (·.parcel) ++ g.groups.map (·.parcel)
  ps.contains Config.noParcel || ps.dedup.length != ps.length || (g.spaces.map (·.id)).dedup.length != g.spaces.length ||
    g.groups.any fun x => x.members.contains Config.noParcel || !(inRange x.members.length 1 Config.maxMembers)

/-- The first generation is malformed, or not a first one. -/
def foundBad (g : PlatGen) (cbs : List Space) (_ : Clock) (_ : Dev) (cmd : Cmd) : Bool :=
  g.domain != cmd.f 0x40 4 || g.term != 1 || genBad g || namesBad g || g.spaces.any fun s => !(cbs.any fun x => x.id = s.id && x.planGen = s.planGen && x.tag = s.tag && x.formed)

def foundAreas (_ : Dev) (cmd : Cmd) : List (Nat × Nat) := [(cmd.e 0x60 8, cmd.e 0x68 8)]

/-- A founding member stores the first generation and tells the others; the command ends once it is stored (R358, R374). -/
def foundRun (g : PlatGen) (cbs : List Space) (c : Clock) (d : Dev) (cmd : Cmd) : Dev :=
  if !(versionOk g.version) then d.refuse cmd.ref stVersion
  else
    let d1 := d.enterDomain c g cbs (cmd.f 0x44 2) cmd.cak
    let me := d1.plat.nodeId
    let d2 := { d1 with plat := { d1.plat with founding := some (g, if g.quorum.contains me then [me] else []) } }
    (d2.sendAll clsControl (g.quorum.filter fun n => n != me) (.stored 1 0)).endCmd c cmd.ref stOk 0 0 []

def found (k : Take) (g : PlatGen) (cbs : List Space) : Clock → Dev → Dev := runSlot 0x0B02 foundRow (foundBad g cbs) foundAreas (foundRun g cbs) k

def execFound (k : Take) (g : PlatGen) (codebooks : List Space) (s : State) : Host.Outcome State Fault Refusal :=
  happens (.found k g codebooks) k.t (·.onClk (onDomain (found k g codebooks))) s

/-! ### Generations and codebooks that arrive (R371, R381) -/

/-- A generation arrives from a quorum member: for a plat.join that waits, or one of this node's domain. -/
def generationFetched (g : PlatGen) (c : Clock) (d : Dev) : Dev :=
  match d.plat.joining with
  | some j => d.endJoin c j g
  | none => if d.domain? = some g.domain then (d.learnGen c g).retryAll c else d

def execGenerationFetched (t : Nat) (g : PlatGen) (s : State) : Host.Outcome State Fault Refusal :=
  happens (.generationFetched t g) t (·.onClk (onDomain (generationFetched g))) s

/-- A codebook arrives; admissions that waited for it go on (R371). -/
def codebookFetch (sp : Space) (c : Clock) (d : Dev) : Dev :=
  if !(sp.formed) || !(d.plat.gens.any fun g => (d.missingSpaces g).any fun s => s.id = sp.id && s.planGen = sp.planGen && s.tag = sp.tag) then d
  else ({ d with plat := { d.plat with spaces := d.plat.spaces ++ [sp] } }).retryAll c

def execCodebookFetch (t : Nat) (sp : Space) (s : State) : Host.Outcome State Fault Refusal :=
  happens (.codebookFetch t sp) t (·.onDev (codebookFetch sp)) s

/-! ### The start of a station (R138, R142, R368, R378, R553) -/

/-- A new quorum takes over at its generation's FROM_STATION, or the first station after it that occurs (R142): a chair outside it stops, and the member at position 0 is chair for TERM + 1; a chair within it stays (R553). -/
def Dev.newQuorum (d : Dev) (c : Clock) : Dev :=
  let st := d.station c
  match d.genNow c, (d.genNow c).bind fun g => genAt d.plat.gens (g.fromStation - 1) with
  | some g, some old =>
    if occurring d.plat.gens g.fromStation != st || g.quorum = old.quorum || d.plat.quorumFrom = st then d
    else
      let was := d.knownChair c
      let d1 := { d with plat := { d.plat with heard := max d.plat.heard st, quorumFrom := st } }
      if (was.map fun n => g.quorum.contains n) = some true then d1
      else
        let d2 := if d1.plat.chair then d1.stepDown else d1
        { d2 with plat := { d2.plat with chair := decide (g.quorum.head? = some d2.plat.nodeId) && c.valid, term := if g.quorum.contains d2.plat.nodeId then d2.plat.term + 1 else d2.plat.term } }
  | _, _ => d

/-- A connection's version: DOMAIN_VERSION in force; a node without a generation joins with the version of its image (R358, R363). -/
def Dev.connVersion (d : Dev) (c : Clock) : Nat := (((d.genNow c).orElse fun _ => d.newest).map (·.version)).getD Config.verMax

/-- Connections run at DOMAIN_VERSION from the station at which it changes (R358). -/
def Dev.versionStation (d : Dev) (c : Clock) : Dev :=
  if d.plat.gens.isEmpty then d
  else { d with fab := { d.fab with conns := d.fab.conns.map fun e => (e.1, if e.2.up then { e.2 with version := d.connVersion c } else e.2) } }

/-- A node that missed the beacon of the station before fetches it from a member that can be reached, the first in position order (R370; DESIGN CHOICE, log 43). -/
def Dev.fetchMissed (d : Dev) (c : Clock) : Dev :=
  let a := d.station c - 1
  if d.plat.gens.isEmpty || (match d.plat.beacon with | some b => decide (a ≤ b.station) | none => false) then d
  else match (d.quorumNow c).find? fun n => n != d.plat.nodeId && !(d.plat.unreachable.contains n) with
    | some n => d.send clsControl n (.fetchBeacon a)
    | none => d

/-- Once per station: the quorum of a generation that comes into force, the chair's time, monuments, and every leaf. What is compared with the current station (visibility, shadows, the generation in force) needs no step of its own. -/
def stationStart (c : Clock) (d : Dev) : Dev :=
  if !(d.live) then d
  else
    let d1 := if d.chairLapsed c then d.stepDown else d.newQuorum c
    (((d1.versionStation c).fetchMissed c).monStation c).leafStation c

def execStationStart (t : Nat) (s : State) : Host.Outcome State Fault Refusal := happens (.stationStart t) t (·.onDev stationStart) s

end Sys2Proof.Machine
end

