-- ==== Sys2Proof/Machine/TimeUnit.lean ====
section
/-! DEFINITION. The datum-time unit: PTP and pin measurements, lock, holdover and the return of VALID (R351, R360 to R367, R384). -/

namespace Sys2Proof.Machine

/-- DATUM_EPOCH_S: of the newest generation, or of the join record; a node with neither has no datum time to follow (R363). -/
def Dev.epoch? (d : Dev) : Option Nat := (d.newest.map (·.epochS)).orElse fun _ => d.start.dir.join.map (·.epochS)

/-- Datum time moved by an offset; it does not go below 0. -/
def shiftTime (now : Nat) (off : Int) : Nat := ((now : Int) + off).toNat

/-- VALID may be 1: locked or in holdover, the bound at most 1,000 ns, and past the highest value held while VALID was 1 (R365, R366). -/
def Clock.mayBeValid (c : Clock) (ppb : Nat) : Bool :=
  c.state != .unsync && (c.state != .holdover || c.holdBound ppb ≤ 1000000000000) && (c.state != .locked || c.errBound ≤ 1000) && (c.hiValid < c.now || c.hiValid = 0)

/-- LOCKED with a measured offset: the bound is its magnitude and the 8 ns of two timestamps (R351, R365). -/
def Clock.lock (c : Clock) (off : Int) : Clock :=
  let c1 := { c with state := .locked, errBound := off.natAbs + 8, lockRun := 0 }
  if c.valid && off.natAbs + 8 ≤ 1000 then c1
  else { c1 with hiValid := if c.valid then max c.hiValid c.now else c.hiValid, valid := !c.valid && c1.mayBeValid 1 }

/-- One measured offset: the source's datum time less the node's (R365). -/
def Clock.measure (c : Clock) (off : Int) (ppb : Nat) : Clock :=
  match c.state with
  | .unsync =>
    if off.natAbs ≤ 250 then
      if 15 ≤ c.lockRun then c.lock off else { c with lockRun := c.lockRun + 1 }
    else { c with lockRun := 0, now := shiftTime c.now off }
  | .locked => if 1000 < off.natAbs then { c.unlock with now := shiftTime c.now off } else c.lock off
  | .holdover => if 1000000000 * off.natAbs ≤ c.holdBound ppb then c.lock off else c

/-- Frees that waited for VALID (R163, R194, R196, R367). -/
def Dev.dueFrees (d : Dev) (c : Clock) : Dev := ((d.leaves.map fun (l : Leaf) => l.parcel).foldl (fun (x : Dev) p => drainStationEvent p c x) d).monStation c

/-- What follows for the node when VALID changes: frees that waited take place, or a chair without valid datum time stops (R367, R369). -/
def Dev.onValid (d : Dev) (c c1 : Clock) : Dev := if !c.valid && c1.valid then d.dueFrees c1 else if d.chairLapsed c1 then d.stepDown else d

/-- A fabric port passes frames: UP, and with a secure association where MACsec is required (R352). -/
def FPort.passes (f : FPort) : Bool := f.link = .up && (!f.macsecEn || f.macsecUp)

/-- SOURCE takes PTP time (R361). -/
def Dev.usesPtp (d : Dev) : Bool := d.regs.source = 0 || d.regs.source = 2
def Dev.usesPins (d : Dev) : Bool := d.regs.source = 1 || d.regs.source = 2

/-- A measurement of the PTP instance of the port that supplies time (R361, R362, R365). -/
def ptpMeasurement (q : FabPort) (offset : Int) (c : Clock) (d : Dev) : Clock × Dev :=
  if d.timeRuns && d.usesPtp && d.epoch?.isSome && (vgetD d.fab.ports q.val FPort.reset).passes then
    let c1 := ({ c with ptpPort := some q, pins := false } : Clock).measure offset d.holdPpb
    (c1, d.onValid c c1)
  else (c, d)

def execPtpMeasurement (t : Nat) (q : FabPort) (offset : Int) (s : State) : Host.Outcome State Fault Refusal :=
  happens (.ptpMeasurement t q offset) t (·.onClk (ptpMeasurement q offset)) s

/-- A rising edge is timestamped (R364). -/
def time1pps (c : Clock) (d : Dev) : Clock × Dev := (if d.timeRuns && d.usesPins then { c with edge := some c.now } else c, d)

def execTime1pps (t : Nat) (s : State) : Host.Outcome State Fault Refusal := happens (.time1pps t) t (·.onClk time1pps) s

/-- A frame that R364 accepts: SYNC, VALID, zero reserved bits, a whole second, and its CHECK. -/
def todOk (f : List Byte) : Bool :=
  fieldN f 0 2 = 0x5AA5 && fieldN f 2 1 = 1 && fieldN f 3 1 = 0 && fieldN f 4 8 % 1000000000 = 0 && fieldN f 0xC 2 = 0 && fieldN f 0xE 2 = crc16 (f.take 14)

/-- The frame ends 10 ms to 500 ms, and the 1.389 ms it takes at 115,200 baud, after its edge (R364). -/
def todOnTime (now edge : Nat) : Bool := 10000000 ≤ now - edge && now - edge ≤ 501388889

/-- A TIME_TOD frame names the edge before it; the pins serve while SOURCE is PINS, or where PTP supplies no time (R361, R364). -/
def timeTod (frame : List Byte) (c : Clock) (d : Dev) : Clock × Dev :=
  match c.edge, d.epoch? with
  | some e, some ep =>
    if d.timeRuns && (d.regs.source = 1 || (d.regs.source = 2 && c.ptpPort.isNone)) && todOk frame && todOnTime c.now e then
      let c1 := ({ c with ptpPort := none, pins := true, edge := none } : Clock).measure ((fieldN frame 4 8 : Int) - 1000000000 * ep - e) d.holdPpb
      (c1, d.onValid c c1)
    else (c, d)
  | _, _ => (c, d)

def execTimeTod (t : Nat) (frame : List Byte) (s : State) : Host.Outcome State Fault Refusal :=
  happens (.timeTod t frame) t (·.onClk (timeTod frame)) s

/-- The source is lost: a LOCKED unit enters HOLDOVER with the bound it held (R365). -/
def timeSourceLoss (c : Clock) (d : Dev) : Clock × Dev :=
  let c1 := { c with ptpPort := none, pins := false, edge := none, lockRun := 0 }
  (if c.state = .locked then { c1 with state := .holdover, holdAt := c.now, holdBase := c.errBound } else c1, d)

def execTimeSourceLoss (t : Nat) (s : State) : Host.Outcome State Fault Refusal := happens (.timeSourceLoss t) t (·.onClk timeSourceLoss) s

/-- HOLDOVER ends when its bound exceeds 1,000 ns; a chair gives up its duties with valid datum time (R365, R367, R369). -/
def holdoverExpiry (c : Clock) (d : Dev) : Clock × Dev :=
  let c1 := c.expire d.holdPpb
  (c1, if d.chairLapsed c1 then d.stepDown else d)

def execHoldoverExpiry (t : Nat) (s : State) : Host.Outcome State Fault Refusal := happens (.holdoverExpiry t) t (·.onClk holdoverExpiry) s

/-- Datum time has passed the highest value held while VALID was last 1 (R366). -/
def validReturn (c : Clock) (d : Dev) : Clock × Dev :=
  if !c.valid && c.mayBeValid d.holdPpb then
    let c1 := { c with valid := true }
    (c1, d.dueFrees c1)
  else (c, d)

def execValidReturn (t : Nat) (s : State) : Host.Outcome State Fault Refusal := happens (.validReturn t) t (·.onClk validReturn) s

end Sys2Proof.Machine
end

