-- ==== Sys2Proof/Machine/Fabric.lean ====
section
/-! DEFINITION. Fabric ports and Traverse: packets, acknowledgement, retransmission, rates, peers that cannot be reached, egress shaping, links and MACsec (R350 to R358, R384, R449, R451, R463). -/

namespace Sys2Proof.Machine

/-! ### The header (R353) -/

def readHeader (bs : List Byte) : TvHeader :=
  let fl := fieldN bs 3 1
  { version := fieldN bs 0 1, type := fieldN bs 1 1, tclass := fieldN bs 2 1, first := bitAt fl 0, last := bitAt fl 1, ceEcho := bitAt fl 2, fwd := bitAt fl 3,
    src := fieldN bs 4 2, dst := fieldN bs 6 2, psn := fieldN bs 8 4, msgId := fieldN bs 0xC 4, msgOff := fieldN bs 0x10 4, msgLen := fieldN bs 0x14 4,
    ackPsn := fieldN bs 0x18 4, hcheck := fieldN bs 0x1C 4 }

/-- HCHECK covers bytes 0x00 to 0x1B and the payload. -/
def checkOk (bs : List Byte) : Bool := fieldN bs 0x1C 4 = crc32c (bs.take 28 ++ bs.drop 32)

/-- Distance from one 32-bit number up to another. -/
def psnGap (lo hi : Nat) : Nat := (hi + 2 ^ 32 - lo) % 2 ^ 32

/-- The receiver's window (R354). -/
def rxWindow : Nat := 1024

/-! ### Acknowledgement at the sender (R355, R356) -/

/-- A PSN that an acknowledgement names: up to ACK_PSN, or by bit i of the map for ACK_PSN + 1 + i. -/
def ackNames (ack map psn : Nat) : Bool :=
  psnGap psn ack < 2 ^ 31 || (psnGap ack psn ≤ 64 && bitAt map (psnGap ack psn - 1))

/-- max(20 µs, 4 × smoothed round-trip time), at most 1 ms. -/
def Conn.timer (k : Conn) : Nat := min 1000000 (max 20000 (4 * k.srtt))

/-- A message is acknowledged whole: nothing of it waits anywhere. -/
def Conn.sweepMsgs (k : Conn) (waiting : List Nat) : Conn :=
  { k with msgs := k.msgs.filter fun m => waiting.contains m.1 || (k.outstanding.any fun p => p.msg = m.1) || k.resend.any fun p => p.msg = m.1 }

/-- CE_ECHO halves the rate, at most once in a round-trip time. -/
def Conn.echo (k : Conn) (now : Nat) : Conn × Bool :=
  let k1 := { k with lastEcho := now }
  if k.lastHalve + k.srtt ≤ now || k.lastHalve = 0 then ({ k1 with rate := k.rate / 2, lastHalve := now }, true) else (k1, false)

/-- Takes an acknowledgement: progress, the smoothed time, and packets three later ones have overtaken (R355). -/
def Conn.acked (k : Conn) (ack map now : Nat) : Conn :=
  let hit := k.outstanding.filter fun p => ackNames ack map p.psn
  if hit.isEmpty then k
  else
    let rest := (k.outstanding.filter fun p => !(ackNames ack map p.psn)).map fun p =>
      { p with passed := p.passed + (hit.filter fun h => 0 < psnGap p.psn h.psn && psnGap p.psn h.psn < 2 ^ 31).length }
    let sample := (hit.getLast?.map fun p => now - p.sentAt).getD 0
    { k with outstanding := rest.filter (fun p => p.passed < 3), resend := (k.resend.filter fun p => !(ackNames ack map p.psn)) ++ rest.filter fun p => 3 ≤ p.passed,
             progress := now, srtt := Config.smooth k.srtt sample }

/-- Messages of a connection with bytes still at egress. -/
def Dev.atEgress (d : Dev) (peer cls : Nat) : List Nat := ((vgetD d.fab.egress cls []).filter fun m => m.peer = peer).map (·.msg)

def Dev.takeAck (d : Dev) (c : Clock) (peer cls ack map : Nat) (echo : Bool) : Dev :=
  let k := (d.conn peer cls).acked ack map c.now
  let e := if echo then k.echo c.now else (k, false)
  (d.updConn peer cls fun _ => e.1.sweepMsgs (d.atEgress peer cls)).count 97 cls (boolNat e.2)

/-! ### The receiver (R354, R355) -/

/-- Bytes of a message in order, when no byte is missing. -/
def RxMsg.whole (m : RxMsg) : Option (List Byte) :=
  let segs := sortBy (fun (a b : Nat × List Byte) => a.1 ≤ b.1) m.segs
  let bs := segs.foldl (fun (acc : Option (List Byte)) s => acc.bind fun x => if s.1 = x.length then some (x ++ s.2) else none) (some [])
  bs.filter fun x => x.length = m.total

def Conn.addSegment (k : Conn) (h : TvHeader) (payload : List Byte) : Conn :=
  if k.rxMsgs.any fun m => m.id = h.msgId then
    { k with rxMsgs := updIf (fun m => m.id = h.msgId) (fun m => { m with segs := m.segs ++ [(h.msgOff, payload)] }) k.rxMsgs }
  else { k with rxMsgs := k.rxMsgs ++ [⟨h.msgId, h.msgLen, [(h.msgOff, payload)]⟩] }

/-- The next expected PSN moves over those received (R354). -/
def Conn.advance (k : Conn) : Nat → Conn
  | 0 => k
  | n + 1 =>
    if k.rxMap.contains k.rxCum then ({ k with rxMap := k.rxMap.filter (fun p => p != k.rxCum), rxCum := (k.rxCum + 1) % 2 ^ 32 } : Conn).advance n else k

/-- Whole messages are delivered in MSG_ID order. -/
def Dev.deliver (d : Dev) (peer cls : Nat) : Nat → Dev
  | 0 => d
  | n + 1 =>
    let k := d.conn peer cls
    match (k.rxMsgs.find? fun m => m.id = k.rxNextMsg).bind RxMsg.whole with
    | none => d
    | some bs =>
      let d1 := d.updConn peer cls fun x => { x with rxMsgs := x.rxMsgs.filter (fun m => m.id != x.rxNextMsg), rxNextMsg := (x.rxNextMsg + 1) % 2 ^ 32 }
      ({ d1 with fab := { d1.fab with rxDone := d1.fab.rxDone ++ [(peer, cls, bs)] } }).deliver peer cls n

/-- The 64-bit map of the PSNs that follow ACK_PSN. -/
def Conn.ackMap (k : Conn) : Nat := natSum ((List.range 64).map fun i => if k.rxMap.contains ((k.rxCum + i) % 2 ^ 32) then 2 ^ i else 0)

/-- An acknowledgement leaves: ACK_PSN is the last PSN received in order. -/
def Dev.sendAck (d : Dev) (peer cls : Nat) : Dev :=
  let k := d.conn peer cls
  let d1 := d.updConn peer cls fun x => { x with unacked := 0, ackDue := none, ceSeen := false }
  { d1 with fab := { d1.fab with acks := d1.fab.acks ++ [⟨peer, cls, (k.rxCum + 4294967295) % 4294967296, k.ackMap, k.ceSeen⟩] } }

/-- VERSION that a packet of a connection carries: the connection's own; a node that holds no generation does not know DOMAIN_VERSION and takes any it supports (R358, R363; DEDUCED, log 43). -/
def Dev.versionFits (d : Dev) (k : Conn) (v : Nat) : Bool := v = k.version || (d.plat.gens.isEmpty && inRange v Config.verMin Config.verMax)

/-- A packet of an up connection of this node's, in the connection's version, with no reserved bit set. -/
def Dev.packetOk (d : Dev) (bs : List Byte) (h : TvHeader) (type : Nat) : Bool :=
  h.type = type && h.tclass < 4 && h.dst = d.plat.nodeId && h.src < 4096 && fieldN bs 3 1 < 16 && (d.conn h.src h.tclass).up && d.versionFits (d.conn h.src h.tclass) h.version

/-- A segment inside its message. -/
def segmentOk (h : TvHeader) (n : Nat) : Bool := inRange h.msgLen 1 16777216 && h.msgOff + n ≤ h.msgLen

/-- Frames pass this port now. -/
def Dev.portPasses (d : Dev) (q : FabPort) : Bool := d.live && (d.fab.ports[q]).passes

def Dev.notePacket (d : Dev) (c : Clock) (q : FabPort) : Dev := { d with fab := { d.fab with ports := vupd d.fab.ports q fun f => { f with lastRx := c.now } } }

/-- A DATA packet: checked, placed in its message, and its acknowledgement taken (R354, R355). -/
def traverseData (q : FabPort) (ce : Bool) (bs : List Byte) (c : Clock) (d : Dev) : Dev :=
  if !(d.portPasses q) then d
  else
    let d0 := d.notePacket c q
    let h := readHeader bs
    let pay := bs.drop 32
    if !(checkOk bs) then d0.count 95 q.val 1
    else if !(d0.packetOk bs h 1) || !(segmentOk h pay.length) then d0
    else
      let d1 := (d0.count 94 q.val pay.length).takeAck c h.src h.tclass h.ackPsn 0 h.ceEcho
      let k := d1.conn h.src h.tclass
      let fresh := psnGap k.rxCum h.psn < rxWindow && !(k.rxMap.contains h.psn)
      let k1 := if fresh then ({ k with rxMap := k.rxMap ++ [h.psn] } : Conn).addSegment h pay else k
      let k2 := { k1.advance k1.rxMap.length with unacked := k.unacked + 1, ceSeen := k.ceSeen || ce, ackDue := k.ackDue.orElse fun _ => some (c.now + 5000) }
      let d2 := (d1.updConn h.src h.tclass fun _ => k2).deliver h.src h.tclass k2.rxMsgs.length
      if 16 ≤ k2.unacked then d2.sendAck h.src h.tclass else d2

def execTraverseData (t : Nat) (q : FabPort) (ce : Bool) (bytes : List Byte) (s : State) : Host.Outcome State Fault Refusal :=
  happens (.traverseData t q ce bytes) t (·.onDev (traverseData q ce bytes)) s

/-- An ACK packet: ACK_PSN and the map in its payload (R355, R356). -/
def traverseAck (q : FabPort) (bs : List Byte) (c : Clock) (d : Dev) : Dev :=
  if !(d.portPasses q) then d
  else
    let d0 := d.notePacket c q
    let h := readHeader bs
    if !(checkOk bs) then d0.count 95 q.val 1
    else if !(d0.packetOk bs h 2) then d0
    else d0.takeAck c h.src h.tclass h.ackPsn (fieldN bs 32 8) h.ceEcho

def execTraverseAck (t : Nat) (q : FabPort) (bytes : List Byte) (s : State) : Host.Outcome State Fault Refusal :=
  happens (.traverseAck t q bytes) t (·.onDev (traverseAck q bytes)) s

/-- 5 µs after a packet, or 16 packets: the acknowledgement leaves (R355). -/
def ackTimer (peer cls : Nat) (c : Clock) (d : Dev) : Dev :=
  match (d.conn peer cls).ackDue with
  | some t => if t ≤ c.now || 16 ≤ (d.conn peer cls).unacked then d.sendAck peer cls else d
  | none => d

def execAckTimer (t : Nat) (peer cls : Nat) (s : State) : Host.Outcome State Fault Refusal :=
  happens (.ackTimer t peer cls) t (·.onDev (ackTimer peer cls)) s

/-- Packets whose timer has run out are sent again (R355). -/
def retransmitTimeout (peer cls : Nat) (c : Clock) (d : Dev) : Dev :=
  let k := d.conn peer cls
  let out := fun (p : TxPkt) => decide (p.sentAt + k.timer ≤ c.now)
  if !(k.outstanding.any out) then d
  else d.updConn peer cls fun x => { x with outstanding := x.outstanding.filter (fun p => !(out p)), resend := x.resend ++ x.outstanding.filter out }

def execRetransmitTimeout (t : Nat) (peer cls : Nat) (s : State) : Host.Outcome State Fault Refusal :=
  happens (.retransmitTimeout t peer cls) t (·.onDev (retransmitTimeout peer cls)) s

/-- A round-trip time without an echo raises the rate by 1 Gb/s, up to line rate (R356). -/
def rateRaise (peer cls : Nat) (c : Clock) (d : Dev) : Dev :=
  let k := d.conn peer cls
  if !k.up || c.now < max k.lastEcho k.lastRaise + k.srtt then d
  else d.updConn peer cls fun x => { x with rate := min Config.lineRate (x.rate + 1000), lastRaise := c.now }

def execRateRaise (t : Nat) (peer cls : Nat) (s : State) : Host.Outcome State Fault Refusal :=
  happens (.rateRaise t peer cls) t (·.onDev (rateRaise peer cls)) s

/-! ### Peers (R355, R358) -/

/-- What a message that fails back means to its sender: an attempt or a remote read fails without raising the lateness count, a command is routed again, a fetch is asked of another member; records and marks are left to lapses and later fetches (R355, R389, R394, R397). -/
def Dev.failBack (d : Dev) (c : Clock) : OutMsg → Dev
  | .fragments fs => fs.foldl (fun (x : Dev) f => x.attemptFails c f.key .failed true) d
  | .rowRequest r => if r.root = d.plat.nodeId then chainReadComplete r.tag .unreachable c d else d
  | .update u => if u.entry = d.plat.nodeId then stalePlatUpdateAnswer u.key c d else d
  | .propose key _ _ _ _ =>
    (match d.plat.forwarded.find? fun f => f.key = key with
     | some f => (d.dropForwarded f.ref).refuse f.ref stBusy
     | none => d)
  | .fetchGen n => ({ d with plat := { d.plat with wanted := d.plat.wanted.filter fun x => x != n } }).wantGen n
  | _ => d

/-- Takes a connection down: everything outstanding or waiting to go to the peer fails back (R355). -/
def Dev.dropConn (d : Dev) (c : Clock) (peer : Nat) (cls : Fin 4) : Dev :=
  let msgs := (d.conn peer cls).msgs.map (·.2)
  let d1 := { d with fab := { d.fab with egress := vupd d.fab.egress cls fun q => q.filter fun m => m.peer != peer } }
  msgs.foldl (fun (x : Dev) m => x.failBack c m) (d1.updConn peer cls fun _ => Conn.fresh)

def clsFin (cls : Nat) : Fin 4 := Fin.ofNat 4 cls

/-- Every connection to a peer fails what is outstanding on it back and starts again with HELLO. -/
def Dev.losePeer (d : Dev) (c : Clock) (peer : Nat) : Dev :=
  ((List.finRange 4).filter fun (cls : Fin 4) => (d.conn peer cls.val).up).foldl (fun (x : Dev) (cls : Fin 4) => (x.dropConn c peer cls).sendHello peer cls) d

/-- PEER_DEAD_NS without acknowledgement progress while packets are outstanding: the peer is unreachable, and every message outstanding to it fails back (R355). -/
def peerUnreachable (peer cls : Nat) (c : Clock) (d : Dev) : Dev :=
  let k := d.conn peer cls
  if !k.up || (k.outstanding.isEmpty && k.resend.isEmpty) || c.now < k.progress + (d.timing c).peerDeadNs then d
  else
    let d1 := { d with plat := { d.plat with unreachable := if d.plat.unreachable.contains peer then d.plat.unreachable else d.plat.unreachable ++ [peer] } }
    (d1.count 98 0 1).losePeer c peer

def execPeerUnreachable (t : Nat) (peer cls : Nat) (s : State) : Host.Outcome State Fault Refusal :=
  happens (.peerUnreachable t peer cls) t (·.onDev (peerUnreachable peer cls)) s

/-- What this node still lacks from a peer is asked for anew: codebooks and fills. -/
def Dev.askAgain (d : Dev) (c : Clock) (peer : Nat) : Dev :=
  match d.newest with
  | none => d
  | some g =>
    let d1 := if d.askNode g = peer then (d.missingSpaces g).foldl (fun (x : Dev) s => x.send clsControl peer (.fetchCodebook s.id)) d else d
    (d1.leaves.filter fun (l : Leaf) => d1.awaitsImage l && (d1.copiesAt l.parcel (d1.station c)).any fun x => x.node = peer).foldl (fun (x : Dev) (l : Leaf) => x.askFill g l.parcel) d1

/-- A HELLO starts a connection anew when both ends support DOMAIN_VERSION; otherwise it stays down and the peer counts as unreachable (R355, R358). What was queued for a connection that was down goes on it. Ports the peer withdraws are noted (R463). -/
def hello (peer cls vmin vmax : Nat) (withdrawn : List FabPort) (c : Clock) (d : Dev) : Dev :=
  if !(d.live) then d
  else
    let v := d.connVersion c
    let d0 := { d with plat := { d.plat with ranges := NMap.put d.plat.ranges peer (vmin, vmax) }, fab := { d.fab with peerHeld := NMap.put d.fab.peerHeld peer withdrawn } }
    if inRange v vmin vmax && versionOk v then
      if (d0.conn peer cls).up && d.fab.peerHeld != d0.fab.peerHeld then d0
      else
        let d1 := if (d0.conn peer cls).up then d0.dropConn c peer (clsFin cls) else d0
        let d2 := d1.updConn peer cls fun k => { k with up := true, version := v, progress := c.now }
        ({ d2 with plat := { d2.plat with unreachable := d2.plat.unreachable.filter fun n => n != peer } }).askAgain c peer
    else
      let d1 := d0.dropConn c peer (clsFin cls)
      if d1.plat.unreachable.contains peer then d1 else { d1 with plat := { d1.plat with unreachable := d1.plat.unreachable ++ [peer] } }

def execHello (t : Nat) (peer cls : Nat) (vmin vmax : Nat) (withdrawn : List FabPort) (s : State) : Host.Outcome State Fault Refusal :=
  happens (.hello t peer cls vmin vmax withdrawn) t (·.onDev (hello peer cls vmin vmax withdrawn)) s

/-! ### Egress (R354, R356, R449) -/

/-- A packet that may leave: its peer, the packet, and whether it is sent again. -/
structure Ready where
  peer : Nat
  pkt : TxPkt
  again : Bool
  deriving DecidableEq, Repr

def TxPkt.size (p : TxPkt) : Nat := 80 + p.len

/-- A port that sends: UP, secured where it must be, and not held (R352, R354, R463). -/
def Dev.portSends (d : Dev) (q : FabPort) : Bool := d.portPasses q && !(d.heldBit 3 q.val)

/-- The port of a connection's next packet, round robin over those that send (R354). -/
def Dev.nextPort (d : Dev) (k : Conn) : Option FabPort := ((List.finRange 8).map fun i => Fin.ofNat 8 (k.lastPort + 1 + i.val)).find? d.portSends

/-- The port of a loop-back message's packets: that of the test alone (R531). -/
def Dev.echoPort (d : Dev) (k : Conn) (peer msg : Nat) : Option Nat :=
  match NMap.get? k.msgs msg with
  | some (.echo _) => (d.tst.loops.find? fun t => t.iface = 1 && t.depth = 4 && t.node = peer).map (·.unit)
  | _ => none

/-- Beacons, and what asks for one or says that it is stored: all that PS2 sends beside PTP and HELLO (R369, R370, R471). -/
def OutMsg.ofBeacon : OutMsg → Bool
  | .beacon _ => true
  | .storeBeacon _ => true
  | .stored _ _ => true
  | .fetchBeacon _ => true
  | _ => false

/-- A packet of a message may leave through a port now: the power state lets the message out, the connection is up, its rate allows one, and the port is the next in turn (R354, R356, R471). -/
def Dev.mayLeave (d : Dev) (c : Clock) (q : FabPort) (k : Conn) (peer msg : Nat) : Bool :=
  (d.pwr.ps != 2 || ((NMap.get? k.msgs msg).map OutMsg.ofBeacon).getD false) && k.up && k.paceAt ≤ 1000 * c.now && (match d.echoPort k peer msg with | some u => u = q.val | none => d.nextPort k = some q)

/-- The first packet of a class: one to be sent again, else the next segment of the first message whose connection has room in the window. -/
def Dev.readyOf (d : Dev) (c : Clock) (q : FabPort) (cls : Nat) : Option Ready :=
  let again := d.fab.conns.findSome? fun e => if e.1 % 4 = cls then
    ((e.2.resend.head?).filter fun p => d.mayLeave c q e.2 (e.1 / 4) p.msg).map fun p => (⟨e.1 / 4, { p with sentAt := c.now, passed := 0, port := q.val }, true⟩ : Ready) else none
  match again with
  | some r => some r
  | none =>
    (vgetD d.fab.egress cls []).findSome? fun m =>
      let k := d.conn m.peer cls
      if d.mayLeave c q k m.peer m.msg && k.outstanding.length + k.resend.length < rxWindow then
        some ⟨m.peer, ⟨k.nextPsn, m.msg, m.sent, min 8192 (m.total - m.sent), m.total, c.now, 0, q.val⟩, false⟩
      else none

/-- The class sent at an opportunity, with green: CONTROL; a green packet by ascending class; an eligible one, round robin (R449). -/
def Dev.pickClass (d : Dev) (c : Clock) (q : FabPort) : Option (Nat × Bool) :=
  let size := fun (cls : Nat) => (d.readyOf c q cls).map fun r => r.pkt.size
  let elig := fun (cls : Nat) => match size cls with | some n => (d.shaper (cls - 1)).peakPasses n | none => false
  let green := fun (cls : Nat) => match size cls with | some n => (d.shaper (cls - 1)).peakPasses n && (d.shaper (cls - 1)).greenPasses n | none => false
  if (size 0).isSome then some (0, false)
  else
    match [1, 2, 3].find? green with
    | some cls => some (cls, true)
    | none => ([1, 2, 3].map fun i => (d.fab.rr + i - 1) % 3 + 1).find? elig |>.map fun cls => (cls, false)

/-- Debits of a packet of L bytes; an unlimited bucket stays full (R445, R449). -/
def Shaper.debit (s : Shaper) (n : Nat) (green : Bool) : Shaper :=
  { s with p := if s.cfg.pir.isNone then s.p else s.p.take n, c := if green && s.cfg.cir.isSome then s.c.take n else s.c }

/-- The packet as the port sends it (R353). -/
def Dev.packetOut (d : Dev) (q : FabPort) (cls : Fin 4) (k : Conn) (r : Ready) : PacketOut :=
  { port := q.val, dscp := d.fab.dscp[cls], version := k.version, cls := cls.val, first := decide (r.pkt.off = 0), last := decide (r.pkt.off + r.pkt.len = r.pkt.total),
    ceEcho := k.ceSeen, src := d.plat.nodeId, dst := r.peer, psn := r.pkt.psn, msgId := r.pkt.msg, msgOff := r.pkt.off, len := r.pkt.len, msgLen := r.pkt.total,
    ackPsn := (k.rxCum + 4294967295) % 4294967296 }

/-- Picoseconds that a packet of n bytes takes at a rate in Mb/s. -/
def paceOf (n rate : Nat) : Nat := ceilDiv (8000000 * n) (max 1 rate)

/-- The packet leaves: it waits for acknowledgement, and its message moves on. -/
def Dev.leave (d : Dev) (c : Clock) (q : FabPort) (cls : Fin 4) (r : Ready) : Dev :=
  let k := d.conn r.peer cls
  let prog := if k.outstanding.isEmpty && k.resend.isEmpty then c.now else k.progress
  let k1 := { k with outstanding := k.outstanding ++ [r.pkt], progress := prog, resend := if r.again then k.resend.drop 1 else k.resend, lastPort := q.val,
                     paceAt := max k.paceAt (1000 * c.now) + paceOf r.pkt.size k.rate,
                     nextPsn := if r.again then k.nextPsn else (k.nextPsn + 1) % 2 ^ 32 }
  let d1 := d.updConn r.peer cls fun _ => k1
  let hit := fun (m : EgMsg) => decide (m.peer = r.peer) && decide (m.msg = r.pkt.msg)
  let d2 := if r.again then d1
    else { d1 with fab := { d1.fab with egress := vupd d1.fab.egress cls fun x =>
      (updIf hit (fun m => { m with sent := m.sent + r.pkt.len }) x).filter fun m => m.sent < m.total } }
  let d3 := { d2 with fab := { d2.fab with txLog := d2.fab.txLog ++ [d.packetOut q cls k r] } }
  (d3.count 93 q.val r.pkt.len).count 96 cls (boolNat r.again)

/-- At an egress opportunity one packet leaves, if any may (R449, R451). -/
def egressOpportunity (q : FabPort) (c : Clock) (d : Dev) : Dev :=
  if !(d.portSends q) then d
  else
    match d.pickClass c q with
    | none => d
    | some (cls, green) =>
      match d.readyOf c q cls with
      | none => d
      | some r =>
        let d1 := d.leave c q (clsFin cls) r
        if cls = 0 then d1
        else
          let d2 := { d1 with adm := { d1.adm with shapers := vupdN d1.adm.shapers (cls - 1) fun s => s.debit r.pkt.size green },
                              fab := { d1.fab with rr := if green then d1.fab.rr else cls } }
          d2.count (if green then 113 else 114) cls r.pkt.size

def execEgressOpportunity (t : Nat) (q : FabPort) (s : State) : Host.Outcome State Fault Refusal :=
  happens (.egressOpportunity t q) t (·.onDev (egressOpportunity q)) s

/-! ### Links and MACsec (R350, R352, R384) -/

/-- Training completes: the link is UP with its eight lanes and joins round robin and PTP. -/
def fabricLinkUp (q : FabPort) (_ : Clock) (d : Dev) : Dev :=
  let f := d.fab.ports[q]
  let held := d.tst.loopHolds 1 q.val || d.brd.lost.contains (.fb ⟨q.val / 4, by omega⟩) || d.inReset 3 q.val
  if !(d.service && f.enable && f.link != .up && f.link != .disabled) || held then d
  else { d with fab := { d.fab with ports := vupd d.fab.ports q fun x => { x with link := .up, lanes := 0xFF, macsecUp := false } } }

def execFabricLinkUp (t : Nat) (q : FabPort) (s : State) : Host.Outcome State Fault Refusal :=
  happens (.fabricLinkUp t q) t (·.onDev (fabricLinkUp q)) s

/-- The link leaves UP; connections stop sending through it, and it supplies no time. -/
def fabricLinkDown (q : FabPort) (c : Clock) (d : Dev) : Clock × Dev :=
  if (d.fab.ports[q]).link != .up then (c, d)
  else (c.dropPort q, { d with fab := { d.fab with ports := vupd d.fab.ports q fun x => { x with link := .down, lanes := 0, macsecUp := false } } })

def execFabricLinkDown (t : Nat) (q : FabPort) (s : State) : Host.Outcome State Fault Refusal :=
  happens (.fabricLinkDown t q) t (·.onClk (fabricLinkDown q)) s

/-- MKA, run with the key of plat.join, brings an association into use (R352). -/
def secureAssociation (q : FabPort) (_ : Clock) (d : Dev) : Dev :=
  let f := d.fab.ports[q]
  if f.macsecEn && f.link = .up && d.plat.cak.isSome then { d with fab := { d.fab with ports := vupd d.fab.ports q fun x => { x with macsecUp := true } } } else d

def execSecureAssociation (t : Nat) (q : FabPort) (s : State) : Host.Outcome State Fault Refusal :=
  happens (.secureAssociation t q) t (·.onDev (secureAssociation q)) s

end Sys2Proof.Machine
end

