-- ==== Sys2Proof/Machine/Media.lean ====
section
/-! DEFINITION. What the flash media report: reads, programs, erases, and the journal's programs (R73, R322, R325 to R328, R335 to R338). -/

namespace Sys2Proof.Machine

/-! ### Erasing a source block (R335, steps 3 and 4) -/

/-- A source whose GC record is durable is erased once no read issued against it is outstanding. -/
def Dev.tryErase (d : Dev) (ch src : Nat) : Dev :=
  let x := d.chan ch
  if (x.jobs.any fun j => j.src = src && j.erasing) && !(x.reads.any fun r => r.block = src) && !(x.erases.contains src) && !d.flash.held then
    d.updChan ch fun y => { y with erases := y.erases ++ [src] }
  else d

/-- Writes and erases that waited go on (R334, R343). -/
def Dev.flashGoOn (d : Dev) : Dev :=
  (List.range 32).foldl (fun (x : Dev) ch => ((x.chan ch).jobs.map (·.src)).foldl (fun (y : Dev) s => y.tryErase ch s) (x.drainAll ch)) d

/-- A new arbitration period: the weights of FLS.READ_SHARE, times 4, with BACKGROUND less a quarter for each governor notch (R344, R345, R348). -/
def arbitrationPeriod (_ : Clock) (d : Dev) : Dev :=
  let f := d.flash
  ({ d with flash := { f with active := [4 * weightOf f.wChain, 4 * weightOf f.wTrav, 4 * weightOf f.wStream, (4 - d.pwr.bgNotch) * weightOf f.wBack] } }).flashGoOn

def execArbitrationPeriod (t : Nat) (s : State) : Host.Outcome State Fault Refusal :=
  happens (.arbitrationPeriod t) t (·.onDev arbitrationPeriod) s

/-! ### Reads (R73, R322) -/

/-- A read whose page still holds the unit makes it uncorrectable until it is written whole. -/
def FChan.readBad (x : FChan) (r : FRead) : FChan :=
  if ((NMap.get? x.map r.unit).map (·.block)) = some r.block && !(x.badUnits.contains r.unit) then { x with badUnits := x.badUnits ++ [r.unit] } else x

/-- `retries`: threshold sets tried, at most 8; `soft`: the soft decode after them was needed; `heavy`: more than 75 % of the code's capability was used; `bad`: codewords that fail even so. -/
def flashReadComplete (ch : Chan) (rd retries : Nat) (soft heavy : Bool) (bad : List (Fin 4)) (_ : Clock) (d : Dev) : Dev :=
  match (d.chan ch.val).reads.find? fun r => r.id = rd with
  | none => d
  | some r =>
    let worn := decide (1 < retries) || heavy
    let d1 := d.updChan ch.val fun x =>
      let y := { x with reads := x.reads.filter fun q => q.id != rd, uncorrectable := x.uncorrectable + bad.length,
                        refresh := if worn && !(x.refresh.contains r.block) then x.refresh ++ [r.block] else x.refresh }
      if bad.isEmpty then y else y.readBad r
    let d2 := ((d1.count 81 (4 * ch.val + r.cls) 1).count 82 ch.val (retries + boolNat soft)).count 83 ch.val bad.length
    let d3 :=
      if r.cls = 1 && !bad.isEmpty then
        (match d2.scan.travs.find? fun t => t.id = r.owner with | some t => d2.abandonTrav t | none => d2)
      else d2
    d3.tryErase ch.val r.block

def execFlashReadComplete (t : Nat) (c : Chan) (rd : Nat) (retries : Nat) (soft : Bool) (heavy : Bool) (bad : List (Fin 4)) (s : State) :
    Host.Outcome State Fault Refusal :=
  happens (.flashReadComplete t c rd retries soft heavy bad) t (·.onDev (flashReadComplete c rd retries soft heavy bad)) s

/-! ### Programs (R326, R331, R335, R336) -/

/-- A page of a block holds a new program. -/
def FChan.programmed (x : FChan) (p : FProg) : FChan :=
  { x with progs := x.progs.filter fun q => q.wseq != p.wseq, blocks := updIf (fun b => b.no = p.block) (fun b => { b with used := b.used + 1 }) x.blocks }

/-- A copy is recorded only while no newer write of its unit exists (R335, step 1). -/
def Dev.copyStands (d : Dev) (ch : Nat) (p : FProg) : Bool :=
  ((NMap.get? (d.chan ch).map p.unit).map (·.wseq)).getD 0 = p.oldSeq && !(d.flash.unitBusy ch p.unit)

/-- A unit of a job has been copied, or need not be. -/
def Dev.copyDone (d : Dev) (c : Clock) (ch src : Nat) (p : FProg) (stands : Bool) : Dev :=
  let folding := (d.chan ch).jobs.any fun j => j.src = src && j.kind = .foldJob
  let d1 := d.updChan ch fun x =>
    { x with jobs := updIf (fun j => j.src = src) (fun j => { j with left := j.left.erase p.unit, copied := if stands then j.copied ++ [(p.unit, p.block, p.page, p.wseq)] else j.copied }) x.jobs }
  (if stands then d1.count (if folding then 88 else 87) ch 1 else d1).logJob c ch src

/-- A unit that was on its way into a block being emptied has arrived, and is copied, or will not arrive. -/
def Dev.lateUnit (d : Dev) (c : Clock) (ch block unit : Nat) : Dev :=
  let x := d.chan ch
  if !(x.jobs.any fun j => j.src = block && !j.logged && j.left.contains unit) then d
  else if ((NMap.get? x.map unit).map (·.block)) = some block then (d.issueRead ch unit 3 0).program ch unit (some block) (x.denseDest ch)
  else (d.updChan ch fun y => { y with jobs := updIf (fun j => j.src = block) (fun j => { j with left := j.left.erase unit }) y.jobs }).logJob c ch block

/-- A failed program is written again elsewhere, and its block is emptied and then retired (R336). -/
def Dev.programFails (d : Dev) (c : Clock) (ch : Nat) (p : FProg) : Dev :=
  let d1 := d.updChan ch fun x => { x with progs := x.progs.filter fun q => q.wseq != p.wseq }
  let x := d1.chan ch
  let d2 := match x.blocks.find? fun b => b.no = p.block with
    | some b => if x.emptying b then d1.lateUnit c ch p.block p.unit else d1.startJob c ch .retire b
    | none => d1
  match p.src with
  | none => d2.program ch p.unit none ((d2.chan ch).writeDest d.flash.fixedClass ch)
  | some s => if d2.copyStands ch p then d2.program ch p.unit (some s) ((d2.chan ch).denseDest ch) else d2.copyDone c ch s p false

/-- A target stops answering (R340): its units read as uncorrectable; a channel without a working target fails. A write under way to it is not durable and is programmed again elsewhere (R326, R336). -/
def targetFail (c : Chan) (target : Nat) (k : Clock) (d : Dev) : Dev :=
  let x := d.chan c.val
  if !(x.serving && (x.blocks.any fun b => b.target = target && b.mode != .retired)) then d
  else
    let gone := x.blocks.filter fun b => b.target = target
    let isGone := fun (no : Nat) => gone.any fun b => b.no = no
    let left := x.targets - 1
    let cut := x.progs.filter fun p => isGone p.block
    let d1 := d.updChan c.val fun y =>
      { y with badUnits := (y.badUnits ++ (gone.map (·.units)).flatten).dedup, blocks := y.blocks.filter fun b => b.target != target, targets := left,
               spares := (y.blocks.filter fun b => b.target != target && b.mode = .spare).length, state := if left = 0 then .failed else y.state,
               jobs := y.jobs.filter fun j => !(isGone j.src), progs := y.progs.filter fun p => !(isGone p.block),
               erases := y.erases.filter fun no => !(isGone no), refresh := y.refresh.filter fun no => !(isGone no) }
    let again := fun (y : Dev) (p : FProg) => match p.src with
      | none => y.updChan c.val fun z => { z with queue := z.queue ++ [p.unit] }
      | some s => if isGone s then y else if y.copyStands c.val p then y.program c.val p.unit (some s) ((y.chan c.val).denseDest c.val) else y.copyDone k c.val s p false
    let d2 := ((cut.foldl again d1).drainAll c.val).logErr k 2 3 c.val 6 target Config.noParcel 1 0
    let d3 := if left = 0 then d2.failHomed k c.val else d2
    let d4 := if left = 0 && (c.val = 0 || c.val = 16) then { d3 with flash := { d3.flash with readOnly := true } } else d3
    let n := (x.erases.filter isGone).length
    if d4.flash.format.isSome && 0 < n then
      let d5 : Dev := { d4 with flash := { d4.flash with formatLeft := d4.flash.formatLeft - n } }
      if d5.flash.formatLeft = 0 then d5.formatDone k else d5
    else d4

def execTargetFail (t : Nat) (c : Chan) (target : Nat) (s : State) : Host.Outcome State Fault Refusal :=
  happens (.targetFail t c target) t (·.onDev (targetFail c target)) s

/-- A program ends; while power is failing it runs on unwatched (R342, step 2). -/
def flashProgramComplete (ch : Chan) (wseq : Nat) (ok : Bool) (c : Clock) (d : Dev) : Dev :=
  match (d.chan ch.val).progs.find? fun p => p.wseq = wseq with
  | none => d
  | some p =>
    if d.flash.held || !d.service then d
    else if !ok then d.programFails c ch.val p
    else
      let stands := d.copyStands ch.val p
      let d1 := (d.updChan ch.val fun x => x.programmed p).count 84 ch.val 1
      match p.src with
      | none => if (d1.flash.ownerOf ch.val p.unit).isSome then d1.journal c (.map ch.val p.unit p.block p.page p.wseq p.whole) else d1.lateUnit c ch.val p.block p.unit
      | some s => let d2 := d1.copyDone c ch.val s p stands; if stands then d2 else d2.lateUnit c ch.val p.block p.unit

def execFlashProgramComplete (t : Nat) (c : Chan) (wseq : Nat) (ok : Bool) (s : State) : Host.Outcome State Fault Refusal :=
  happens (.flashProgramComplete t c wseq ok) t (·.onDev (flashProgramComplete c wseq ok)) s

/-! ### Erases (R335 to R337, R346) -/

/-- An erased block is free again; one of the permanent one-bit region stays in it (R330). -/
def Dev.freeBlock (d : Dev) (c : Clock) (ch no : Nat) (refreshed : Bool) : Dev :=
  let fx := d.flash.fixedClass
  ((d.updChan ch fun y => (fun (x : FChan) => x.noteBuffer fx)
    { y with jobs := y.jobs.filter fun j => j.src != no,
             blocks := updIf (fun b => b.no = no)
               (fun b => { b with mode := if fx && b.mode = .oneBit then .oneBit else .free, units := [], used := 0, erases := b.erases + 1,
                                  refreshed := if refreshed then some c.now else b.refreshed }) y.blocks }).count 85 ch 1).journal c (.erased ch no)

/-- One block of flash.format: erased and verified, or retired (R346). -/
def Dev.formatErase (d : Dev) (c : Clock) (r : Ref) (ch no : Nat) (ok : Bool) : Dev :=
  let d1 := if ok then (d.updChan ch fun x =>
      { x with blocks := updIf (fun b => b.no = no) (fun b => { b with units := [], used := 0, erases := b.erases + 1 }) x.blocks }).count 85 ch 1
    else d.retireBlock c ch no 1
  let left := d1.flash.formatLeft - 1
  let d2 := { d1 with flash := { d1.flash with formatLeft := left } }
  let d3 := d2.report r stRunning (progressOf (d2.flash.formatTotal - left) d2.flash.formatTotal) 0 false false false
  if left = 0 then d3.formatDone c else d3

/-- An erase ends; power failure has stopped those in progress, whose blocks stay queued (R342). -/
def flashEraseComplete (ch : Chan) (no : Nat) (ok : Bool) (c : Clock) (d : Dev) : Dev :=
  if d.flash.held || !d.service || !((d.chan ch.val).erases.contains no) then d
  else
    let d1 := d.updChan ch.val fun x => { x with erases := x.erases.filter fun b => b != no }
    match d1.flash.format with
    | some r => d1.formatErase c r ch.val no ok
    | none =>
      if !ok then (d1.retireBlock c ch.val no 1).drainAll ch.val
      else
        let kind := ((d1.chan ch.val).jobs.find? fun j => j.src = no).map (·.kind)
        let d2 := d1.freeBlock c ch.val no (kind = some .refresh)
        (if kind = some .retire then d2.retireBlock c ch.val no 2 else d2).drainAll ch.val

def execFlashEraseComplete (t : Nat) (c : Chan) (block : Nat) (ok : Bool) (s : State) : Host.Outcome State Fault Refusal :=
  happens (.flashEraseComplete t c block ok) t (·.onDev (flashEraseComplete c block ok)) s

/-! ### The journal (R325, R326) -/

/-- Bytes of records. -/
def recsSize (rs : List JRec) : Nat := natSum (rs.map JRec.size)

/-- Both journal channels can be programmed; in the read-only state only for a format (R339), and not while one is tested (R528). -/
def Dev.journalWorks (d : Dev) : Bool :=
  (d.chan 0).serving && (d.chan 16).serving && !d.journalTested && (!d.flash.readOnly || d.flash.format.isSome) &&
    (match d.flash.pf with | .idle => true | .flushing _ => true | _ => false)

/-- Entry into PS2 or PS3 programs the tail (R471). -/
def Dev.psQuiesce (d : Dev) : Bool := d.pwr.transition.isSome && 2 ≤ d.pwr.target.toNat

/-- The tail is due: 16,384 bytes, 100 µs since its oldest record, a power failure or an entry into PS2 or PS3. -/
def Dev.tailDue (d : Dev) (c : Clock) : Bool :=
  match d.flash.tail with
  | [] => false
  | r :: _ =>
    Config.journalFill ≤ recsSize (d.flash.tail.map (·.1)) || r.2 + 100000 ≤ c.now || (match d.flash.pf with | .flushing _ => true | _ => false) || d.psQuiesce

/-- The records of the tail go to channels 0 and 16; those beyond its limit wait. -/
def journalTailProgram (c : Clock) (d : Dev) : Dev :=
  if !d.service || !d.flash.inflight.isEmpty || !(d.tailDue c) || !d.journalWorks then d
  else
    let out := (tailFit d.tailLimit d.flash.tail).map (·.1)
    let n := recsSize out
    let pages := ceilDiv n Config.flashPage
    ((({ d with flash := { d.flash with tail := d.flash.tail.drop out.length, inflight := out, firstDone := false } }).count 91 0 n).count 84 0 pages).count 84 16 pages

def execJournalTailProgram (t : Nat) (s : State) : Host.Outcome State Fault Refusal :=
  happens (.journalTailProgram t) t (·.onDev journalTailProgram) s

/-- A unit's new page, when its write sequence is the highest (R328): the old page is valid no more. A page on a target that has stopped answering cannot be read (R340). -/
def FChan.moveUnit (x : FChan) (now unit : Nat) (m : FMap) (whole : Bool) : FChan :=
  if m.wseq ≤ ((NMap.get? x.map unit).map (·.wseq)).getD 0 then x
  else
    let here := x.blocks.any fun b => b.no = m.block
    let others := x.badUnits.filter fun u => u != unit
    ({ x with map := NMap.put x.map unit m, badUnits := if !here then others ++ [unit] else if whole then others else x.badUnits,
              blocks := x.blocks.map fun b =>
                if b.no = m.block then { b with units := if b.units.contains unit then b.units else b.units ++ [unit] }
                else { b with units := b.units.filter fun u => u != unit } } : FChan).touchSeg now unit

/-- Places a unit that migrates on its new channel. -/
def FChan.placeUnit (x : FChan) (ch now wseq unit : Nat) : FChan :=
  match x.denseDest ch with
  | none => { x with badUnits := x.badUnits ++ [unit] }
  | some v =>
    let page := ((v.2.blocks.find? fun b => b.no = v.1).map v.2.filled).getD 0
    (v.2.programmed ⟨wseq, unit, v.1, page, true, none, 0⟩).moveUnit now unit ⟨v.1, page, wseq⟩ true

/-- Units of a channel with a foreground write or a write-back under way. -/
def Flash.writesOf (f : Flash) (c : Nat) : List Nat :=
  let x := vgetD f.chans c FChan.reset
  let of := fun (r : JRec) => match r with | .map a u _ _ _ _ => if a = c then [u] else [] | _ => []
  (x.queue ++ (x.progs.filter fun p => p.src.isNone).map (·.unit) ++ ((f.inflight ++ f.tail.map (·.1)).map of).flatten).dedup

/-- A durable EXTENT record moves an extent with its units (R338); log 46. A write still under way to the old place is made to the new one, so that it is durable only there (R326). -/
def Dev.moveExtent (d : Dev) (c : Clock) (no target : Nat) : Dev :=
  match NMap.get? d.flash.extents no with
  | none => d.updChan target fun x => { x with alloc := x.alloc - Config.extentBytes }
  | some e =>
    let inE := fun (u : Nat) => decide (u / 4096 = e.slot)
    let slot := d.flash.freeSlot target
    let units := ((d.chan e.chan).map.map (·.1)).filter inE
    let bad := (d.chan e.chan).badUnits.filter inE
    let late := (d.flash.writesOf e.chan).filter inE
    let d1 := d.updChan e.chan fun x =>
      { x with alloc := x.alloc - Config.extentBytes, map := x.map.filter fun y => !(inE y.1), badUnits := x.badUnits.filter fun u => !(inE u), queue := x.queue.filter fun u => !(inE u),
               blocks := x.blocks.map fun b => { b with units := b.units.filter fun u => !(inE u) } }
    let w := d1.flash.wseq
    let there := fun (u : Nat) => 4096 * slot + u % 4096
    let d2 := d1.updChan target fun x =>
      let y := (units.zipIdx).foldl (fun (z : FChan) u => z.placeUnit target c.now (w + u.2) (there u.1)) x
      { y with badUnits := y.badUnits ++ bad.map there }
    let d3 := { d2 with flash := { d2.flash with wseq := w + units.length, extents := NMap.put d2.flash.extents no { e with chan := target, slot := slot } } }
    ((((late.foldl (fun (y : Dev) u => y.writeUnit target (there u)) d3).count 81 (4 * e.chan + 3) units.length).count 84 target units.length).count 89 0 1)

/-- What a record does once it is durable. -/
def Dev.applyJRec (d : Dev) (c : Clock) : JRec → Dev
  | .map ch u b p w whole => ((d.updChan ch fun x => if (d.flash.ownerOf ch u).isSome then x.moveUnit c.now u ⟨b, p, w⟩ whole else x).cleanUnit c ch u).lateUnit c ch b u
  | .gc ch src copies =>
    let d1 := d.updChan ch fun x =>
      let y := copies.foldl (fun (z : FChan) k => z.moveUnit c.now k.1 ⟨k.2.1, k.2.2.1, k.2.2.2⟩ false) x
      { y with jobs := updIf (fun j => j.src = src && j.logged) (fun j => { j with erasing := true }) y.jobs }
    (copies.foldl (fun (z : Dev) k => z.lateUnit c ch k.2.1 k.1) d1).tryErase ch src
  | .erased _ _ => d
  | .retire _ _ _ => d
  | .extent e target => d.moveExtent c e target
  | .segment _ _ => d
  | .format => d.formatEnd c

/-- Map segments that the journal must be able to make again: those with entries or changes (R327). -/
def Flash.segments (f : Flash) : List (Nat × Nat) :=
  ((List.range 32).map fun c =>
    let x := vgetD f.chans c FChan.reset
    ((x.map.map fun (e : Nat × FMap) => e.1 / 1048576) ++ x.dirtySegs.map (fun (s : Nat × Nat) => s.1)).dedup.map fun s => (c, s)).flatten

/-- Journal space before the oldest current checkpoint is reclaimed; a segment without one still needs every record (R327). -/
def reclaim (segs : List (Nat × Nat)) : List JRec → List JRec
  | [] => []
  | r :: rs => if segs.all fun k => rs.contains (.segment k.1 k.2) then reclaim segs rs else r :: rs

/-- The journal after new durable records; FORMAT is kept, since replay looks for it (R528). -/
def Flash.keepJournal (f : Flash) (out : List JRec) : List JRec :=
  let all := f.durable ++ out
  let rest := reclaim f.segments all
  if all.contains .format && !(rest.contains .format) then .format :: rest else rest

/-- Durable records take effect in order. -/
def Dev.applyRecs (d : Dev) (c : Clock) : List JRec → Dev
  | [] => d
  | r :: rs => (({ d with flash := { d.flash with inflight := rs } }).applyJRec c r).applyRecs c rs

/-- Records have become durable on both channels: they take effect, and loads that waited for them go on. -/
def Dev.recsDurable (d : Dev) (c : Clock) : Dev :=
  let out := d.flash.inflight
  let d1 := ({ d with flash := { d.flash with firstDone := false } }).applyRecs c out
  let d2 := { d1 with flash := { d1.flash with durable := d1.flash.keepJournal out } }
  let d3 := d2.leaves.foldl (fun (x : Dev) (l : Leaf) => (x.reportLoad c l).ackLoad c l.parcel) d2
  d3.ackModels c

/-- The tail's program ends on the first journal channel, then on the second. -/
def journalDurable (second : Bool) (c : Clock) (d : Dev) : Dev :=
  if !d.service || d.flash.inflight.isEmpty then d
  else if !second then { d with flash := { d.flash with firstDone := true } }
  else if d.flash.firstDone then d.recsDurable c
  else d

def execJournalDurable (t : Nat) (second : Bool) (s : State) : Host.Outcome State Fault Refusal :=
  happens (.journalDurable t second) t (·.onDev (journalDurable second)) s

end Sys2Proof.Machine
end

