-- ==== Sys2Proof/Machine/Reset.lean ====
section
/-! DEFINITION. Resets of a port, of a block, and what a C or W reset clears, keeps and loses (R40, R307, R403, R404, R413, R457 to R467, R474). -/

namespace Sys2Proof.Machine

/-! ### Port reset (R40, R307, R413, R457) -/

/-- A query, gather or run abandoned under R40 leaves no record (R399). -/
def Cmd.forgotten (cmd : Cmd) : Bool := [0x0300, 0x0500, 0x0601].contains cmd.opcode

/-- A command that waits for an earlier one of its key (R400). -/
def Dev.isWaiter (d : Dev) (cmd : Cmd) : Bool :=
  cmd.isLocal && d.cmds.running.any fun x => x.ref.no < cmd.ref.no && x.isLocal && x.tenant = cmd.tenant && x.cmdId = cmd.cmdId

/-- Drops an abandoned command; the record of an original that it waited for stays. -/
def Dev.quit (d : Dev) (cmd : Cmd) : Dev :=
  if d.isWaiter cmd then { d with cmds := { d.cmds with running := d.cmds.running.filter fun x => x.ref != cmd.ref } } else d.forget cmd.ref

/-- A port's commands as R40 leaves them: queries, gathers and runs go, near-bank work stops after its running line steps (R259), the rest runs on and writes nothing. -/
def Dev.abandonPort (d : Dev) (c : Clock) (p : Port) : Dev :=
  let mine := fun (r : Ref) => decide (r.port = p)
  let d1 := { d with cmds := { d.cmds with running := updIf (fun (x : Cmd) => mine x.ref) (fun x => { x with abandoned := true }) d.cmds.running } }
  let gone := (d1.root.queries.filter fun e => mine e.2.ref).map (·.1)
  let qs := d1.root.queries.map fun e => if mine e.2.ref then (e.1, { e.2 with done := true, abandoned := true }) else e
  let d2 := { d1 with root := { d1.root with queries := qs, waiting := d1.root.waiting.filter fun r => !(mine r) },
                      mdl := { d1.mdl with runs := d1.mdl.runs.filter fun r =>
                        !((match r.ref with | some x => mine x | none => false) || (match r.ctx with | some x => gone.contains x | none => false)) } }
  let gathers := (d2.chain.readers.filter fun r => match r.kind with | .gather x => mine x | _ => false).map (·.id)
  let d3 := gathers.foldl (fun (x : Dev) r => x.endReader r) d2
  let jobs := (d3.nb.jobs.filterMap (·.ref)).filter mine
  let rows := (d3.cmds.running.filter fun x => mine x.ref && x.opcode = 0x0700 && x.f 0x40 1 = 1).map Cmd.key
  let d4 := rows.foldl (fun (x : Dev) k => x.stopRows c k) (jobs.foldl (fun (x : Dev) r => x.stopNb c r) d3)
  let cmds := d4.cmds.running.filter fun x => mine x.ref && x.forgotten
  (cmds.foldl (fun (x : Dev) k => x.quit k) d4).sweepQueries

/-- Lease operations of a dead port that still wait their turn do not run (R307, R308). -/
def Dev.abandonLeases (d : Dev) (p : Port) : Dev :=
  { d with com := { d.com with queue := d.com.queue.filter fun q => q.2.port != p || (match d.cmd? q.2 with | some x => x.opcode = 0x0800 | none => false) } }

/-- Slots, interface agreement, IRQ_CTRL, DONE_SUMMARY and the link return to reset; the partition, its fences and the event log stay (R413, R474). IDE streams end (R504). -/
def HostPort.afterReset (h : HostPort) : HostPort :=
  { HostPort.reset with off := h.off, part := h.part, pend := h.pend, mem := h.mem, poison := h.poison, fences := h.fences, events := h.events,
                        eventsLost := h.eventsLost, vectors := h.vectors, ide := ⟨h.ide.enabled, false, false⟩, echo := h.echo, echoRead := h.echoRead }

/-- A lease operation that waits for snoops has still its command. -/
def Commons.awaits (x : Commons) (r : Ref) : Bool :=
  x.waits.any fun w => match w.why with | .release q => q = r | .publish q _ => q = r | .acquire q _ _ => q = r | _ => false

def Dev.portReset (d : Dev) (c : Clock) (p : Port) : Dev :=
  let d1 := (((d.abandonPort c p).abandonLeases p).hostDeath c p)
  let left := d1.cmds.running.filter fun x => x.ref.port = p && x.opcode = 0x0801 && !(d1.com.awaits x.ref)
  (left.foldl (fun (x : Dev) k => x.quit k) d1).updPort p HostPort.afterReset

def portReset (p : Port) (c : Clock) (d : Dev) : Dev := if d.live then d.portReset c p else d

def execPortReset (t : Nat) (p : Port) (s : State) : Host.Outcome State Fault Refusal :=
  happens (.portReset t p) t (·.onDev (portReset p)) s

/-! ### What a C or W reset does to flash, DRAM and the leaves (R404, R460, R461, R474) -/

/-- A channel as a reset leaves it: blocks, map and extents stay on the media; programs under way leave pages that no record names; sources whose GC record is durable join the erase queue (R328). -/
def FChan.restart (x : FChan) : FChan :=
  { x with state := .off, rate := 0, targets := 0, density := 0, spares := 0, progs := [], reads := [], jobs := [], queue := [],
           erases := (x.erases ++ (x.jobs.filter fun j => j.erasing).map (·.src)).dedup,
           blocks := x.blocks.map fun b => { b with used := x.filled b } }

/-- The tail is discarded; of the records in program, those that are intact on a journal channel are found by replay (R328, R461). -/
def Flash.restart (f : Flash) : Flash :=
  { f with chans := f.chans.map FChan.restart, unformatted := false, noFlash := false, replayed := false, tail := [],
           firstDone := false, wChain := 4, wTrav := 4, wStream := 1, wBack := 1,
           active := [16, 16, 4, 4], pf := .idle, format := none, formatLeft := 0, formatTotal := 0 }

/-- A model all of whose stores lie on this node's flash. -/
def Model.onFlash (m : Model) : Bool := m.imageFrames = 0 && m.embedFrames = 0 && m.holder = 0xFFFF

/-- Models and loads that a reset ends, with their stores. -/
def Dev.dropModels (d : Dev) (keep : Model → Bool) : Dev :=
  let gone := (d.mdl.models ++ d.mdl.olds).filter fun m => !(keep m)
  let all := gone ++ d.mdl.loading.map (·.2)
  let d1 := all.foldl (fun (x : Dev) m => (((x.free (modelRegion m.uid)).free (embedRegion m.uid)).freeExtents (weightKey m.uid)).freeExtents (embedKey m.uid)) d
  { d1 with mdl := { Models.reset with models := (d.mdl.models.filter keep).map fun m => { m with filled := [] },
                                       olds := (d.mdl.olds.filter keep).map fun m => { m with filled := [] }, nextUid := d.mdl.nextUid, gens := d.mdl.gens } }

/-- Frames of a stack that the pool does not have: those of the regions that are left, and retired ones outside them (R272, R280). -/
def MemSys.usedOn (m : MemSys) (s : Nat) : Nat :=
  let places := (m.regions.map fun e => e.2.place.filter fun x => x.1 = s).flatten
  natSum (places.map fun x => x.2.2) +
    (m.retired.filter fun f => f.1 = s && f.2 < Config.stackFrames && !(places.any fun x => x.2.1 ≤ f.2 && f.2 < x.2.1 + x.2.2)).length

def MemSys.recount (m : MemSys) : MemSys :=
  { m with stk := Vector.ofFn fun (i : Fin 20) => { m.stk[i] with used := m.usedOn i.val } }

/-- A leaf copy over a reset that keeps DRAM (R402, R404): it is lapsed from the first station whose mark it has not acknowledged and takes no intake; one whose load was not yet durable is FAILED. A closure decided before the reset stands; any other is built again (log 58). -/
def Leaf.afterWarm (l : Leaf) (durable : Bool) : Leaf :=
  let from1 := max (max l.ackedTo l.settled) (if l.marks.isEmpty then 0 else l.closedTo) + 1
  { l with loc := if durable then (match l.loc with | .current => .lapsed from1 | x => x) else .failed,
           noIntake := true, intakeHeld := false, held := [], dups := [], waits := [], acked := [], marks := [], peers := [], pendingMark := none,
           early := [], rowsWait := [], ready := false,
           closure := l.due.orElse fun _ => l.closure.map fun k => { k with building := false, ready := none, readyFrom := [] } }

/-- A leaf copy whose DRAM is lost (R404, R474). -/
def Leaf.lost (l : Leaf) : Leaf := { l.afterWarm false with recs := [], tombs := [], load := none, closure := none, due := none }

/-- DRAM is lost (R460, R474): what stays allocated is what lies on flash and, where their settings live on, the partitions and commons buffers, which read as zero, and the hot-row cache set. -/
def Dev.loseDram (d : Dev) (parts commons : Bool) : Dev :=
  let isPart := fun (k : Nat) => decide (regionBase ≤ k) && decide (k < regionBase + 8)
  let isCom := fun (k : Nat) => decide (regionBase + 16 ≤ k) && decide (k < regionBase + 16 + 128)
  let stays := fun (e : Nat × Region) => (e.1 < regionBase && e.2.tier != .pin) || (parts && isPart e.1) || (commons && isCom e.1)
  let d1 := d.dropModels Model.onFlash
  let regions := (d1.mem.regions.filter stays).map fun e => (e.1, { e.2 with poison := [], bad := [], lost := [], moved := [], prot := .protectedSt })
  let slots := if commons then d1.com.slots.map fun e => (e.1, { e.2 with memA := [], memB := [], poisonA := [], poisonB := [], refill := none, done := [] }) else []
  { d1 with mem := ({ d1.mem with regions := regions, rebuild := [], pool := [], fills := [], waiting := [], freeing := [] } : MemSys).recount,
            com := ⟨slots, [], [], []⟩, chain := { Chain.reset with cache := d.chain.cache },
            ports := d1.ports.map fun h => { h with mem := [], poison := [] },
            leaves := d1.leaves.map Leaf.lost }

/-- Copies that a reset finds JOINING fill again from a new image (R402). -/
def Dev.dropJoining (d : Dev) (c : Clock) : Dev := (d.leaves.filter fun l => d.platState c l = 0).foldl (fun (x : Dev) l => x.freeLeaf l) d

/-- What waited for durability when the reset came. -/
def Dev.leafDurable (d : Dev) (l : Leaf) : Bool := l.load.isNone || d.loadDurable l

def Dev.warmLeaves (d : Dev) (c : Clock) : Dev :=
  let d1 := d.dropJoining c
  let d2 := (d1.leaves.filter fun (l : Leaf) => l.due.isNone).foldl (fun (x : Dev) l =>
    (l.lists.zipIdx).foldl (fun (y : Dev) e => match e.1.next with | some v => y.freeVersion l.parcel e.2 e.1 v | none => y) x) d1
  let drop := fun (l : Leaf) => if l.due.isSome then l else { l with lists := l.lists.map fun x => { x with next := none } }
  { d2 with leaves := d2.leaves.map fun l => (drop l).afterWarm (d1.leafDurable l) }

/-- The DRAM of every copy that is left follows its content. -/
def Dev.syncLeaves (d : Dev) (c : Clock) : Dev := (d.leaves.filter fun (l : Leaf) => l.loc != .failed).foldl (fun (x : Dev) l => x.syncLeaf c l.parcel) d

/-- A monument move is abandoned and its destination freed (R402). -/
def Monument.stopMove (m : Monument) : Monument := { m with move := none }

/-! ### Warm reset: its start (R403, R457, R460, R474) -/

/-- What every C or W reset returns to its default (R474). -/
def Dev.defaults (d : Dev) : Dev :=
  { d with adm := Adm.reset, plat := Plat.reset, root := ⟨[], 0, [], [], 0⟩, scan := Scan.reset, nb := NearBank.reset, fab := Fabric.reset,
           pwr := Power.reset, tst := ⟨[], []⟩, cnt := [], sent := [],
           cmds := { d.cmds with running := [], replay := d.cmds.replay.filter fun r => match r.place with | .leaf _ => true | _ => false } }

/-- Regions, partitions, fences and logs stay; dirty pool frames stay dirty (R461); leases end (R307). -/
def Dev.warmClear (d : Dev) (c : Clock) : Dev :=
  let d1 := ((List.finRange 4).foldl (fun (x : Dev) p => x.portReset c p) d).warmLeaves c
  let d2 := (d1.dropModels fun _ => true).defaults
  let d3 := { d2 with chain := { Chain.reset with monuments := d2.chain.monuments.map Monument.stopMove } }.syncLeaves c
  { d3 with ports := d3.ports.map fun h => { h.afterReset with off := false, ide := ⟨false, false, false⟩, echo := none, echoRead := 0 },
            regs := { Regs.reset with errLog := d3.regs.errLog, errRecords := d3.regs.errRecords, lastSev := d3.regs.lastSev, errLost := d3.regs.errLost,
                                      warmValid := d3.regs.warmValid, warmCause := d3.regs.warmCause },
            cnt := [], sent := [],
            mdl := { d3.mdl with gens := [] },
            mem := { d3.mem with pool := (d3.mem.pool.filter fun f => f.dirty && !f.spill).map (fun f => { f with busy := false, writing := false }),
                                 fills := [], waiting := [], freeing := [] },
            com := { d3.com with held := [], waits := [], queue := [] },
            flash := d3.flash.restart,
            start := { d3.start with phase := .warmPending, cls := .warm, stake := 0 } }

/-- A warm reset begins: WARM_VALID and WARM_CAUSE are set, and a record of severity RESET is logged (R403, R406, R407). -/
def Dev.beginWarm (d : Dev) (c : Clock) (cause : Nat) : Dev :=
  let d1 := d.warmClear c
  ({ d1 with regs := { d1.regs with warmValid := true, warmCause := BitVec.ofNat 3 cause } }).logErr c 3 0 0 7 0 Config.noParcel 1 0

/-- The time port's link is down with all others. -/
def Clock.noPort (c : Clock) : Clock := { c with ptpPort := none }

/-- A core misses its watchdog (R403); during a start this ends the start (R485). -/
def watchdogExpiry (_ : Fin 16) (c : Clock) (d : Dev) : Clock × Dev := if d.start.phase = .service || d.start.phase = .backsight then (c.noPort, d.beginWarm c 2) else (c, d)

def execWatchdogExpiry (t : Nat) (core : Fin 16) (s : State) : Host.Outcome State Fault Refusal :=
  happens (.watchdogExpiry t core) t (·.onClk (watchdogExpiry core)) s

/-- Transit reads a word with a double-bit error (R403). -/
def controlSramUncorrectable (c : Clock) (d : Dev) : Clock × Dev := if d.start.phase = .service || d.start.phase = .backsight then (c.noPort, d.beginWarm c 3) else (c, d)

def execControlSramUncorrectable (t : Nat) (s : State) : Host.Outcome State Fault Refusal :=
  happens (.controlSramUncorrectable t) t (·.onClk controlSramUncorrectable) s

/-! ### Cold reset: its start (R457, R474) -/

/-- Everything a C reset loses; flash media, retired frames, the SPI NOR and the pins stay. -/
def Dev.coldClear (d : Dev) (c : Clock) : Dev :=
  let d1 := (d.dropJoining c).loseDram false false
  let d2 := d1.defaults
  { d2 with chain := Chain.reset, ports := Vector.replicate 4 HostPort.reset, cmds := { d2.cmds with replay := [] }, regs := Regs.reset, mdl := { d2.mdl with gens := [] },
            mem := { d2.mem with errs := [], stk := d2.mem.stk.map fun k => { k with state := .off, used := 0, spare := 0, scrubAt := 0 } },
            flash := { d2.flash.restart with chans := d2.flash.restart.chans.map fun x => { x with uncorrectable := 0 } },
            start := { d2.start with phase := .inReset, cls := .cold, stake := 0, trialRun := false, setB := false, degraded := false, mirrored := false },
            brd := { d2.brd with deferred := none, vin := 0, iin := 0, pfSeen := false, uvSeen := false, tjPeak := 0, hotSeen := false, hot := false,
                                 hotDie := 0, tjMax := 0, wakeSeen := false } }

/-! ### Block reset (R462 to R467) -/

def blockPairOk (b u : Nat) : Bool := (holdUnits b).contains u || (b = 7 && u = 0)

def blockResetBad (_ : Clock) (_ : Dev) (cmd : Cmd) : Bool := !(blockPairOk (cmd.f 0x40 1) (cmd.f 0x41 1))

/-- What stops while the block is reset: a die's cached rows become invalid and its windows are empty (R467); a fabric port retrains. -/
def Dev.startBlock (d : Dev) (b u : Nat) : Dev :=
  if b = 0 then
    let clean := fun (m : Model) => { m with filled := m.filled.filter fun x => x.2 != u }
    { d with chain := { d.chain with cache := { d.chain.cache with rows := updIf (fun (x : CachedRow) => x.die = u) (fun x => { x with valid := false }) d.chain.cache.rows } },
             mdl := { d.mdl with models := d.mdl.models.map clean, olds := d.mdl.olds.map clean } }
  else if b = 3 then
    { d with fab := { d.fab with ports := vupdN d.fab.ports u fun x => { x with link := if x.enable then .training else .disabled, lanes := 0, macsecUp := false } } }
  else d

/-- A block that is held and idle is reset, one at a time (R465). -/
def blockResetRun (c : Clock) (d : Dev) (cmd : Cmd) : Dev :=
  let b := cmd.f 0x40 1
  let u := cmd.f 0x41 1
  if d.pwr.ps.toNat ≥ 2 || !(d.idle c b u) || d.pwr.blkReset.isSome then d.refuse cmd.ref stBusy
  else ({ d with pwr := { d.pwr with blkReset := some ⟨cmd.ref, b, u⟩ } }).startBlock b u

def isNodeReset (cmd : Cmd) : Bool := cmd.f 0x40 1 = 7
def isBlockReset (cmd : Cmd) : Bool := cmd.f 0x40 1 != 7

/-- A fabric port whose link is reset supplies no time (R362). -/
def Dev.resetPort (d : Dev) (c : Clock) : Clock :=
  match d.pwr.blkReset with
  | some b => if b.block = 3 && (c.ptpPort.map (·.val)) = some b.unit then c.noPort else c
  | none => c

def devBlockReset (k : Take) (c : Clock) (d : Dev) : Clock × Dev :=
  let d1 := runSlot 0x0102 isBlockReset blockResetBad noAreas blockResetRun k c d
  (d1.resetPort c, d1)

def execDevBlockReset (k : Take) (s : State) : Host.Outcome State Fault Refusal :=
  happens (.devBlockReset k) k.t (·.onClk (devBlockReset k)) s

/-- The node's warm reset never writes DONE: its slot is cleared (R458). -/
def nodeResetRun (c : Clock) (d : Dev) (_ : Cmd) : Dev := d.beginWarm c 1

def Dev.warming (d : Dev) : Bool := d.start.phase = .warmPending

/-- Runs a command that may begin a warm reset: with it every link is down. -/
def mayWarm (f : Clock → Dev → Dev) (c : Clock) (d : Dev) : Clock × Dev :=
  let d1 := f c d
  (if d1.warming then c.noPort else c, d1)

def devBlockResetNode (k : Take) : Clock → Dev → Clock × Dev := mayWarm (runSlot 0x0102 isNodeReset blockResetBad noAreas nodeResetRun k)

def execDevBlockResetNode (k : Take) (s : State) : Host.Outcome State Fault Refusal :=
  happens (.devBlockResetNode k) k.t (·.onClk (devBlockResetNode k)) s

/-- The block is back in service: `failed` is the number of arrays that fail a die's self-test (R467), or for a flash channel the steps of 400 MT/s by which its rate falls (R319); a channel that passes at no rate has not come back. -/
def blockResetComplete (failed : Nat) (c : Clock) (d : Dev) : Dev :=
  match d.pwr.blkReset with
  | none => d
  | some b =>
    if b.block = 2 && failed > 7 then d
    else
      let d1 := { d with pwr := { d.pwr with blkReset := none } }
      let d2 :=
        if b.block = 0 then { d1 with scan := { d1.scan with dies := vupdN d1.scan.dies b.unit fun (a : Arrays) => ⟨a.working - failed, 0⟩ } }
        else if b.block = 2 then d1.updChan b.unit fun x => { x with rate := 3600 - 400 * failed }
        else if b.block = 3 then { d1 with fab := { d1.fab with ports := vupdN d1.fab.ports b.unit fun x => if x.link = .training then { x with link := .up, lanes := 0xFF } else x } }
        else d1
      ((d2.count 121 b.block 1).endCmd c b.ref stOk 0 0 []).chansGoOn c

def execBlockResetComplete (t : Nat) (failed : Nat) (s : State) : Host.Outcome State Fault Refusal :=
  happens (.blockResetComplete t failed) t (·.onDev (blockResetComplete failed)) s

end Sys2Proof.Machine
end

