-- ==== Sys2Proof/Machine/Images.lean ====
section
/-! DEFINITION. Images, their signatures and sets, staging and activation, fuse and reset packages (R489, R492 to R502). What a signature check finds is told with the command (log 12); digests are taken here. -/

namespace Sys2Proof.Machine

/-! ### Image header (R493) -/

def headerLen : Nat := 256
def keyBlockRsa : Nat := 512
def keyBlockSlh : Nat := 64

def imgHeader (bs : List Byte) : ImgHeader :=
  { magicOk := fieldN bs 0 4 = 0x4D495053, kind := fieldN bs 4 1, keySlot := fieldN bs 5 1,
    reservedOk := fieldN bs 6 2 = 0 && fieldN bs 0x12 6 = 0 && fieldN bs 0x28 24 = 0, version := fieldN bs 8 8, svn := fieldN bs 0x10 1,
    compat := (List.range (min 8 (fieldN bs 0x11 1))).map fun j => (fieldN bs (0x40 + 24 * j) 1, fieldN bs (0x48 + 24 * j) 8, fieldN bs (0x50 + 24 * j) 8),
    bodyLen := fieldN bs 0x18 8, totalLen := fieldN bs 0x20 8 }

/-- TOTAL_LEN is BODY_LEN + 17,440; the other fixed fields are as R493 gives them. -/
def headerSane (h : ImgHeader) : Bool := h.magicOk && h.reservedOk && h.totalLen = h.bodyLen + 17440 && h.svn ≤ 64

/-- Both key blocks' digests are those fused in KEY_SLOT, and the slot is not revoked (R494). -/
def Fuses.keyOk (f : Fuses) (bs : List Byte) : Bool :=
  let h := imgHeader bs
  let at1 := headerLen + h.bodyLen
  match f.keys.toList[h.keySlot]? with
  | none => false
  | some k =>
    !k.revoked && Config.sha384 ((bs.drop at1).take keyBlockRsa) = k.rsa && Config.sha384 ((bs.drop (at1 + keyBlockRsa)).take keyBlockSlh) = k.slh

/-- An image passes R494; `sig`: both signatures verify. -/
def Fuses.imageOk (f : Fuses) (bs : List Byte) (sig : Bool) : Bool := sig && headerSane (imgHeader bs) && f.keyOk bs

/-! ### Checking a set (R495) -/

inductive SetVerdict | accepted | refused | incompatible
  deriving DecidableEq, Repr

/-- One image of a set: an image that was never staged is the shipped one, of which the manual gives no bytes, and its verdict stands alone (log 12). -/
def Fuses.setImageOk (f : Fuses) (kind : Nat) (bs : List Byte) (sig : Bool) : Bool :=
  if bs.isEmpty then sig else f.imageOk bs sig && (imgHeader bs).kind = kind && decide (popcount (f.svn.toList.getD kind 0) ≤ (imgHeader bs).svn)

/-- X carries an entry for Y's KIND whose range holds Y's VERSION. -/
def namesCompat (x y : ImgHeader) : Bool := x.compat.any fun e => e.1 = y.kind && e.2.1 ≤ y.version && y.version ≤ e.2.2

def compatOk (imgs : List (List Byte)) : Bool :=
  let hs := (imgs.filter fun b => !b.isEmpty).map imgHeader
  hs.all fun x => hs.all fun y => x.kind = y.kind || namesCompat x y

def Fuses.checkSet (f : Fuses) (imgs : List (List Byte)) (sig : List Bool) : SetVerdict :=
  if !((List.range 3).all fun k => f.setImageOk k (nthD imgs k []) (nthD sig k false)) then .refused
  else if compatOk imgs then .accepted else .incompatible

def Start.set (s : Start) (b : Bool) : List (List Byte) := if b then s.setBImgs else s.setA

def Start.putImage (s : Start) (b : Bool) (kind : Nat) (bs : List Byte) : Start :=
  let put := fun (xs : List (List Byte)) => (List.range 3).map fun k => if k = kind then bs else nthD xs k []
  if b then { s with setBImgs := put s.setBImgs } else { s with setA := put s.setA }

/-! ### dev.fw_stage (R492, R497) -/

/-- Largest image of a kind (R489). -/
def imgLimit (kind : Nat) : Nat := if kind = 0 then 16777216 else 4194304

/-- The fields dev.fw_stage checks. -/
def stageOk (kind len : Nat) (bs : List Byte) : Bool :=
  let h := imgHeader bs
  h.magicOk && h.kind = kind && h.totalLen = len && h.totalLen = h.bodyLen + 17440

/-- In backsight mode the image comes in pieces (R492): the header is checked in the piece that holds it. -/
def pieceBad (cmd : Cmd) : Bool :=
  let off := cmd.f 0x48 8
  let n := cmd.f 0x58 2
  n > 3840 || cmd.f 0x50 8 < off + n || (off = 0 && 0x28 ≤ n && !(stageOk (cmd.f 0x40 1) (cmd.f 0x50 8) (Mem.rds cmd.slot 0x100 n)))

def fwStageBad (_ : Clock) (d : Dev) (cmd : Cmd) : Bool :=
  cmd.f 0x40 1 > 2 || imgLimit (cmd.f 0x40 1) < cmd.f 0x50 8 ||
    (cmd.f 0x50 8 != 0 && (if d.start.phase = .backsight then pieceBad cmd
      else d.areaIn cmd.ref.port (cmd.f 0x48 8) (cmd.f 0x50 8) && !(stageOk (cmd.f 0x40 1) (cmd.f 0x50 8) (d.partRead cmd.ref.port (cmd.f 0x48 8) (min headerLen (cmd.f 0x50 8))))))

def fwStageAreas (d : Dev) (cmd : Cmd) : List (Nat × Nat) :=
  if cmd.f 0x50 8 = 0 || d.start.phase = .backsight then [] else [(cmd.f 0x48 8, cmd.f 0x50 8)]

/-- Writes into the inactive set: the whole image, a piece of it, or the active set's image of that kind. -/
def fwStageRun (c : Clock) (d : Dev) (cmd : Cmd) : Dev :=
  let kind := cmd.f 0x40 1
  let len := cmd.f 0x50 8
  let other := !d.start.dir.active
  let old := nthD (d.start.set other) kind []
  let bs :=
    if len = 0 then nthD (d.start.set d.start.dir.active) kind []
    else if d.start.phase = .backsight then patch (padTo len old) (cmd.f 0x48 8) (Mem.rds cmd.slot 0x100 (cmd.f 0x58 2))
    else d.partRead cmd.ref.port (cmd.f 0x48 8) len
  ({ d with start := d.start.putImage other kind bs }).endCmd c cmd.ref stOk 0 0 []

def devFwStage (k : Take) : Clock → Dev → Dev := runSlot 0x0104 allRows fwStageBad fwStageAreas fwStageRun k

def execDevFwStage (k : Take) (s : State) : Host.Outcome State Fault Refusal :=
  happens (.devFwStage k) k.t (·.onDev (devFwStage k)) s

/-! ### dev.fw_activate (R491, R492, R498) -/

def fwActivateBad (_ : Clock) (d : Dev) (cmd : Cmd) : Bool := cmd.f 0x40 1 > 1 || (cmd.f 0x40 1 = 1) = d.start.dir.active

/-- The inactive set, checked, becomes active in trial; the node takes a warm reset and the slot never shows DONE. In backsight mode the failure count returns to 0. -/
def fwActivateRun (sig : List Bool) (f : Fuses) (c : Clock) (d : Dev) (cmd : Cmd) : Dev :=
  let b := !d.start.dir.active
  match f.checkSet (d.start.set b) sig with
  | .refused => d.refuse cmd.ref stAuth
  | .incompatible => d.refuse cmd.ref stVersion
  | .accepted =>
    let back := d.start.phase = .backsight
    let dir := { d.start.dir with active := b, trial := true, fails := if back then 0 else d.start.dir.fails }
    ({ d with start := { d.start with dir := dir, failedAt := if back then 0 else d.start.failedAt, downloaded := d.start.downloaded || d.start.bootSrc = 2 } }).beginWarm c 1

def devFwActivate (k : Take) (sig : List Bool) (f : Fuses) (c : Clock) (d : Dev) : Clock × Dev :=
  mayWarm (runSlot 0x0105 allRows fwActivateBad noAreas (fwActivateRun sig f) k) c d

def execDevFwActivate (k : Take) (sig : List Bool) (s : State) : Host.Outcome State Fault Refusal :=
  happens (.devFwActivate k sig) k.t (fun s => s.onClk (devFwActivate k sig s.fuse)) s

/-! ### Reset packages (R502) -/

/-- What a package must pass; NODE_ID, window and NONCE are those of its body. -/
def Dev.resetPkgOk (d : Dev) (f : Fuses) (c : Clock) (img : List Byte) (node notBefore notAfter nonce : Nat) (sig : Bool) : Bool :=
  f.imageOk img sig && (imgHeader img).kind = 0x11 && d.joined c && node = d.plat.nodeId && c.valid && notBefore ≤ c.now && c.now ≤ notAfter &&
    notAfter ≤ notBefore + 1000000000 && d.start.dir.nonce < nonce

def resetPackage (img : List Byte) (node notBefore notAfter nonce : Nat) (sig : Bool) (f : Fuses) (c : Clock) (d : Dev) : Clock × Dev :=
  if !d.service then (c, d)
  else if d.resetPkgOk f c img node notBefore notAfter nonce sig then
    (c.noPort, ({ d with start := { d.start with dir := { d.start.dir with nonce := nonce } } }).beginWarm c 1)
  else (c, (d.count 122 0 1).logErr c 0 0 0 8 node Config.noParcel 1 0)

def execResetPackage (t : Nat) (img : List Byte) (node notBefore notAfter nonce : Nat) (sigOk : Bool) (s : State) : Host.Outcome State Fault Refusal :=
  happens (.resetPackage t img node notBefore notAfter nonce sigOk) t (fun s => s.onClk (resetPackage img node notBefore notAfter nonce sigOk s.fuse)) s

/-! ### Fuse packages (R500, R501) -/

/-- Bit i of a thermometer, or none beyond its 64 bits. -/
def bit64 (i : Nat) : BitVec 64 := if i < 64 then 1#64 <<< i else 0

/-- Every bit a package names is still 0. -/
def Fuses.canSet (f : Fuses) (b : FuseBody) : Bool :=
  (b.revoke.all fun k => !f.keys[k].revoked) && (b.svn.all fun e => e.2 < 64 && f.svn[e.1] &&& bit64 e.2 = 0) &&
    (b.keys.all fun e => f.keys[e.1].rsa &&& e.2.1 = 0 && f.keys[e.1].slh &&& e.2.2 = 0) && (b.macs.all fun e => f.macs[e.1] &&& e.2 = 0) &&
    (b.pinMap.all fun e => NMap.getD f.pinMap e.1 0 &&& e.2 = 0) && f.rom &&& b.rom = 0 && f.seed &&& b.seed = 0

/-- The last slot that is not revoked stays so. -/
def Fuses.leavesSlot (f : Fuses) (b : FuseBody) : Bool :=
  b.revoke.isEmpty || (List.finRange 4).any fun k => !f.keys[k].revoked && !(b.revoke.contains k)

/-- Sets the named bits: a fuse bit changes only from 0 to 1. -/
def Fuses.set (f : Fuses) (b : FuseBody) : Fuses :=
  let f1 := b.revoke.foldl (fun (x : Fuses) k => { x with keys := vupd x.keys k fun y => { y with revoked := true } }) f
  let f2 := b.svn.foldl (fun (x : Fuses) e => { x with svn := vupd x.svn e.1 fun y => y ||| bit64 e.2 }) f1
  let f3 := b.keys.foldl (fun (x : Fuses) e => { x with keys := vupd x.keys e.1 fun y => { y with rsa := y.rsa ||| e.2.1, slh := y.slh ||| e.2.2 } }) f2
  let f4 := b.macs.foldl (fun (x : Fuses) e => { x with macs := vupd x.macs e.1 fun y => y ||| e.2 }) f3
  let f5 := b.pinMap.foldl (fun (x : Fuses) e => { x with pinMap := NMap.put x.pinMap e.1 (NMap.getD x.pinMap e.1 0 ||| e.2) }) f4
  { f5 with rom := f5.rom ||| b.rom, seed := f5.seed ||| b.seed }

/-- FUSE_PKG through JTAG, while the control die is powered: the package is applied whole or not at all. -/
def fusePkg (img : List Byte) (body : FuseBody) (sig : Bool) (c : Clock) (f : Fuses) (d : Dev) : Clock × Fuses × Dev :=
  if !d.brd.pwrGood then (c, f, d)
  else
    let ok := f.imageOk img sig && (imgHeader img).kind = 0x10 && f.canSet body && f.leavesSlot body
    (c, if ok then f.set body else f, { d with brd := { d.brd with ir := .fusePkg } })

def execFusePkg (t : Nat) (img : List Byte) (body : FuseBody) (sigOk : Bool) (s : State) : Host.Outcome State Fault Refusal :=
  happens (.fusePkg t img body sigOk) t (·.onFuse (fusePkg img body sigOk)) s

end Sys2Proof.Machine
end

