-- ==== Sys2Proof/Machine/Board.lean ====
section
/-! DEFINITION. The I3C target, the TAP, SPDM and IDE (R503, R504, R525, R537, R538). -/

namespace Sys2Proof.Machine

/-! ### I3C target (R525) -/

/-- Target registers: 10 bytes from offset 0; every other byte reads as zero. -/
def Dev.i3cBytes (d : Dev) : List Byte :=
  let flags := boolNat (d.start.phase = .backsight) + 2 * boolNat d.brd.hot + 4 * boolNat (d.flash.pf = .done) + 8 * boolNat d.brd.uvSeen
  leBytes 1 d.brd.tjMax ++ leBytes 1 d.pwr.ps.toNat ++ leBytes 1 d.start.stake ++ leBytes 1 flags ++ leBytes 2 d.brd.vin ++ leBytes 2 d.brd.iin ++ leBytes 2 d.pwr.powerW

/-- I3C_ALERT_N is asserted (R525). -/
def Dev.i3cAlert (d : Dev) : Bool := d.brd.hot || d.brd.uvSeen

/-- The bytes that end PS3, written to offset 0x80 in one private write. -/
def wakeWrite : List Byte := [0x80, 0x57, 0x41, 0x4B, 0x45]

/-- A private write: its first byte is the offset; the only register that can be written is WAKE. -/
def i3cPrivateWrite (bytes : List Byte) (_ : Clock) (d : Dev) : Dev :=
  if !d.brd.pwrGood then d
  else
    let wake := decide (bytes = wakeWrite) && decide (d.pwr.ps = 3) && decide (d.start.phase = .service)
    { d with brd := { d.brd with i3cOff := (bytes.headD 0).toNat, wakeSeen := d.brd.wakeSeen || wake } }

def execI3cPrivateWrite (t : Nat) (bytes : List Byte) (s : State) : Host.Outcome State Fault Refusal :=
  happens (.i3cPrivateWrite t bytes) t (·.onDev (i3cPrivateWrite bytes)) s

/-- A private read returns bytes from the last offset written. -/
def i3cPrivateRead (len : Nat) (_ : Clock) (d : Dev) : Dev :=
  if !d.brd.pwrGood then d else { d with brd := { d.brd with i3cOut := padTo len (d.i3cBytes.drop d.brd.i3cOff) } }

def execI3cPrivateRead (t : Nat) (len : Nat) (s : State) : Host.Outcome State Fault Refusal :=
  happens (.i3cPrivateRead t len) t (·.onDev (i3cPrivateRead len)) s

/-- The address the target answers at. -/
def Board.i3cAddr (b : Board) : Nat := b.i3cDyn.getD Config.i3cStatic

/-- ENTDAA or SETDASA gives a dynamic address. -/
def entdaa (addr : Nat) (_ : Clock) (d : Dev) : Dev := if !d.brd.pwrGood then d else { d with brd := { d.brd with i3cDyn := some addr } }

def execEntdaa (t : Nat) (addr : Nat) (s : State) : Host.Outcome State Fault Refusal := happens (.entdaa t addr) t (·.onDev (entdaa addr)) s

/-! ### The TAP (R537, R538) -/

/-- Loads an instruction while the part is powered; only IDCODE's register has contents that the manual gives. -/
def Dev.loadIr (d : Dev) (ir : TapIr) (out : Option W32) : Dev := if d.brd.pwrGood then { d with brd := { d.brd with ir := ir, tdo := out } } else d

def tapBypass (_ : Clock) (d : Dev) : Dev := d.loadIr .bypass none

def execBypass (t : Nat) (s : State) : Host.Outcome State Fault Refusal := happens (.bypass t) t (·.onDev tapBypass) s

def tapIdcode (_ : Clock) (d : Dev) : Dev := d.loadIr .idcode (some Config.idcode)

def execIdcode (t : Nat) (s : State) : Host.Outcome State Fault Refusal := happens (.idcode t) t (·.onDev tapIdcode) s

def tapSample (_ : Clock) (d : Dev) : Dev := d.loadIr .samplePreload none

def execSamplePreload (t : Nat) (s : State) : Host.Outcome State Fault Refusal := happens (.samplePreload t) t (·.onDev tapSample) s

/-- Instructions that drive lands take effect only while RESET_N is asserted; otherwise BYPASS is loaded. -/
def tapDrive (ir : TapIr) (_ : Clock) (d : Dev) : Dev := d.loadIr (if d.brd.resetN then ir else .bypass) none

def execExtest (t : Nat) (s : State) : Host.Outcome State Fault Refusal := happens (.extest t) t (·.onDev (tapDrive .extest)) s
def execExtestPulse (t : Nat) (s : State) : Host.Outcome State Fault Refusal := happens (.extestPulse t) t (·.onDev (tapDrive .extestPulse)) s
def execExtestTrain (t : Nat) (s : State) : Host.Outcome State Fault Refusal := happens (.extestTrain t) t (·.onDev (tapDrive .extestTrain)) s
def execClamp (t : Nat) (s : State) : Host.Outcome State Fault Refusal := happens (.clamp t) t (·.onDev (tapDrive .clamp)) s
def execHighz (t : Nat) (s : State) : Host.Outcome State Fault Refusal := happens (.highz t) t (·.onDev (tapDrive .highz)) s

/-! ### SPDM over the DOE mailbox (R503; log 6) -/

/-- The DOE mailbox is reached by configuration requests, which pass without IDE keys. -/
def Dev.doe (d : Dev) (p : Port) : Bool := d.live && (d.port p).linkUp

/-- Four header bytes of a response, whose layout DMTF gives and the manual does not. -/
def spdmHead (code count : Nat) : List Byte := (List.range 4).map fun i => Config.spdmByte code count i

/-- Answers a request: header and payload; `f` is what the request changes of the responder. -/
def Dev.spdm (d : Dev) (p : Port) (code : Nat) (payload : List Byte) (f : Spdm → Spdm) : Dev :=
  if d.doe p then d.updPort p fun h => { h with spdm := { f h.spdm with count := h.spdm.count + 1, response := some (code, spdmHead code h.spdm.count ++ payload) } } else d

/-- Request codes of SPDM 1.3 (PRESUMED, log 6). -/
def spdmVersionCode : Nat := 0x84
def spdmCapabilitiesCode : Nat := 0xE1
def spdmAlgorithmsCode : Nat := 0xE3
def spdmDigestsCode : Nat := 0x81
def spdmCertificateCode : Nat := 0x82
def spdmChallengeCode : Nat := 0x83
def spdmMeasurementsCode : Nat := 0xE0
def spdmKeyExchangeCode : Nat := 0xE4
def spdmFinishCode : Nat := 0xE5
def spdmEndCode : Nat := 0xEC

/-- GET_VERSION starts the responder's exchange anew. -/
def spdmGetVersion (p : Port) (_ : Clock) (d : Dev) : Dev := d.spdm p spdmVersionCode [] fun _ => ⟨false, false, 0, none⟩

def execSpdmGetVersion (t : Nat) (p : Port) (s : State) : Host.Outcome State Fault Refusal := happens (.spdmGetVersion t p) t (·.onDev (spdmGetVersion p)) s

def spdmGetCapabilities (p : Port) (_ : Clock) (d : Dev) : Dev := d.spdm p spdmCapabilitiesCode [] id

def execSpdmGetCapabilities (t : Nat) (p : Port) (s : State) : Host.Outcome State Fault Refusal :=
  happens (.spdmGetCapabilities t p) t (·.onDev (spdmGetCapabilities p)) s

def spdmNegotiateAlgorithms (p : Port) (_ : Clock) (d : Dev) : Dev := d.spdm p spdmAlgorithmsCode [] id

def execSpdmNegotiateAlgorithms (t : Nat) (p : Port) (s : State) : Host.Outcome State Fault Refusal :=
  happens (.spdmNegotiateAlgorithms t p) t (·.onDev (spdmNegotiateAlgorithms p)) s

/-- Bytes of a 384-bit digest, most significant first (log 6). -/
def digestBytes (v : BitVec 384) : List Byte := (leBytes 48 v.toNat).reverse

def spdmGetDigests (p : Port) (_ : Clock) (d : Dev) : Dev :=
  d.spdm p spdmDigestsCode (digestBytes (Config.sha384 ((List.range 256).map Config.certByte))) id

def execSpdmGetDigests (t : Nat) (p : Port) (s : State) : Host.Outcome State Fault Refusal := happens (.spdmGetDigests t p) t (·.onDev (spdmGetDigests p)) s

/-- Bytes of the chain in slot 0. -/
def spdmGetCertificate (p : Port) (off len : Nat) (_ : Clock) (d : Dev) : Dev :=
  d.spdm p spdmCertificateCode ((List.range len).map fun i => Config.certByte (off + i)) id

def execSpdmGetCertificate (t : Nat) (p : Port) (off len : Nat) (s : State) : Host.Outcome State Fault Refusal :=
  happens (.spdmGetCertificate t p off len) t (·.onDev (spdmGetCertificate p off len)) s

/-- The signature of a CHALLENGE answer is free (log 6). -/
def spdmChallenge (p : Port) (nonce : List Byte) (_ : Clock) (d : Dev) : Dev := d.spdm p spdmChallengeCode nonce id

def execSpdmChallenge (t : Nat) (p : Port) (nonce : List Byte) (s : State) : Host.Outcome State Fault Refusal :=
  happens (.spdmChallenge t p nonce) t (·.onDev (spdmChallenge p nonce)) s

/-- Pin map, key slots and SVN counters as bytes (block 4): the manual gives no order (log 6). -/
def Fuses.measured (f : Fuses) : List Byte :=
  (f.pinMap.map fun e => leBytes 2 e.1 ++ leBytes 1 e.2.toNat).flatten ++
    (f.keys.toList.map fun k => digestBytes k.rsa ++ digestBytes k.slh ++ leBytes 1 (boolNat k.revoked)).flatten ++ (f.svn.toList.map fun v => leBytes 8 v.toNat).flatten

/-- A measurement block: digests of the running images, of the fuses, then the start's settings. -/
def Dev.measurement (d : Dev) (f : Fuses) (index : Nat) : List Byte :=
  if inRange index 1 3 then digestBytes (Config.sha384 (nthD (d.start.set d.start.setB) (index - 1) []))
  else if index = 4 then digestBytes (Config.sha384 f.measured)
  else if index = 5 then
    [BitVec.ofNat 8 d.start.bootSrc.toNat, BitVec.ofNat 8 d.start.clkMode.toNat, BitVec.ofNat 8 (boolNat (d.start.phase = .backsight)),
      BitVec.ofNat 8 (boolNat d.start.dir.active), BitVec.ofNat 8 (boolNat d.start.dir.trial)]
  else []

def spdmGetMeasurements (p : Port) (index : Nat) (f : Fuses) (_ : Clock) (d : Dev) : Dev := d.spdm p spdmMeasurementsCode (d.measurement f index) id

def execSpdmGetMeasurements (t : Nat) (p : Port) (index : Nat) (s : State) : Host.Outcome State Fault Refusal :=
  happens (.spdmGetMeasurements t p index) t (fun s => s.onDev (spdmGetMeasurements p index s.fuse)) s

/-- An ECDHE key exchange opens a handshake. -/
def spdmKeyExchange (p : Port) (pub : List Byte) (_ : Clock) (d : Dev) : Dev :=
  d.spdm p spdmKeyExchangeCode (digestBytes (Config.sha384 pub)) fun x => { x with handshake := true }

def execSpdmKeyExchange (t : Nat) (p : Port) (pub : List Byte) (s : State) : Host.Outcome State Fault Refusal :=
  happens (.spdmKeyExchange t p pub) t (·.onDev (spdmKeyExchange p pub)) s

/-- FINISH completes a handshake when its check value verifies. -/
def spdmFinish (p : Port) (macOk : Bool) (_ : Clock) (d : Dev) : Dev :=
  d.spdm p spdmFinishCode [] fun x => { x with session := x.session || (x.handshake && macOk), handshake := false }

def execSpdmFinish (t : Nat) (p : Port) (macOk : Bool) (s : State) : Host.Outcome State Fault Refusal :=
  happens (.spdmFinish t p macOk) t (·.onDev (spdmFinish p macOk)) s

def spdmEndSession (p : Port) (_ : Clock) (d : Dev) : Dev := d.spdm p spdmEndCode [] fun x => { x with session := false, handshake := false }

def execSpdmEndSession (t : Nat) (p : Port) (s : State) : Host.Outcome State Fault Refusal := happens (.spdmEndSession t p) t (·.onDev (spdmEndSession p)) s

/-! ### IDE_KM (R504) -/

/-- Within a session keys are programmed and both streams enabled together, or IDE is disabled for the port. -/
def ideKm (p : Port) (enable : Bool) (_ : Clock) (d : Dev) : Dev :=
  if d.doe p && (d.port p).spdm.session then d.updPort p fun h => { h with ide := ⟨enable, enable, enable⟩ } else d

def execIdeKm (t : Nat) (p : Port) (enable : Bool) (s : State) : Host.Outcome State Fault Refusal := happens (.ideKm t p enable) t (·.onDev (ideKm p enable)) s

end Sys2Proof.Machine
end

