-- ==== Sys2Proof/Machine/LoopTests.lean ====
section
/-! DEFINITION. Loop-backs and self-test (R527 to R536). What a pattern or a memory test finds comes with the command that completes it. -/

namespace Sys2Proof.Machine

/-! ### test.loopback: its checks (R527 to R531) -/

/-- IFACE, UNIT and DEPTH as R527 lists them. -/
def loopPlace (iface unit depth : Nat) : Bool :=
  match iface with
  | 0 => unit < 4 && inRange depth 1 4
  | 1 => unit < 8 && inRange depth 1 4
  | 2 => unit < 20 && inRange depth 1 2
  | 3 => unit < 32 && inRange depth 1 2
  | _ => false

/-- LEN of a pattern (R529); a protocol echo names its own length. -/
def loopLen (depth len : Nat) : Bool := depth = 4 || (len % 64 = 0 && inRange len 64 (2 ^ 40))

/-- Channels 0 and 16 carry the journal (R528). -/
def journalChan (ch : Nat) : Bool := ch = 0 || ch = 16

def testLoopbackBad (_ : Clock) (d : Dev) (cmd : Cmd) : Bool :=
  let i := cmd.f 0x40 1
  let u := cmd.f 0x41 1
  let k := cmd.f 0x42 1
  !(loopPlace i u k) || !(loopLen k (cmd.f 0x48 8)) || cmd.resultLen < 64 || (i = 3 && journalChan u && !d.flash.unformatted) ||
    (i = 0 && k != 4 && cmd.ref.port.val = u) || (i = 0 && k = 4 && (match d.ports.toList[u]? with | some h => decide (h.part.gib = 0) | none => true)) ||
    (i = 1 && k = 4 && 4096 ≤ cmd.f 0x50 2)

/-- BLOCK value of PWR.HOLD for an interface class. -/
def holdBlock (iface : Nat) : Nat := if iface = 1 then 3 else if iface = 2 then 1 else 2

/-- A test runs on the unit (R533). -/
def Tests.onUnit (t : Tests) (iface unit : Nat) : Bool :=
  (t.loops.any fun l => l.iface = iface && l.unit = unit) || (iface = 2 && t.bistHolds 1 unit) || (iface = 3 && t.bistHolds 2 unit)

/-- The unit may leave service: held with its IDLE bit at 1, or an idle journal channel of an unformatted node (R528, R530). -/
def Dev.loopReady (d : Dev) (c : Clock) (iface unit depth : Nat) : Bool :=
  if iface = 0 || depth = 4 then true
  else if iface = 3 && journalChan unit then !(d.chanOutstanding unit)
  else d.idle c (holdBlock iface) unit

/-! ### What a test does to its unit (R530, R531) -/

/-- Depth 4 opens an empty 64 KiB echo buffer, or sends LEN bytes to the peer; the other depths take a link down. -/
def Dev.loopBegin (d : Dev) (c : Clock) (t : LoopTest) : Dev :=
  let d1 := { d with tst := { d.tst with loops := d.tst.loops ++ [t] } }
  if t.iface = 0 then
    if h : t.unit < 4 then
      (if t.depth = 4 then d1.updPort ⟨t.unit, h⟩ fun x => { x with echo := some [], echoRead := 0 } else d1.portReset c ⟨t.unit, h⟩)
    else d1
  else if t.iface = 1 then
    (if t.depth = 4 then d1.send clsBulk t.node (.echo t.len)
     else { d1 with fab := { d1.fab with ports := vupdN d1.fab.ports t.unit fun x => { x with link := .down, lanes := 0, macsecUp := false } } })
  else d1

/-- The unit returns to service: the echo window closes, a fabric link trains again; a host link comes up with its own event. -/
def Dev.loopRelease (d : Dev) (t : LoopTest) : Dev :=
  let d1 := { d with tst := { d.tst with loops := d.tst.loops.filter fun x => x.ref != t.ref } }
  if t.iface = 0 && t.depth = 4 then
    (if h : t.unit < 4 then d1.updPort ⟨t.unit, h⟩ fun x => { x with echo := none, echoRead := 0 } else d1)
  else if t.iface = 1 && t.depth != 4 then
    { d1 with fab := { d1.fab with ports := vupdN d1.fab.ports t.unit fun x => if x.enable then { x with link := .training } else { x with link := .disabled } } }
  else d1

def testLoopbackRun (c : Clock) (d : Dev) (cmd : Cmd) : Dev :=
  let i := cmd.f 0x40 1
  let u := cmd.f 0x41 1
  let k := cmd.f 0x42 1
  if d.tst.onUnit i u || !(d.loopReady c i u k) then d.refuse cmd.ref stBusy
  else d.loopBegin c { ref := cmd.ref, iface := i, unit := u, depth := k, len := cmd.f 0x48 8, node := cmd.f 0x50 2, bytes := 0, bad := 0, echoed := 0 }

/-- A fabric port under test supplies no time (R362). -/
def Dev.testPort (d : Dev) (c : Clock) : Clock := if d.tst.loops.any fun l => l.iface = 1 && l.depth != 4 && (c.ptpPort.map (·.val)) = some l.unit then c.noPort else c

def testLoopback (k : Take) (c : Clock) (d : Dev) : Clock × Dev :=
  let d1 := runSlot 0x0D00 allRows testLoopbackBad noAreas testLoopbackRun k c d
  (d1.testPort c, d1)

def execTestLoopback (k : Take) (s : State) : Host.Outcome State Fault Refusal :=
  happens (.testLoopback k) k.t (·.onClk (testLoopback k)) s

/-! ### Its end (R529, R532, R533) -/

/-- The 64-byte result. -/
def LoopRes.out (r : LoopRes) : List Byte :=
  leBytes 8 r.bytes ++ leBytes 8 r.errBits ++ leBytes 8 (r.firstErr.getD (2 ^ 64 - 1)) ++
    ((List.range 16).map fun i => leBytes 2 (min 0xFFFF (nthD r.errs i 0))).flatten ++ leBytes 4 r.echoed ++ leBytes 4 0

def LoopRes.none : LoopRes := ⟨0, 0, .none, [], 0⟩

/-- A test has ended: accesses and flash commands that waited for its unit go on (R528, R530). -/
def Dev.testOver (d : Dev) (c : Clock) : Dev := (d.flashAgain c).chansGoOn c

/-- Writes the result and ends the command; the unit returns to service. -/
def Dev.loopEnd (d : Dev) (c : Clock) (t : LoopTest) (r : LoopRes) (status : Nat) : Dev :=
  let d1 := match d.cmd? t.ref with | some cmd => d.result cmd 0 (LoopRes.out r) | Option.none => d
  ((d1.endCmd c t.ref status 0 0 []).loopRelease t).testOver c

/-- Bytes the host has read from the window of a HOST protocol echo. -/
def Dev.windowRead (d : Dev) (u : Nat) : Nat := match d.ports.toList[u]? with | some h => h.echoRead | Option.none => 0

/-- What a protocol echo has counted so far (R532): nothing but bytes and echoes on a host port. -/
def Dev.echoCounts (d : Dev) (t : LoopTest) (r : LoopRes) : LoopRes :=
  if t.iface = 0 then { LoopRes.none with bytes := d.windowRead t.unit, echoed := d.windowRead t.unit / 64 }
  else { r with bytes := t.bytes, errBits := t.bad, echoed := t.echoed }

def Dev.loopOn (d : Dev) (iface unit : Nat) : Option LoopTest := d.tst.loops.find? fun l => l.iface = iface && l.unit = unit

/-- The pattern never locked. -/
def loopbackLockTimeout (iface unit : Nat) (c : Clock) (d : Dev) : Dev :=
  match d.loopOn iface unit with
  | some t => if t.depth = 4 then d else d.loopEnd c t LoopRes.none stShort
  | Option.none => d

def execLoopbackLockTimeout (t : Nat) (iface unit : Nat) (s : State) : Host.Outcome State Fault Refusal :=
  happens (.loopbackLockTimeout t iface unit) t (·.onDev (loopbackLockTimeout iface unit)) s

/-- The port of a HOST protocol echo has lost its link. -/
def Dev.echoLost (d : Dev) (u : Nat) : Bool := match d.ports.toList[u]? with | some h => !h.linkUp | Option.none => true

/-- LEN bytes are compared, or the unit or the peer is lost: ST_OK in the first case, else ST_SHORT. -/
def testComplete (iface unit : Nat) (r : LoopRes) (c : Clock) (d : Dev) : Dev :=
  match d.loopOn iface unit with
  | Option.none => d
  | some t =>
    let out := if t.depth = 4 then d.echoCounts t r else { r with bytes := min r.bytes t.len }
    if t.depth = 4 && iface = 0 && out.bytes < t.len && !(d.echoLost unit) then d
    else d.loopEnd c t out (if t.len ≤ out.bytes then stOk else stShort)

def execTestComplete (t : Nat) (iface unit : Nat) (r : LoopRes) (s : State) : Host.Outcome State Fault Refusal :=
  happens (.testComplete t iface unit r) t (·.onDev (testComplete iface unit r)) s

/-- A peer returns a message of this node's protocol echo: its bytes are compared. -/
def loopbackEcho (len bad : Nat) (c : Clock) (d : Dev) : Dev :=
  match d.tst.loops.find? fun l => l.iface = 1 && l.depth = 4 with
  | Option.none => d
  | some t =>
    let t1 := { t with bytes := min t.len (t.bytes + len), bad := t.bad + bad, echoed := t.echoed + 1 }
    let d1 := { d with tst := { d.tst with loops := updIf (fun l => l.ref = t.ref) (fun _ => t1) d.tst.loops } }
    if t1.bytes = t1.len then d1.loopEnd c t1 (d1.echoCounts t1 LoopRes.none) stOk else d1

def execLoopbackEcho (t : Nat) (len bad : Nat) (s : State) : Host.Outcome State Fault Refusal :=
  happens (.loopbackEcho t len bad) t (·.onDev (loopbackEcho len bad)) s

/-- Counts of a pattern that is cut off: how far it had come is a free value (log 54). -/
def Dev.cutCounts (d : Dev) (t : LoopTest) : LoopRes × Dev :=
  if t.depth = 4 then (d.echoCounts t LoopRes.none, d)
  else
    let a := d.fresh
    let b := a.2.fresh
    let e := b.2.fresh
    ({ bytes := a.1 % (t.len + 1), errBits := b.1, firstErr := if b.1 = 0 then Option.none else some (e.1 % t.len),
       errs := (List.range 16).map fun i => (e.1 / 65536 ^ i) % 65536, echoed := 0 }, e.2)

/-- A test ends before its time, with the counts so far. -/
def Dev.loopCut (d : Dev) (c : Clock) (t : LoopTest) (status : Nat) : Dev := (d.cutCounts t).2.loopEnd c t (d.cutCounts t).1 status

/-! ### test.bist (R528, R534 to R536) -/

def testBistBad (_ : Clock) (_ : Dev) (cmd : Cmd) : Bool := cmd.f 0x40 4 > 15

/-- Units that SCOPE selects, as (kind, unit, bit): the held ones; the journal channels of an unformatted node without a hold; in backsight mode search dies alone. -/
def Dev.bistUnits (d : Dev) (scope : Nat) : List (Nat × Nat × Nat) :=
  let held := fun (b : Nat) => (holdUnits b).filter fun u => d.heldBit b u
  let sel := fun (bit kind : Nat) (us : List Nat) => if bitAt scope bit then us.map fun u => (kind, u, bit) else []
  let dies := sel 0 0 (held 0) ++ sel 1 0 (held 0)
  if d.start.phase = .backsight then dies
  else dies ++ sel 2 1 (held 1) ++ sel 3 2 ((if d.flash.unformatted then [0, 16] else []) ++ held 2)

def Dev.bistReady (d : Dev) (c : Clock) (x : Nat × Nat × Nat) : Bool :=
  if x.1 = 2 && journalChan x.2.1 then !(d.chanOutstanding x.2.1) && !(d.tst.onUnit 3 x.2.1) else d.idle c x.1 x.2.1

/-- MBIST destroys the memory under test: a die's windows and cached rows reload (R534). -/
def Dev.bistBegin (d : Dev) (t : BistTest) : Dev :=
  let d1 := { d with tst := { d.tst with bists := d.tst.bists ++ [t] } }
  ((t.units.filter fun u => u.1 = 0 && u.2.2 = 0).map fun u => u.2.1).foldl (fun (x : Dev) u => x.startBlock 0 u) d1

/-- Reports a self-test without units at once. -/
def testBistRun (c : Clock) (d : Dev) (cmd : Cmd) : Dev :=
  let us := d.bistUnits (cmd.f 0x40 4)
  if us.any fun u => !(d.bistReady c u) then d.refuse cmd.ref stBusy
  else if us.isEmpty then d.endCmd c cmd.ref stOk 0 0 []
  else d.bistBegin ⟨cmd.ref, BitVec.ofNat 4 (cmd.f 0x40 4), us, []⟩

def testBist (k : Take) : Clock → Dev → Dev := runSlot 0x0D01 allRows testBistBad noAreas testBistRun k

def execTestBist (k : Take) (s : State) : Host.Outcome State Fault Refusal := happens (.testBist k) k.t (·.onDev (testBist k)) s

/-- The 16 bytes of a record. -/
def BistRec.out (r : BistRec) : List Byte := leBytes 1 r.kind ++ leBytes 1 r.unit ++ leBytes 1 r.bit ++ leBytes 1 r.result ++ leBytes 4 r.fails ++ leBytes 4 r.repaired ++ leBytes 4 0

/-- Arrays that gave a wrong value in the cell self-test are disabled until the next start (R535). -/
def Dev.bistApply (d : Dev) (r : BistRec) : Dev :=
  if r.kind = 0 && r.bit = 1 then { d with scan := { d.scan with dies := vupdN d.scan.dies r.unit fun (a : Arrays) => { a with working := a.working - r.fails } } } else d

/-- The record of a unit's test is one of these. -/
def BistRec.isOf (r : BistRec) (u : Nat × Nat × Nat) : Bool := r.kind = u.1 && r.unit = u.2.1 && r.bit = u.2.2

/-- Every unit is tested: one record for each, in the order of the units; those that the result area holds are written (R536). -/
def Dev.bistEnd (d : Dev) (c : Clock) (b : BistTest) (out : List BistRec) : Dev :=
  let d1 := { d with tst := { d.tst with bists := d.tst.bists.filter fun x => x.ref != b.ref } }
  match d1.cmd? b.ref with
  | Option.none => d1.testOver c
  | some cmd =>
    let w := out.take (cmd.resultLen / 16)
    ((d1.result cmd 0 (w.map BistRec.out).flatten).endCmd c b.ref (if out.all fun r => r.result < 2 then stOk else stShort) 0 w.length []).testOver c

/-- Tests of units end, each with its record; PROGRESS counts them until the last one ends the command (R50, R534; DEDUCED, log 54). -/
def bistComplete (p : Port) (n : SlotNo) (recs : List BistRec) (c : Clock) (d : Dev) : Dev :=
  match d.tst.bists.find? fun b => b.ref.port = p && b.ref.slot = n with
  | Option.none => d
  | some b =>
    let new := (b.units.filter fun u => !(b.recs.any fun r => BistRec.isOf r u)).filterMap fun u => recs.find? fun r => BistRec.isOf r u && r.result ≤ 2
    let b1 := { b with recs := b.recs ++ new }
    let d1 := new.foldl (fun (x : Dev) r => x.bistApply r) { d with tst := { d.tst with bists := updIf (fun x => x.ref = b.ref) (fun _ => b1) d.tst.bists } }
    let out := b1.units.filterMap fun u => b1.recs.find? fun r => BistRec.isOf r u
    if out.length = b1.units.length then d1.bistEnd c b1 out
    else if d1.cmds.running.any fun x => x.ref = b.ref && !x.abandoned then d1.report b.ref stRunning (progressOf out.length b1.units.length) 0 false false false
    else d1

def execBistComplete (t : Nat) (p : Port) (n : SlotNo) (recs : List BistRec) (s : State) : Host.Outcome State Fault Refusal :=
  happens (.bistComplete t p n recs) t (·.onDev (bistComplete p n recs)) s

/-- Every test ends: at PWR_FAIL_N with ST_SHORT and the counts so far (R533, log 54). -/
def Dev.endTests (d : Dev) (c : Clock) : Dev :=
  let d1 := d.tst.loops.foldl (fun (x : Dev) t => x.loopCut c t stShort) d
  let d2 := d1.tst.bists.foldl (fun (x : Dev) b => x.endCmd c b.ref stShort 0 0 []) d1
  ({ d2 with tst := { d2.tst with bists := [] } }).testOver c

end Sys2Proof.Machine
end

