-- ==== Sys2Proof/Machine/Deadline.lean ====
section
/-! DEFINITION. A running command's DEADLINE passes (R427): what each command's own rules then say (R28, R186, R234, R254, R533). Queries end by an event of their own. -/

namespace Sys2Proof.Machine

/-- DEADLINE of the header: 0 means none. -/
def Cmd.due (cmd : Cmd) (c : Clock) : Bool := cmd.deadline != 0 && cmd.deadline ≤ c.now

/-- A gather still running at its deadline keeps the prefix that COUNT_WORD gives (R186). -/
def Dev.gatherDue (d : Dev) (c : Clock) (r : Ref) : Dev :=
  match d.chain.readers.find? fun x => x.kind = .gather r with
  | some x => if x.deadline ≤ c.now then d.gatherEnd c x r stDeadline false else d
  | none => d

/-- A command that still waits to be admitted is not (R28). -/
def Dev.admissionDue (d : Dev) (c : Clock) (cmd : Cmd) : Dev :=
  if d.root.waiting.contains cmd.ref && d.deadlineOf c cmd ≤ c.now then
    ({ d with root := { d.root with waiting := d.root.waiting.filter fun r => r != cmd.ref } }).notAdmitted cmd stDeadline
  else d

/-- A model.run has the deadline of R31 and R140: when it passes, the command ends and its rows serve nobody (R427; DEDUCED, log 63). -/
def Dev.runDue (d : Dev) (c : Clock) (r : Ref) : Dev :=
  match (d.mdl.runs ++ (d.mdl.waves.map (·.runs)).flatten).find? fun (x : Run) => x.ref = some r with
  | some x =>
    if x.deadline ≤ c.now then ({ d with mdl := { d.mdl with runs := d.mdl.runs.filter fun (y : Run) => y.ref != some r } }).endCmd c r stDeadline 0 0 [] else d
  | none => d

/-- An operation on a decode-table generation that is still pending (R234). -/
def Dev.tableDue (d : Dev) (c : Clock) (r : Ref) : Dev :=
  match d.mdl.gens.find? fun g => (match g.2.pend with | some p => decide (p.1 = r) | none => false) with
  | some g => d.tableGenDeadline c g.1 r
  | none => d

def Dev.loopDue (d : Dev) (c : Clock) (r : Ref) : Dev :=
  match d.tst.loops.find? fun l => l.ref = r with
  | some t => d.loopCut c t stDeadline
  | none => d

/-- Commands whose own rules name no DEADLINE run on. -/
def Dev.cmdDue (d : Dev) (c : Clock) (cmd : Cmd) : Dev :=
  match cmd.opcode with
  | 0x0300 => d.admissionDue c cmd
  | 0x0500 => d.gatherDue c cmd.ref
  | 0x0601 => d.runDue c cmd.ref
  | 0x0602 => if cmd.due c then d.tableDue c cmd.ref else d
  | 0x0700 => if cmd.due c then d.bankDue c cmd else d
  | 0x0D00 => if cmd.due c then d.loopDue c cmd.ref else d
  | _ => d

/-- The command that runs in the slot. -/
def commandDeadline (p : Port) (n : SlotNo) (c : Clock) (d : Dev) : Dev :=
  match d.cmds.running.find? fun x => x.ref.port = p && x.ref.slot = n && !x.abandoned with
  | some cmd => if d.live then d.cmdDue c cmd else d
  | none => d

def execCommandDeadline (t : Nat) (p : Port) (n : SlotNo) (s : State) : Host.Outcome State Fault Refusal :=
  happens (.commandDeadline t p n) t (·.onDev (commandDeadline p n)) s

end Sys2Proof.Machine
end

