-- ==== Sys2Proof/Machine/Startup.lean ====
section
/-! DEFINITION. The start: stakes 1 to 11 in order, the start log, units that fail, hang or are skipped, the trial set and its fallback, backsight mode, and completion (R459, R460, R479 to R505). What silicon and board answer at each stake comes with the command. -/

namespace Sys2Proof.Machine

/-! ### The start log (R490) -/

def evBegun : Nat := 0
def evPassed : Nat := 1
def evFailed : Nat := 2
def evUnitBegun : Nat := 3
def evUnitPassed : Nat := 4
def evUnitFailed : Nat := 5
def evUnitSkipped : Nat := 6
def evChanged : Nat := 7
def evFallback : Nat := 8
def evBacksight : Nat := 9
def evComplete : Nat := 10

/-- UNIT of a record of a whole stake. -/
def wholeStake : Nat := 0xFF

def clsNat : ResetCls → Nat
  | .cold => 0
  | .warm => 1
  | .low => 2

/-- Writes a start log entry; a full ring drops its oldest. Time since the start began is a free value, and the cause is the firmware's code (log 14, 53). -/
def Dev.startLog (d : Dev) (c : Clock) (stake event unit : Nat) : Dev :=
  let r := d.fresh
  let s := r.2.start
  let e : StartLog :=
    { startNo := s.startNo % 2 ^ 32, stake := stake, event := event, unit := unit, cls := clsNat s.cls, set := boolNat s.setB + 2 * boolNat s.trialRun,
      consec := s.consec, cause := Config.eventCode (1000 + 16 * stake + event) % 65536, elapsed := r.1 % 2 ^ 32, datum := if c.valid then c.now else 0 }
  { r.2 with start := { s with log := (if Config.startLogSize ≤ s.log.length then s.log.drop 1 else s.log) ++ [e] } }

/-! ### One stake -/

/-- A start as far as it has come: whether it goes on, and the device. -/
abbrev Going := Bool × Dev

/-- The start fails at stake n (R485, R491): the count rises, and a warm reset with WARM_CAUSE 2 follows. A stake that an outside cause ended leaves no FAILED record. -/
def Dev.failStart (d : Dev) (c : Clock) (n : Nat) (recorded : Bool) : Dev :=
  let d1 := if recorded then d.startLog c n evFailed wholeStake else d
  ({ d1 with start := { d1.start with dir := { d1.start.dir with fails := d1.start.dir.fails + 1 }, failedAt := n } }).beginWarm c 2

/-- Stakes that are done differently on the start after they failed (R484); stake 5 records FALLBACK instead. -/
def changedStakes : List Nat := [3, 4, 6, 10]

/-- Runs stake n of a start that goes on: BEGUN, the work, then PASSED or the failure. -/
def stakeRun (c : Clock) (o : StartOutcome) (n : Nat) (work : Dev → Going) (x : Going) : Going :=
  if !x.1 then x
  else
    let d1 := x.2.startLog c n evBegun wholeStake
    let d2 := if d1.start.failedAt = n && changedStakes.contains n then d1.startLog c n evChanged wholeStake else d1
    let r := work d2
    if r.1 && o.interrupted != some n then (true, ({ r.2 with start := { r.2.start with stake := n } }).startLog c n evPassed wholeStake)
    else (false, r.2.failStart c n (o.interrupted != some n && !(r.2.start.skip.any fun k => k.1 = n && !(d2.start.skip.contains k))))

/-! ### Units (R486, R487) -/

/-- A unit's bring-up: skipped, passed, failed cleanly, or hung, which ends the start. `good` and `bad` are what it leaves of the unit. -/
def unitRun (c : Clock) (n u : Nat) (o : UnitOutcome) (good bad : Dev → Dev) (x : Going) : Going :=
  if !x.1 then x
  else
    let low := fun (d : Dev) => { d with start := { d.start with degraded := true } }
    if x.2.start.skip.contains (n, u) then (true, low (bad (x.2.startLog c n evUnitSkipped u)))
    else
      let d1 := x.2.startLog c n evUnitBegun u
      match o with
      | .passed => (true, (good d1).startLog c n evUnitPassed u)
      | .noPartner => (true, d1.startLog c n evUnitPassed u)
      | .failed => (true, low ((bad d1).startLog c n evUnitFailed u))
      | .hung => (false, bad { d1 with start := { d1.start with skip := d1.start.skip ++ [(n, u)] } })

def unitsRun (c : Clock) (n count : Nat) (os : List UnitOutcome) (good bad : Nat → Dev → Dev) (d : Dev) : Going :=
  (List.range count).foldl (fun (x : Going) u => unitRun c n u (nthD os u .failed) (good u) (bad u) x) (true, d)

/-! ### Stakes 1 to 5 -/

/-- The boot source's set directory and sets; join record and nonce stay (R363, R480, R502). -/
def Start.source (s : Start) : Start :=
  let flash := decide (s.bootSrc = 1)
  if flash = s.fromFlash then s
  else { s with fromFlash := flash, dir := { s.alt.1 with join := s.dir.join, nonce := s.dir.nonce }, setA := s.alt.2.1, setBImgs := s.alt.2.2,
                alt := (s.dir, s.setA, s.setBImgs) }

/-- Stake 1: the ROM takes the next START_NO and reads the directory (R490, R505). -/
def Dev.openStart (d : Dev) (cls : ResetCls) : Dev :=
  let s := if cls = .cold then d.start.source else d.start
  { d with start := { s with cls := cls, startNo := (s.startNo + 1) % 2 ^ 32, stake := 0, degraded := false, consec := s.dir.fails,
                             setB := s.dir.active, trialRun := s.dir.trial } }

/-- Three failed starts bring backsight mode (R491). -/
def Start.lost (s : Start) : Bool := 3 ≤ s.dir.fails

/-- Stake 2: fuse ECC; a reserved strap fails it outside backsight mode (R481). A cold start loads the FUSE mirrors (R546). -/
def stake2 (o : StartOutcome) (d : Dev) : Going :=
  (o.fusesOk && (d.start.lost || (d.start.bootSrc != 3 && d.start.clkMode != 3)),
   { d with start := { d.start with mirrored := d.start.mirrored || (o.fusesOk && decide (d.start.cls = .cold)) } })

/-- Stake 5 takes the active set, or the known-good set (R484, R496). -/
def Dev.fallBack (d : Dev) : Bool := (d.start.failedAt != 0 && d.start.dir.trial) || d.start.failedAt = 5

/-- The set the start runs on; the known-good set used in its place becomes active (log 53). -/
def stake5 (c : Clock) (f : Fuses) (o : StartOutcome) (d : Dev) : Going :=
  let s := d.start
  let load := fun (x : Dev) => { x with scan := { x.scan with dies := Vector.ofFn fun (i : Fin 10) => ⟨min Config.arraysPerDie (nthD o.arrays i.val 0), 0⟩ } }
  if f.checkSet (s.set s.dir.active) o.sigActive = .accepted && !d.fallBack then (true, load { d with start := { s with setB := s.dir.active, trialRun := s.dir.trial } })
  else
    match s.dir.good with
    | none => (false, d)
    | some g =>
      if f.checkSet (s.set g) o.sigGood = .accepted then
        (true, load (({ d with start := { s with setB := g, trialRun := false, dir := { s.dir with active := g, trial := false } } }).startLog c 5 evFallback wholeStake))
      else (false, d)

/-! ### Stake 6: stacks (R263, R273, R460, R486) -/

/-- A stack in service, with its frames of the retired frame list; one with too many is failed (R273). -/
def Dev.stackUp (d : Dev) (fresh : Bool) (s : Nat) : Dev :=
  let n := (d.mem.retired.filter fun f => f.1 = s).length
  let set := fun (k : Stack) =>
    { k with retired := n, spare := if fresh || k.state = .off || k.state = .failed then Config.spareFrames else k.spare,
             state := if Config.allFrames / 8 < n then .failed else if k.state = .partialUp then .partialUp else .up }
  { d with mem := { d.mem with stk := vupdN d.mem.stk s set } }

def Dev.stackOff (d : Dev) (s : Nat) : Dev :=
  { d with mem := { d.mem with stk := vupdN d.mem.stk s fun (k : Stack) => { k with state := .off, spare := 0, retired := (d.mem.retired.filter fun f => f.1 = s).length } } }

def Dev.stackServes (d : Dev) (s : Nat) : Bool := match d.mem.stk.toList[s]? with | some k => k.serving | none => false

/-- Some search die has neither of its stacks. -/
def Dev.dieBare (d : Dev) : Bool := (List.range 10).any fun i => !(d.stackServes (2 * i)) && !(d.stackServes (2 * i + 1))

/-- DRAM keeps its contents over a warm reset when the region table checks and every stack in use leaves self-refresh (R460). -/
def Dev.dramKept (d : Dev) (o : StartOutcome) : Bool :=
  o.regionTableOk && (List.range 20).all fun s => !(d.stackServes s) || (nthD o.stackRes s .failed = .passed && !(d.start.skip.contains (6, s)))

/-- The working-array set is tested again where DRAM trains anew, also on leaving PS3 (R54, R474). -/
def stake6 (c : Clock) (o : StartOutcome) (d : Dev) : Going :=
  let warm := decide (d.start.cls = .warm)
  let kept := warm && d.dramKept o
  let d0 := if warm && !kept then d.loseDram true false else d
  let d1 := if d.start.cls = .low then { d0 with scan := { d0.scan with dies := Vector.ofFn fun (i : Fin 10) => ⟨min Config.arraysPerDie (nthD o.arrays i.val 0), 0⟩ } } else d0
  let r := unitsRun c 6 20 o.stackRes (fun s x => x.stackUp (!kept) s) (fun s x => x.stackOff s) d1
  if !r.1 then r else (!r.2.dieBare, { r.2 with mem := r.2.mem.recount })

/-! ### Stake 7: flash channels (R317 to R320) -/

/-- Good blocks of a channel met for the first time, spread over its targets. -/
def firstBlocks (n targets : Nat) : List FBlock :=
  (List.range n).map fun i => { no := i, target := i % targets, mode := .free, erases := 0, units := [], used := 0, patrol := 0, refreshed := none }

/-- Blocks that a channel uses: at most 4 TB of dense capacity (R316). -/
def usableBlocks (ch n : Nat) : Nat := if n * blockCap ch ≤ 4000000000000 then n else 4000000000000 / blockCap ch

/-- A channel in service at the rate it trained to. -/
def Dev.chanUp (d : Dev) (o : StartOutcome) (ch : Nat) : Dev :=
  let tg := nthD o.targets ch 0
  let d1 := d.updChan ch fun x =>
    { x with state := .up, rate := nthD o.rates ch 0, targets := tg, density := nthD o.densities ch 0,
             blocks := if x.blocks.isEmpty then firstBlocks (usableBlocks ch (nthD o.goodBlocks ch 0)) tg else x.blocks }
  { d1 with scan := { d1.scan with chans := vupdN d1.scan.chans ch fun _ => ⟨min 8 (nthD o.chanArrays ch 0), 0⟩ } }

def Dev.chanOff (d : Dev) (ch : Nat) : Dev := d.updChan ch fun x => { x with state := .off, rate := 0, targets := 0 }

/-- Rates a channel is trained at: 3,600 MT/s, and lower ones in steps of 400 down to 800 (R319). -/
def rateOk (r : Nat) : Bool := inRange r 800 3600 && r % 400 = 0

/-- A channel that trains at no rate, has no target, or breaks R318 has failed its bring-up. -/
def chanRes (o : StartOutcome) (ch : Nat) : UnitOutcome :=
  match nthD o.chans ch .failed with
  | .passed => if rateOk (nthD o.rates ch 0) && inRange (nthD o.targets ch 0) 1 8 && inRange (nthD o.densities ch 0) 3 4 then .passed else .failed
  | .noPartner => .failed
  | x => x

/-- A board with no working target on channel 0 or 16 has no flash (R320). -/
def Dev.noteFlash (d : Dev) : Dev := { d with flash := { d.flash with noFlash := !((d.chan 0).serving && (d.chan 16).serving) } }

/-- Training after a PS2 exit: a channel that passes at no rate is left OFF (R317, R319). An empty list: every channel keeps its rate. -/
def Dev.retrainFlash (d : Dev) (rates : List Nat) : Dev :=
  ((List.range rates.length).foldl (fun (x : Dev) ch =>
    let r := nthD rates ch 0
    if !(x.chan ch).serving then x else if rateOk r then x.updChan ch fun y => { y with rate := r } else x.chanOff ch) d).noteFlash

def stake7 (c : Clock) (o : StartOutcome) (d : Dev) : Going :=
  let r := unitsRun c 7 32 ((List.range 32).map (chanRes o)) (fun ch x => x.chanUp o ch) (fun ch x => x.chanOff ch) d
  (r.1, r.2.noteFlash)

/-! ### Stakes 8 and 9: links -/

/-- A host port whose own reference is missing meets no partner (R479, R520). -/
def Dev.hpClock (d : Dev) (p : Port) : Bool := d.start.clkMode = 2 || d.start.clkMode = 3 || !(d.brd.lost.contains (.hp p))

def Dev.portTrained (d : Dev) (p : Port) : Dev := if d.hpClock p then (d.updPort p fun h => { h with off := false }).linkUp p else d
def Dev.portLeftOff (d : Dev) (p : Port) : Dev := d.updPort p fun h => { h with linkUp := false, off := true }

def onPort (f : Port → Dev → Dev) (u : Nat) (d : Dev) : Dev := if h : u < 4 then f ⟨u, h⟩ d else d

/-- A port that a start before left off is tried again. -/
def Dev.allOn (d : Dev) : Dev := { d with ports := d.ports.map fun h => { h with off := false } }

def stake8 (c : Clock) (o : StartOutcome) (d : Dev) : Going :=
  unitsRun c 8 4 o.hostPorts (onPort fun p x => x.portTrained p) (onPort fun p x => x.portLeftOff p) d.allOn

def Dev.fabClock (d : Dev) (q : Nat) : Bool := !(d.brd.lost.any fun k => match k with | .fb e => e.val = q / 4 | _ => false)

def Dev.setFab (d : Dev) (q : Nat) (f : FPort → FPort) : Dev := { d with fab := { d.fab with ports := vupdN d.fab.ports q f } }

def stake9 (c : Clock) (o : StartOutcome) (d : Dev) : Going :=
  let d0 := { d with fab := { d.fab with ports := d.fab.ports.map fun (f : FPort) => { f with link := if f.enable then .training else .disabled, lanes := 0, macsecUp := false } } }
  unitsRun c 9 8 o.fabPorts (fun q x => if x.fabClock q then x.setFab q fun f => if f.enable then { f with link := .up, lanes := 0xFF } else f else x)
    (fun q x => x.setFab q fun f => { f with link := .disabled }) d0

/-! ### Stake 10: journal replay and completion (R328, R461, R485, R499) -/

/-- A record that one journal channel alone had is applied now; a block whose copies it records joins the erase queue. -/
def Dev.replayRec (d : Dev) (c : Clock) (r : JRec) : Dev :=
  let d1 := d.applyJRec c r
  match r with
  | .gc ch src _ => d1.updChan ch fun x => { x with erases := if x.erases.contains src then x.erases else x.erases ++ [src] }
  | _ => d1

/-- Spares of a channel as its blocks show them. -/
def FChan.replayed (x : FChan) (formatted : Bool) : FChan :=
  let n := (x.blocks.filter fun b => b.mode = .spare).length
  { x with spares := n, state := if x.state = .up && formatted && n = 0 then .noSpares else x.state }

/-- Units whose latest location a record that replay does not reach had named: it falls back to an older page, whose content the model does not hold, so that the unit reads as uncorrectable (DESIGN CHOICE, log 46). -/
def Dev.loseRec (d : Dev) (r : JRec) : Dev :=
  let lose := fun (x : Dev) (ch u w : Nat) =>
    if ((NMap.get? (x.chan ch).map u).map (·.wseq)) = some w then x.updChan ch fun y => { y with badUnits := (y.badUnits ++ [u]).dedup } else x
  match r with
  | .map ch u _ _ w _ => lose d ch u w
  | .gc ch _ copies => copies.foldl (fun (x : Dev) k => lose x ch k.1 k.2.2.2) d
  | _ => d

/-- Checkpoints and every durable record make the map again, up to the first record that fails its check on both journal channels (R328). -/
def Dev.replayJournal (d : Dev) (c : Clock) (o : StartOutcome) : Dev :=
  let n := o.journalEnd.getD (d.flash.durable.length + d.flash.inflight.length)
  let kept := d.flash.inflight.take (n - d.flash.durable.length)
  let d0 := (d.flash.durable.drop n).foldl (fun (x : Dev) r => x.loseRec r) d
  let d1 := { d0 with flash := { d0.flash with inflight := [], durable := d0.flash.durable.take n ++ kept } }
  let d2 := kept.foldl (fun (x : Dev) r => x.replayRec c r) d1
  let formatted := d2.flash.durable.contains .format
  ({ d2 with flash := { d2.flash with chans := d2.flash.chans.map (fun (x : FChan) => x.replayed formatted), unformatted := !formatted, replayed := true } }).placeMap

/-- Dirty frames kept over a warm reset are written back again (R461). -/
def Dev.rewriteDirty (d : Dev) : Dev :=
  if d.flash.readOnly then d
  else ((d.mem.pool.filter (·.dirty)).map fun f => (f.key, f.page / 4)).dedup.foldl (fun (x : Dev) k => x.writeOwned k.1 k.2) d

def stake10 (c : Clock) (o : StartOutcome) (d : Dev) : Going :=
  if d.flash.noFlash then (true, d)
  else if !o.journalOk then (false, d)
  else (true, (d.replayJournal c o).rewriteDirty)

/-- Sets the lowest bits still clear until n are set: fuse bits only rise (R500). -/
def raiseTo (v : BitVec 64) (n : Nat) : BitVec 64 :=
  (List.range 64).foldl (fun (x : BitVec 64) i => if popcount x < n then x ||| bit64 i else x) v

/-- Counters are raised to the SVN of the images that ran, where that is higher (R499). -/
def Fuses.commit (f : Fuses) (imgs : List (List Byte)) : Fuses :=
  { f with svn := Vector.ofFn fun (k : Fin 3) =>
      let img := nthD imgs k.val []
      if img.isEmpty then f.svn[k] else raiseTo f.svn[k] (imgHeader img).svn }

/-- The start completes: a trial set becomes known-good, and the node serves (R485, R487, R488, R491, R499). -/
def Dev.complete (d : Dev) (c : Clock) : Dev :=
  let s := d.start
  let dir := if s.trialRun then { s.dir with good := some s.setB, trial := false, fails := 0 } else { s.dir with fails := 0 }
  let d1 := ({ d with start := { s with phase := .service, dir := dir, failedAt := 0, skip := [] } }).startLog c 10 evComplete wholeStake
  { d1 with start := { d1.start with trialRun := false } }

/-! ### Stake 11: the plat (R363, R404, R488) -/

/-- Copies held over the reset that the generation does not name are shadows until their drain station (R378). -/
def Dev.shadowUnnamed (d : Dev) (c : Clock) (g : PlatGen) : Dev :=
  { d with leaves := d.leaves.map fun l => if l.shadow.isNone && (d.mine g l.parcel).isNone then { l with shadow := some (d.station c) } else l }

/-- The node rejoins the domain of its join record when a quorum member answers; it never fails the start. -/
def stake11 (c : Clock) (o : StartOutcome) (d : Dev) : Dev :=
  let d1 := d.startLog c 11 evBegun wholeStake
  match d1.start.dir.join, o.joinAnswer with
  | some j, some g =>
    if g.domain = j.domain && versionOk g.version then
      let d2 := ((d1.enterDomain c g [] j.member none).shadowUnnamed c g)
      ({ d2 with start := { d2.start with stake := 11 } }).startLog c 11 evPassed wholeStake
    else d1.startLog c 11 evFailed wholeStake
  | _, _ => d1.startLog c 11 evFailed wholeStake

/-! ### A whole start -/

/-- Backsight mode: host port 0 alone (R491); under DOWNLOAD the ROM waits there for its images (R492). -/
def Dev.enterBacksight (d : Dev) (c : Clock) (o : StartOutcome) : Dev :=
  let d1 := if d.start.lost then d.startLog c 4 evBacksight wholeStake else d
  let d2 := { d1 with start := { d1.start with phase := .backsight } }
  if nthD o.hostPorts 0 .failed = .passed then (d2.allOn).portTrained 0 else d2.allOn

/-- Stakes 6 to 11, after which the node serves. -/
def lateStakes (o : StartOutcome) (c : Clock) (f : Fuses) (x : Going) : Fuses × Dev :=
  let r := stakeRun c o 10 (stake10 c o) (stakeRun c o 9 (stake9 c o) (stakeRun c o 8 (stake8 c o) (stakeRun c o 7 (stake7 c o) (stakeRun c o 6 (stake6 c o) x))))
  if !r.1 then (f, r.2)
  else (if r.2.start.trialRun then f.commit (r.2.start.set r.2.start.setB) else f, stake11 c o (r.2.complete c))

/-- A cold or warm start (R459, R484). A ROM that fails its own check leaves no record, and the node answers on no port (R485). -/
def runStart (cls : ResetCls) (o : StartOutcome) (c : Clock) (f : Fuses) (d : Dev) : Fuses × Dev :=
  if !o.romOk then (f, { d with start := { d.start with phase := .dead } })
  else
    let r4 := stakeRun c o 4 (fun x => (o.sramOk, x)) (stakeRun c o 3 (fun x => (o.clocksOk, x)) (stakeRun c o 2 (stake2 o)
      (stakeRun c o 1 (fun x => (true, x)) (true, d.openStart cls))))
    if !r4.1 then (f, r4.2)
    else if r4.2.start.lost || (r4.2.start.bootSrc = 2 && !r4.2.start.downloaded) then (f, r4.2.enterBacksight c o)
    else lateStakes o c f (stakeRun c o 5 (stake5 c f o) r4)

/-- Straps are sampled as RESET_N rises (R479); land tests end (R538). -/
def Dev.sampleStraps (d : Dev) (o : StartOutcome) : Dev :=
  let ir := match d.brd.ir with | .extest => .bypass | .extestPulse => .bypass | .extestTrain => .bypass | .clamp => .bypass | .highz => TapIr.bypass | x => x
  { d with start := { d.start with bootSrc := BitVec.ofNat 2 o.bootSrc, clkMode := BitVec.ofNat 2 o.clkMode, downloaded := false },
           brd := { d.brd with resetN := false, ir := ir } }

/-- RESET_N is released, or CLK_25M has returned, with the supply good: a cold start (R459, R510, R520). -/
def coldReset (o : StartOutcome) (c : Clock) (f : Fuses) (d : Dev) : Clock × Fuses × Dev :=
  if d.start.phase = .inReset && d.brd.pwrGood && !(d.brd.lost.contains .clk25) then (c, runStart .cold o c f (d.sampleStraps o)) else (c, f, d)

def execColdReset (t : Nat) (o : StartOutcome) (s : State) : Host.Outcome State Fault Refusal :=
  happens (.coldReset t o) t (·.onFuse (coldReset o)) s

/-- The warm reset that has begun restarts the node through the stakes (R459, R460). -/
def warmReset (o : StartOutcome) (c : Clock) (f : Fuses) (d : Dev) : Clock × Fuses × Dev :=
  if d.start.phase = .warmPending then (c, runStart .warm o c f d) else (c, f, d)

def execWarmReset (t : Nat) (o : StartOutcome) (s : State) : Host.Outcome State Fault Refusal :=
  happens (.warmReset t o) t (·.onFuse (warmReset o)) s

end Sys2Proof.Machine
end

