-- ==== Sys2Proof/Machine/Power.lean ====
section
/-! DEFINITION. Power states, the governor, heat, supply, references and RESET_N (R342, R343, R468 to R478, R509 to R520). -/

namespace Sys2Proof.Machine

/-! ### dev.power_state (R469) -/

def devPowerStateBad (_ : Clock) (_ : Dev) (cmd : Cmd) : Bool := cmd.f 0x40 1 > 3

/-- PS2 and PS3 ask for a node without copies, outside the quorum, with no other command and no unit task. -/
def Dev.mayRest (d : Dev) (c : Clock) (r : Ref) : Bool :=
  d.leaves.isEmpty && !((d.quorumNow c).contains d.plat.nodeId) && (d.cmds.running.all fun x => x.ref = r) && d.nb.jobs.isEmpty

def devPowerStateRun (c : Clock) (d : Dev) (cmd : Cmd) : Dev :=
  let ps := cmd.f 0x40 1
  if d.pwr.transition.isSome then d.refuse cmd.ref stBusy
  else if ps = d.pwr.ps.toNat then d.endCmd c cmd.ref stOk 0 0 []
  else if 2 ≤ ps && !(d.mayRest c cmd.ref) then d.refuse cmd.ref stBusy
  else { d with pwr := { d.pwr with target := BitVec.ofNat 2 ps, transition := some cmd.ref } }

def devPowerState (k : Take) : Clock → Dev → Dev := runSlot 0x0103 allRows devPowerStateBad noAreas devPowerStateRun k

def execDevPowerState (k : Take) (s : State) : Host.Outcome State Fault Refusal := happens (.devPowerState k) k.t (·.onDev (devPowerState k)) s

/-! ### Reaching the state (R470 to R472, R474) -/

/-- Work on the arrays has ended. -/
def Dev.arraysIdle (d : Dev) : Bool := d.scan.travs.isEmpty && d.mdl.waves.isEmpty

/-- Flash is quiet: the tail programmed where it can be, nothing outstanding (R471). -/
def Dev.flashQuiet (d : Dev) : Bool :=
  d.flash.inflight.isEmpty && (d.flash.tail.isEmpty || !d.journalWorks) &&
    d.flash.chans.toList.all fun x => x.progs.isEmpty && x.reads.isEmpty && (x.erases.isEmpty || d.flash.held) && (x.queue.isEmpty || d.flash.held || d.flash.readOnly)

/-- In PS1 a fragment that still needs traverses is answered as failed (R470). -/
def Dev.failScans (d : Dev) : Dev :=
  ((d.scan.frags.filter fun f => f.stage != .rerank && f.stage != .done).map fun f => f.frag.key).foldl (fun (x : Dev) k => x.failFrag k) d

/-- Staging SRAM loses its power: windows, cached rows and die state (R474). -/
def Dev.sramOff (d : Dev) : Dev :=
  let clean := fun (m : Model) => { m with filled := [] }
  { d with mdl := { d.mdl with models := d.mdl.models.map clean, olds := d.mdl.olds.map clean },
           chain := { d.chain with cache := { d.chain.cache with rows := d.chain.cache.rows.map fun x => { x with valid := false } } },
           scan := { d.scan with dies := d.scan.dies.map fun (a : Arrays) => { a with matrix := 0 } } }

/-- Entry into PS3: every link goes down, DRAM is lost, settings and logs stay (R472, R474). -/
def Dev.sleep (d : Dev) (c : Clock) : Dev :=
  let d1 := (List.finRange 4).foldl (fun (x : Dev) p => x.portReset c p) d
  let d2 := (d1.loseDram true true).sramOff
  { d2 with ports := d2.ports.map HostPort.afterReset,
            fab := { d2.fab with ports := d2.fab.ports.map (fun (f : FPort) => { f with link := .down, lanes := 0, macsecUp := false }), conns := [],
                                    egress := Vector.replicate 4 [] } }

/-- The state is reached: PS_ENTRIES counts it; PS3's command ends just before the links go down. On leaving PS2 for PS0 or PS1 the flash channels train again (R317, R468). -/
def psTransitionComplete (rates : List Nat) (c : Clock) (d : Dev) : Clock × Dev :=
  match d.pwr.transition with
  | none => (c, d)
  | some r =>
    let n := d.pwr.target.toNat
    if (1 ≤ n && !d.arraysIdle) || (2 ≤ n && !d.flashQuiet) then (c, d)
    else
      let d0 := if d.pwr.ps = 2 && n < 2 then d.retrainFlash rates else d
      let d1 := { d0 with pwr := { d0.pwr with ps := d.pwr.target, transition := none } }
      let d2 := if n = 1 then d1.failScans else if n = 2 then d1.sramOff else d1
      let d3 := (if n = 0 then d2 else d2.count 120 n 1).endCmd c r stOk 0 0 []
      if n = 3 then ((if c.ptpPort.isSome then (timeSourceLoss c d3).1 else c), d3.sleep c) else (c, d3)

def execPsTransitionComplete (k : PsEnd) (s : State) : Host.Outcome State Fault Refusal :=
  happens (.psTransitionComplete k) k.t (·.onClk (psTransitionComplete k.rates)) s

/-! ### Leaving PS3 (R472, R474, R484) -/

/-- Flash settings stay over PS3; the map is replayed. -/
def Flash.afterSleep (f : Flash) : Flash :=
  { f.restart with wChain := f.wChain, wTrav := f.wTrav, wStream := f.wStream, wBack := f.wBack, active := f.active }

/-- The low-power exit runs stake 3 and stakes 6 to 11; generations are fetched again. -/
def leavePs3 (o : StartOutcome) (c : Clock) (f : Fuses) (d : Dev) : Fuses × Dev :=
  let d1 := { d with pwr := { d.pwr with ps := 0, target := 0, transition := none }, brd := { d.brd with wakeSeen := false },
                     flash := d.flash.afterSleep, plat := { Plat.reset with nodeId := d.plat.nodeId, cak := d.plat.cak } }
  lateStakes o c f (stakeRun c o 3 (fun x => (o.clocksOk, x)) (true, d1.openStart .low))

/-- Datum time reaches PWR.WAKE_AT while VALID is 1. -/
def wakeAt (o : StartOutcome) (c : Clock) (f : Fuses) (d : Dev) : Clock × Fuses × Dev :=
  if d.start.phase = .service && d.pwr.ps = 3 && c.valid && d.pwr.wakeAt != 0 && d.pwr.wakeAt.toNat ≤ c.now then (c, leavePs3 o c f d) else (c, f, d)

def execWakeAt (t : Nat) (o : StartOutcome) (s : State) : Host.Outcome State Fault Refusal := happens (.wakeAt t o) t (·.onFuse (wakeAt o)) s

/-- The I3C wake message has arrived (R525). -/
def wake (o : StartOutcome) (c : Clock) (f : Fuses) (d : Dev) : Clock × Fuses × Dev :=
  if d.start.phase = .service && d.pwr.ps = 3 && d.brd.wakeSeen then (c, leavePs3 o c f d) else (c, f, d)

def execWake (t : Nat) (o : StartOutcome) (s : State) : Host.Outcome State Fault Refusal := happens (.wake t o) t (·.onFuse (wake o)) s

/-! ### The governor (R476, R516) -/

/-- Samples of 10 ms. -/
def govWindow : Nat := 10000

/-- What no row tells of a sample is free: the input voltage and current that PWR.SUPPLY shows (log 101), and the control SRAM words corrected since the last (R403; log 116). -/
def Dev.senseSupply (d : Dev) : Dev :=
  ({ d with brd := { d.brd with vin := d.fresh.1 % 65536, iin := d.fresh.2.fresh.1 % 65536 }, freeCtr := d.freeCtr + 3 }).count 112 0 d.fresh.2.fresh.2.fresh.1

/-- One sample of the input power: the average, the peak, and the fast path above 2,700 W. -/
def governorSample (watts : Nat) (c : Clock) (d0 : Dev) : Dev :=
  if !d0.live then d0
  else
    let d := d0.senseSupply
    let xs := (watts :: d.pwr.samples).take govWindow
    let d1 := { d with pwr := { d.pwr with samples := xs, powerW := natSum xs / xs.length, peakW := max d.pwr.peakW watts,
                                           overSince := if d.capW < watts then some (d.pwr.overSince.getD c.now) else none } }
    if 2700 < watts then ({ d1 with pwr := { d1.pwr with issueNotch := 15 } }).count 119 0 1 else d1

def execGovernorSample (t : Nat) (watts : Nat) (s : State) : Host.Outcome State Fault Refusal :=
  happens (.governorSample t watts) t (·.onDev (governorSample watts)) s

/-- The governor asks for a notch: too hot, above CAP_W − 50 W on average, or above CAP_W for 500 µs. -/
def Dev.wantsNotch (d : Dev) (c : Clock) : Bool :=
  d.brd.hot || d.capW < d.pwr.powerW + 50 || (match d.pwr.overSince with | some t => decide (t + 500000 ≤ c.now) | none => false)

/-- One more notch, in the order array issue, easements, flash background. -/
def Dev.addNotch (d : Dev) : Dev :=
  if d.pwr.issueNotch < 15 then { d with pwr := { d.pwr with issueNotch := d.pwr.issueNotch + 1 } }
  else if d.pwr.easeNotch < 8 then ({ d with pwr := { d.pwr with easeNotch := d.pwr.easeNotch + 1 } }).releaseAll true
  else if d.pwr.bgNotch < 4 then { d with pwr := { d.pwr with bgNotch := d.pwr.bgNotch + 1 } }
  else d

def governorNotchAdd (c : Clock) (d : Dev) : Dev := if d.live && d.wantsNotch c then d.addNotch else d

def execGovernorNotchAdd (t : Nat) (s : State) : Host.Outcome State Fault Refusal := happens (.governorNotchAdd t) t (·.onDev governorNotchAdd) s

/-- A notch may go: the average below CAP_W − 150 W, the last sample below CAP_W, THERM_HOT over, and no power failure (log 55). -/
def Dev.sparesNotch (d : Dev) : Bool := !d.brd.hot && !d.flash.held && d.pwr.powerW + 150 < d.capW && d.pwr.samples.headD 0 < d.capW

/-- One notch less, in the reverse order. -/
def Dev.dropNotch (d : Dev) : Dev :=
  if 0 < d.pwr.bgNotch then { d with pwr := { d.pwr with bgNotch := d.pwr.bgNotch - 1 } }
  else if 0 < d.pwr.easeNotch then { d with pwr := { d.pwr with easeNotch := d.pwr.easeNotch - 1 } }
  else { d with pwr := { d.pwr with issueNotch := d.pwr.issueNotch - 1 } }

def governorNotchRemove (_ : Clock) (d : Dev) : Dev := if d.live && d.sparesNotch then d.dropNotch else d

def execGovernorNotchRemove (t : Nat) (s : State) : Host.Outcome State Fault Refusal :=
  happens (.governorNotchRemove t) t (·.onDev governorNotchRemove) s

/-! ### Loss of power (R511, R517) -/

/-- Every regulator but the always-on circuit is off: all that a C reset loses is lost, and the I3C target is silent. -/
def Dev.powerDown (d : Dev) (c : Clock) : Dev :=
  let d1 := d.coldClear c
  { d1 with start := { d1.start with phase := .off }, brd := { d1.brd with pwrGood := false, i3cDyn := none, i3cOff := 0, i3cOut := [], tdo := none, ir := .idcode } }

/-! ### Heat (R515 to R517) -/

/-- Highest of the readings; of equal ones the first. -/
def hottest (rs : List Reading) : Reading := rs.foldl (fun (m : Reading) r => if m.celsius < r.celsius then r else m) (rs.headD ⟨0, 0⟩)

/-- THERM_HOT holds from 103 °C until every sensor reads below 100 °C. -/
def stillHot (was : Bool) (deg : Nat) : Bool := 103 ≤ deg || (was && 100 ≤ deg)

/-- Every sensor is read; at 115 °C the part trips and turns itself off without a flush. -/
def thermalSample (rs : List Reading) (c : Clock) (d : Dev) : Clock × Dev :=
  if d.start.phase = .off then (c, d)
  else
    let m := hottest rs
    if 115 ≤ m.celsius then
      let d1 := d.powerDown c
      (Clock.reset, { d1 with brd := { d1.brd with tripped := true } })
    else
      let hot := stillHot d.brd.hot m.celsius
      (c, { d with brd := { d.brd with tjMax := m.celsius, hotDie := m.die, tjPeak := max d.brd.tjPeak m.celsius, hot := hot, hotSeen := d.brd.hotSeen || hot } })

def execThermalSample (t : Nat) (rs : List Reading) (s : State) : Host.Outcome State Fault Refusal :=
  happens (.thermalSample t rs) t (·.onClk (thermalSample rs)) s

/-! ### Supply (R509 to R514) -/

/-- VIN falls below 44.0 V; below 30 V the always-on circuit stops too, and a trip is over. -/
def supplyLoss (below30 : Bool) (c : Clock) (d : Dev) : Clock × Dev :=
  let d1 := if d.brd.pwrGood || d.start.phase != .off then d.powerDown c else d
  (Clock.reset, { d1 with brd := { d1.brd with alwaysOn := d1.brd.alwaysOn && !below30, tripped := d1.brd.tripped && !below30 } })

def execSupplyLoss (t : Nat) (below30 : Bool) (s : State) : Host.Outcome State Fault Refusal :=
  happens (.supplyLoss t below30) t (·.onClk (supplyLoss below30)) s

/-- VIN passes 46.5 V: the power-up sequence runs to PWR_GOOD with RESET_N held asserted (R510); a tripped part stays off (R517). -/
def powerOn (_ : Clock) (d : Dev) : Dev :=
  if d.brd.pwrGood || d.brd.tripped then d
  else { d with brd := { d.brd with alwaysOn := true, pwrGood := true, resetN := true }, start := { d.start with phase := .inReset } }

def execPowerOn (t : Nat) (s : State) : Host.Outcome State Fault Refusal := happens (.powerOn t) t (·.onDev powerOn) s

/-! ### Power failure (R342, R343, R473, R512, R513) -/

/-- Array issue to 15 notches, every easement released, tests ended, and the flush begun; in PS2 and PS3 the tail is empty and PF_DONE is set at once. -/
def Dev.powerFails (d : Dev) (c : Clock) : Dev :=
  if !(d.start.phase = .service || d.start.phase = .backsight) then d
  else
    let d1 := ({ d with pwr := { d.pwr with issueNotch := 15 } }).endTests c
    let held := d1.nb.held
    let d2 := { d1 with nb := { d1.nb with held := Vector.replicate 20 [], queues := Vector.ofFn fun (i : Fin 20) => d1.nb.queues[i] ++ held[i] } }
    let pf := if 2 ≤ d.pwr.ps.toNat || d.start.phase = .backsight then .done
              else match d.flash.pf with | .flushing t => .flushing t | .done => .done | _ => PfState.flushing c.now
    { d2 with flash := { d2.flash with pf := pf } }

def pwrFailNAssert (c : Clock) (d : Dev) : Dev :=
  if d.start.phase = .off then d else { d.powerFails c with brd := { (d.powerFails c).brd with pwrFailN := true, pfSeen := true } }

def execPwrFailNAssert (t : Nat) (s : State) : Host.Outcome State Fault Refusal := happens (.pwrFailNAssert t) t (·.onDev pwrFailNAssert) s

/-- VIN below 45.0 V for 2 µs acts as PWR_FAIL_N. -/
def internalUndervoltage (c : Clock) (d : Dev) : Dev :=
  if d.start.phase = .off then d else { d.powerFails c with brd := { (d.powerFails c).brd with uvSeen := true } }

def execInternalUndervoltage (t : Nat) (s : State) : Host.Outcome State Fault Refusal :=
  happens (.internalUndervoltage t) t (·.onDev internalUndervoltage) s

/-- Nothing is left to flush, or nothing can be. -/
def Dev.flushed (d : Dev) : Bool := d.flash.inflight.isEmpty && (d.flash.tail.isEmpty || !d.journalWorks)

/-- RESET_N is taken: a C reset (R457, R514). -/
def Dev.toReset (d : Dev) (c : Clock) : Clock × Dev := (Clock.reset, d.coldClear c)

/-- The time of 1.5 ms that R342 gives the flush is over. -/
def Flash.flushOver (f : Flash) (now : Nat) : Bool := match f.pf with | .flushing t => t + 1500000 ≤ now | _ => true

/-- The flush is complete: PF_DONE, and a deferred RESET_N is taken. -/
def pfDone (c : Clock) (d : Dev) : Clock × Dev :=
  match d.flash.pf with
  | .flushing _ =>
    if d.flushed || d.flash.flushOver c.now then
      (if d.brd.deferred.isSome then d.toReset c
       else if d.flushed then (c, { d with flash := { d.flash with pf := .done } }) else (c, d))
    else (c, d)
  | _ => (c, d)

def execPfDone (t : Nat) (s : State) : Host.Outcome State Fault Refusal := happens (.pfDone t) t (·.onClk pfDone) s

/-- The supply holds: engines resume 1 ms later; a RESET_N that waits for the flush still waits (R343, R514). -/
def pwrFailNDeassert (c : Clock) (d : Dev) : Dev :=
  let d1 := { d with brd := { d.brd with pwrFailN := false } }
  if d.brd.deferred.isSome then d1
  else
    match d.flash.pf with
    | .flushing _ => { d1 with flash := { d1.flash with pf := .resuming c.now } }
    | .done => { d1 with flash := { d1.flash with pf := .resuming c.now } }
    | _ => d1

def execPwrFailNDeassert (t : Nat) (s : State) : Host.Outcome State Fault Refusal :=
  happens (.pwrFailNDeassert t) t (·.onDev pwrFailNDeassert) s

/-! ### RESET_N and the references (R457, R514, R520) -/

/-- RESET_N asserted: at once, but deferred while the flush runs, for at most 1.5 ms. -/
def resetNAssert (c : Clock) (d : Dev) : Clock × Dev :=
  let d1 := { d with brd := { d.brd with resetN := true } }
  if d.start.phase = .off then (c, d1)
  else if d.flash.flushOver c.now then d1.toReset c
  else (c, { d1 with brd := { d1.brd with deferred := some (d1.brd.deferred.getD c.now) } })

def execResetNAssert (t : Nat) (s : State) : Host.Outcome State Fault Refusal := happens (.resetNAssert t) t (·.onClk resetNAssert) s

/-- A reference input is lost: a host port that uses its own is reset, an edge die's fabric ports go down, and CLK_25M holds the node in reset. -/
def refclkLoss (k : RefClk) (c : Clock) (d : Dev) : Clock × Dev :=
  let d1 := { d with brd := { d.brd with lost := if d.brd.lost.contains k then d.brd.lost else d.brd.lost ++ [k] } }
  match k with
  | .hp p => (c, if d.live && !(d1.hpClock p) then d1.portReset c p else d1)
  | .fb e =>
    (if (c.ptpPort.map fun q => q.val / 4) = some e.val then c.noPort else c,
     { d1 with fab := { d1.fab with ports := Vector.ofFn fun (q : Fin 8) =>
         if q.val / 4 = e.val && d1.fab.ports[q].link != .disabled then { d1.fab.ports[q] with link := .down, lanes := 0, macsecUp := false } else d1.fab.ports[q] } })
  | .clk25 => if d.start.phase = .off then (c, d1) else d1.toReset c

def execRefclkLoss (t : Nat) (k : RefClk) (s : State) : Host.Outcome State Fault Refusal := happens (.refclkLoss t k) t (·.onClk (refclkLoss k)) s

/-- The reference is back: links train again; the cold start after CLK_25M is an event of its own. -/
def refclkReturn (k : RefClk) (_ : Clock) (d : Dev) : Dev :=
  let d1 := { d with brd := { d.brd with lost := d.brd.lost.filter fun x => x != k } }
  match k with
  | .fb e =>
    { d1 with fab := { d1.fab with ports := Vector.ofFn fun (q : Fin 8) =>
        if d.service && q.val / 4 = e.val && d1.fab.ports[q].link = .down then { d1.fab.ports[q] with link := .training } else d1.fab.ports[q] } }
  | _ => d1

def execRefclkReturn (t : Nat) (k : RefClk) (s : State) : Host.Outcome State Fault Refusal := happens (.refclkReturn t k) t (·.onDev (refclkReturn k)) s

end Sys2Proof.Machine
end

