-- ==== Sys2Proof/Machine/Stacks.lean ====
section
/-! DEFINITION. What a buffer die reports of its stack: loss of its link, and what the scrub finds (R270, R272, R273, R277). -/

namespace Sys2Proof.Machine

/-- The buffer die reports loss of its link: the stack fails, and near-bank jobs go on without it (R273, R277). -/
def stackLinkLoss (st : StackNo) (c : Clock) (d : Dev) : Dev :=
  if d.mem.stk[st].serving then (d.failStack c st.val).sweepJobs c else d

def execStackLinkLoss (t : Nat) (st : StackNo) (s : State) : Host.Outcome State Fault Refusal :=
  happens (.stackLinkLoss t st) t (·.onDev (stackLinkLoss st)) s

/-- The scrub passes over lines: corrected ones are written back, uncorrectable ones go the way of R271 and R272; banks reported failed take the frames under them out of use (R270, R272). -/
def scrub (st : StackNo) (pass : ScrubPass) (c : Clock) (d : Dev) : Dev :=
  if !d.mem.stk[st].serving then d
  else
    let d1 := pass.lines.foldl (Dev.scrubLine c st.val) d
    let d2 := { d1 with mem := { d1.mem with stk := vupd d1.mem.stk st fun k => { k with scrubAt := (pass.lines.foldl (fun m l => max m (l.1 + 1)) k.scrubAt) % (64 * Config.allFrames) } } }
    (pass.dead.foldl (fun (x : Dev) b => x.bankFails c st.val b.val) d2).sweepJobs c

def execScrub (t : Nat) (st : StackNo) (pass : ScrubPass) (s : State) : Host.Outcome State Fault Refusal :=
  happens (.scrub t st pass) t (·.onDev (scrub st pass)) s

end Sys2Proof.Machine
end

