-- ==== Sys2Proof/Machine/Dispatch.lean ====
section
/-! DEFINITION. One arm for each command: a direct call of its meaning. -/

namespace Sys2Proof.Machine

/-- The effect of a command on everything but the queue. -/
def exec (i : Instr) (s : State) : Host.Outcome State Fault Refusal :=
  match i with
  | .cmdWordWrite t p n w => Sys2Proof.Machine.execCmdWordWrite t p n w s
  | .deferredTake k => Sys2Proof.Machine.execDeferredTake k s
  | .devHello k => Sys2Proof.Machine.execDevHello k s
  | .devInfo k => Sys2Proof.Machine.execDevInfo k s
  | .devBlockReset k => Sys2Proof.Machine.execDevBlockReset k s
  | .devBlockResetNode k => Sys2Proof.Machine.execDevBlockResetNode k s
  | .blockResetComplete t failed => Sys2Proof.Machine.execBlockResetComplete t failed s
  | .devPowerState k => Sys2Proof.Machine.execDevPowerState k s
  | .psTransitionComplete k => Sys2Proof.Machine.execPsTransitionComplete k s
  | .devFwStage k => Sys2Proof.Machine.execDevFwStage k s
  | .devFwActivate k sig => Sys2Proof.Machine.execDevFwActivate k sig s
  | .devLogRead k => Sys2Proof.Machine.execDevLogRead k s
  | .parcelCreate k => Sys2Proof.Machine.execParcelCreate k s
  | .parcelLoad k plan => Sys2Proof.Machine.execParcelLoad k plan s
  | .parcelDrop k => Sys2Proof.Machine.execParcelDrop k s
  | .parcelClosure k => Sys2Proof.Machine.execParcelClosure k s
  | .parcelStats k => Sys2Proof.Machine.execParcelStats k s
  | .searchBatch k => Sys2Proof.Machine.execSearchBatch k s
  | .itemInsert k => Sys2Proof.Machine.execItemInsert k s
  | .itemDelete k => Sys2Proof.Machine.execItemDelete k s
  | .itemUpsert k => Sys2Proof.Machine.execItemUpsert k s
  | .itemReplaceRow k => Sys2Proof.Machine.execItemReplaceRow k s
  | .updateIntake t u => Sys2Proof.Machine.execUpdateIntake t u s
  | .chainGather k facts => Sys2Proof.Machine.execChainGather k facts s
  | .chainCacheLoad k => Sys2Proof.Machine.execChainCacheLoad k s
  | .chainMonumentSet k => Sys2Proof.Machine.execChainMonumentSet k s
  | .chainMonumentMove k => Sys2Proof.Machine.execChainMonumentMove k s
  | .monumentFillComplete t row copy => Sys2Proof.Machine.execMonumentFillComplete t row copy s
  | .monumentSwitch t row => Sys2Proof.Machine.execMonumentSwitch t row s
  | .monumentFree t row => Sys2Proof.Machine.execMonumentFree t row s
  | .modelLoad k held => Sys2Proof.Machine.execModelLoad k held s
  | .modelImageFree t model => Sys2Proof.Machine.execModelImageFree t model s
  | .modelRun k => Sys2Proof.Machine.execModelRun k s
  | .modelWaveStart t model => Sys2Proof.Machine.execModelWaveStart t model s
  | .windowFillComplete t model layer d src waited => Sys2Proof.Machine.execWindowFillComplete t model layer d src waited s
  | .modelWaveEnd t model => Sys2Proof.Machine.execModelWaveEnd t model s
  | .tableGenLoad k => Sys2Proof.Machine.execTableGenLoad k s
  | .tableGenRemove k => Sys2Proof.Machine.execTableGenRemove k s
  | .tableGenRelease t gen => Sys2Proof.Machine.execTableGenRelease t gen s
  | .bankOp k => Sys2Proof.Machine.execBankOp k s
  | .easementGrant t st => Sys2Proof.Machine.execEasementGrant t st s
  | .lineStep t st unit x u => Sys2Proof.Machine.execLineStep t st unit x u s
  | .bankEasementCfg k => Sys2Proof.Machine.execBankEasementCfg k s
  | .easementCfgApply t => Sys2Proof.Machine.execEasementCfgApply t s
  | .partition k => Sys2Proof.Machine.execPartition k s
  | .commonsCreate k => Sys2Proof.Machine.execCommonsCreate k s
  | .commonsDrop k => Sys2Proof.Machine.execCommonsDrop k s
  | .acquire k => Sys2Proof.Machine.execAcquire k s
  | .renew k => Sys2Proof.Machine.execRenew k s
  | .publish k => Sys2Proof.Machine.execPublish k s
  | .release k => Sys2Proof.Machine.execRelease k s
  | .breakLease k => Sys2Proof.Machine.execBreakLease k s
  | .leaseExpiry t c => Sys2Proof.Machine.execLeaseExpiry t c s
  | .commonsRefill t c line => Sys2Proof.Machine.execCommonsRefill t c line s
  | .revoke k => Sys2Proof.Machine.execRevoke k s
  | .fenceSet t p dpa => Sys2Proof.Machine.execFenceSet t p dpa s
  | .restore k => Sys2Proof.Machine.execRestore k s
  | .memTierAlloc k => Sys2Proof.Machine.execMemTierAlloc k s
  | .memTierFree k => Sys2Proof.Machine.execMemTierFree k s
  | .flashFormat k => Sys2Proof.Machine.execFlashFormat k s
  | .flashDiscard k => Sys2Proof.Machine.execFlashDiscard k s
  | .flashHealth k => Sys2Proof.Machine.execFlashHealth k s
  | .admTenantSet k => Sys2Proof.Machine.execAdmTenantSet k s
  | .admShaperSet k => Sys2Proof.Machine.execAdmShaperSet k s
  | .platPropose k codebooks readyCopies => Sys2Proof.Machine.execPlatPropose k codebooks readyCopies s
  | .platStatus k => Sys2Proof.Machine.execPlatStatus k s
  | .platJoin k fetched => Sys2Proof.Machine.execPlatJoin k fetched s
  | .found k g codebooks => Sys2Proof.Machine.execFound k g codebooks s
  | .timeStatus k => Sys2Proof.Machine.execTimeStatus k s
  | .testLoopback k => Sys2Proof.Machine.execTestLoopback k s
  | .loopbackLockTimeout t iface unit => Sys2Proof.Machine.execLoopbackLockTimeout t iface unit s
  | .testComplete t iface unit r => Sys2Proof.Machine.execTestComplete t iface unit r s
  | .testBist k => Sys2Proof.Machine.execTestBist k s
  | .bistComplete t p n recs => Sys2Proof.Machine.execBistComplete t p n recs s
  | .commandDeadline t p n => Sys2Proof.Machine.execCommandDeadline t p n s
  | .doneSummaryRead t p word => Sys2Proof.Machine.execDoneSummaryRead t p word s
  | .doneIrqSignal t p => Sys2Proof.Machine.execDoneIrqSignal t p s
  | .adminPortsWrite t p v => Sys2Proof.Machine.execAdminPortsWrite t p v s
  | .admSelWrite t p v => Sys2Proof.Machine.execAdmSelWrite t p v s
  | .pwrHoldWrite t p b v => Sys2Proof.Machine.execPwrHoldWrite t p b v s
  | .fabPortWrite t p q v => Sys2Proof.Machine.execFabPortWrite t p q v s
  | .readShareWrite t p v => Sys2Proof.Machine.execReadShareWrite t p v s
  | .peakWRead t p => Sys2Proof.Machine.execPeakWRead t p s
  | .tjPeakRead t p => Sys2Proof.Machine.execTjPeakRead t p s
  | .registerWrite t p bar2 addr data => Sys2Proof.Machine.execRegisterWrite t p bar2 addr data s
  | .identifyMemoryDevice t p => Sys2Proof.Machine.execIdentifyMemoryDevice t p s
  | .getSupportedLogs t p => Sys2Proof.Machine.execGetSupportedLogs t p s
  | .getLog t p off len => Sys2Proof.Machine.execGetLog t p off len s
  | .getHealthInfo t p => Sys2Proof.Machine.execGetHealthInfo t p s
  | .mailboxUnsupported t p opcode => Sys2Proof.Machine.execMailboxUnsupported t p opcode s
  | .hdmDecoderCommit t p d base size ways => Sys2Proof.Machine.execHdmDecoderCommit t p d base size ways s
  | .hostMemAccess t p op dpa data mask e => Sys2Proof.Machine.execHostMemAccess t p op dpa data mask e s
  | .bisnpResponse t p c line data => Sys2Proof.Machine.execBisnpResponse t p c line data s
  | .spdmGetVersion t p => Sys2Proof.Machine.execSpdmGetVersion t p s
  | .spdmGetCapabilities t p => Sys2Proof.Machine.execSpdmGetCapabilities t p s
  | .spdmNegotiateAlgorithms t p => Sys2Proof.Machine.execSpdmNegotiateAlgorithms t p s
  | .spdmGetDigests t p => Sys2Proof.Machine.execSpdmGetDigests t p s
  | .spdmGetCertificate t p off len => Sys2Proof.Machine.execSpdmGetCertificate t p off len s
  | .spdmChallenge t p nonce => Sys2Proof.Machine.execSpdmChallenge t p nonce s
  | .spdmGetMeasurements t p index => Sys2Proof.Machine.execSpdmGetMeasurements t p index s
  | .spdmKeyExchange t p pub => Sys2Proof.Machine.execSpdmKeyExchange t p pub s
  | .spdmFinish t p macOk => Sys2Proof.Machine.execSpdmFinish t p macOk s
  | .spdmEndSession t p => Sys2Proof.Machine.execSpdmEndSession t p s
  | .ideKm t p enable => Sys2Proof.Machine.execIdeKm t p enable s
  | .portReset t p => Sys2Proof.Machine.execPortReset t p s
  | .hostLinkUp t p => Sys2Proof.Machine.execHostLinkUp t p s
  | .traverseData t q ce bytes => Sys2Proof.Machine.execTraverseData t q ce bytes s
  | .traverseAck t q bytes => Sys2Proof.Machine.execTraverseAck t q bytes s
  | .hello t peer cls vmin vmax withdrawn => Sys2Proof.Machine.execHello t peer cls vmin vmax withdrawn s
  | .ackTimer t peer cls => Sys2Proof.Machine.execAckTimer t peer cls s
  | .retransmitTimeout t peer cls => Sys2Proof.Machine.execRetransmitTimeout t peer cls s
  | .rateRaise t peer cls => Sys2Proof.Machine.execRateRaise t peer cls s
  | .peerUnreachable t peer cls => Sys2Proof.Machine.execPeerUnreachable t peer cls s
  | .egressOpportunity t q => Sys2Proof.Machine.execEgressOpportunity t q s
  | .fragmentArrival t frags => Sys2Proof.Machine.execFragmentArrival t frags s
  | .generationFetched t g => Sys2Proof.Machine.execGenerationFetched t g s
  | .fragmentSettledStart t key => Sys2Proof.Machine.execFragmentSettledStart t key s
  | .probeEnqueue t key => Sys2Proof.Machine.execProbeEnqueue t key s
  | .batchWindowExpiry t chan unit parcel list ver => Sys2Proof.Machine.execBatchWindowExpiry t chan unit parcel list ver s
  | .traverseStart t chan unit parcel list ver => Sys2Proof.Machine.execTraverseStart t chan unit parcel list ver s
  | .traverseEnd t id bad => Sys2Proof.Machine.execTraverseEnd t id bad s
  | .fragmentDeadline t key => Sys2Proof.Machine.execFragmentDeadline t key s
  | .fragmentResult t r => Sys2Proof.Machine.execFragmentResult t r s
  | .fragmentFailedAnswer t key expired => Sys2Proof.Machine.execFragmentFailedAnswer t key expired s
  | .stalePlatAnswer t key a => Sys2Proof.Machine.execStalePlatAnswer t key a s
  | .tLateExpiry t key read => Sys2Proof.Machine.execTLateExpiry t key read s
  | .queryDeadline t ctx => Sys2Proof.Machine.execQueryDeadline t ctx s
  | .chainReadIssue t reader => Sys2Proof.Machine.execChainReadIssue t reader s
  | .remoteReadRequest t r => Sys2Proof.Machine.execRemoteReadRequest t r s
  | .chainReadComplete t tag o => Sys2Proof.Machine.execChainReadComplete t tag o s
  | .rowDelivery t reader pos => Sys2Proof.Machine.execRowDelivery t reader pos s
  | .updateRecordReceipt t parcel recs => Sys2Proof.Machine.execUpdateRecordReceipt t parcel recs s
  | .intakeClose t parcel => Sys2Proof.Machine.execIntakeClose t parcel s
  | .markReceipt t parcel m => Sys2Proof.Machine.execMarkReceipt t parcel m s
  | .markAck t parcel node commit ready fetch => Sys2Proof.Machine.execMarkAck t parcel node commit ready fetch s
  | .lapseTimeout t parcel => Sys2Proof.Machine.execLapseTimeout t parcel s
  | .settledRecordReceipt t r => Sys2Proof.Machine.execSettledRecordReceipt t r s
  | .closureBuildStart t parcel => Sys2Proof.Machine.execClosureBuildStart t parcel s
  | .closureBuildComplete t parcel ok => Sys2Proof.Machine.execClosureBuildComplete t parcel ok s
  | .newLeadIntakeStart t parcel m => Sys2Proof.Machine.execNewLeadIntakeStart t parcel m s
  | .copyFillComplete t parcel img => Sys2Proof.Machine.execCopyFillComplete t parcel img s
  | .stationStart t => Sys2Proof.Machine.execStationStart t s
  | .beaconCompose t => Sys2Proof.Machine.execBeaconCompose t s
  | .beaconAgreed t member term station => Sys2Proof.Machine.execBeaconAgreed t member term station s
  | .beaconReceipt t b agreed => Sys2Proof.Machine.execBeaconReceipt t b agreed s
  | .chairCandidacy t => Sys2Proof.Machine.execChairCandidacy t s
  | .voteRequest t cand term station => Sys2Proof.Machine.execVoteRequest t cand term station s
  | .voteGrant t member term b => Sys2Proof.Machine.execVoteGrant t member term b s
  | .codebookFetch t sp => Sys2Proof.Machine.execCodebookFetch t sp s
  | .drainStation t parcel => Sys2Proof.Machine.execDrainStation t parcel s
  | .hotRowCacheRefresh t => Sys2Proof.Machine.execHotRowCacheRefresh t s
  | .latenessHalving t => Sys2Proof.Machine.execLatenessHalving t s
  | .refillTick t => Sys2Proof.Machine.execRefillTick t s
  | .ptpMeasurement t q offset => Sys2Proof.Machine.execPtpMeasurement t q offset s
  | .time1pps t => Sys2Proof.Machine.execTime1pps t s
  | .timeTod t frame => Sys2Proof.Machine.execTimeTod t frame s
  | .timeSourceLoss t => Sys2Proof.Machine.execTimeSourceLoss t s
  | .holdoverExpiry t => Sys2Proof.Machine.execHoldoverExpiry t s
  | .resetPackage t img node notBefore notAfter nonce sigOk => Sys2Proof.Machine.execResetPackage t img node notBefore notAfter nonce sigOk s
  | .loopbackEcho t len bad => Sys2Proof.Machine.execLoopbackEcho t len bad s
  | .stackLinkLoss t st => Sys2Proof.Machine.execStackLinkLoss t st s
  | .rebuildLine t ok => Sys2Proof.Machine.execRebuildLine t ok s
  | .scrub t st pass => Sys2Proof.Machine.execScrub t st pass s
  | .poolFillComplete t key page => Sys2Proof.Machine.execPoolFillComplete t key page s
  | .flashReadComplete t c rd retries soft heavy bad => Sys2Proof.Machine.execFlashReadComplete t c rd retries soft heavy bad s
  | .flashProgramComplete t c wseq ok => Sys2Proof.Machine.execFlashProgramComplete t c wseq ok s
  | .flashEraseComplete t c block ok => Sys2Proof.Machine.execFlashEraseComplete t c block ok s
  | .journalTailProgram t => Sys2Proof.Machine.execJournalTailProgram t s
  | .journalDurable t second => Sys2Proof.Machine.execJournalDurable t second s
  | .segmentCheckpoint t c seg => Sys2Proof.Machine.execSegmentCheckpoint t c seg s
  | .collectionStart t c => Sys2Proof.Machine.execCollectionStart t c s
  | .patrolRead t c block heavy => Sys2Proof.Machine.execPatrolRead t c block heavy s
  | .fold t c => Sys2Proof.Machine.execFold t c s
  | .extentMigration t c => Sys2Proof.Machine.execExtentMigration t c s
  | .targetFail t c target => Sys2Proof.Machine.execTargetFail t c target s
  | .arbitrationPeriod t => Sys2Proof.Machine.execArbitrationPeriod t s
  | .pwrFailNAssert t => Sys2Proof.Machine.execPwrFailNAssert t s
  | .pfDone t => Sys2Proof.Machine.execPfDone t s
  | .pwrFailNDeassert t => Sys2Proof.Machine.execPwrFailNDeassert t s
  | .internalUndervoltage t => Sys2Proof.Machine.execInternalUndervoltage t s
  | .supplyLoss t below30 => Sys2Proof.Machine.execSupplyLoss t below30 s
  | .powerOn t => Sys2Proof.Machine.execPowerOn t s
  | .resetNAssert t => Sys2Proof.Machine.execResetNAssert t s
  | .coldReset t o => Sys2Proof.Machine.execColdReset t o s
  | .warmReset t o => Sys2Proof.Machine.execWarmReset t o s
  | .watchdogExpiry t core => Sys2Proof.Machine.execWatchdogExpiry t core s
  | .controlSramUncorrectable t => Sys2Proof.Machine.execControlSramUncorrectable t s
  | .refclkLoss t c => Sys2Proof.Machine.execRefclkLoss t c s
  | .refclkReturn t c => Sys2Proof.Machine.execRefclkReturn t c s
  | .governorSample t watts => Sys2Proof.Machine.execGovernorSample t watts s
  | .governorNotchAdd t => Sys2Proof.Machine.execGovernorNotchAdd t s
  | .governorNotchRemove t => Sys2Proof.Machine.execGovernorNotchRemove t s
  | .thermalSample t rs => Sys2Proof.Machine.execThermalSample t rs s
  | .wakeAt t o => Sys2Proof.Machine.execWakeAt t o s
  | .wake t o => Sys2Proof.Machine.execWake t o s
  | .i3cPrivateWrite t bytes => Sys2Proof.Machine.execI3cPrivateWrite t bytes s
  | .i3cPrivateRead t len => Sys2Proof.Machine.execI3cPrivateRead t len s
  | .entdaa t addr => Sys2Proof.Machine.execEntdaa t addr s
  | .bypass t => Sys2Proof.Machine.execBypass t s
  | .idcode t => Sys2Proof.Machine.execIdcode t s
  | .samplePreload t => Sys2Proof.Machine.execSamplePreload t s
  | .extest t => Sys2Proof.Machine.execExtest t s
  | .extestPulse t => Sys2Proof.Machine.execExtestPulse t s
  | .extestTrain t => Sys2Proof.Machine.execExtestTrain t s
  | .clamp t => Sys2Proof.Machine.execClamp t s
  | .highz t => Sys2Proof.Machine.execHighz t s
  | .fusePkg t img body sigOk => Sys2Proof.Machine.execFusePkg t img body sigOk s
  | .fabricLinkDown t q => Sys2Proof.Machine.execFabricLinkDown t q s
  | .fabricLinkUp t q => Sys2Proof.Machine.execFabricLinkUp t q s
  | .secureAssociation t q => Sys2Proof.Machine.execSecureAssociation t q s
  | .validReturn t => Sys2Proof.Machine.execValidReturn t s
  | .loadAcknowledgement t parcel node => Sys2Proof.Machine.execLoadAcknowledgement t parcel node s
  | .rowsApplied t key node => Sys2Proof.Machine.execRowsApplied t key node s
  | .defaultNPReport t parcel np => Sys2Proof.Machine.execDefaultNPReport t parcel np s
  | .stalePlatUpdateAnswer t key => Sys2Proof.Machine.execStalePlatUpdateAnswer t key s

end Sys2Proof.Machine
end

