-- ==== Sys2Proof/Machine/Lands.lean ====
section
/-! DEFINITION. The state of the configurable lands (R482, R483, R521, R538), read off the fuses, the start and the TAP. -/

namespace Sys2Proof.Machine

/-- Groups of configurable lands with the stake that takes each (R521); a land's number is the board's, since the land file is not part of the manual (log 12). -/
inductive LandGroup | spi | i3c | time | flash (c : Fin 32) | module
  deriving DecidableEq, Repr

/-- What a land does: a mapped state, firmware's own use, or a boundary scan instruction's. -/
inductive LandState | hiZ | low | high | weakUp | weakDown | firmware | scan (ir : TapIr)
  deriving DecidableEq, Repr

/-- The pin map's codes; 5 to 7 are hi-Z (R482). -/
def mapCode (v : BitVec 3) : LandState :=
  if v = 1 then .low else if v = 2 then .high else if v = 3 then .weakUp else if v = 4 then .weakDown else .hiZ

def LandGroup.stake : LandGroup → Nat
  | .spi => 1
  | .i3c => 1
  | .time => 3
  | .flash _ => 7
  | .module => 8

/-- Instructions that drive lands (R538). -/
def TapIr.drives : TapIr → Bool
  | .extest => true
  | .extestPulse => true
  | .extestTrain => true
  | .clamp => true
  | .highz => true
  | .bypass => false
  | .idcode => false
  | .samplePreload => false
  | .fusePkg => false

/-- The start has brought the group up, outside reset (R483). -/
def Dev.landTaken (d : Dev) (g : LandGroup) : Bool :=
  d.start.phase != .off && d.start.phase != .inReset && d.start.phase != .warmPending && g.stake ≤ d.start.stake &&
    (match g with | .flash c => d.flash.chans[c].state != .off | _ => true)

/-- State of a configurable land of a group: hi-Z without power, a scan instruction's while RESET_N is asserted, firmware's once taken, else the mapped one. -/
def State.land (s : State) (g : LandGroup) (no : Nat) : LandState :=
  if !s.dev.brd.pwrGood then .hiZ
  else if s.dev.brd.resetN && s.dev.brd.ir.drives then .scan s.dev.brd.ir
  else if s.dev.landTaken g then .firmware
  else mapCode (NMap.getD s.fuse.pinMap no 0)

end Sys2Proof.Machine
end

