-- ==== Sys2Proof/Safety.lean ====
section
/-! DEFINITION. What the statements are made of: what a step keeps in every state, and what it means for a command to take effect. -/

namespace Sys2Proof.Machine

/-- VALID is 1 only while LOCKED with a bound of at most 1,000 ns, or in HOLDOVER entered with such a bound (R365). -/
def Clock.Ok (c : Clock) : Prop := c.valid = true → (c.state = .locked ∧ c.errBound ≤ 1000) ∨ (c.state = .holdover ∧ c.holdBase ≤ 1000)

/-- Every bit of v is set in w. -/
def bitsIn {n : Nat} (v w : BitVec n) : Prop := ∀ i : Nat, v.getLsbD i = true → w.getLsbD i = true

/-- Every fuse bit set in f is set in g (R500): key slots, SVN counters, MAC addresses, pin map, ROM digest, identity seed. -/
def Fuses.Le (f g : Fuses) : Prop :=
  (∀ k : Fin 4, (f.keys[k].revoked = true → g.keys[k].revoked = true) ∧ bitsIn f.keys[k].rsa g.keys[k].rsa ∧ bitsIn f.keys[k].slh g.keys[k].slh) ∧
    (∀ k : Fin 3, bitsIn f.svn[k] g.svn[k]) ∧ (∀ k : Fin 8, bitsIn f.macs[k] g.macs[k]) ∧
    (∀ i : Nat, bitsIn (NMap.getD f.pinMap i 0) (NMap.getD g.pinMap i 0)) ∧ bitsIn f.rom g.rom ∧ bitsIn f.seed g.seed

/-- A warm reset with a cause has begun (R403, R407, R457, R459): every link is down, nothing runs, WARM_VALID, WARM_CAUSE and a record of severity RESET tell it, the journal tail and the leases are gone, and datum time runs on. -/
def WarmBegun (v v' : State) (cause : Nat) : Prop :=
  v'.pending = v.pending ∧ v'.fuse = v.fuse ∧ v'.clk = { v.clk with ptpPort := none } ∧ v'.dev.start.phase = .warmPending ∧
    v'.dev.regs.warmValid = true ∧ v'.dev.regs.warmCause = BitVec.ofNat 3 cause ∧ v'.dev.regs.lastSev = 3 ∧ v'.dev.cmds.running = [] ∧ v'.dev.cnt = [] ∧
    (∀ p : Port, (v'.dev.port p).linkUp = false ∧ (v'.dev.port p).slots = []) ∧ (∀ q : FabPort, v'.dev.fab.ports[q].link = .down) ∧
    v'.dev.flash.tail = [] ∧ v'.dev.com.held = []

/-- A cold reset has begun (R457, R474): the clock and every register are at their reset values, every link is down and nothing runs. -/
def ColdBegun (v v' : State) (phase : Phase) : Prop :=
  v'.pending = v.pending ∧ v'.fuse = v.fuse ∧ v'.clk = Clock.reset ∧ v'.dev.start.phase = phase ∧ v'.dev.regs = Regs.reset ∧
    (∀ p : Port, v'.dev.port p = HostPort.reset) ∧ v'.dev.cmds.running = [] ∧ v'.dev.cmds.replay = [] ∧ v'.dev.cnt = [] ∧ v'.dev.adm = Adm.reset ∧
    v'.dev.plat = Plat.reset ∧ v'.dev.pwr = Power.reset ∧ v'.dev.flash.tail = []

/-- What a reset leaves of the part itself (R273, R459, R474, R491, R502): the set directory with its failure count and nonce, the straps, and the retired frames. -/
def StaysOver (v v' : State) : Prop :=
  v'.dev.start.dir = v.dev.start.dir ∧ v'.dev.start.bootSrc = v.dev.start.bootSrc ∧ v'.dev.start.clkMode = v.dev.start.clkMode ∧
    v'.dev.mem.retired = v.dev.mem.retired

/-- No unit hangs and no mandatory stake meets a failure (R484 to R487). -/
def CleanStart (o : StartOutcome) (d : Dev) : Prop :=
  o.interrupted = none ∧ o.clocksOk = true ∧ o.journalOk = true ∧ o.joinAnswer = none ∧ d.start.skip = [] ∧ d.mem.retired = [] ∧
    (∀ i : Nat, i < 20 → nthD o.stackRes i .failed = .passed) ∧ (∀ i : Nat, i < 32 → nthD o.chans i .failed ≠ .hung) ∧
    (∀ i : Nat, i < 4 → nthD o.hostPorts i .failed ≠ .hung) ∧ (∀ i : Nat, i < 8 → nthD o.fabPorts i .failed ≠ .hung)

/-- A copy's regions hold the frames that its content needs (R264, R265). -/
def Dev.fits (d : Dev) (l : Leaf) : Prop := ∀ w ∈ l.regions d, ∃ r, NMap.get? d.mem.regions w.id = some r ∧ w.frames ≤ r.len / 4096

/-- What a tick of ns nanoseconds makes of a bucket with a rate and a size (R445): full, without a fraction, or all its credit kept to the billionth. -/
def Bucket.Refilled (b b' : Bucket) (rate size ns : Nat) : Prop :=
  if 1000000000 * size ≤ 1000000000 * b.level + b.rem + rate * ns then b' = ⟨size, 0⟩
  else 1000000000 * b'.level + b'.rem = 1000000000 * b.level + b.rem + rate * ns ∧ b'.rem < 1000000000

/-- A refill tick is due: a multiple of STATION_NS / 16, and this one has not been run (R445). -/
def State.tickDue (v : State) : Prop := v.dev.timeRuns = true ∧ v.clk.now % (v.dev.ns v.clk / 16) = 0 ∧ v.dev.adm.lastTick ≠ some v.clk.now

/-- The device once a slot command has been taken and, if the node keeps its replay record, that record stands (R399, R415). -/
def State.ready (v : State) (cmd : Cmd) : Dev :=
  let d := v.dev.takeCmd cmd
  if cmd.isLocal then ((d.roomForRec v.clk.now).getD d).putRec .node cmd.key none else d

/-- The command at the head of the port's take order is taken, passes the common checks of R422 and runs: its CMD_ID is fresh with room for its record, the node's mode allows it, and no fence stands over its result area. -/
def Accepted (k : Take) (op : Nat) (v : State) (cmd : Cmd) : Prop :=
  v.dev.headCmd v.clk k = some cmd ∧ cmd.opcode = op ∧ (v.dev.takeCmd cmd).firstCheck cmd false = none ∧
    (cmd.isLocal = true → (v.dev.takeCmd cmd).findRec .node cmd.key = none ∧ ((v.dev.takeCmd cmd).roomForRec v.clk.now).isSome = true) ∧
    (v.ready cmd).modeAllows op = true ∧ ((v.ready cmd).port cmd.ref.port).fenced cmd.resultAddr cmd.resultLen = false

/-- The same of a command that the node's mode does not allow (R468, R485). -/
def TurnedAway (k : Take) (op : Nat) (v : State) (cmd : Cmd) : Prop :=
  v.dev.headCmd v.clk k = some cmd ∧ cmd.opcode = op ∧ (v.dev.takeCmd cmd).firstCheck cmd false = none ∧
    (cmd.isLocal = true → (v.dev.takeCmd cmd).findRec .node cmd.key = none ∧ ((v.dev.takeCmd cmd).roomForRec v.clk.now).isSome = true) ∧ (v.ready cmd).modeAllows op = false

/-- The input areas a command names lie inside its port's partition (R292) and under no fence (R311). -/
def AreasOk (v : State) (cmd : Cmd) (areas : List (Nat × Nat)) : Prop :=
  ∀ a ∈ areas, (v.dev.takeCmd cmd).areaIn cmd.ref.port a.1 a.2 = true ∧ ((v.ready cmd).port cmd.ref.port).fenced a.1 a.2 = false

/-- The state once an accepted command has made of the device what d is: its first report follows unless it has ended (R417). -/
def State.ran (v : State) (cmd : Cmd) (d : Dev) : State := { v with dev := d.showRunning cmd.ref }

end Sys2Proof.Machine
end

