-- ==== Sys2Proof/Certificates/Slice0/Obligations.lean ====
section
/-! DEFINITION. The statements for the provers: each is a proposition about the machine that a rule of the manual, or several, make true. -/

open Sys2Proof Sys2Proof.Machine

/-! ### The block and its step -/

/-- A step with a command at the front of the queue is that command's effect on the state with the queue's rest. -/
def Obligations.StepRunsFrontCommand : Prop :=
  ∀ (c : Instr) (rest : List Instr) (s : State), step { s with pending := c :: rest } = exec c { s with pending := rest }

/-- A command answers a next state exactly when it is well formed, and no command touches the queue; an ill-formed one faults by that name. -/
def Obligations.WellFormedCommandsAnswer : Prop :=
  ∀ (c : Instr) (s : State),
    (c.wf = true → ∃ s', exec c s = .next s' ∧ s'.pending = s.pending) ∧ (c.wf = false → exec c s = .fault .illFormed)

/-- What reset leaves: the registers and levels that R439, R448, R251, R384, R407, R419, R477, R348 and R359 give, nothing taken or running, no log or counter written, and a clock that keeps R365's rule of VALID. -/
def Obligations.ResetValues : Prop :=
  let s := State.reset
  s.pending = [] ∧ Clock.Ok s.clk ∧ s.dev.start.phase = .inReset ∧ s.readReg 0x180 = 0x1 ∧ s.readReg 0x200 = 0x00C801F460640000 ∧ s.readReg 0x10010 = 0x3200 ∧
    s.readReg 0x10008 = 0x0000FFFFFFFFFF00 ∧ s.readReg 0x30010 = 0x960 ∧ s.readReg 0x50200 = 0x01010404 ∧ s.readReg 0x60108 = 0x29A8B0 ∧
    s.dev.adm.tenants = [(0, Tenant.zero)] ∧ (∀ t : Nat, 0 < t → s.dev.tenant t = Tenant.off) ∧ (∀ j : Fin 7, s.dev.adm.shapers[j] = Shaper.reset) ∧
    (∀ i : Fin 20, s.dev.nb.caps[i] = 32) ∧ s.dev.nb.slice = 4096 ∧ (∀ p : Port, (s.dev.port p).modUs = 0x10 ∧ (s.dev.port p).lastSeq = []) ∧
    s.dev.cmds = ⟨[], [], 0⟩ ∧ s.dev.regs.errLog = [] ∧ s.dev.cnt = []

/-! ### The field book and the registers -/

/-- An aligned 8-byte write of CMD_WORD with a new SEQ stores the word and puts the slot at the end of its port's take order; while the slot's command runs, the slot waits instead (R414 to R416). A waiting slot whose command has written DONE takes its place at the end of the order. A word whose SEQ is zero or that of the last command taken from the slot is stored and starts nothing (R414). -/
def Obligations.CmdWordTakesOrder : Prop :=
  ((∀ (s v : State) (t : Nat) (p : Port) (n : SlotNo) (w : W64), v = s.tick t → v.dev.portOn p = true → w.toNat / 2 ^ 32 ≠ 0 →
    NMap.get? (v.dev.port p).lastSeq n.val ≠ some (w.toNat / 2 ^ 32) →
    (v.dev.slotBusy p n = false → n ∉ (v.dev.port p).order →
      exec (.cmdWordWrite t p n w) s =
        .next { v with dev := v.dev.updPort p fun h => { h with slots := Mem.wrN h.slots (slotAt n 0) 8 w.toNat, order := h.order ++ [n] } }) ∧
    (v.dev.slotBusy p n = true → n ∉ (v.dev.port p).deferred →
      exec (.cmdWordWrite t p n w) s =
        .next { v with dev := v.dev.updPort p fun h => { h with slots := Mem.wrN h.slots (slotAt n 0) 8 w.toNat, deferred := h.deferred ++ [n] } })) ∧
  (∀ (s v : State) (k : Take), v = s.tick k.t → v.dev.live = true → (v.dev.port k.port).linkUp = true → k.slot ∈ (v.dev.port k.port).deferred →
    v.dev.slotBusy k.port k.slot = false → v.dev.newSeq k.port k.slot = true → k.slot ∉ (v.dev.port k.port).order →
    exec (.deferredTake k) s =
      .next { v with dev := v.dev.updPort k.port fun h =>
        { h with deferred := h.deferred.filter fun x => x != k.slot, order := h.order ++ [k.slot] } })) ∧
  (∀ (s v : State) (t : Nat) (p : Port) (n : SlotNo) (w : W64), v = s.tick t → v.dev.portOn p = true →
    w.toNat / 2 ^ 32 = 0 ∨ NMap.get? (v.dev.port p).lastSeq n.val = some (w.toNat / 2 ^ 32) →
    exec (.cmdWordWrite t p n w) s = .next { v with dev := v.dev.updPort p fun h => { h with slots := Mem.wrN h.slots (slotAt n 0) 8 w.toNat } })

/-- dev.hello agrees a major and the lower of the two minors and writes the versions; dev.info, dev.log_read and time.status write their result and end: ST_OK, but ST_SHORT for an event-code list that does not fit (R423, R424, R428, R432). -/
def Obligations.InformationCommands : Prop :=
  (∀ (s v : State) (k : Take) (cmd : Cmd) (m : Nat), v = s.tick k.t → Accepted k 0x0100 v cmd → 8 ≤ cmd.resultLen →
    highestMinor (cmd.f 0x40 2) = some m →
    exec (.devHello k) s = .next (v.ran cmd
      ((((v.ready cmd).updPort cmd.ref.port fun h => { h with agreed := some (cmd.f 0x40 2, min (cmd.f 0x42 1) m) }).result cmd 0
        (helloResult (cmd.f 0x40 2) (min (cmd.f 0x42 1) m))).endCmd v.clk cmd.ref stOk 0 0 []))) ∧
  (∀ (s v : State) (k : Take) (cmd : Cmd) (n : Nat), v = s.tick k.t → Accepted k 0x0101 v cmd → 256 ≤ cmd.resultLen →
    n = min Config.eventCodes.length ((cmd.resultLen - 256) / 8) →
    exec (.devInfo k) s = .next (v.ran cmd
      (((v.ready cmd).result cmd 0 (padTo 256 (devInfoHead (v.ready cmd)) ++ devInfoCodes n)).endCmd v.clk cmd.ref
        (if n < Config.eventCodes.length then stShort else stOk) 0 n []))) ∧
  (∀ (s v : State) (k : Take) (cmd : Cmd) (out : List (List Byte)), v = s.tick k.t → Accepted k 0x0106 v cmd → cmd.f 0x40 1 ≤ 3 →
    out = (((v.ready cmd).logRecords cmd.ref.port (cmd.f 0x40 1)).2.drop (cmd.f 0x44 4)).take
      (if cmd.f 0x48 4 = 0 then cmd.resultLen / ((v.ready cmd).logRecords cmd.ref.port (cmd.f 0x40 1)).1
       else min (cmd.resultLen / ((v.ready cmd).logRecords cmd.ref.port (cmd.f 0x40 1)).1) (cmd.f 0x48 4)) →
    exec (.devLogRead k) s = .next (v.ran cmd (((v.ready cmd).result cmd 0 out.flatten).endCmd v.clk cmd.ref stOk 0 out.length []))) ∧
  (∀ (s v : State) (k : Take) (cmd : Cmd), v = s.tick k.t → Accepted k 0x0C00 v cmd → 32 ≤ cmd.resultLen →
    exec (.timeStatus k) s = .next (v.ran cmd
      (((v.ready cmd).result cmd 0 (leBytes 8 v.clk.now ++ leBytes 8 ((v.ready cmd).regTimeStatus v.clk) ++ leBytes 8 ((v.ready cmd).station v.clk) ++
        leBytes 8 ((v.ready cmd).ns v.clk))).endCmd v.clk cmd.ref stOk 0 0 [])))

/-- A command that ends writes STATUS_WORD (its SEQ, its status, DONE 1 and so PROGRESS 0) and COUNT_WORD, sets its slot's bit of DONE_SUMMARY, and runs no more (R46, R411, R412, R419). No copy of it waits. A read of a DONE_SUMMARY word returns its bits and clears them and no others; vector 0 is signalled once when it is enabled, a bit has newly been set and MOD_US has passed since the last signal (R419, R420). -/
def Obligations.EndsAndDoneSummary : Prop :=
  (∀ (d : Dev) (c : Clock) (cmd : Cmd) (status flags count : Nat) (head : List Byte), d.cmd? cmd.ref = some cmd → cmd.abandoned = false →
    (∀ x ∈ d.cmds.running, x.ref = cmd.ref ∨ x.isLocal = false ∨ x.tenant ≠ cmd.tenant ∨ x.cmdId ≠ cmd.cmdId) →
    status < 2 ^ 16 → flags < 16 →
    let e := d.endCmd c cmd.ref status flags count head
    e.slotN cmd.ref.port cmd.ref.slot 0x08 8 = cmd.ref.seq % 2 ^ 32 * 2 ^ 32 + status * 2 ^ 16 + (flags ||| 1) ∧
      e.slotN cmd.ref.port cmd.ref.slot 0x10 8 = count % 2 ^ 32 ∧ (e.port cmd.ref.port).doneSummary.getLsbD cmd.ref.slot.val = true ∧
      e.cmd? cmd.ref = none) ∧
  ((∀ (s v : State) (t : Nat) (p : Port) (word : Fin 8), v = s.tick t → v.dev.portOn p = true →
    ∃ v', exec (.doneSummaryRead t p word) s = .next v' ∧ (v'.dev.port p).readData = (v.dev.port p).doneSummary.extractLsb' (64 * word.val) 64 ∧
      (∀ i : Fin 512, (v'.dev.port p).doneSummary.getLsbD i.val = ((v.dev.port p).doneSummary.getLsbD i.val && decide (i.val / 64 ≠ word.val))) ∧
      v' = { v with dev := v.dev.updPort p fun h => { h with readData := (v'.dev.port p).readData, doneSummary := (v'.dev.port p).doneSummary } }) ∧
  (∀ (s v : State) (t : Nat) (p : Port), v = s.tick t → (v.dev.port p).doneEn = true → (v.dev.port p).newDone = true → (v.dev.port p).doneSummary ≠ 0 →
    (∀ x, (v.dev.port p).lastSignal = some x → x + 1000 * (v.dev.port p).modUs.toNat ≤ v.clk.now) →
    exec (.doneIrqSignal t p) s =
      .next { v with dev := v.dev.updPort p fun h => { h with vectors := h.vectors ++ [(0, v.clk.now)], lastSignal := some v.clk.now, newDone := false } }))

/-- Writes through the BAR0 of an admin port whose host's requests reach the block: CTL.ADMIN_PORTS and FLS.READ_SHARE take the value; ADM.SEL takes it and captures the tenant's settings and levels; PWR.HOLD[b] takes the bits that hold a unit; with b = 2 work that waited for a channel then goes on, and a change of b = 3 withdraws or offers fabric ports again in a HELLO to every peer (R426, R541, R544, R348, R463, R477). A write through a port that is no admin port changes no register of BAR0 (R426, R541). -/
def Obligations.AdminRegisterWrites : Prop :=
  (∀ (s v : State) (t : Nat) (p : Port) (w : W64), v = s.tick t → v.dev.portOn p = true → v.dev.regs.adminPorts.getLsbD p.val = true →
    exec (.adminPortsWrite t p w) s = .next { v with dev := { v.dev with regs := { v.dev.regs with adminPorts := w.setWidth 4 } } } ∧
    exec (.admSelWrite t p w) s =
      .next { v with dev := { v.dev with adm := { v.dev.adm with
        sel := w.setWidth 12,
        viewCfg := BitVec.ofNat 64 ((v.dev.tenant (w.setWidth 12).toNat).cfg.defUs * 2 ^ 32 + (v.dev.tenant (w.setWidth 12).toNat).cfg.portMask.toNat * 2 ^ 8 +
          (v.dev.tenant (w.setWidth 12).toNat).cfg.mode),
        viewTc := BitVec.ofNat 64 (v.dev.tenant (w.setWidth 12).toNat).tc.level, viewTp := BitVec.ofNat 64 (v.dev.tenant (w.setWidth 12).toNat).tp.level } } } ∧
    exec (.readShareWrite t p w) s =
      .next { v with dev := { v.dev with flash := { v.dev.flash with
        wChain := w.extractLsb' 0 8, wTrav := w.extractLsb' 8 8, wStream := w.extractLsb' 16 8, wBack := w.extractLsb' 24 8 } } } ∧
    (∀ (b : Fin 4) (d : Dev), b.val ≠ 3 → d = { v.dev with pwr := { v.dev.pwr with hold := v.dev.pwr.hold.set b.val (w.setWidth 32 &&& holdMask b.val) } } →
      exec (.pwrHoldWrite t p b w) s = .next { v with dev := if b.val = 2 then d.chansGoOn v.clk else d }) ∧
    (∀ m : BitVec 32, m = w.setWidth 32 &&& 0xFF → v.dev.pwr.hold[3] ≠ m →
      ∃ v', exec (.pwrHoldWrite t p 3 w) s = .next v' ∧ v'.dev.pwr = { v.dev.pwr with hold := v.dev.pwr.hold.set 3 m } ∧
        (∀ q : FabPort, v'.dev.fab.ports[q] = { v.dev.fab.ports[q] with withdrawn := m.getLsbD q.val }) ∧
        v'.dev.sent = v.dev.sent ++ v.dev.fab.conns.map fun k => (k.1 / 4, .hello (k.1 % 4) k.2.version ((List.finRange 8).filter fun q => m.getLsbD q.val)))) ∧
  (∀ (s v : State) (t : Nat) (p : Port) (q : FabPort) (b : Fin 4) (w : W64) (a : Nat) (data : List Byte), v = s.tick t →
    v.dev.regs.adminPorts.getLsbD p.val = false → a < 4194304 → 1 ≤ data.length → data.length ≤ 8 →
    exec (.adminPortsWrite t p w) s = .next v ∧ exec (.admSelWrite t p w) s = .next v ∧ exec (.readShareWrite t p w) s = .next v ∧
    exec (.pwrHoldWrite t p b w) s = .next v ∧ exec (.fabPortWrite t p q w) s = .next v ∧ exec (.registerWrite t p false a data) s = .next v)

/-- A write of FAB.PORT[q] that changes ENABLE or MACSEC_EN retrains the port's link: no lanes, no secure association, DISABLED when ENABLE is 0, and the port no longer supplies time (R384). A read of PWR.GOV_STATUS returns the register and clears PEAK_W; a read of PWR.THERMAL returns it and clears TJ_PEAK; any port may read (R14, R477, R526, R541). -/
def Obligations.FabricPortsAndPeaks : Prop :=
  (∀ (s v : State) (t : Nat) (p : Port) (q : FabPort) (w : W64), v = s.tick t → v.dev.portOn p = true → v.dev.regs.adminPorts.getLsbD p.val = true →
    v.dev.fab.ports[q].enable ≠ w.getLsbD 0 ∨ v.dev.fab.ports[q].macsecEn ≠ w.getLsbD 1 →
    ∃ v', exec (.fabPortWrite t p q w) s = .next v' ∧
      v'.dev = { v.dev with fab := { v.dev.fab with ports := v.dev.fab.ports.set q.val (v.dev.fab.ports[q].retrain (w.getLsbD 0) (w.getLsbD 1)) } } ∧
      v'.clk = { v.clk with ptpPort := if v.clk.ptpPort = some q then none else v.clk.ptpPort } ∧ v'.pending = v.pending ∧ v'.fuse = v.fuse) ∧
  (∀ (s v : State) (t : Nat) (p : Port), v = s.tick t → v.dev.portOn p = true →
    exec (.peakWRead t p) s =
      .next { v with dev := { v.dev.updPort p (fun h => { h with readData := v.readReg 0x30018 }) with pwr := { v.dev.pwr with peakW := 0 } } } ∧
    exec (.tjPeakRead t p) s =
      .next { v with dev := { v.dev.updPort p (fun h => { h with readData := v.readReg 0x30028 }) with brd := { v.dev.brd with tjPeak := 0 } } })

/-- Other writes through an admin port's BAR0: an aligned 8-byte write sets the RW fields of CTL.FAULT_CTRL, TIME.CTRL, PWR.WAKE_AT, PWR.GOV_CTRL and FAB.DSCP, and clears the bits of PWR.SUPPLY, PWR.THERMAL and ERRL.SUMMARY that are written 1; a narrower or unaligned write is dropped (R14, R15, R539, R540). Through BAR2, IRQ_CTRL is written in 8 bytes (R419). Bytes written through BAR2 into the field book land at their addresses but for STATUS_WORD and COUNT_WORD, which the host cannot write, and start nothing; an aligned 8-byte write of CMD_WORD is a submission instead (R411, R414). -/
def Obligations.PlainRegistersAndFieldBook : Prop :=
  (∀ (s v : State) (t : Nat) (p : Port) (data : List Byte) (w : W64), v = s.tick t → v.dev.portOn p = true →
    v.dev.regs.adminPorts.getLsbD p.val = true → data.length = 8 → w = BitVec.ofNat 64 (leNat data) →
    exec (.registerWrite t p false 0x200 data) s =
      .next { v with dev := { v.dev with regs := { v.dev.regs with
        lapseUs := w.extractLsb' 48 16, floorUs := w.extractLsb' 32 16, frac := w.extractLsb' 24 8, wdogMs := w.extractLsb' 16 8 } } } ∧
    exec (.registerWrite t p false 0x10010 data) s =
      .next { v with dev := { v.dev with regs := { v.dev.regs with holdPpb := w.extractLsb' 8 8, source := w.extractLsb' 0 2 } } } ∧
    exec (.registerWrite t p false 0x30008 data) s = .next { v with dev := { v.dev with pwr := { v.dev.pwr with wakeAt := w } } } ∧
    exec (.registerWrite t p false 0x30010 data) s = .next { v with dev := { v.dev with pwr := { v.dev.pwr with capW := w.setWidth 12 } } } ∧
    exec (.registerWrite t p false 0x30020 data) s =
      .next { v with dev := { v.dev with brd := { v.dev.brd with
        pfSeen := v.dev.brd.pfSeen && !(w.getLsbD 33), uvSeen := v.dev.brd.uvSeen && !(w.getLsbD 32) } } } ∧
    exec (.registerWrite t p false 0x30028 data) s =
      .next { v with dev := { v.dev with brd := { v.dev.brd with hotSeen := v.dev.brd.hotSeen && !(w.getLsbD 17) } } } ∧
    exec (.registerWrite t p false 0x70000 data) s =
      .next { v with dev := { v.dev with regs := { v.dev.regs with warmValid := v.dev.regs.warmValid && !(w.getLsbD 3) } } } ∧
    exec (.registerWrite t p false 0x60108 data) s =
      .next { v with dev := { v.dev with fab := { v.dev.fab with
        dscp := ⟨#[w.extractLsb' 0 6, w.extractLsb' 6 6, w.extractLsb' 12 6, w.extractLsb' 18 6], rfl⟩ } } } ∧
    exec (.registerWrite t p true 0x200040 data) s =
      .next { v with dev := v.dev.updPort p fun h => { h with modUs := w.extractLsb' 16 16, eventEn := w.getLsbD 1, doneEn := w.getLsbD 0 } } ∧
    (∀ (a : Nat) (short : List Byte), a < 4194304 → short ≠ [] → short.length < 8 ∨ a % 8 ≠ 0 → short.length ≤ 8 →
      exec (.registerWrite t p false a short) s = .next v)) ∧
  ((∀ (s v : State) (t : Nat) (p : Port) (n : SlotNo) (data : List Byte), v = s.tick t → v.dev.portOn p = true → data.length = 8 →
    exec (.registerWrite t p true (slotAt n 0) data) s = exec (.cmdWordWrite t p n (BitVec.ofNat 64 (leNat data))) s) ∧
  ∀ (s v : State) (t : Nat) (p : Port) (a : Nat) (data : List Byte), v = s.tick t → v.dev.portOn p = true → 1 ≤ data.length → data.length ≤ 8 →
    a % 4096 ≠ 0 ∨ data.length ≠ 8 → a + data.length ≤ 0x200000 → Mem.wf (v.dev.port p).slots = true →
    ∃ v' m, exec (.registerWrite t p true a data) s = .next v' ∧ v' = { v with dev := v.dev.updPort p fun h => { h with slots := m } } ∧
      (∀ x, Mem.rd m x = if a ≤ x ∧ x < a + data.length ∧ hostWritable x = true then data.getD (x - a) 0 else Mem.rd (v.dev.port p).slots x))

/-! ### Host memory and the commons -/

/-- New partition settings reserve their frames and wait, or end ST_BUSY without room; a size of 0 reserves none; settings equal to those in use withdraw pending ones and change nothing else (R291). At a host port's link-up its pending settings take effect: the new partition is zero-filled, its fences go while those on commons windows stay, and its reserved frames are the partition's; without pending settings the contents stay. No other port changes (R291, R312). -/
def Obligations.PartitionSettings : Prop :=
  (∀ (s v : State) (k : Take) (cmd : Cmd) (p : Port) (x : PartCfg), v = s.tick k.t → Accepted k 0x0800 v cmd → cmd.f 0x40 1 = 0 → cmd.f 0x41 1 = p.val →
    x = cmd.partCfg → partitionBad v.clk (v.dev.takeCmd cmd) cmd = false →
    (x ≠ ((v.ready cmd).port p).part → 0 < x.gib → ((v.ready cmd).free (pendRegion p)).canAlloc x.protect x.mask x.frames = true →
      exec (.partition k) s = .next (v.ran cmd
        (((((v.ready cmd).free (pendRegion p)).alloc (pendRegion p) x.protect x.mask x.frames .pin 5).updPort p fun h => { h with pend := some x }).endCmd
          v.clk cmd.ref stOk 0 0 []))) ∧
    (x ≠ ((v.ready cmd).port p).part → 0 < x.gib → ((v.ready cmd).free (pendRegion p)).canAlloc x.protect x.mask x.frames = false →
      exec (.partition k) s = .next (v.ran cmd ((v.ready cmd).refuse cmd.ref stBusy))) ∧
    (x ≠ ((v.ready cmd).port p).part → x.gib = 0 →
      exec (.partition k) s = .next (v.ran cmd
        ((((v.ready cmd).free (pendRegion p)).updPort p fun h => { h with pend := some x }).endCmd v.clk cmd.ref stOk 0 0 []))) ∧
    (x = ((v.ready cmd).port p).part →
      exec (.partition k) s = .next (v.ran cmd ((((v.ready cmd).free (pendRegion p)).updPort p fun h => { h with pend := none }).endCmd v.clk cmd.ref stOk 0 0 [])))) ∧
  (∀ (s v : State) (t : Nat) (p : Port), v = s.tick t → v.dev.service = true → v.dev.brd.lost = [] → (v.dev.port p).off = false →
    (v.dev.port p).linkUp = false → v.dev.tst.loops = [] →
    ∃ v', exec (.hostLinkUp t p) s = .next v' ∧ (∀ q, q ≠ p → v'.dev.port q = v.dev.port q) ∧
      ((v.dev.port p).pend = none → v'.dev.port p = { v.dev.port p with linkUp := true } ∧ v'.dev.mem = v.dev.mem) ∧
      (∀ x, (v.dev.port p).pend = some x →
        v'.dev.port p = { v.dev.port p with linkUp := true, part := x, pend := none, mem := [], poison := [], fences := (v.dev.port p).fences.filter fun f => Config.dpaCommons ≤ f.dpa } ∧
        (∀ r, NMap.get? (v.dev.free (partRegion p)).mem.regions (pendRegion p) = some r →
          NMap.get? v'.dev.mem.regions (partRegion p) = some r ∧ NMap.get? v'.dev.mem.regions (pendRegion p) = none)))

/-- COMMONS_CREATE makes two zeroed buffers, version 0 published in A, and reserves both; COMMONS_DROP of a slot without a lease whose lines nobody holds revokes every port from the window, which FENCE_SET tells, frees both buffers and ends ST_OK; fences that stood before, other slots and the lines held of them stay (R297, R310). -/
def Obligations.CommonsCreateAndDrop : Prop :=
  (∀ (s v : State) (k : Take) (cmd : Cmd) (x : PartCfg) (len : Nat), v = s.tick k.t → Accepted k 0x0800 v cmd → cmd.f 0x40 1 = 1 → x = cmd.partCfg →
    len = cmd.f 0x4C 4 * 1048576 → commonsCreateBad v.clk (v.dev.takeCmd cmd) cmd = false →
    (v.ready cmd).canAlloc x.protect x.mask (2 * framesOf len) = true →
    ∃ (d : Dev) (st : ComState), exec (.commonsCreate k) s = .next (v.ran cmd (d.endCmd v.clk cmd.ref stOk 0 0 [])) ∧ d.com? (cmd.f 0x41 1) = some st ∧
      st.len = len ∧ st.readMask = BitVec.ofNat 4 (cmd.f 0x43 1) ∧ st.writeMask = BitVec.ofNat 4 (cmd.f 0x44 1) ∧ st.leaseNs = cmd.f 0x50 8 ∧
      st.version = 0 ∧ st.curB = false ∧ st.leasePort = none ∧ st.memA = [] ∧ st.memB = [] ∧ st.poisonA = [] ∧ st.poisonB = [] ∧
      d = { ((v.ready cmd).alloc (comRegion (cmd.f 0x41 1) false) x.protect x.mask (framesOf len) .pin 5).alloc (comRegion (cmd.f 0x41 1) true) x.protect x.mask
              (framesOf len) .pin 5 with com := d.com } ∧
      d.com = { (v.ready cmd).com with slots := NMap.put (v.ready cmd).com.slots (cmd.f 0x41 1) st }) ∧
  (∀ (s v : State) (k : Take) (cmd : Cmd) (slot : Nat) (x : ComState), v = s.tick k.t → Accepted k 0x0800 v cmd → cmd.f 0x40 1 = 2 → slot = cmd.f 0x41 1 →
    slot ≤ 63 → v.dev.com? slot = some x → x.leasePort = none → (∀ l ∈ v.dev.com.held, l.slot ≠ slot) → (∀ w ∈ v.dev.com.waits, w.slot ≠ slot) →
    (∀ p : Port, (v.dev.port p).events.length < 4096 ∧ ∀ f ∈ (v.dev.port p).fences, f.tf ≠ v.clk.now) →
    ∃ d : Dev, exec (.commonsDrop k) s = .next (v.ran cmd (d.endCmd v.clk cmd.ref stOk 0 0 [])) ∧ d.com? slot = none ∧
      (∀ b : Bool, NMap.get? d.mem.regions (comRegion slot b) = none) ∧ (∀ c : Nat, c ≠ slot → d.com? c = v.dev.com? c) ∧ d.com.held = v.dev.com.held ∧
      (∀ p : Port, (d.port p).fences = (v.dev.port p).fences ∧ ∃ r : EventRec, (d.port p).events = (v.dev.port p).events ++ [r] ∧ r.type = 3 ∧
        r.port = p.val ∧ r.count = 1 ∧ r.dpa = comBase slot ∧ r.datum = v.clk.now ∧ r.fenceT = v.clk.now ∧ r.slot = slot))

/-- The operations of mem.publish while no snoop of the slot is awaited and nothing owned must be written back. ACQUIRE takes a lease that nobody holds or that has expired, BREAK any: the old holder's lines are recalled and LEASE_ENDED logged for it, the generation rises by 1, LEASE_END_NS is set and the draft refills from line 0 unless KEEP_DRAFT is 1 (R301 to R303). What a lease's holder may do with it while no snoop of the slot is awaited: RENEW moves LEASE_END_NS, RELEASE ends the lease without a record, PUBLISH recalls the draft lines and flips the version when none is poisoned, else ends with the poison status; each ends with LEASE_GEN and VERSION in its result area (R301, R302, R304). A lease past LEASE_END_NS ends: every line of its holder is recalled and leaves the record, LEASE_ENDED is logged for it and, with nothing owned, LEASE_PORT is cleared (R302, R313). The refill copies its next line from the published buffer into the draft, and the copies that ports hold of that draft line are back-invalidated (R299, R305). The answer to an awaited snoop: write-back data of a draft line is applied to the draft, and the line is awaited no more; with further lines awaited nothing goes on yet (R302, R304). -/
def Obligations.Leases : Prop :=
  ((∀ (s v : State) (k : Take) (cmd : Cmd) (slot : Nat) (keep : Bool) (x : ComState), v = s.tick k.t → Accepted k 0x0801 v cmd → slot = cmd.f 0x40 1 →
    slot ≤ 63 → 16 ≤ cmd.resultLen → cmd.e 0x42 1 ≤ 1 → keep = decide (cmd.e 0x42 1 = 1) → v.dev.com? slot = some x →
    (∀ w ∈ v.dev.com.waits, w.slot ≠ slot) → x.writeMask.getLsbD cmd.ref.port.val = true → (∀ l ∈ v.dev.com.held, l.slot = slot → l.own = false) →
    (x.leasePort = none → ∀ d : Dev, d = ((v.ready cmd).setHeader slot fun y => { y with leasePort := none }).grantLease v.clk cmd.ref slot cmd.ref.port keep →
      (cmd.f 0x41 1 = 0 → exec (.acquire k) s = .next (v.ran cmd d)) ∧ (cmd.f 0x41 1 = 4 → cmd.expert = true → exec (.breakLease k) s = .next (v.ran cmd d))) ∧
    (∀ (q : Port) (d : Dev), x.leasePort = some q →
      d = ((((v.ready cmd).recall slot fun o _ => o = q).2.logLease v.clk q slot).setHeader slot fun y => { y with leasePort := none }).grantLease v.clk
        cmd.ref slot cmd.ref.port keep →
      (cmd.f 0x41 1 = 0 → x.expired v.clk.now = true → exec (.acquire k) s = .next (v.ran cmd d)) ∧
      (cmd.f 0x41 1 = 4 → cmd.expert = true → exec (.breakLease k) s = .next (v.ran cmd d)))) ∧
  (∀ (d : Dev) (c : Clock) (r : Ref) (slot : Nat) (p : Port) (keep : Bool) (x : ComState), d.com? slot = some x →
    ∃ e : Dev, d.grantLease c r slot p keep = e.endPublish c r slot stOk ∧
      e.com? slot = some { x with leaseGen := x.leaseGen + 1, leasePort := some p, leaseEnd := if x.leaseNs = 0 then 0 else c.now + x.leaseNs,
                                  refill := if keep = true then x.refill else some 0, done := if keep = true then x.done else [] })) ∧
  (∀ (s v : State) (k : Take) (cmd : Cmd) (slot : Nat) (x : ComState), v = s.tick k.t → Accepted k 0x0801 v cmd → slot = cmd.f 0x40 1 → slot ≤ 63 →
    16 ≤ cmd.resultLen → cmd.e 0x42 1 ≤ 1 → v.dev.com? slot = some x → (∀ w ∈ v.dev.com.waits, w.slot ≠ slot) →
    x.writeMask.getLsbD cmd.ref.port.val = true → x.leasePort = some cmd.ref.port → x.expired v.clk.now = false → cmd.f 0x48 8 = x.leaseGen →
    (∀ l ∈ v.dev.com.held, l.slot = slot → l.own = false) →
    (cmd.f 0x41 1 = 1 →
      exec (.renew k) s = .next (v.ran cmd
        (((v.ready cmd).setHeader slot fun y => { y with leaseEnd := if y.leaseNs = 0 then 0 else v.clk.now + y.leaseNs }).endPublish v.clk cmd.ref slot stOk))) ∧
    (cmd.f 0x41 1 = 3 →
      exec (.release k) s = .next (v.ran cmd
        ((((v.ready cmd).recall slot fun o _ => o = cmd.ref.port).2.setHeader slot fun y => { y with leasePort := none }).endPublish v.clk cmd.ref slot
          stOk))) ∧
    (cmd.f 0x41 1 = 2 →
      exec (.publish k) s = .next (v.ran cmd
        (((v.ready cmd).recall slot fun o line => o = cmd.ref.port && x.inDraft line).2.flip v.clk cmd.ref slot))) ∧
    (x.bad x.draftB ≠ [] → ∀ d : Dev, d.com? slot = some x → d.flip v.clk cmd.ref slot = d.endPublish v.clk cmd.ref slot stPoison) ∧
    (x.bad x.draftB = [] → ∀ d : Dev, d.com? slot = some x → ∃ e : Dev, d.flip v.clk cmd.ref slot = e.endPublish v.clk cmd.ref slot stOk ∧
      e.com? slot = some { x with version := x.version + 1, curB := !x.curB, flipNs := v.clk.now, epochA := if x.curB then x.epochA else x.epochA + 1,
                                  epochB := if x.curB then x.epochB + 1 else x.epochB, refill := some 0, done := [] })) ∧
  ((∀ (s v : State) (t : Nat) (c : ComSlot) (x : ComState) (p : Port), v = s.tick t → v.dev.com? c.val = some x → x.leasePort = some p →
    x.expired v.clk.now = true → (∀ w ∈ v.dev.com.waits, w.slot ≠ c.val) → (∀ l ∈ v.dev.com.held, l.slot = c.val → l.own = false) →
    exec (.leaseExpiry t c) s =
      .next { v with dev := ((v.dev.recall c.val fun o _ => o = p).2.logLease v.clk p c.val).setHeader c.val fun y => { y with leasePort := none } }) ∧
  (∀ (s v : State) (t : Nat) (c : ComSlot) (x : ComState) (line : Nat), v = s.tick t → v.dev.com? c.val = some x → x.refill = some line → line < x.len / 64 →
    line ∉ x.done → Mem.wf x.memA = true → Mem.wf x.memB = true →
    ∃ (f : ComState → ComState) (y : ComState),
      exec (.commonsRefill t c line) s = .next { v with dev := (v.dev.snoopOthers c.val (bufLine x.draftB + line) none).updCom c.val f } ∧ y = f x ∧
      y.refill = (if line + 1 < x.len / 64 then some (line + 1) else none) ∧ y.buf x.curB = x.buf x.curB ∧ y.bad x.curB = x.bad x.curB ∧
      (∀ a, Mem.rd (y.buf x.draftB) a = Mem.rd (if 64 * line ≤ a ∧ a < 64 * line + 64 then x.buf x.curB else x.buf x.draftB) a) ∧
      (line ∈ y.bad x.draftB ↔ line ∈ x.bad x.curB))) ∧
  (∀ (s v : State) (t : Nat) (p : Port) (c : ComSlot) (line : Nat) (data : Option (List Byte)) (w : ComWait) (x : ComState), v = s.tick t →
    (∀ bs, data = some bs → bs.length = 64) → v.dev.com.waits = [w] → w.slot = c.val → (p, line) ∈ w.lines → (∃ y ∈ w.lines, y ≠ (p, line)) →
    v.dev.com.queue = [] → v.dev.com? c.val = some x →
    ∃ v', exec (.bisnpResponse t p c line data) s = .next v' ∧
      v' = { v with dev := { (match data with | none => v.dev | some bs => v.dev.updCom c.val fun y => y.writeBack line bs) with com := v'.dev.com } } ∧
      v'.dev.com.waits = [{ w with lines := w.lines.filter fun y => y != (p, line) }] ∧ v'.dev.com.held = v.dev.com.held ∧
      (∀ bs, data = some bs → ∃ y, v'.dev.com? c.val = some y ∧ y = x.writeBack line bs))

/-- REVOKE of a partition extent that no running command meets, or of commons lines that the target neither holds nor leases, records the fence at once and awaits the accepted requests; FENCE_SET then logs it and ends the command ST_OK; RESTORE removes the target's fences that lie wholly inside its extent (R309 to R312). -/
def Obligations.RevokeAndRestore : Prop :=
  (∀ (s v : State) (k : Take) (cmd : Cmd) (p : Port) (dpa len : Nat) (d : Dev), v = s.tick k.t → Accepted k 0x0802 v cmd → cmd.f 0x41 1 = 0 →
    cmd.f 0x40 1 = p.val → dpa = cmd.f 0x48 8 → len = cmd.f 0x50 8 → dpa % 4096 = 0 → len % 4096 = 0 → 0 < len → (v.dev.port p).fences.length < 64 →
    d = ((v.ready cmd).updPort p fun h => { h with fences := h.fences ++ [⟨dpa, len, v.clk.now, none, none, 0, 0⟩] }) →
    (dpa + len ≤ v.dev.partLen p → dpa < Config.dpaCommons → (∀ y ∈ v.dev.cmds.running, y.ref.port = p → y.meets dpa len = false) →
      exec (.revoke k) s = .next (v.ran cmd (d.awaitLines ⟨64, [], .revoke cmd.ref p dpa len v.clk.now⟩))) ∧
    (∀ slot : Nat, slotOfExtent dpa len = some slot → (v.dev.com? slot).bind (·.leasePort) ≠ some p → (∀ w ∈ v.dev.com.waits, w.slot ≠ slot) →
      (∀ l ∈ v.dev.com.held, l.slot = slot → l.port ≠ p) →
      exec (.revoke k) s = .next (v.ran cmd (d.awaitLines ⟨slot, [], .revoke cmd.ref p dpa len v.clk.now⟩)))) ∧
  (∀ (s v : State) (t : Nat) (p : Port) (r : Ref) (slot dpa len tf : Nat), v = s.tick t → v.dev.com.waits = [⟨slot, [], .revoke r p dpa len tf⟩] →
    let d : Dev := { v.dev with com := { v.dev.com with waits := [] } }
    exec (.fenceSet t p dpa) s =
      .next { v with dev := (d.logEvent v.clk p 3 p.val 1 dpa tf (if slot < 64 then slot else 0xFFFF)).endCmd v.clk r stOk 0 0 [] }) ∧
  (∀ (s v : State) (k : Take) (cmd : Cmd) (p : Port), v = s.tick k.t → Accepted k 0x0802 v cmd → cmd.f 0x41 1 = 1 → cmd.f 0x40 1 = p.val →
    revokeBad v.clk (v.dev.takeCmd cmd) cmd = false →
    exec (.restore k) s = .next (v.ran cmd
      (((v.ready cmd).updPort p fun h => { h with fences := h.fences.filter fun f =>
        !(cmd.f 0x48 8 ≤ f.dpa && f.dpa + f.len ≤ cmd.f 0x48 8 + cmd.f 0x50 8) }).endCmd v.clk cmd.ref stOk 0 0 [])))

/-- A host's requests to its own partition, clear of fences and echo windows: MemWr stores its 64 bytes and clears the line's poison, MemWrPtl stores the bytes of its mask, and a read of a clean line without poison returns the bytes stored; every other byte of every port's memory stays (R271, R288, R289). -/
def Obligations.PartitionAccess : Prop :=
  ∀ (s v : State) (t : Nat) (p : Port) (op : MemOp) (dpa : Nat) (data : List Byte) (mask : BitVec 64), v = s.tick t → v.dev.portOn p = true →
    v.dev.start.phase = .service → v.dev.pwr.ps ≠ 2 → (v.dev.port p).fences = [] → (v.dev.port p).echo = none →
    (v.dev.shaper (3 + p.val)).peakPasses 64 = true → (v.dev.port p).queue < 1024 → dpa % 64 = 0 → dpa < v.dev.partLen p → dpa < Config.dpaEnd → Mem.wf (v.dev.port p).mem = true →
    data.length = (if op.isWrite then 64 else 0) →
    ∃ v', exec (.hostMemAccess t p op dpa data mask .clean) s = .next v' ∧ (∀ q, q ≠ p → v'.dev.port q = v.dev.port q) ∧ v'.dev.com = v.dev.com ∧
      (∀ a, Mem.rd (v'.dev.port p).mem a =
        if dpa ≤ a ∧ a < dpa + 64 ∧ (op = .memWr ∨ (op = .memWrPtl ∧ mask.getLsbD (a - dpa) = true)) then data.getD (a - dpa) 0
        else Mem.rd (v.dev.port p).mem a) ∧
      (op = .memWr → (v'.dev.port p).poison = (v.dev.port p).poison.filter fun l => l != dpa / 64) ∧ (op ≠ .memWr → (v'.dev.port p).poison = (v.dev.port p).poison) ∧
      (op = .memRd ∨ op = .memRdData → (v'.dev.port p).memResp =
        some (if dpa / 64 ∈ (v.dev.port p).poison then (true, zeroLine) else (false, Mem.rds (v.dev.port p).mem dpa 64)))

/-- R290: an access to an unmapped DPA, or to a commons slot the port may not read, completes at once; a read returns all-zero data marked poisoned, a write is dropped, both are counted, and an UNMAPPED record is added to the port's event log. -/
def Obligations.UnmappedAccess : Prop :=
  ∀ (s v : State) (t : Nat) (p : Port) (op : MemOp) (dpa : Nat) (data : List Byte) (mask : BitVec 64) (e : LineErr), v = s.tick t →
    v.dev.portOn p = true → v.dev.start.phase = .service → v.dev.pwr.ps ≠ 2 → (v.dev.port p).fences = [] → (v.dev.port p).echo = none →
    (v.dev.shaper (3 + p.val)).peakPasses 64 = true → (v.dev.port p).queue < 1024 → dpa % 64 = 0 → dpa < Config.dpaEnd → data.length = (if op.isWrite then 64 else 0) →
    v.dev.partLen p ≤ dpa → v.dev.partLen p ≤ Config.dpaCommons →
    dpa < Config.dpaCommons ∨ Config.dpaCommonsEnd ≤ dpa ∨ v.dev.com? ((dpa - Config.dpaCommons) / Config.comWindow) = none ∨
      (∃ x, v.dev.com? ((dpa - Config.dpaCommons) / Config.comWindow) = some x ∧ (x.readMask.getLsbD p.val = false ∨
        (let off := (dpa - Config.dpaCommons) % Config.comWindow
         4096 ≤ off ∧ ¬(Config.bufA ≤ off ∧ off < Config.bufA + x.len) ∧ ¬(Config.bufB ≤ off ∧ off < Config.bufB + x.len)))) →
    (v.dev.port p).events.length < 4096 →
    ∃ v' r, exec (.hostMemAccess t p op dpa data mask e) s = .next v' ∧ (op.isRead = true → (v'.dev.port p).memResp = some (true, zeroLine)) ∧
      (∀ q, (v'.dev.port q).mem = (v.dev.port q).mem) ∧ v'.dev.com = v.dev.com ∧
      NMap.getD v'.dev.cnt (128 * 72 + p.val) 0 = NMap.getD v.dev.cnt (128 * 72 + p.val) 0 + 1 ∧
      (v'.dev.port p).events = (v.dev.port p).events ++ [r] ∧ r.type = 1 ∧ r.port = p.val ∧ r.count = 1 ∧ r.dpa = dpa ∧ r.datum = v.clk.now

/-- The CXL side of a port: each supported mailbox opcode leaves a response under its own number, whose bytes are free values (log 5), and every other completes Unsupported; a decoder commits only for the range and the 1-way interleave R289 gives it, decoder 1 with the BI decoder enabled (R289, R410). -/
def Obligations.MailboxAndDecoders : Prop :=
  ∀ (s v : State) (t : Nat) (p : Port), v = s.tick t → v.dev.portOn p = true →
    exec (.identifyMemoryDevice t p) s = .next { v with dev := v.dev.updPort p fun h => { h with mbox := some ⟨0x4000, false, (List.range 0x45).map (Config.mailboxByte 0x4000)⟩ } } ∧
    exec (.getSupportedLogs t p) s = .next { v with dev := v.dev.updPort p fun h => { h with mbox := some ⟨0x0400, false, (List.range 28).map (Config.mailboxByte 0x0400)⟩ } } ∧
    (∀ off len, exec (.getLog t p off len) s = .next { v with dev := v.dev.updPort p fun h => { h with mbox := some ⟨0x0401, false, (List.range len).map fun i => Config.mailboxByte 0x0401 (off + i)⟩ } }) ∧
    exec (.getHealthInfo t p) s = .next { v with dev := v.dev.updPort p fun h => { h with mbox := some ⟨0x4200, false, (List.range 18).map (Config.mailboxByte 0x4200)⟩ } } ∧
    (∀ op, op ∉ [0x4000, 0x0400, 0x0401, 0x4200] →
      exec (.mailboxUnsupported t p op) s = .next { v with dev := v.dev.updPort p fun h => { h with mbox := some ⟨op, true, []⟩ } }) ∧
    (∀ base size ways, exec (.hdmDecoderCommit t p 0 base size ways) s = .next { v with dev := v.dev.updPort p fun h => { h with
      dec0 := if base = 0 ∧ size = h.part.gib * 2 ^ 30 ∧ ways = 1 then 1 else 2 } }) ∧
    (∀ base size ways, exec (.hdmDecoderCommit t p 1 base size ways) s = .next { v with dev := v.dev.updPort p fun h => { h with
      dec1 := if base = 0x8000000000 ∧ size = 0x4000000000 ∧ ways = 1 ∧ h.biEnabled = true then 1 else 2 } })

/-! ### DRAM tiers -/

/-- mem.tier_alloc of a TIER_PIN region takes its frames, returns the region's ID and ends ST_OK; a flash home takes its extents instead; without room either ends ST_BUSY. mem.tier_free returns the frames and extents, drops the region's pool frames and ends ST_OK; dirty frames of a flash home are written back first, and the command waits for them (R264, R284, R323). -/
def Obligations.TierAllocAndFree : Prop :=
  (∀ (s v : State) (k : Take) (cmd : Cmd) (id n ext : Nat) (tier : Tier) (p : Protect) (mask : BitVec 20) (r : Dev), v = s.tick k.t → Accepted k 0x0803 v cmd →
    r = v.ready cmd → memTierAllocBad v.clk (v.dev.takeCmd cmd) cmd = false → id = v.dev.mem.nextRegion → n = framesOf (cmd.f 0x48 8) →
    mask = BitVec.ofNat 20 (cmd.f 0x44 4) → tierOf (cmd.f 0x40 1) = some tier → protectOf (cmd.f 0x41 1) = some p → ext = ceilDiv (cmd.f 0x48 8) Config.extentBytes →
    (tier = .pin → r.canAlloc p mask n = true →
      exec (.memTierAlloc k) s = .next (v.ran cmd
        ((({ r.alloc id p mask n .pin 6 with mem := { (r.alloc id p mask n .pin 6).mem with nextRegion := id + 1 } }).result cmd 0 (leBytes 8 id)).endCmd v.clk
          cmd.ref stOk 0 0 []))) ∧
    (tier = .pin → r.canAlloc p mask n = false → exec (.memTierAlloc k) s = .next (v.ran cmd (r.refuse cmd.ref stBusy))) ∧
    (tier ≠ .pin → v.dev.flash.readOnly = false → v.dev.flash.format = none → ext ≤ v.dev.extentRoom →
      ∃ d : Dev, exec (.memTierAlloc k) s = .next (v.ran cmd
          ((({ d with mem := { d.mem with nextRegion := id + 1 } }).result cmd 0 (leBytes 8 id)).endCmd v.clk cmd.ref stOk 0 0 [])) ∧
        d = ({ r with mem := { r.mem with regions := (NMap.put r.mem.regions id
          ⟨4096 * n, tier, p, mask, 6, [], [], [], [], .protectedSt, [], []⟩) } }).addExtents ext (regionKey id)) ∧
    (tier ≠ .pin → v.dev.flash.readOnly = false → v.dev.extentRoom < ext → exec (.memTierAlloc k) s = .next (v.ran cmd (r.refuse cmd.ref stBusy)))) ∧
  (∀ (s v : State) (k : Take) (cmd : Cmd) (id : Nat) (x : Region) (r d : Dev), v = s.tick k.t → Accepted k 0x0804 v cmd → r = v.ready cmd → id = cmd.f 0x40 8 →
    v.dev.tierRegion id = some x → (∀ y ∈ v.dev.mem.freeing, y.1 ≠ id) → d = (r.free id).freeExtents (regionKey id) →
    (x.tier = .pin ∨ v.dev.flash.readOnly = true ∨ (∀ f ∈ v.dev.mem.pool, f.key = regionKey id → f.dirty = false ∧ f.writing = false) →
      exec (.memTierFree k) s = .next (v.ran cmd
        (({ d with mem := { d.mem with pool := d.mem.pool.filter fun f => f.key != regionKey id, freeing := d.mem.freeing.filter fun y => y.1 != id } }).endCmd v.clk
          cmd.ref stOk 0 0 []))) ∧
    (x.tier ≠ .pin → v.dev.flash.readOnly = false → (∃ f ∈ v.dev.mem.pool, f.key = regionKey id ∧ (f.dirty = true ∨ f.writing = true)) →
      exec (.memTierFree k) s = .next (v.ran cmd { r with mem := { r.mem with freeing := r.mem.freeing ++ [(id, cmd.ref)] } })))

/-- A stack whose buffer die loses its link fails, and near-bank jobs go on without it: all its frames count as retired, its pool frames are gone, and its near-bank queue and bursts are empty (R273, R277). A stack that does not serve is left as it is. The scrub counts each corrected line of a serving stack, sends an uncorrectable one to its frame's error rule, retires the frames under a bank that is reported failed, and moves on; clean lines change nothing but the place reached (R270, R272). Near-bank jobs without lines left then end. The second uncorrectable error of a frame within 24 h retires it: it joins the list of retired frames and no pool frame is left there (R272). -/
def Obligations.StackErrors : Prop :=
  ((∀ (s v : State) (t : Nat) (st : StackNo), v = s.tick t →
    (v.dev.mem.stk[st].serving = true → exec (.stackLinkLoss t st) s = .next { v with dev := (v.dev.failStack v.clk st.val).sweepJobs v.clk }) ∧
    (v.dev.mem.stk[st].serving = false → exec (.stackLinkLoss t st) s = .next v)) ∧
  (∀ (d e : Dev) (c : Clock) (st : StackNo), d.mem.stk[st].state ≠ .failed → e = d.failStack c st.val →
    e.mem.stk[st].state = .failed ∧ e.mem.stk[st].retired = 9437184 ∧ (∀ f ∈ e.mem.pool, f.no / 9437184 ≠ st.val) ∧ e.nb.queues[st] = [] ∧ e.nb.held[st] = [] ∧
      (∀ j ∈ e.nb.jobs, ∀ l ∈ j.todo, l.stack ≠ st.val) ∧
      (∀ i : StackNo, i ≠ st → e.mem.stk[i].state = d.mem.stk[i].state ∧ e.mem.stk[i].retired = d.mem.stk[i].retired))) ∧
  (∀ (s v : State) (t : Nat) (st : StackNo) (line : Nat) (b : Fin 512), v = s.tick t → v.dev.mem.stk[st].serving = true →
    let moved := fun (d : Dev) => { d with mem := { d.mem with stk := d.mem.stk.set st.val { d.mem.stk[st] with scrubAt := max d.mem.stk[st].scrubAt (line + 1) % 603979776 } } }
    exec (.scrub t st ⟨[(line, .clean)], []⟩) s = .next { v with dev := (moved v.dev).sweepJobs v.clk } ∧
    exec (.scrub t st ⟨[(line, .corrected)], []⟩) s = .next { v with dev := (moved (v.dev.count 58 st.val 1)).sweepJobs v.clk } ∧
    (∃ d : Dev, exec (.scrub t st ⟨[(line, .uncorrectable)], []⟩) s = .next { v with dev := (moved d).sweepJobs v.clk } ∧
      (st.val, line / 64, v.clk.now) ∈ d.mem.errs ∧
      ((∀ e ∈ v.dev.mem.errs, e.1 = st.val → e.2.1 = line / 64 → e.2.2 + 86400000000000 ≤ v.clk.now) → d.mem.retired = v.dev.mem.retired)) ∧
    (∃ d : Dev, exec (.scrub t st ⟨[], [b]⟩) s = .next { v with dev := d.sweepJobs v.clk } ∧ ∀ f ∈ framesOfBank b.val, (st.val, f) ∈ d.mem.retired)) ∧
  (∀ (d : Dev) (c : Clock) (st : StackNo) (frame x : Nat), frame < 9437184 → (st.val, frame, x) ∈ d.mem.errs → c.now < x + 86400000000000 →
    (st.val, frame) ∉ d.mem.retired → d.mem.stk[st].retired < 1179648 →
    let e := d.frameError c st.val frame
    (st.val, frame) ∈ e.mem.retired ∧ e.mem.stk[st].retired = d.mem.stk[st].retired + 1 ∧ ∀ f ∈ e.mem.pool, f.no ≠ st.val * 9437184 + frame)

/-- A line of the rebuild that goes next is read and written again; the last of a frame's 64 lines ends it: the member is bad no more and lies where it was rebuilt, and a region with nothing bad left is PROTECTED (R273 to R276). No rebuild starts on a held stack. A page that a fill brings can be read from its frame, which it may leave again; a write that waited for it makes the frame dirty and goes back to flash. A page that reads as uncorrectable gives its frame up, unless a write waits for it. Requests without a frame then try again (R281 to R283, R322). -/
def Obligations.RebuildAndPool : Prop :=
  (∀ (s v : State) (t : Nat) (b : Rebuild) (r : Region), v = s.tick t → v.dev.nextRebuild = some b → NMap.get? v.dev.mem.regions b.region = some r →
    (v.dev.heldBit 1 b.dest = true → b.line = 0 → exec (.rebuildLine t true) s = .next v) ∧
    (v.dev.heldBit 1 b.dest = false ∨ b.line ≠ 0 → b.line + 1 < 64 →
      exec (.rebuildLine t true) s = .next { v with dev := { v.dev.count 62 0 64 with mem := { v.dev.mem with
        rebuild := updIf (fun x => x = b) (fun x => { x with line := x.line + 1 }) v.dev.mem.rebuild } } }) ∧
    (v.dev.heldBit 1 b.dest = false ∨ b.line ≠ 0 → 64 ≤ b.line + 1 → r.prot = .rebuilding → (∀ x ∈ v.dev.mem.rebuild, x.region = b.region → x = b) →
      r.bad = [(b.frame, b.member)] →
      ∃ regs, exec (.rebuildLine t true) s = .next { v with dev := { v.dev.count 62 0 64 with mem := { v.dev.mem with regions := regs, rebuild := v.dev.mem.rebuild.filter fun x => x != b } } } ∧
        (∀ i, i ≠ b.region → NMap.get? regs i = NMap.get? v.dev.mem.regions i) ∧
        let moved : List Moved := ⟨b.frame, b.member, b.dest, b.destFrame⟩ :: r.moved.filter fun x => !(x.unit = b.frame && x.member = b.member)
        NMap.get? regs b.region = some { r with bad := [], prot := .protectedSt, moved := moved })) ∧
  (∀ (s v : State) (t key page : Nat) (w : Bool) (d : Dev), v = s.tick t → (key, page) ∈ v.dev.mem.fills →
    w = (v.dev.mem.pool.any fun f => f.key = key && f.page = page && f.writing) →
    (w = true ∨ v.dev.pageBad key page = false →
      (let pool := updIf (fun f => f.key = key && f.page = page && !f.spill)
        (fun f => { f with busy := false, dirty := f.dirty || f.writing, writing := false, last := v.clk.now / 1000 }) v.dev.mem.pool
       d = ({ v.dev with mem := { v.dev.mem with fills := v.dev.mem.fills.filter fun x => x != (key, page), pool := pool } } : Dev).retryPool v.clk) →
      exec (.poolFillComplete t key page) s = .next { v with dev := if w = true then d.writeBack key page else d }) ∧
    (w = false → v.dev.pageBad key page = true →
      let pool := v.dev.mem.pool.filter fun f => !(f.key = key && f.page = page && f.busy && !f.spill)
      let d : Dev := { v.dev with mem := { v.dev.mem with fills := v.dev.mem.fills.filter fun x => x != (key, page), pool := pool } }
      exec (.poolFillComplete t key page) s = .next { v with dev := d.retryPool v.clk }))

/-! ### Flash -/

/-- flash.format with nothing on flash starts erasing every good block of every working channel and goes on running; flash.discard is a hint that ends ST_OK, and which whole units it unmaps and whether it drops clean frames is open to it; flash.health writes the node's and each channel's record and ends with count 32 (R341, R346, R347). No journal channel is under test; while one is, each command waits (R528). A format is refused while flash is in use or another flash command runs (R346). -/
def Obligations.FlashCommands : Prop :=
  (∀ (s v : State) (k : Take) (cmd : Cmd), v = s.tick k.t → Accepted k 0x0900 v cmd → v.dev.flash.noFlash = false → v.dev.flashInUse = false →
    v.dev.flash.format = none → (v.ready cmd).flashCmdBefore cmd.ref = false → v.dev.journalTested = false →
    ∃ d : Dev, exec (.flashFormat k) s = .next (v.ran cmd d) ∧ d.flash.format = some cmd.ref ∧ d.flash.tail = [] ∧ d.flash.inflight = [] ∧
      (∀ c : Chan, (v.dev.flash.chans[c].serving = true →
          d.flash.chans[c].erases = (v.dev.flash.chans[c].blocks.filter fun b => b.mode != .retired).map (·.no)) ∧
        (v.dev.flash.chans[c].serving = false → d.flash.chans[c] = v.dev.flash.chans[c])) ∧
      d.flash.formatTotal = d.flash.formatLeft ∧ d = { v.ready cmd with flash := d.flash }) ∧
  (∀ (s v : State) (k : Take) (cmd : Cmd), v = s.tick k.t → Accepted k 0x0901 v cmd → flashDiscardBad v.clk (v.dev.takeCmd cmd) cmd = false →
    v.dev.flash.format = none → v.dev.journalTested = false →
    ∃ (d : Dev) (b : Bool) (us : List Nat), exec (.flashDiscard k) s = .next (v.ran cmd (d.endCmd v.clk cmd.ref stOk 0 0 [])) ∧
      (∀ u ∈ us, cmd.f 0x48 8 ≤ 16384 * u ∧ 16384 * u + 16384 ≤ cmd.f 0x48 8 + cmd.f 0x50 8) ∧
      d = (if v.dev.flash.readOnly then v.ready cmd
           else (v.ready cmd).fresh.2.unmapRange (regionKey (cmd.f 0x40 8)) (cmd.f 0x48 8) (cmd.f 0x50 8) b us)) ∧
  (∀ (s v : State) (k : Take) (cmd : Cmd), v = s.tick k.t → Accepted k 0x0902 v cmd → 2112 ≤ cmd.resultLen → v.dev.journalTested = false →
    exec (.flashHealth k) s = .next (v.ran cmd (((v.ready cmd).result cmd 0 (flashHealthBytes (v.ready cmd))).endCmd v.clk cmd.ref stOk 0 32 []))) ∧
  (∀ (s v : State) (k : Take) (cmd : Cmd), v = s.tick k.t → v.dev.journalTested = true →
    (Accepted k 0x0900 v cmd → v.dev.flash.noFlash = false → v.dev.flashInUse = false → v.dev.flash.format = none →
      (v.ready cmd).flashCmdBefore cmd.ref = false → exec (.flashFormat k) s = .next (v.ran cmd (v.ready cmd))) ∧
    (Accepted k 0x0901 v cmd → flashDiscardBad v.clk (v.dev.takeCmd cmd) cmd = false → v.dev.flash.format = none →
      exec (.flashDiscard k) s = .next (v.ran cmd (v.ready cmd))) ∧
    (Accepted k 0x0902 v cmd → 2112 ≤ cmd.resultLen → exec (.flashHealth k) s = .next (v.ran cmd (v.ready cmd)))) ∧
  (∀ (s v : State) (k : Take) (cmd : Cmd), v = s.tick k.t → Accepted k 0x0900 v cmd → v.dev.flash.noFlash = false →
    v.dev.flashInUse = true ∨ v.dev.flash.format ≠ none ∨ (v.ready cmd).flashCmdBefore cmd.ref = true →
    exec (.flashFormat k) s = .next (v.ran cmd ((v.ready cmd).refuse cmd.ref stBusy)))

/-- A page read that ends without a failing codeword leaves the unit readable and is counted; one with failing codewords makes the unit uncorrectable, if its page is still the unit's; more than one retry, or heavy correction, queues its block for refresh (R322, R337). Its block is not waiting to be erased. A traverse's read with a failing codeword abandons the traverse (R73). A program of a unit that an extent holds, when it ends well, puts its MAP record into the journal's tail, its block one program fuller; an erase that ends well frees its block, counts one erase more, and puts an ERASED record there (R325, R335). -/
def Obligations.FlashMediaEnds : Prop :=
  ((∀ (s v : State) (t : Nat) (c : Chan) (r : FRead) (n : Nat) (soft heavy : Bool) (bad : List (Fin 4)), v = s.tick t → n ≤ 8 → (soft = true → n = 8) →
    v.dev.flash.chans[c].reads = [r] → r.cls ≠ 1 ∨ bad = [] → v.dev.flash.chans[c].jobs = [] →
    ∃ v' y, exec (.flashReadComplete t c r.id n soft heavy bad) s = .next v' ∧ v'.dev.flash = { v.dev.flash with chans := v.dev.flash.chans.set c.val y } ∧
      y.reads = [] ∧ y.map = v.dev.flash.chans[c].map ∧ y.blocks = v.dev.flash.chans[c].blocks ∧
      (bad = [] → y.badUnits = v.dev.flash.chans[c].badUnits) ∧
      (bad ≠ [] → (NMap.get? v.dev.flash.chans[c].map r.unit).map (·.block) = some r.block → r.unit ∈ y.badUnits) ∧
      (1 < n ∨ heavy = true → r.block ∈ y.refresh) ∧ (n ≤ 1 → heavy = false → y.refresh = v.dev.flash.chans[c].refresh) ∧
      v' = { v with dev := { v.dev with flash := v'.dev.flash, cnt := v'.dev.cnt } }) ∧
  (∀ (s v : State) (t : Nat) (c : Chan) (r : FRead) (n : Nat) (soft heavy : Bool) (bad : List (Fin 4)) (tr : Trav), v = s.tick t → n ≤ 8 → (soft = true → n = 8) →
    v.dev.flash.chans[c].reads = [r] → r.cls = 1 → bad ≠ [] → (v.dev.scan.travs.find? fun x => x.id = r.owner) = some tr →
    ∃ d : Dev, exec (.flashReadComplete t c r.id n soft heavy bad) s = .next { v with dev := (d.abandonTrav tr).tryErase c.val r.block } ∧
      d = { v.dev with flash := d.flash, cnt := d.cnt })) ∧
  ((∀ (s v : State) (t : Nat) (c : Chan) (p : FProg), v = s.tick t → v.dev.service = true → v.dev.flash.pf = .idle →
    (v.dev.flash.chans[c].progs.find? fun q => q.wseq = p.wseq) = some p → p.src = none → (v.dev.flash.ownerOf c.val p.unit).isSome = true →
    exec (.flashProgramComplete t c p.wseq true) s =
      .next { v with dev := ((v.dev.updChan c.val fun x => { x with
        progs := x.progs.filter fun q => q.wseq != p.wseq, blocks := updIf (fun b => b.no = p.block) (fun b => { b with used := b.used + 1 }) x.blocks }).count 84
          c.val 1).journal v.clk (.map c.val p.unit p.block p.page p.wseq p.whole) }) ∧
  (∀ (s v : State) (t : Nat) (c : Chan) (b : FBlock), v = s.tick t → v.dev.service = true → v.dev.flash.pf = .idle → v.dev.flash.format = none →
    v.dev.flash.fixedClass = false → v.dev.flash.chans[c].erases = [b.no] → v.dev.flash.chans[c].blocks = [b] → v.dev.flash.chans[c].jobs = [] →
    v.dev.flash.chans[c].queue = [] →
    ∃ v' y, exec (.flashEraseComplete t c b.no true) s = .next v' ∧ v'.dev.flash.chans = v.dev.flash.chans.set c.val y ∧ y.erases = [] ∧
      y.blocks = [{ b with mode := .free, units := [], used := 0, erases := b.erases + 1 }] ∧
      v'.dev.flash.tail = v.dev.flash.tail ++ [(.erased c.val b.no, v.clk.now)] ∧
      v' = { v with dev := { v.dev with flash := { v.dev.flash with chans := v'.dev.flash.chans, tail := v'.dev.flash.tail }, cnt := v'.dev.cnt } }))

/-- A due tail goes out: its records, oldest first up to the limit, are in flight to channels 0 and 16, and the others wait; nothing becomes durable until the second of the two programs has ended (R325, R326). A block that is being emptied: each valid unit's copy is read and programmed elsewhere, and with none, and none on its way into the block, the GC record goes out at once (R335). -/
def Obligations.FlashJournal : Prop :=
  ((∀ (s v : State) (t : Nat), v = s.tick t → v.dev.service = true → v.dev.flash.inflight = [] → v.dev.tailDue v.clk = true → v.dev.journalWorks = true →
    ∃ v', exec (.journalTailProgram t) s = .next v' ∧ v'.dev.flash.inflight = (tailFit v.dev.tailLimit v.dev.flash.tail).map (·.1) ∧
      v'.dev.flash.inflight ++ v'.dev.flash.tail.map (·.1) = v.dev.flash.tail.map (·.1) ∧ v'.dev.flash.durable = v.dev.flash.durable ∧
      v'.dev.flash.firstDone = false) ∧
  (∀ (s v : State) (t : Nat), v = s.tick t → v.dev.service = true → v.dev.flash.inflight ≠ [] →
    exec (.journalDurable t false) s = .next { v with dev := { v.dev with flash := { v.dev.flash with firstDone := true } } } ∧
    (v.dev.flash.firstDone = true → exec (.journalDurable t true) s = .next { v with dev := v.dev.recsDurable v.clk })) ∧
  (∀ (d : Dev) (c : Clock) (ch : Chan) (unit block page wseq : Nat) (r : JRec), r = .map ch.val unit block page wseq true → d.flash.inflight = [r] → d.leaves = [] →
    (d.flash.ownerOf ch.val unit).isSome = true → d.flash.chans[ch].jobs = [] → ((NMap.get? d.flash.chans[ch].map unit).map (·.wseq)).getD 0 < wseq →
    (∃ b ∈ d.flash.chans[ch].blocks, b.no = block) → d.mem.freeing = [] → d.mdl = Models.reset →
    let e := d.recsDurable c
    NMap.get? e.flash.chans[ch].map unit = some ⟨block, page, wseq⟩ ∧ unit ∉ e.flash.chans[ch].badUnits ∧ r ∈ e.flash.durable ∧
      (∀ x ∈ e.flash.durable, x ∈ d.flash.durable ∨ x = r) ∧ e.flash.inflight = [])) ∧
  (∀ (d : Dev) (c : Clock) (ch : Chan) (kind : JobKind) (b : FBlock), b.units = [] → d.flash.pendingIn ch.val b.no = [] →
    (∀ j ∈ d.flash.chans[ch].jobs, j.src ≠ b.no) →
    let e := d.startJob c ch.val kind b
    e.flash.tail = d.flash.tail ++ [(.gc ch.val b.no [], c.now)] ∧
      e.flash.chans[ch].jobs = d.flash.chans[ch].jobs ++ [⟨kind, b.no, [], [], true, false⟩] ∧ b.no ∉ e.flash.chans[ch].refresh)

/-- Background work on a channel that may do it: a changed map segment is written and named by a SEGMENT record; collection starts on the queued refresh or, with free blocks short, on the block with the fewest valid units; folding empties a one-bit block when the buffer is more than half used or the channel is otherwise idle; the weekly read of a block reads its programmed pages, those of valid units as reads of their own, and queues a worn one for refresh (R327, R331, R333, R337). An extent beyond its channel's capacity moves to the channel with the most room, which reserves it, and an EXTENT record goes to the tail; a failing target takes its units and blocks with it, and the last one its channel; a new arbitration period takes the four weights, BACKGROUND less a quarter for each governor notch (R338, R340, R344, R345). -/
def Obligations.FlashBackgroundAndShares : Prop :=
  ((∀ (s v : State) (t : Nat) (c : Chan) (seg : Nat), v = s.tick t → (v.dev.chan c.val).serving = true → v.dev.chanHeld c.val = false → v.dev.flash.pf = .idle →
    v.dev.flash.readOnly = false → (∃ x ∈ (v.dev.chan c.val).dirtySegs, x.1 = seg) →
    exec (.segmentCheckpoint t c seg) s =
      .next { v with dev := ((v.dev.updChan c.val fun x => { x with dirtySegs := x.dirtySegs.filter fun y => y.1 != seg }).count 84 c.val 256).journal v.clk (.segment c.val seg) }) ∧
  (∀ (s v : State) (t : Nat) (c : Chan) (b : FBlock), v = s.tick t → v.dev.backRuns c.val = true →
    (∀ n, (v.dev.chan c.val).refresh = [n] → (v.dev.chan c.val).blocks.find? (fun x => x.no = n && (x.mode = .dense || x.mode = .oneBit) && !((v.dev.chan c.val).emptying x)) = some b →
      exec (.collectionStart t c) s = .next { v with dev := v.dev.startJob v.clk c.val (refreshKind v.clk.now b) b }) ∧
    ((v.dev.chan c.val).refresh = [] → (v.dev.chan c.val).freeBlocks < 2 * (v.dev.chan c.val).collectReserve → (v.dev.chan c.val).collectPick = some b →
      exec (.collectionStart t c) s = .next { v with dev := v.dev.startJob v.clk c.val .collect b })) ∧
  (∀ (s v : State) (t : Nat) (c : Chan) (b : FBlock), v = s.tick t → v.dev.backRuns c.val = true → (v.dev.chan c.val).foreground = false ∨
      (v.dev.chan c.val).bufferLimit v.dev.flash.fixedClass < 2 * ((v.dev.chan c.val).blocks.filter fun b => b.mode = .oneBit && b.used > 0).length →
    ((v.dev.chan c.val).blocks.find? fun x => x.mode = .oneBit && x.used > 0 && !((v.dev.chan c.val).emptying x)) = some b →
    exec (.fold t c) s = .next { v with dev := v.dev.startJob v.clk c.val .foldJob b }) ∧
  (∀ (s v : State) (t : Nat) (c : Chan) (b : FBlock) (heavy : Bool), v = s.tick t → v.dev.backReads c.val = true → ((v.dev.chan c.val).blocks.find? fun x => x.no = b.no) = some b → b.mode ≠ .retired → b.no ∉ (v.dev.chan c.val).refresh →
    exec (.patrolRead t c b.no heavy) s =
      .next { v with dev := b.units.foldl (fun y u => y.issueRead c.val u 3 0) ((v.dev.updChan c.val fun x => { x with
        blocks := updIf (fun y => y.no = b.no) (fun y => { y with patrol := v.clk.now }) x.blocks, refresh := if heavy then x.refresh ++ [b.no] else x.refresh }).count
          81 (4 * c.val + 3) (b.used - b.units.length)) })) ∧
  ((∀ (s v : State) (t : Nat) (c : Chan) (e : Nat × Extent), v = s.tick t → v.dev.backRuns c.val = true → (v.dev.chan c.val).user < (v.dev.chan c.val).alloc →
    v.dev.flash.lastExtent c.val = some e → v.dev.flash.migrating e.1 = false → Config.extentBytes ≤ (v.dev.chan v.dev.bestChan).room →
    exec (.extentMigration t c) s =
      .next { v with dev := (v.dev.updChan v.dev.bestChan fun y => { y with alloc := y.alloc + Config.extentBytes }).journal v.clk (.extent e.1 v.dev.bestChan) }) ∧
  (∀ (s v : State) (t : Nat) (c : Chan) (target : Nat) (b : FBlock), v = s.tick t → v.dev.flash.chans[c].serving = true → b ∈ v.dev.flash.chans[c].blocks →
    b.target = target → b.mode ≠ .retired → v.dev.flash.chans[c].progs = [] → v.dev.flash.chans[c].queue = [] → v.dev.flash.format = none →
    (v.dev.flash.chans[c].targets = 1 → ∃ v', exec (.targetFail t c target) s = .next v' ∧ v'.dev.flash.chans[c].state = .failed ∧
      (c.val = 0 ∨ c.val = 16 → v'.dev.flash.readOnly = true)) ∧
    (1 < v.dev.flash.chans[c].targets → ∃ v' y, exec (.targetFail t c target) s = .next v' ∧ v'.dev.flash = { v.dev.flash with chans := v.dev.flash.chans.set c.val y } ∧
      y.targets = v.dev.flash.chans[c].targets - 1 ∧ y.blocks = (v.dev.flash.chans[c].blocks.filter fun x => x.target != target) ∧
      (∀ x ∈ v.dev.flash.chans[c].blocks, x.target = target → ∀ u ∈ x.units, u ∈ y.badUnits) ∧ y.state = v.dev.flash.chans[c].state ∧
      v'.dev.leaves = v.dev.leaves)) ∧
  (∀ (s v : State) (t : Nat), v = s.tick t → (∀ c : Chan, v.dev.flash.chans[c].queue = [] ∧ v.dev.flash.chans[c].jobs = []) →
    exec (.arbitrationPeriod t) s = .next { v with dev := { v.dev with flash := { v.dev.flash with
      active := [4 * weightOf v.dev.flash.wChain, 4 * weightOf v.dev.flash.wTrav, 4 * weightOf v.dev.flash.wStream,
        (4 - v.dev.pwr.bgNotch) * weightOf v.dev.flash.wBack] } } }))

/-! ### Search -/

/-- A search.batch that the gate lets in makes one query for each descriptor, writes their headers, reports itself running and starts each query in turn; one whose generation or search space is not held yet waits and changes nothing else (R28 to R31, R371). -/
def Obligations.SearchBatchStarts : Prop :=
  ∀ (s v : State) (k : Take) (cmd : Cmd) (g : PlatGen) (qs : List Desc) (r : Dev), v = s.tick k.t → Accepted k 0x0300 v cmd → r = v.ready cmd →
    AreasOk v cmd [(cmd.f 0x48 8, cmd.f 0x50 8)] → searchBatchBad v.clk (v.dev.takeCmd cmd) cmd = false → v.dev.pwr.ps = 0 → vgetD v.dev.pwr.hold 0 0 = 0 →
    v.dev.genNow v.clk = some g → qs = r.batch cmd →
    (r.knowsGen (r.station v.clk) = true → (∀ q ∈ qs, (r.targetSpace g q.parcel).isSome = true) →
      (∀ d1 : Dev, r.gate v.clk cmd (natSum (qs.map (r.queryCharge g))) qs.length (cmd.deadline != 0 && cmd.deadline ≤ v.clk.now) = .inr d1 →
        exec (.searchBatch k) s = .next (v.ran cmd ((qs.zipIdx).foldl (fun (x : Dev) e => x.startQuery v.clk (d1.root.nextCtx + e.2) e.1)
          ((d1.makeQueries v.clk cmd g (d1.deadlineOf v.clk cmd) (qs.zip (recOffsets qs)) 0).showRunning cmd.ref)))) ∧
      ∀ st : Nat, r.gate v.clk cmd (natSum (qs.map (r.queryCharge g))) qs.length (cmd.deadline != 0 && cmd.deadline ≤ v.clk.now) = .inl st →
        exec (.searchBatch k) s = .next (v.ran cmd (r.notAdmitted cmd st))) ∧
    (r.knowsGen (r.station v.clk) = false ∨ (∃ q ∈ qs, r.targetSpace g q.parcel = none) → r.holdsTime v.clk = true →
      exec (.searchBatch k) s = .next (v.ran cmd (({ r with root := { r.root with waiting := r.root.waiting ++ [cmd.ref] } }).count 101 0 1)))

/-- Only entries that no fragment can still precede are certified: each orders before every horizon a fragment has returned, and after no fragment that has neither completed nor delivered a later entry; the certified entries are a prefix of the merged ones, and no ID stands twice among them (R38, R121). -/
def Obligations.CertifiedEntriesStand : Prop :=
  ∀ q : Query, q.certified <+: q.merged ∧ (q.certified.map (·.id)).Nodup ∧
    ∀ e ∈ q.certified, ∀ f ∈ q.frags,
      (∀ h, f.horizon = some h → h.before e = false) ∧
        (f.returned = none → ∃ x, f.taken.getLast? = some x ∧ e.before x = true)

/-- What the root does with what comes of a running attempt at a fragment before DEADLINE. A list, or a part of one, joins the attempt's entries and what it certifies is written; a failure, an expiry or ST_STALE_PLAT ends the attempt; at T_late the node's lateness count rises, and of the newest attempt another starts (R38, R393, R395, R398). At its DEADLINE a query ends with its certified count: ST_SHORT with DEGRADED if a fragment is lost, else ST_DEADLINE; what its run of a model would have given is not waited for (R39, R140, R396). At the start of a station whose number is a multiple of 16, or of the first one that occurs after such a number that does not, every lateness count halves, once (R398). -/
def Obligations.QueryAnswersAndDeadline : Prop :=
  (∀ (s v : State) (t : Nat) (key : FragKey) (q : Query) (f : QFrag) (a : Attempt), v = s.tick t → v.dev.attempt? key = some (q, f, a) → q.done = false →
    v.clk.now < q.deadline →
    (∀ r : FragRes, r.key = key → r.complete = false →
      exec (.fragmentResult t r) s = .next { v with dev := ((v.dev.updQuery key.ctx fun x => x.updFrag key.parcel fun y => y.updAttempt a.no fun _ =>
        { a with items := a.items ++ r.items, nRej := r.nRej, probes := r.probes, widened := r.widened, horizon := none, complete := false, state := .running }).updQuery
          key.ctx fun x => x.updFrag key.parcel QFrag.followed).queryStep v.clk key.ctx }) ∧
    exec (.fragmentFailedAnswer t key true) s = .next { v with dev := v.dev.attemptFails v.clk key .expired false } ∧
    exec (.fragmentFailedAnswer t key false) s = .next { v with dev := (v.dev.late a.node).attemptFails v.clk key .failed true } ∧
    (∀ st : StaleAns, st.case1 = true → (v.dev.genNo st.gen).isSome = true →
      exec (.stalePlatAnswer t key st) s = .next { v with dev := (v.dev.updQuery key.ctx fun x => x.updFrag key.parcel fun y =>
        { y with frag := { y.frag with gen := st.gen }, want := none }).attemptFails v.clk key .failed true }) ∧
    (a.late = false → v.dev.tLate a.sentAt q.deadline ≤ v.clk.now →
      let d := ((v.dev.updQuery key.ctx fun x => x.updFrag key.parcel fun y => y.updAttempt a.no fun b => { b with late := true }).late a.node).count 106 0 1
      exec (.tLateExpiry t key none) s =
        .next { v with dev := if a.no + 1 = f.attempts.length ∧ f.returned = none then (d.reissue v.clk key.ctx key.parcel).queryStep v.clk key.ctx else d })) ∧
  ((∀ (s v : State) (t ctx : Nat) (q : Query), v = s.tick t → v.dev.query? ctx = some q → q.done = false → q.deadline ≤ v.clk.now →
    exec (.queryDeadline t ctx) s =
      .next { v with dev := (({ v.dev with mdl := { v.dev.mdl with runs := v.dev.mdl.runs.filter fun r => r.ctx != some ctx } } : Dev).queryEnd v.clk ctx
        (if q.frags.any (·.lost) then stShort else stDeadline)) }) ∧
  (∀ (s v : State) (t : Nat), v = s.tick t → v.dev.timeRuns = true →
    occurring v.dev.plat.gens (v.dev.station v.clk / 16 * 16) = v.dev.station v.clk → v.dev.root.halved ≠ v.dev.station v.clk →
    ∃ v', exec (.latenessHalving t) s = .next v' ∧ (∀ n : Nat, v'.dev.lateness n = v.dev.lateness n / 2) ∧
      exec (.latenessHalving t) v' = .next (v'.tick t)))

/-- A fragment whose generation is not held waits and the generation is asked for; one this node serves joins the fragments held, where its benchmark must settle; then lists are taken in coarse order and probed. When the wait of a held one ends its probes enter the queues, and at DEADLINE a fragment is answered as expired (R35, R70, R101, R140, R148, R381). To a node in PS2 the fabric carries none (R471). When the window of a list's oldest probes has run out they are due: no probe enters or leaves, and only probes of that place, leaf, list and version that have waited the leaf's window change (R68). -/
def Obligations.FragmentsAndWindows : Prop :=
  ((∀ (s v : State) (t : Nat) (fs : List Frag), v = s.tick t → v.dev.carries = false → exec (.fragmentArrival t fs) s = .next v) ∧
  (∀ (s v : State) (t : Nat) (f : Frag), v = s.tick t → v.dev.carries = true →
    (v.dev.routeWork f.gen f.bench f.key.parcel f.rank f.fwd = .wait →
      exec (.fragmentArrival t [f]) s =
        .next { v with dev := (({ v.dev with plat := { v.dev.plat with waitFrags := v.dev.plat.waitFrags ++ [f] } } : Dev).wantGen f.gen) }) ∧
    (∀ l : Leaf, v.dev.routeWork f.gen f.bench f.key.parcel f.rank f.fwd = .serve → v.dev.leaf f.key.parcel = some l → v.dev.frag? f.key = none →
      v.clk.now < f.deadline → l.serves f.bench = true → v.dev.pwr.ps = 0 → vgetD v.dev.pwr.hold 0 0 = 0 → fieldN f.scale 12 4 = tableTag f.tables f.scale →
      (l.loadedAt f.bench = true → l.planGen = scalePlanGen f.scale) →
      exec (.fragmentArrival t [f]) s = .next { v with dev := (({ v.dev with scan := { v.dev.scan with
        frags := v.dev.scan.frags ++ [⟨f, .unsettled, [], 0, [], 0, [], 0, 0, [], false, [], 0, false, false⟩] } } : Dev).count 23 0 (boolNat !(l.reached f.bench))) })) ∧
  (∀ (s v : State) (t : Nat) (key : FragKey) (f : LFrag) (l : Leaf) (sp : Space), v = s.tick t → v.dev.frag? key = some f → f.stage = .unsettled →
    v.dev.leaf key.parcel = some l → l.reached f.frag.bench = true → v.clk.now < f.frag.deadline → l.serves f.frag.bench = true → l.loadedAt f.frag.bench = true →
    v.dev.spaceOf l = some sp →
    let order := coarseOrder sp l f.frag
    let p := min order.length (if f.frag.np = 0 then ((l.cfg.map (·.np)).getD 1) else f.frag.np)
    v.dev.probesHeld l (order.take p) = false → v.dev.dieTested (key.parcel % 10) = false →
    exec (.fragmentSettledStart t key) s = .next { v with dev :=
      (((v.dev.leafTask.updFrag key fun x => ({ x with order := order, p := p } : LFrag).addProbes l (order.take p)).enqueue v.clk key).roundEnd v.clk key) }) ∧
  (∀ (s v : State) (t : Nat) (key : FragKey) (f : LFrag), v = s.tick t → v.dev.frag? key = some f →
    (f.stage = .held → exec (.probeEnqueue t key) s = .next { v with dev := v.dev.enqueue v.clk key }) ∧
    (f.frag.deadline ≤ v.clk.now →
      exec (.fragmentDeadline t key) s = .next { v with dev := (v.dev.send clsQuery key.root (.fragExpired key)).dropFrag key }))) ∧
  (∀ (s v : State) (t : Nat) (chan : Bool) (unit parcel list ver : Nat) (l : Leaf) (x : LeafCfg), v = s.tick t → placeOk chan unit = true → v.dev.leaf parcel = some l → l.cfg = some x →
    ∃ v', exec (.batchWindowExpiry t chan unit parcel list ver) s = .next v' ∧ v' = { v with dev := { v.dev with scan := { v.dev.scan with probes := v'.dev.scan.probes } } } ∧
      v'.dev.scan.probes.map (fun p => { p with due := false }) = v.dev.scan.probes.map (fun p => { p with due := false }) ∧
      (∀ p ∈ v'.dev.scan.probes, p.place = ⟨chan, unit⟩ → p.key.parcel = parcel → p.list = list → p.ver = ver → p.set = 0 → p.time + 1000 * x.wUs ≤ v.clk.now → p.due = true) ∧
      ∀ p ∈ v'.dev.scan.probes, p ∉ v.dev.scan.probes →
        p.due = true ∧ p.place = ⟨chan, unit⟩ ∧ p.key.parcel = parcel ∧ p.list = list ∧ p.ver = ver ∧ p.set = 0 ∧ p.time + 1000 * x.wUs ≤ v.clk.now)

/-- A traverse of a die starts with a group that is full or due, if it fits the die's working arrays: its probes leave the queue, and it and its fragments are counted. When it ends without a bad block, every fragment gets its candidates and the round may end; a bad block has all its fragments answered as failed (R66 to R73). -/
def Obligations.TraversesStartAndEnd : Prop :=
  (∀ (s v : State) (t unit parcel list ver : Nat) (g : List Probe) (comp : Bool) (ll : LList) (l : Leaf), v = s.tick t → unit < 10 → v.dev.arraysRun = true →
    v.dev.heldBit 0 unit = false → v.dev.dieTested unit = false → v.dev.nextTraverse ⟨false, unit⟩ parcel list ver = some (g, comp) → v.dev.leaf parcel = some l → l.lists[list]? = some ll →
    ∃ v', exec (.traverseStart t false unit parcel list ver) s = .next v' ∧
      v'.dev.scan.travs = v.dev.scan.travs ++ [⟨v.dev.scan.nextTrav + 1, ⟨false, unit⟩, parcel, list, ver, g.map (·.key), comp, []⟩] ∧
      v'.dev.scan.probes = (v.dev.scan.probes.filter fun x => !(g.contains x)) ∧ 0 < g.length ∧
      v.dev.scanning ⟨false, unit⟩ + g.length ≤ (vgetD v.dev.scan.dies unit ⟨0, 0⟩).working) ∧
  (∀ (s v : State) (t id : Nat) (x : Trav) (l : Leaf) (sp : Space) (ll : LList), v = s.tick t → (v.dev.scan.travs.find? fun y => y.id = id) = some x →
    v.dev.travReading x = false → v.dev.leaf x.parcel = some l → v.dev.spaceOf l = some sp → l.lists[x.list]? = some ll →
    (v.dev.travLost x ll = false →
      let es := travEntries x ll
      let d0 := (({ v.dev with scan := { v.dev.scan with travs := v.dev.scan.travs.filter fun y => y.id != id } } : Dev)).travCycles x (some es.length)
      let d1 := if x.place.chan then d0 else d0.toMatrix x.place.unit d0.waveArrays
      let d2 := x.frags.foldl (fun (y : Dev) k => y.travList x l sp ll es k) d1
      exec (.traverseEnd t id false) s = .next { v with dev := x.frags.foldl (fun (y : Dev) k => y.roundEnd v.clk k) d2 }) ∧
    exec (.traverseEnd t id true) s = .next { v with dev := v.dev.abandonTrav x })

/-! ### Updates and leaves -/

/-- parcel.create, parcel.load and parcel.closure go to the leaf's lead with what they ask; parcel.drop ends ST_OK, and parcel.stats writes the copy's 128 bytes (R23, R159, R434). An accepted item command is read from the partition and goes on towards the leaf's lead (R144, R431). -/
def Obligations.ParcelAndItemCommands : Prop :=
  ((∀ (s v : State) (k : Take) (cmd : Cmd), v = s.tick k.t → Accepted k 0x0200 v cmd → parcelCreateBad v.clk (v.dev.takeCmd cmd) cmd = false →
    exec (.parcelCreate k) s = .next (v.ran cmd ((v.ready cmd).submit v.clk { (v.ready cmd).updCmd .create cmd (cmd.f 0x40 4) [] with cfg := cmd.leafCfg }))) ∧
  (∀ (s v : State) (k : Take) (cmd : Cmd) (plan : Plan), v = s.tick k.t → Accepted k 0x0201 v cmd → AreasOk v cmd [(cmd.f 0x48 8, cmd.f 0x50 8)] →
    (v.dev.named v.clk (cmd.f 0x40 4)).isSome = true → cmd.f 0x50 8 ≠ 0 →
    exec (.parcelLoad k plan) s = .next (v.ran cmd ((v.ready cmd).submit v.clk { (v.ready cmd).updCmd .load cmd (cmd.f 0x40 4) [] with plan := some plan }))) ∧
  (∀ (s v : State) (k : Take) (cmd : Cmd), v = s.tick k.t → Accepted k 0x0203 v cmd → (v.dev.named v.clk (cmd.f 0x40 4)).isSome = true → cmd.expert = false →
    exec (.parcelClosure k) s =
      .next (v.ran cmd ((v.ready cmd).submit v.clk { (v.ready cmd).updCmd .closure cmd (cmd.f 0x40 4) [] with closureU := cmd.f 0x48 8 }))) ∧
  (∀ (s v : State) (k : Take) (cmd : Cmd), v = s.tick k.t → Accepted k 0x0202 v cmd → v.dev.namesLeaf v.clk (cmd.f 0x40 4) = false → cmd.f 0x40 4 ≠ Config.noParcel →
    exec (.parcelDrop k) s = .next (v.ran cmd ((v.ready cmd).endCmd v.clk cmd.ref stOk 0 0 []))) ∧
  (∀ (s v : State) (k : Take) (cmd : Cmd) (l : Leaf), v = s.tick k.t → Accepted k 0x0204 v cmd → cmd.f 0x44 1 = 0 → v.dev.leaf (cmd.f 0x40 4) = some l → 128 ≤ cmd.resultLen →
    exec (.parcelStats k) s =
      .next (v.ran cmd (((v.ready cmd).result cmd 0 (statsBytes v.clk (v.ready cmd) l)).endCmd v.clk cmd.ref stOk 0 1 [])))) ∧
  (∀ (s v : State) (k : Take) (cmd : Cmd) (recs : List (Nat × Nat)), v = s.tick k.t → recs = [(cmd.f 0x48 8, cmd.f 0x44 2 * cmd.f 0x50 4)] →
    let r := v.ready cmd
    let sent := fun (kind : UpdKind) => v.ran cmd (r.submit v.clk (r.updCmd kind cmd (cmd.f 0x40 4) (r.readItems v.clk kind cmd)))
    (Accepted k 0x0401 v cmd → AreasOk v cmd [(cmd.f 0x48 8, 8 * cmd.f 0x44 2)] → itemCmdBad .delete v.clk (v.dev.takeCmd cmd) cmd = false →
      exec (.itemDelete k) s = .next (sent .delete)) ∧
    (AreasOk v cmd recs → (v.dev.itemSpace v.clk (cmd.f 0x40 4)).isSome = true →
      (Accepted k 0x0400 v cmd → itemCmdBad .insert v.clk (v.dev.takeCmd cmd) cmd = false → exec (.itemInsert k) s = .next (sent .insert)) ∧
      (Accepted k 0x0402 v cmd → itemCmdBad .upsert v.clk (v.dev.takeCmd cmd) cmd = false → exec (.itemUpsert k) s = .next (sent .upsert)) ∧
      (Accepted k 0x0403 v cmd → itemCmdBad .replace v.clk (v.dev.takeCmd cmd) cmd = false → exec (.itemReplaceRow k) s = .next (sent .replace))))

/-- A deletion at the lead: every ID gets a tombstone of commit station s + 1 and the next sequence number, the lists stay, and the command waits for its station to settle; the copy stays as current as it was where its regions hold what the tombstones take (R145, R146, R152). Without room for them it is answered ST_BUSY and changes nothing else but a counter (R149, R284). A node that does not lead forwards it once and then answers ST_STALE_PLAT (R383). Answers to what this node sent on: a copy that has applied a ROWS operation is waited for no more; a lead's report of N_p from 1 to 4,096 is kept; and ST_STALE_PLAT to an update sends it again, but the third one ends the command ST_STALE_PLAT (R255, R383, R440). -/
def Obligations.UpdatesAndAnswers : Prop :=
  (∀ (s v : State) (t : Nat) (u : UpdCmd), v = s.tick t → v.dev.carries = true →
    (∀ (l : Leaf) (b : Beacon) (ts : List Tomb), v.dev.leaf u.parcel = some l → v.dev.leadAt u.parcel (v.dev.commitNow v.clk) = some v.dev.plat.nodeId → l.intakeHeld = false →
      v.dev.plat.beacon = some b → v.dev.station v.clk ≤ b.station → u.kind = .delete → v.dev.itemsBad l u = false → v.dev.findRec (.leaf u.parcel) u.key = none →
      v.dev.holdsTime v.clk = true → v.dev.noIntake l = false → v.dev.overLimits l u = false →
      ts = l.tombs ++ (u.items.zipIdx.map fun e => ⟨e.1.id, v.dev.commitNow v.clk, l.nextSeq + e.2⟩) →
      (v.dev.roomFor (({ l with tombs := ts } : Leaf).regions v.dev) = true →
        ∃ v' l', exec (.updateIntake t u) s = .next v' ∧ v'.dev.leaf u.parcel = some l' ∧ l'.lists = l.lists ∧ l'.nextSeq = l.nextSeq + u.items.length ∧ l'.tombs = ts ∧
          l'.waits = l.waits ++ [⟨u.entry, u.ref, u.key, .delete, v.dev.commitNow v.clk, u.items.length, u.items.length, false⟩] ∧
          (v.dev.fits { l with tombs := ts } → l'.loc = l.loc)) ∧
      (v.dev.roomFor (({ l with tombs := ts } : Leaf).regions v.dev) = false →
        exec (.updateIntake t u) s = .next { v with dev := (v.dev.answer v.clk u stBusy).count 22 0 1 })) ∧
    (∀ n : Nat, v.dev.leadAt u.parcel (v.dev.commitNow v.clk) = some n → n ≠ v.dev.plat.nodeId →
      exec (.updateIntake t u) s = .next { v with dev :=
        if u.forwarded then (v.dev.send clsControl u.entry (.updateStale u.key)).count 102 0 1
        else (v.dev.send clsUpdate n (.update { u with forwarded := true })).count 103 0 1 })) ∧
  ((∀ (s v : State) (t node other : Nat) (l : Leaf) (key : CmdKey) (w : RowsWait), v = s.tick t → node < 4096 → node ≠ other → v.dev.leaves = [l] → l.rowsWait = [w] → w.key = key →
    w.left = [node, other] →
    exec (.rowsApplied t key node) s = .next { v with dev := { v.dev with leaves := [{ l with rowsWait := [{ w with left := [other] }] }] } }) ∧
  (∀ (s v : State) (t parcel np : Nat), v = s.tick t → 1 ≤ np → np ≤ 4096 →
    exec (.defaultNPReport t parcel np) s = .next { v with dev := { v.dev with adm := { v.dev.adm with np := NMap.put v.dev.adm.np parcel np } } }) ∧
  (∀ (s v : State) (t : Nat) (f : Forwarded) (u : UpdCmd), v = s.tick t → v.dev.plat.forwarded = [f] → f.cmd = some u →
    (2 ≤ f.stale → exec (.stalePlatUpdateAnswer t f.key) s =
      .next { v with dev := (({ v.dev with plat := { v.dev.plat with forwarded := [] } } : Dev).refuse f.ref stStalePlat) }) ∧
    (∀ (g : PlatGen) (m n : Nat), f.stale < 2 → v.dev.newest = some g → g.lead u.parcel = some n → n ≠ v.dev.plat.nodeId → u.kind ≠ .load →
      (g.quorum.filter fun x => x != v.dev.plat.nodeId).head? = some m →
      exec (.stalePlatUpdateAnswer t f.key) s =
        .next { v with dev := ((({ v.dev with plat := { v.dev.plat with forwarded := [{ f with stale := f.stale + 1 }] } } : Dev).send clsControl m (.fetchGen (g.gen + 1))).send
          clsUpdate n (.update u)) })))

/-- Records apply at a copy strictly in sequence order: the next one applies at once, a later one is held (R146). A mark is acknowledged once everything up to its sequence number has been applied, and until then the missing records are fetched (R147). -/
def Obligations.RecordsApplyInOrder : Prop :=
  ∀ (s v : State) (t parcel : Nat) (l : Leaf), v = s.tick t → v.dev.live = true → v.dev.leaf parcel = some l → l.loc ≠ .failed → l.shadow = none → l.load = none →
    l.cfg.isSome = true → (v.dev.newest.bind fun g => v.dev.mine g parcel) ≠ some .joining →
    (∀ r : UpdRec, l.pendingMark = none → l.early = [] → l.applied + 1 < r.seq → (∀ p, r.op ≠ .load p) →
      exec (.updateRecordReceipt t parcel [r]) s = .next { v with dev := v.dev.updLeaf parcel fun _ => { l with early := [r] } }) ∧
    (∀ (c id : Nat) (key : CmdKey), l.pendingMark = none → l.early = [] →
      ∃ v' loc, exec (.updateRecordReceipt t parcel [⟨l.applied + 1, c, .tomb id, key⟩]) s = .next v' ∧
        v'.dev.leaf parcel = some { l with applied := l.applied + 1, recs := l.recs ++ [⟨l.applied + 1, c, .tomb id, key⟩],
                                           tombs := l.tombs ++ [⟨id, c, l.applied + 1⟩], loc := loc } ∧
        (v.dev.fits { l with tombs := l.tombs ++ [⟨id, c, l.applied + 1⟩] } → loc = l.loc)) ∧
    (∀ (m : Mark) (n : Nat), l.pendingMark = none → v.dev.leadAt parcel m.commit = some n →
      ∃ v', exec (.markReceipt t parcel m) s = .next v' ∧
        (m.seq ≤ l.applied → v'.dev.leaf parcel = some { l with ackedTo := max l.ackedTo m.commit } ∧
          v'.dev.sent = (v.dev.send clsControl n (.markAck parcel m.commit (v.dev.ackReady l))).sent) ∧
        (l.applied < m.seq → v'.dev.leaf parcel = some { l with pendingMark := some m } ∧ v'.dev.sent = (v.dev.send clsControl n (.fetchRecords parcel (l.applied + 1))).sent))

/-- The lead closes intake, marks the stations whose intake has closed and settles what it can; an acknowledgement is noted, and a request for records gets them. A marked station that may settle is settled: copies without an acknowledgement lapse and are counted, and every other copy hears of it (R147, R389). A settled record moves the copy's settled station on; one named as lapsed refuses benchmarks from that station, and one named as current again keeps refusing only those it missed (R147, R389). -/
def Obligations.StationsSettle : Prop :=
  (∀ (s v : State) (t parcel : Nat) (l : Leaf), v = s.tick t → v.dev.leaf parcel = some l →
    (v.dev.live = true → l.intakeHeld = false → l.noIntake = false → l.loc = .current →
      exec (.intakeClose t parcel) s = .next { v with dev :=
        (((((v.dev.toMark v.clk l).foldl (fun (x : Dev) y => x.sendMark v.clk parcel y) v.dev).ackLoad v.clk parcel).tryLoadStation v.clk parcel).settleAll v.clk parcel) }) ∧
    (∀ (node commit : Nat) (ready : Option Bool), node < 4096 →
      exec (.markAck t parcel node commit ready none) s = .next { v with dev := ((v.dev.updLeaf parcel fun x =>
        { x with acked := NMap.put x.acked node (max commit (NMap.getD x.acked node 0)),
                 closure := x.closure.map fun y => match ready with | some b => { y with readyFrom := (node, b) :: y.readyFrom.filter fun z => z.1 != node } | none => y }).settleAll
          v.clk parcel) }) ∧
    (∀ (node commit seq : Nat) (r : UpdRec) (rs : List UpdRec) (ready : Option Bool), node < 4096 → l.recs = r :: rs → r.seq ≤ seq →
      exec (.markAck t parcel node commit ready (some seq)) s =
        .next { v with dev := v.dev.send clsUpdate node (.records parcel (l.recs.filter fun x => seq ≤ x.seq)) }) ∧
    (∀ (mk : Mark × Nat) (fs lapsed : List Nat), l.marks = [mk] → l.loc = .current → l.noIntake = false → l.waits = [] → l.recs = [] → l.closure = none →
      v.dev.canSettle v.clk l mk = true → fs = v.dev.followers parcel mk.1.commit → (∀ n ∈ fs, l.peer n = .current) →
      lapsed = (fs.filter fun n => !(l.hasAck mk.1.commit n)) →
      ∃ v' l', exec (.lapseTimeout t parcel) s = .next v' ∧ v'.dev.leaf parcel = some l' ∧ l'.settled = max l.settled mk.1.commit ∧ l'.marks = [] ∧
        (∀ n ∈ fs, l'.peer n = if n ∈ lapsed then .lapsed mk.1.commit else .current) ∧ v'.dev.cnt = (v.dev.count 109 0 lapsed.length).cnt ∧
        v'.dev.sent = (v.dev.sendAll clsControl (v.dev.otherCopies parcel mk.1.commit) (.settled ⟨parcel, mk.1.commit, lapsed, [], none, []⟩)).sent)) ∧
  (∀ (s v : State) (t : Nat) (r : Settled) (l : Leaf), v = s.tick t → v.dev.live = true → r.outcomes = [] → r.closure = none → v.dev.leaf r.parcel = some l →
    l.loc ≠ .failed → l.shadow = none → l.recs = [] →
    ∃ v' l', exec (.settledRecordReceipt t r) s = .next v' ∧ v'.dev.leaf r.parcel = some l' ∧ l'.settled = max l.settled r.commit ∧ l'.lists = l.lists ∧
      (v.dev.plat.nodeId ∈ r.lapsed → l.loc = .current → l'.loc = .lapsed r.commit ∧ ∀ b, r.commit ≤ b → l'.serves b = false) ∧
      (∀ x, v.dev.plat.nodeId ∉ r.lapsed → v.dev.plat.nodeId ∈ r.current → l.loc = .lapsed x → l'.loc = .current ∧ ∀ b, x ≤ b → b < r.commit → l'.serves b = false) ∧
      (v.dev.plat.nodeId ∉ r.lapsed → v.dev.plat.nodeId ∉ r.current → l'.loc = l.loc))

/-- A closure's build starts once K is settled at the copy and there is room for the new version, and ends with the version complete or not; without the room the copy is not ready (R161, R162). The lead gives a load its commit station when the last acknowledgement of an ACTIVE copy is in, and a JOINING copy takes its image and then the records that follow it (R23, R376). The new lead takes intake up once it has applied everything to the old lead's last mark; it numbers its operations on from there (R379). At a leaf's drain stations its shadow, or the old version and the tombstones behind a closure, are freed, and not without valid time (R163, R367, R378). -/
def Obligations.ClosuresAndLeads : Prop :=
  ((∀ (s v : State) (t parcel : Nat) (l : Leaf) (cl : Closure), v = s.tick t → v.dev.leaf parcel = some l → l.closure = some cl →
    (∀ l1 : Leaf, cl.building = false → cl.outcome = none → cl.ready = none → cl.k ≤ l.settled → l.loc ≠ .failed → l.shadow = none → l.due = none →
      l1 = v.dev.formNext { l with closure := some { cl with building := true } } cl →
      (v.dev.nextRoom l1 = true →
        ∃ v' loc, exec (.closureBuildStart t parcel) s = .next v' ∧ v'.dev.leaf parcel = some { l1 with loc := loc } ∧ (v.dev.fits l1 → loc = l.loc)) ∧
      (v.dev.nextRoom l1 = false → exec (.closureBuildStart t parcel) s =
        .next { v with dev := v.dev.updLeaf parcel fun x => { x with closure := some { cl with ready := some false } } })) ∧
    (cl.building = true → cl.outcome = none → ∀ ok : Bool, (ok = true → v.dev.nextDurable l = true) →
      let d := v.dev.updLeaf parcel fun x => { x with closure := some { cl with building := false, ready := some ok } }
      exec (.closureBuildComplete t parcel ok) s = .next { v with dev := d.reportClosure v.clk l (if ok then l.toMerge cl else 0) (l.toMerge cl) })) ∧
  (∀ (s v : State) (t parcel node : Nat) (x : Load), v = s.tick t → node < 4096 → ((v.dev.leaf parcel).bind fun l => l.load) = some x → node ∉ x.acks →
    exec (.loadAcknowledgement t parcel node) s =
      .next { v with dev := ((v.dev.updLeaf parcel fun y => { y with load := some { x with acks := x.acks ++ [node] } }).tryLoadStation v.clk parcel) }) ∧
  (∀ (s v : State) (t parcel : Nat) (img : CopyImage) (l : Leaf), v = s.tick t → v.dev.leaf parcel = some l → v.dev.awaitsImage l = true → v.dev.live = true →
    l.early = [] → l.pendingMark = none →
    ∃ v' l', exec (.copyFillComplete t parcel img) s = .next v' ∧ v'.dev.leaf parcel = some l' ∧ l'.cfg = some img.cfg ∧ l'.applied = img.seq ∧ l'.settled = img.station ∧
      l'.tombs = img.tombs ∧ l'.lists = imageLists img ∧ l'.closure = img.closure.map imageClosure ∧ l'.early = [])) ∧
  ((∀ (s v : State) (t parcel : Nat) (m : Mark) (l : Leaf), v = s.tick t → v.dev.leaf parcel = some l → l.intakeHeld = true → v.dev.leadAt parcel (m.commit + 1) = some v.dev.plat.nodeId →
    m.seq ≤ l.applied → l.loc = .current → l.held = [] → m.commit ≤ l.settled →
    ∃ v' l', exec (.newLeadIntakeStart t parcel m) s = .next v' ∧ v'.dev.leaf parcel = some l' ∧ l'.intakeHeld = false ∧ l'.nextSeq = m.seq + 1 ∧ l'.closedTo = m.commit ∧
      l'.lists = l.lists ∧ l'.tombs = l.tombs) ∧
  (∀ (s v : State) (t parcel : Nat) (l : Leaf), v = s.tick t → v.dev.leaf parcel = some l →
    (v.clk.valid = false → exec (.drainStation t parcel) s = .next v) ∧
    (∀ f : Nat, v.clk.valid = true → l.shadow = some f → drainStation v.dev.plat.gens f ≤ v.dev.station v.clk →
      (∀ g, v.dev.newest = some g → v.dev.mine g parcel ≠ some .joining) →
      ∃ v', exec (.drainStation t parcel) s = .next v' ∧ v'.dev.leaf parcel = none ∧ v'.dev.leaves = v.dev.leaves.filter fun x => x.parcel != parcel) ∧
    (∀ u : Nat, v.clk.valid = true → l.shadow = none → l.oldUse = some u → drainStation v.dev.plat.gens u ≤ v.dev.station v.clk →
      ∃ v' l', exec (.drainStation t parcel) s = .next v' ∧ v'.dev.leaf parcel = some l' ∧ l'.oldUse = none ∧ (∀ x ∈ l'.lists, x.old = none) ∧
        l'.lists.map (fun x => x.cur) = l.lists.map (fun x => x.cur) ∧ l'.tombs = l.tombs.filter fun x => u < x.t)))

/-! ### The chain -/

/-- chain.gather that the gate lets in becomes a reader over the resolved leaves in ascending order, with its R_max, its limit (4,096 for 0) and its deadline; the command runs until the reader ends (R171, R182 to R184). A row asked by another node is read by a reader of its own once this node holds the generation and the copy, an EMBED row once it keeps the model (R175, R215, R381). A reader's walk: a key that stands in its window joins that slot without a read of its own, and the coalescing is counted; another key takes a free slot and its read is issued, while fewer than its limit are in flight (R173, R178). A gather past its DEADLINE ends ST_DEADLINE with the prefix that is written (R186). -/
def Obligations.GathersAndReaders : Prop :=
  ((∀ (s v : State) (k : Take) (cmd : Cmd) (facts : List LeafFact) (r d1 : Dev) (g : PlatGen) (kind : RowKind), v = s.tick k.t → Accepted k 0x0500 v cmd → r = v.ready cmd →
    AreasOk v cmd [(cmd.f 0x48 8, 8 * cmd.f 0x50 4)] → chainGatherBad facts v.clk (v.dev.takeCmd cmd) cmd = false → rowKindOf (cmd.f 0x40 1) = some kind → kind ≠ .embed →
    cmd.expert = false → v.dev.genNow v.clk = some g → r.gate v.clk cmd (cmd.f 0x50 4) 1 (r.deadlineOf v.clk cmd ≤ v.clk.now) = .inr d1 →
    exec (.chainGather k facts) s = .next (v.ran cmd (d1.addReader
      { id := 0, kind := .gather cmd.ref, rows := kind, leaves := sortNat (resolved g (cmd.f 0x44 4)), gen := g.gen, bench := v.dev.station v.clk, copyRank := none,
        keys := r.gatherKeys cmd, commits := [], pos := 0, window := [], statuses := [], rMax := r.gatherRMax v.clk facts cmd, inflight := 0, limit := 4096,
        deadline := r.deadlineOf v.clk cmd, delivered := 0, tenant := cmd.tenant, ended := false }))) ∧
  (∀ (s v : State) (t : Nat) (q : RemoteReq), v = s.tick t → v.dev.carries = true →
    (∀ m : Model, q.kind = .embed → (v.dev.mdl.models.find? fun x => x.id = q.parcel && (x.embed?).isSome) = some m →
      exec (.remoteReadRequest t q) s = .next { v with dev := v.dev.addReader (Reader.new 0 (.remote q) .embed [m.uid] q.gen q.bench [q.id]) }) ∧
    (q.kind ≠ .embed → v.dev.routeWork q.gen q.bench q.parcel q.rank q.fwd = .serve →
      exec (.remoteReadRequest t q) s = .next { v with dev := v.dev.addReader (Reader.new 0 (.remote q) q.kind [q.parcel] q.gen q.bench [q.id]) }) ∧
    (q.kind ≠ .embed → v.dev.routeWork q.gen q.bench q.parcel q.rank q.fwd = .wait →
      exec (.remoteReadRequest t q) s = .next { v with dev := ({ v.dev with plat := { v.dev.plat with waitReads := v.dev.plat.waitReads ++ [q] } } : Dev).wantGen q.gen }))) ∧
  (∀ (s v : State) (t id : Nat) (r : Reader), v = s.tick t → v.dev.reader? id = some r → r.ended = false →
    (∀ ref : Ref, r.kind = .gather ref → r.deadline ≤ v.clk.now →
      exec (.chainReadIssue t id) s = .next { v with dev := (v.dev.endCmd v.clk ref stDeadline (rflags false false false true) r.count []).endReader r.id }) ∧
    ∀ key : Nat, r.due v.clk = false → (r.window.find? fun x => x.row.isNone && (v.dev.slotReads id x.no).isEmpty) = none → r.keys[r.pos]? = some key → key ≠ Config.noItem →
      (∀ x : WSlot, (r.window.find? fun y => y.key = key) = some x →
        exec (.chainReadIssue t id) s = .next { v with dev := (v.dev.updReader id fun y =>
          { (y.updSlot x.no fun z => { z with occ := z.occ ++ [y.pos] }) with pos := y.pos + 1 }).count 27 0 1 }) ∧
      (∀ no : Nat, (r.window.find? fun y => y.key = key) = none → r.inflight < r.limit → r.freeSlot = some no →
        let slot : WSlot := ⟨no, key, r.leaves, [], none, [r.pos], 0⟩
        let r1 := { r with pos := r.pos + 1, inflight := r.inflight + 1, window := (r.window.filter fun y => y.no != no) ++ [slot] }
        exec (.chainReadIssue t id) s = .next { v with dev := (v.dev.updReader id fun _ => r1).launch v.clk r1 slot true }) ∧
      ((r.window.find? fun y => y.key = key) = none → r.limit ≤ r.inflight → exec (.chainReadIssue t id) s = .next v))

/-- A read of a stack's copy that completes gives its slot the row and its tag back; one that serves nobody any more only gives its tag back (R174, R177). A delivery to a gather writes the row, padded to R_max and 64 bytes apart, and then its status byte, and reports the longest prefix written; the last one ends the gather (R184 to R186). -/
def Obligations.ReadsCompleteAndDeliver : Prop :=
  (∀ (s v : State) (t tag : Nat) (x : Read) (r : Reader), v = s.tick t → (v.dev.chain.reads.find? fun y => y.tag = tag) = some x → v.dev.reader? x.reader = some r →
    (∀ st : Nat, x.live = true → r.ended = false → r.due v.clk = false → x.src = .dram st → v.dev.stackBarred st = false → v.dev.sourceBad v.clk r x = false →
      exec (.chainReadComplete t tag .ok) s =
        .next { v with dev := (v.dev.slotDone r x.slot (v.dev.localRow r x.key).1 (v.dev.localRow r x.key).2).dropRead x.tag r.id }) ∧
    (∀ o : ReadOutcome, x.live = false → exec (.chainReadComplete t tag o) s = .next { v with dev := v.dev.dropRead tag x.reader })) ∧
  (∀ (s v : State) (t id pos : Nat) (r : Reader) (x : WSlot) (ref : Ref) (cmd : Cmd) (bytes : List Byte), v = s.tick t → v.dev.reader? id = some r → r.kind = .gather ref →
    r.due v.clk = false → (r.window.find? fun y => y.occ.contains pos) = some x → x.row = some (0, bytes) → v.dev.cmd? ref = some cmd →
    let r1 := { (r.updSlot x.no fun y => { y with occ := y.occ.filter fun p => p != pos, lastUse := r.delivered + 1 }) with
                statuses := NMap.put r.statuses pos 0, delivered := r.delivered + 1 }
    exec (.rowDelivery t id pos) s = .next { v with dev :=
      (((((v.dev.updReader id fun _ => r1).count 28 (x.no % Config.lanes) 1).result cmd (ceil64 r.keys.length + pos * ceil64 r.rMax) (padTo r.rMax bytes)).result cmd pos [0]).gatherStep
        v.clk r1 ref) })

/-- chain.monument_set of a row without a monument makes one: copy 0 of a row stored in DRAM is the row's own place and live, the others are to be filled. A filled copy may be read from the next station, a moved one may switch if station W has not begun; chain.monument_move has its copy read in both places until station W, where the descriptor flips if the fill is complete and datum time valid, or the move is abandoned ST_DEADLINE; at W + 1 the old place is freed and the command ends ST_OK (R194, R196). -/
def Obligations.Monuments : Prop :=
  (∀ (s v : State) (k : Take) (cmd : Cmd) (ss : List StackNo) (d : Dev), v = s.tick k.t → Accepted k 0x0502 v cmd → chainMonumentSetBad v.clk (v.dev.takeCmd cmd) cmd = false →
    v.dev.monument? cmd.monRow = none → ss = cmd.monStacks.filterMap stackOf →
    (ss.length ≤ 1 ∨ (v.dev.chain.monuments.filter fun m => 1 < m.copies.length && m.row != cmd.monRow).length < Config.maxMonuments) →
    d = { v.ready cmd with chain := { v.dev.chain with monuments := v.dev.chain.monuments ++
      [⟨cmd.monRow, ss.zipIdx.map fun e => if e.2 = 0 ∧ v.dev.pinned cmd.monRow = true then ⟨e.1, .live, 0, true⟩ else ⟨e.1, .filling, 0, false⟩, none⟩] } } →
    d.monRoom cmd.monRow = true →
    exec (.chainMonumentSet k) s = .next (v.ran cmd ((d.syncRow v.clk cmd.monRow).endCmd v.clk cmd.ref stOk 0 0 []))) ∧
  (∀ (s v : State) (k : Take) (cmd : Cmd) (m : Monument) (dest : StackNo) (x : MonCopy) (d : Dev), v = s.tick k.t → Accepted k 0x0503 v cmd →
    chainMonumentMoveBad v.clk (v.dev.takeCmd cmd) cmd = false → v.dev.monument? cmd.monRow = some m → m.move = none → m.copies[cmd.f 0x50 1]? = some x → x.use = .live →
    cmd.f 0x51 1 = dest.val → v.dev.heldBit 1 x.stack.val = false → v.dev.heldBit 1 dest.val = false → v.dev.serves dest.val = true →
    d = (v.ready cmd).putMonument { m with move := some ⟨cmd.f 0x50 1, dest, cmd.f 0x58 8, false, .dual, cmd.ref, x.home⟩ } → d.monRoom cmd.monRow = true →
    exec (.chainMonumentMove k) s = .next (v.ran cmd (d.syncRow v.clk cmd.monRow))) ∧
  (∀ (s v : State) (t copy : Nat) (row : RowKey) (m : Monument) (x : MonCopy), v = s.tick t → v.dev.chain.monuments = [m] → m.row = row → m.copies[copy]? = some x →
    (x.use = .filling → exec (.monumentFillComplete t row copy) s = .next { v with dev := { v.dev with chain := { v.dev.chain with
      monuments := [{ m with copies := m.copies.set copy { x with use := .ready, since := v.dev.station v.clk } }] } } }) ∧
    (∀ mv : MonMove, x.use = .live → m.move = some mv → mv.copy = copy → mv.phase = .dual →
      (v.dev.station v.clk < mv.w → exec (.monumentFillComplete t row copy) s = .next { v with dev := { v.dev with chain := { v.dev.chain with
        monuments := [{ m with move := some { mv with filled := true } }] } } }) ∧
      (mv.w ≤ v.dev.station v.clk → exec (.monumentFillComplete t row copy) s = .next v))) ∧
  (∀ (s v : State) (t : Nat) (row : RowKey) (m : Monument) (mv : MonMove) (x : MonCopy), v = s.tick t → v.dev.monument? row = some m → m.move = some mv →
    m.copies[mv.copy]? = some x →
    (mv.phase = .dual → mv.w ≤ v.dev.station v.clk →
      (mv.filled = true → v.dev.holdsTime v.clk = true →
        let flipped : MonMove := { mv with dest := x.stack, phase := .flipped, home := x.home }
        exec (.monumentSwitch t row) s = .next { v with dev := (v.dev.updMonument row fun y =>
          { y with copies := y.copies.set mv.copy { x with stack := mv.dest, home := false }, move := some flipped }).count 36 0 1 }) ∧
      (mv.filled = false ∨ v.dev.holdsTime v.clk = false →
        let d := (v.dev.updMonument row fun y => { y with move := none }).syncRow v.clk row
        exec (.monumentSwitch t row) s = .next { v with dev := (d.endCmd v.clk mv.ref stDeadline 0 0 []).count 37 0 1 })) ∧
    (mv.phase = .dual → v.dev.station v.clk < mv.w → exec (.monumentSwitch t row) s = .next v) ∧
    (mv.phase = .flipped → mv.w + 1 ≤ v.dev.station v.clk → v.clk.valid = true →
      let d := (v.dev.updMonument row fun y => { y with move := none }).syncRow v.clk row
      exec (.monumentFree t row) s = .next { v with dev := d.endCmd v.clk mv.ref stOk 0 0 [] }))

/-- chain.cache_load sets the cache's size and period and leaves its set pending; a command whose set it replaces ends (log 36). The refresh at a station whose number is a multiple of REFRESH, or at the first after one that does not occur, takes the set up and ends its command ST_OK, and no die then holds more bytes of rows than the cache has there (R197, R198). -/
def Obligations.HotRowCache : Prop :=
  (∀ (s v : State) (k : Take) (cmd : Cmd) (d : Dev), v = s.tick k.t → Accepted k 0x0501 v cmd → AreasOk v cmd [(cmd.f 0x48 8, 16 * cmd.f 0x50 4)] →
    chainCacheLoadBad v.clk (v.dev.takeCmd cmd) cmd = false →
    (v.dev.chain.cache.pend = none → d = v.ready cmd) → (∀ p, v.dev.chain.cache.pend = some p → d = (v.ready cmd).endCmd v.clk p.2 stDeadline 0 0 []) →
    exec (.chainCacheLoad k) s = .next (v.ran cmd
      { d with chain := { v.dev.chain with cache := { v.dev.chain.cache with
          mib := cmd.f 0x40 1, refresh := cmd.f 0x44 4, pend := some (((v.ready cmd).setEntries cmd).map setEntry, cmd.ref) } } })) ∧
  (∀ (s v : State) (t : Nat), v = s.tick t → v.dev.live = true →
    (occurring v.dev.plat.gens (v.dev.station v.clk / v.dev.chain.cache.refresh * v.dev.chain.cache.refresh) ≠ v.dev.station v.clk →
      exec (.hotRowCacheRefresh t) s = .next v) ∧
    (occurring v.dev.plat.gens (v.dev.station v.clk / v.dev.chain.cache.refresh * v.dev.chain.cache.refresh) = v.dev.station v.clk →
      v.dev.chain.cache.last ≠ some (v.dev.station v.clk) →
      ∃ v' rows, exec (.hotRowCacheRefresh t) s = .next v' ∧
        (v.dev.chain.cache.pend = none →
          v' = { v with dev := { v.dev with chain := { v.dev.chain with cache := { v.dev.chain.cache with rows := rows, last := some (v.dev.station v.clk) } } } }) ∧
        (∀ p, v.dev.chain.cache.pend = some p → v'.dev.chain.cache =
          { v.dev.chain.cache with set := p.1, pend := none, rows := rows, last := some (v.dev.station v.clk) } ∧
          ∃ (d : Dev) (n : Nat), d.cmds = v.dev.cmds ∧ d.ports = v.dev.ports ∧ v' = { v with dev := d.endCmd v.clk p.2 stOk 0 n [] }) ∧
        (∀ x ∈ rows, x.row ∈ v'.dev.chain.cache.set ∧ x.valid = true ∧ ∃ n, v.dev.cacheSize v.clk x.row = some (n, x.die)) ∧
        ∀ die : Nat, natSum ((rows.filter fun x => x.die = die).map fun x => ((v.dev.cacheSize v.clk x.row).map (·.1)).getD 0) ≤ 1048576 * v.dev.chain.cache.mib))

/-! ### Models -/

/-- model.load takes the frames and extents of its stores, joins the loading models and ends as soon as its image is in its tier; without the frames it is refused ST_BUSY. LEN 0 unloads: the model leaves at once for new runs and its command ends when its last run has, or at once when there is none of that ID (R215, R217). model.run that the gate lets in queues its rows, and waits where one of its decode tables is being replaced (R218, R234). -/
def Obligations.ModelLoadsAndRuns : Prop :=
  ((∀ (s v : State) (k : Take) (cmd : Cmd) (held : Option (List Byte)) (m : Model) (r : Dev), v = s.tick k.t → Accepted k 0x0600 v cmd → r = v.ready cmd →
    AreasOk v cmd (modelLoadAreas (v.dev.takeCmd cmd) cmd) → modelLoadBad held v.clk (v.dev.takeCmd cmd) cmd = false → cmd.f 0x50 8 ≠ 0 →
    r.newModel cmd held = some m → r.windows (cmd.f 0x40 1) + m.windowMib ≤ Config.windowMib →
    (let ids := (v.dev.mdl.models.map (·.id) ++ v.dev.mdl.loading.map fun x => x.2.id).dedup
     ids.contains (cmd.f 0x40 1) = true ∨ ids.length < Config.maxModels) →
    (m.flashLen + m.flashEmbed ≠ 0 → v.dev.flash.readOnly = false ∧ v.dev.flash.format = none ∧ r.imageRoom m = true) →
    (∀ d1, r.pinModel m = some d1 →
      let d2 := if m.flashLen = 0 then d1 else d1.writeImage (weightKey m.uid) m.flashLen (m.tier = .flash)
      let d3 := if m.flashEmbed = 0 then d2 else d2.writeImage (embedKey m.uid) m.flashEmbed false
      exec (.modelLoad k held) s = .next (v.ran cmd
        (({ d3 with mdl := { d3.mdl with nextUid := m.uid + 1, loading := d3.mdl.loading ++ [(cmd.ref, m)] } } : Dev).ackModels v.clk))) ∧
    (r.pinModel m = none → exec (.modelLoad k held) s = .next (v.ran cmd (r.refuse cmd.ref stBusy)))) ∧
  (∀ (s v : State) (k : Take) (cmd : Cmd) (held : Option (List Byte)), v = s.tick k.t → Accepted k 0x0600 v cmd → cmd.f 0x50 8 = 0 → cmd.f 0x40 1 ≤ 63 →
    (v.dev.modelId? (cmd.f 0x40 1) = none → exec (.modelLoad k held) s = .next (v.ran cmd ((v.ready cmd).endCmd v.clk cmd.ref stOk 0 0 []))) ∧
    ∀ m : Model, v.dev.modelId? (cmd.f 0x40 1) = some m →
      exec (.modelLoad k held) s = .next (v.ran cmd
        { v.ready cmd with mdl := { v.dev.mdl with
            models := (v.dev.mdl.models.filter fun x => x.id != cmd.f 0x40 1), olds := v.dev.mdl.olds ++ (v.dev.mdl.models.filter fun x => x.id = cmd.f 0x40 1),
            unloads := v.dev.mdl.unloads ++ [(m.uid, cmd.ref)] } })) ∧
  (∀ (s v : State) (t uid : Nat) (m : Model), v = s.tick t → (v.dev.mdl.olds.find? fun x => x.uid = uid) = some m → v.dev.mdl.hasRuns uid = false → v.dev.chain.readers = [] →
    v.dev.mdl.unloads = [] →
    ∃ v', exec (.modelImageFree t uid) s = .next v' ∧ (∀ x ∈ v'.dev.mdl.olds, x.uid ≠ uid) ∧ v'.dev.mdl.models = v.dev.mdl.models ∧
      NMap.get? v'.dev.mem.regions (modelRegion uid) = none ∧ NMap.get? v'.dev.mem.regions (embedRegion uid) = none ∧ (∀ f ∈ v'.dev.mem.pool, f.key ≠ weightKey uid ∧ f.key ≠ embedKey uid))) ∧
  (∀ (s v : State) (k : Take) (cmd : Cmd) (m : Model) (r d1 : Dev), v = s.tick k.t → Accepted k 0x0601 v cmd → r = v.ready cmd →
    AreasOk v cmd (modelRunAreas (v.dev.takeCmd cmd) cmd) → modelRunBad v.clk (v.dev.takeCmd cmd) cmd = false → v.dev.pwr.ps = 0 → vgetD v.dev.pwr.hold 0 0 = 0 →
    v.dev.modelId? (cmd.f 0x40 1) = some m → r.gate v.clk cmd (64 * cmd.f 0x44 4) (cmd.f 0x44 4) (cmd.deadline != 0 && cmd.deadline ≤ v.clk.now) = .inr d1 →
    let d2 := d1.noteAreas cmd.ref (modelRunAreas r cmd)
    exec (.modelRun k) s = .next (v.ran cmd ({ d2.count 51 0 (boolNat !(d2.tagsPending m).isEmpty) with mdl := { d2.mdl with
      runs := d2.mdl.runs ++ [⟨m.uid, some cmd.ref, none, (r.runRows m cmd).map fun x => x.map (BitVec.ofNat 32), d2.tagsPending m, r.deadlineOf v.clk cmd⟩] } })))

/-- A wave takes the runs of its model that wait, in admission order and at most 4,096 rows, and no other wave of the model runs beside it; a share that is filled is needed no more, and one whose pool pages are still out asks for them; and when nothing is needed any more the wave ends and a run's rows are written before its count (R46, R207, R218, R219, R222). model.table_gen: a LOAD of a free generation is resident at once, and a REMOVE of one nothing uses is gone at once; one that runs or waves name shows ST_IN_USE until the last of them is past, and only then is replaced or freed and its command ended (R232 to R234). -/
def Obligations.ModelWavesAndTables : Prop :=
  ((∀ (s v : State) (t uid : Nat) (m : Model), v = s.tick t → v.dev.model? uid = some m → v.dev.arraysRun = true → vgetD v.dev.pwr.hold 0 0 = 0 →
    ((∃ w ∈ v.dev.mdl.waves, w.uid = uid) → exec (.modelWaveStart t uid) s = .next v) ∧
    (∀ (r : Run) (rest : List Run), (∀ w ∈ v.dev.mdl.waves, w.uid ≠ uid) → (∀ i < 10, v.dev.dieTested i = false) → (v.dev.mdl.runs.filter fun x => x.uid = uid && x.tgWait.isEmpty) = r :: rest → r.rows.length ≤ 4096 →
      ∃ v' runs, exec (.modelWaveStart t uid) s = .next v' ∧ r ∈ runs ∧ runs <+: (r :: rest) ∧ natSum (runs.map fun x => x.rows.length) ≤ 4096 ∧
        v'.dev.mdl.waves = v.dev.mdl.waves ++ [⟨uid, runs, 0, m.shares.filter fun x => !(m.filled.contains x)⟩] ∧
        v'.dev.mdl.runs = v.dev.mdl.runs.filter fun x => !(runs.contains x))) ∧
  (∀ (s v : State) (t uid layer : Nat) (die : Die) (src : List (Fin 4)) (waited : List Nat) (m : Model) (w : Wave), v = s.tick t → v.dev.model? uid = some m → v.dev.mdl.waves = [w] → w.uid = uid →
    src.length = waited.length → (layer, die.val) ∈ w.need → layer ≤ w.front m.layers + 1 →
    (v.dev.shareIn m layer die.val = false → exec (.windowFillComplete t uid layer die src waited) s = .next { v with dev := v.dev.askShare v.clk m layer die.val }) ∧
    (v.dev.shareIn m layer die.val = true →
      ∃ v' w', exec (.windowFillComplete t uid layer die src waited) s = .next v' ∧ v'.dev.mdl.waves = [w'] ∧ w'.need = (w.need.filter fun x => x != (layer, die.val)) ∧ w'.runs = w.runs)) ∧
  (∀ (s v : State) (t uid : Nat) (m : Model) (w : Wave) (r : Run) (ref : Ref) (cmd : Cmd), v = s.tick t → v.dev.model? uid = some m → v.dev.mdl.waves = [w] → w.uid = uid → w.need = [] →
    w.runs = [r] → m.tokens = false → r.ref = some ref → v.dev.cmd? ref = some cmd → v.dev.weightsPoisoned m = false → v.dev.embedReader m.uid 0 = none →
    let d0 := (List.range 10).foldl Dev.mxCycles v.dev
    let d := ({ d0 with mdl := { d0.mdl with waves := [] } } : Dev).count 44 0 r.rows.length
    let d2 := r.rows.zipIdx.foldl (fun (x : Dev) e => x.result cmd (e.2 * m.rowOut) (((m.runRow (e.1.map (·.toNat))).map (leBytes 2)).flatten)) d
    exec (.modelWaveEnd t uid) s = .next { v with dev := d2.endCmd v.clk ref stOk 0 r.rows.length [] })) ∧
  ((∀ (s v : State) (k : Take) (cmd : Cmd) (g tag : Nat) (tbl : List Byte), v = s.tick k.t → Accepted k 0x0602 v cmd → cmd.f 0x41 1 = 0 → g = cmd.f 0x40 1 → g ≤ 15 →
    tbl = Mem.rds cmd.slot 0x80 128 → tag = cmd.f 0x44 4 → tag = crc32c tbl → kraftOk tbl = true →
    (NMap.get? v.dev.mdl.gens g = none → v.dev.mdl.gens.length < Config.maxGens →
      exec (.tableGenLoad k) s = .next (v.ran cmd
        (({ v.ready cmd with mdl := { v.dev.mdl with gens := NMap.put v.dev.mdl.gens g ⟨tag, tbl, none⟩ } } : Dev).endCmd v.clk cmd.ref stOk 0 0 []))) ∧
    (∀ old : TableGen, NMap.get? v.dev.mdl.gens g = some old → old.pend = none → old.tag ≠ tag → (v.ready cmd).genInUse g = true →
      exec (.tableGenLoad k) s = .next (v.ran cmd
        (({ v.ready cmd with mdl := { v.dev.mdl with gens := NMap.put v.dev.mdl.gens g { old with pend := some (cmd.ref, some (tag, tbl)) } } } : Dev).report cmd.ref stInUse 0 0
          false false false)))) ∧
  (∀ (s v : State) (k : Take) (cmd : Cmd) (g : Nat) (old : TableGen), v = s.tick k.t → Accepted k 0x0602 v cmd → cmd.f 0x41 1 = 1 → g = cmd.f 0x40 1 → g ≤ 15 →
    NMap.get? v.dev.mdl.gens g = some old → old.pend = none → (v.ready cmd).genInUse g = false →
    exec (.tableGenRemove k) s = .next (v.ran cmd
      (({ v.ready cmd with mdl := { v.dev.mdl with gens := NMap.del v.dev.mdl.gens g } } : Dev).endCmd v.clk cmd.ref stOk 0 0 []))) ∧
  (∀ (s v : State) (t g : Nat) (old : TableGen) (r : Ref) (new : Option (Nat × List Byte)), v = s.tick t → NMap.get? v.dev.mdl.gens g = some old → old.pend = some (r, new) →
    (v.dev.genInUse g = true → exec (.tableGenRelease t g) s = .next v) ∧
    (v.dev.genInUse g = false → v.dev.mdl.runs = [] →
      exec (.tableGenRelease t g) s = .next { v with dev := (({ v.dev with mdl := { v.dev.mdl with
        gens := (match new with | some x => NMap.put v.dev.mdl.gens g ⟨x.1, x.2, none⟩ | none => NMap.del v.dev.mdl.gens g) } } : Dev).endCmd v.clk r stOk 0 0 []) })))

/-! ### Near-bank work and admission -/

/-- In PS0 and PS1 bank.op of an extent none of whose lines lies on a held stack queues its lines as unit tasks; of rows it goes to the leaf's lead; and in PS2 it ends ST_BUSY (R238, R250, R255, R259). One line step of an extent in a partition, before DEADLINE, the command's last and without U: the line becomes the operation's result on every element, a poisoned line stays poisoned and as it was, nothing else in any partition changes but the command's result area, and the command ends (R244 to R246, R252, R254). -/
def Obligations.BankOps : Prop :=
  ((∀ (s v : State) (k : Take) (cmd : Cmd), v = s.tick k.t → TurnedAway k 0x0700 v cmd → AreasOk v cmd (bankAreas v.dev cmd) → bankOpBad v.clk (v.dev.takeCmd cmd) cmd = false →
    v.dev.pwr.ps = 2 →
    exec (.bankOp k) s = .next { v with dev := ((v.ready cmd).refuse cmd.ref stBusy).count 22 0 (if cmd.f 0x40 1 = 1 then 1 else 0) }) ∧
  ∀ (s v : State) (k : Take) (cmd : Cmd) (r : Dev) (p : NbOp), v = s.tick k.t → Accepted k 0x0700 v cmd → r = v.ready cmd → p = cmd.nbOp 0 0x800 →
    AreasOk v cmd (bankAreas v.dev cmd) → bankOpBad v.clk (v.dev.takeCmd cmd) cmd = false →
    v.dev.pwr.ps < 2 →
      (∀ x : Nat × Region, p.rows = false → r.nbRegion p cmd.ref.port = some x → (∀ l ∈ extentLines p x.2, r.heldBit 1 l.stack = false) →
        exec (.bankOp k) s = .next (v.ran cmd (r.startNb v.clk
          ⟨0, some cmd.ref, none, p, cmd.ref.port.val, 0, [], extentLines p x.2, (extentLines p x.2).length, 0, [], false, false⟩))) ∧
      (p.rows = true → exec (.bankOp k) s = .next (v.ran cmd (r.submit v.clk { r.updCmd .rows cmd p.parcel
        ((List.range p.nIdx).map fun i => (⟨r.partReadN cmd.ref.port (p.indexAddr + 8 * i) 8, Attr.zero, [], [], 0⟩ : UpdItem)) with nb := some p })))) ∧
  (∀ (s v : State) (t : Nat) (st : StackNo) (unit line : Nat) (e : LineErr) (task : NbTask) (j : NbJob) (r : Region) (port : Port) (ref : Ref) (cmd : Cmd), v = s.tick t →
    unit < 128 → v.dev.nb.held[st] = [task] → task.unit = unit → v.dev.job? task.job = some j → j.late v.clk = false → j.op.rows = false → j.op.fenced = false → j.op.u = 0 → j.op.region = 0 →
    j.port = port.val → j.ref = some ref → v.dev.cmd? ref = some cmd → cmd.ref.port = port → 8 ≤ cmd.resultLen → j.todo = [⟨st.val, unit, 0, 0, line⟩] →
    NMap.get? v.dev.mem.regions (partRegion port) = some r → e ≠ .uncorrectable → Mem.wf (v.dev.port port).mem = true →
    let bad := (v.dev.port port).poison.contains line
    let bytes := nbLine j.op (v.dev.partRead port (64 * line) 64) none
    ∃ v', exec (.lineStep t st unit e .clean) s = .next v' ∧ v'.dev.cmd? ref = none ∧ (∀ q, q ≠ port → (v'.dev.port q).mem = (v.dev.port q).mem) ∧
      (∀ a, a < cmd.resultAddr ∨ cmd.resultAddr + cmd.resultLen ≤ a → Mem.rd (v'.dev.port port).mem a =
        if bad = false ∧ 64 * line ≤ a ∧ a < 64 * line + 64 then bytes.getD (a - 64 * line) 0 else Mem.rd (v.dev.port port).mem a) ∧
      (∀ l, 64 * l + 64 ≤ cmd.resultAddr ∨ cmd.resultAddr + cmd.resultLen ≤ 64 * l → (l ∈ (v'.dev.port port).poison ↔ l ∈ (v.dev.port port).poison)))

/-- A free easement goes to the first task of a stack's queue whose unit holds none and whose command's turn has come, and a stack never grants beyond its limit (R249, R250). bank.easement_cfg waits for the next station, whose start installs the limit on the stacks of its mask and the slice (R251). -/
def Obligations.Easements : Prop :=
  (∀ (s v : State) (t : Nat) (st : StackNo), v = s.tick t →
    (v.dev.easeLimit st.val ≤ v.dev.nb.held[st].length → exec (.easementGrant t st) s = .next v) ∧
    (∀ (task : NbTask) (pre rest : List NbTask) (j : NbJob), v.dev.nb.held[st].length < v.dev.easeLimit st.val → v.dev.flash.pf = .idle →
      v.dev.nb.queues[st] = pre ++ task :: rest →
      (∀ x ∈ pre, (∃ h ∈ v.dev.nb.held[st], h.unit = x.unit) ∨ ∀ y, v.dev.job? x.job = some y → v.dev.nbBlocked y = true) →
      (∀ h ∈ v.dev.nb.held[st], h.unit ≠ task.unit) → v.dev.job? task.job = some j → v.dev.nbBlocked j = false →
      exec (.easementGrant t st) s = .next { v with dev := { v.dev with nb := { v.dev.nb with
        queues := v.dev.nb.queues.set st.val (pre ++ rest), held := v.dev.nb.held.set st.val (v.dev.nb.held[st] ++ [{ task with steps := 0 }]) } } })) ∧
  ((∀ (s v : State) (k : Take) (cmd : Cmd), v = s.tick k.t → Accepted k 0x0701 v cmd → cmd.f 0x40 4 < 2 ^ 20 → 1 ≤ cmd.f 0x44 1 → cmd.f 0x44 1 ≤ 32 → 256 ≤ cmd.f 0x48 4 →
    cmd.f 0x48 4 ≤ 65536 →
    exec (.bankEasementCfg k) s = .next (v.ran cmd { v.ready cmd with nb := { v.dev.nb with
      pend := v.dev.nb.pend ++ [(cmd.ref, BitVec.ofNat 20 (cmd.f 0x40 4), cmd.f 0x44 1, cmd.f 0x48 4)] } })) ∧
  (∀ (s v : State) (t : Nat) (ref : Ref) (cmd : Cmd) (mask : BitVec 20) (cap slice : Nat), v = s.tick t → v.dev.nb.pend = [(ref, mask, cap, slice)] → v.dev.cmd? ref = some cmd →
    (v.dev.station v.clk ≤ stationOf v.dev.plat.gens cmd.takenAt → exec (.easementCfgApply t) s = .next v) ∧
    (stationOf v.dev.plat.gens cmd.takenAt < v.dev.station v.clk →
      ∃ v', exec (.easementCfgApply t) s = .next v' ∧ v'.dev.nb.pend = [] ∧ v'.dev.nb.slice = slice ∧ v'.dev.cmd? ref = none ∧
        ∀ i : StackNo, v'.dev.nb.caps[i] = (if mask.getLsbD i.val then cap else v.dev.nb.caps[i]) ∧ v'.dev.nb.held[i].length ≤ v'.dev.easeLimit i.val)))

/-- adm.tenant_set and adm.shaper_set wait for the next refill tick, which installs their settings, no level being above its new size, and ends them ST_OK. A tick, a multiple of STATION_NS / 16, adds to every bucket what its rate gives in that time, whole credits with the remainder kept, up to its size; a tenant without ports keeps empty buckets and an unlimited shaper keeps its own; the tick happens once (R437, R445 to R448). -/
def Obligations.AdmissionSettingsAndTicks : Prop :=
  (∀ (s v : State) (k : Take) (cmd : Cmd), v = s.tick k.t → v.dev.adm.pendTenants = [] → v.dev.adm.pendShapers = [] →
    (∀ s1 : State, Accepted k 0x0A00 v cmd → admTenantSetBad v.clk (v.dev.takeCmd cmd) cmd = false →
      s1 = v.ran cmd { v.ready cmd with adm := { v.dev.adm with pendTenants := [(cmd.ref, cmd.f 0x40 2, cmd.tenantCfg)] } } →
      exec (.admTenantSet k) s = .next s1 ∧
      ∀ t : Nat, (s1.tick t).tickDue →
        ∃ v' x, exec (.refillTick t) s1 = .next v' ∧ NMap.get? v'.dev.adm.tenants (cmd.f 0x40 2) = some x ∧ x.cfg = cmd.tenantCfg ∧ x.tc.level ≤ x.cfg.cbs ∧ x.tp.level ≤ x.cfg.pbs ∧
          (x.cfg.portMask = 0 → x.tc = ⟨0, 0⟩ ∧ x.tp = ⟨0, 0⟩) ∧ v'.dev.adm.pendTenants = [] ∧ v'.dev.cmd? cmd.ref = none) ∧
    ∀ (s1 : State) (i : Fin 7), Accepted k 0x0A01 v cmd → admShaperSetBad v.clk (v.dev.takeCmd cmd) cmd = false → shaperIx (cmd.f 0x40 1) (cmd.f 0x41 1) = some i.val →
      s1 = v.ran cmd { v.ready cmd with adm := { v.dev.adm with pendShapers := [(cmd.ref, i.val, cmd.shaperCfg)] } } →
      exec (.admShaperSet k) s = .next s1 ∧
      ∀ t : Nat, (s1.tick t).tickDue →
        ∃ v', exec (.refillTick t) s1 = .next v' ∧ v'.dev.adm.shapers[i].cfg = cmd.shaperCfg ∧ v'.dev.adm.shapers[i].c.level ≤ cmd.f 0x50 8 ∧
          v'.dev.adm.shapers[i].p.level ≤ cmd.f 0x60 8 ∧ v'.dev.adm.pendShapers = [] ∧ v'.dev.cmd? cmd.ref = none) ∧
  (∀ (s v : State) (t : Nat), v = s.tick t → v.tickDue → v.dev.adm.pendTenants = [] → v.dev.adm.pendShapers = [] →
    ∃ v', exec (.refillTick t) s = .next v' ∧ exec (.refillTick t) v' = .next v' ∧
      (∀ n x, NMap.get? v.dev.adm.tenants n = some x →
        ∃ y, NMap.get? v'.dev.adm.tenants n = some y ∧ y.cfg = x.cfg ∧
          (if x.cfg.portMask = 0 then y.tc = ⟨0, 0⟩ ∧ y.tp = ⟨0, 0⟩
           else x.tc.Refilled y.tc x.cfg.cir x.cfg.cbs (v.dev.ns v.clk / 16) ∧ x.tp.Refilled y.tp x.cfg.pir x.cfg.pbs (v.dev.ns v.clk / 16))) ∧
      (∀ i : Fin 7, v'.dev.adm.shapers[i].cfg = v.dev.adm.shapers[i].cfg ∧
        (match v.dev.adm.shapers[i].cfg.cir with
         | none => v'.dev.adm.shapers[i].c = v.dev.adm.shapers[i].c
         | some r => v.dev.adm.shapers[i].c.Refilled v'.dev.adm.shapers[i].c r v.dev.adm.shapers[i].cfg.cbs (v.dev.ns v.clk / 16)) ∧
        (match v.dev.adm.shapers[i].cfg.pir with
         | none => v'.dev.adm.shapers[i].p = v.dev.adm.shapers[i].p
         | some r => v.dev.adm.shapers[i].p.Refilled v'.dev.adm.shapers[i].p r v.dev.adm.shapers[i].cfg.pbs (v.dev.ns v.clk / 16))))

/-! ### The plat -/

/-- plat.propose goes to the chair, which keeps one proposal until a beacon announces it; plat.status writes the node's view and its copies; plat.join enters the domain its member answers for, and waits for the answer; plat.join with FOUND stores the first generation and tells the other members (R363, R372 to R375, R433). -/
def Obligations.PlatCommands : Prop :=
  (∀ (s v : State) (k : Take) (cmd : Cmd) (cbs : List Space) (ready : List (Nat × Nat)) (os : List PlatOp) (r note : Dev), v = s.tick k.t → Accepted k 0x0B00 v cmd → r = v.ready cmd → note = r.noteAreas cmd.ref (proposeAreas r cmd) →
    AreasOk v cmd (proposeAreas (v.dev.takeCmd cmd) cmd) → proposeBad cbs v.clk (v.dev.takeCmd cmd) cmd = false → r.proposeOps cmd = some os → r.findRec .beacon cmd.key = none →
    (∀ f ∈ v.dev.plat.forwarded, f.key ≠ cmd.key) →
    (∀ d1 : Dev, v.dev.plat.chair = true → note.propose cmd os cbs (r.readyList ready) = .inr d1 →
      exec (.platPropose k cbs ready) s = .next (v.ran cmd { d1 with plat := { d1.plat with forwarded := d1.plat.forwarded ++ [⟨cmd.ref, cmd.key, none, 0⟩] } })) ∧
    (∀ st : Nat, v.dev.plat.chair = true → note.propose cmd os cbs (r.readyList ready) = .inl st →
      exec (.platPropose k cbs ready) s = .next (v.ran cmd (r.refuse cmd.ref st))) ∧
    ∀ n : Nat, v.dev.knownChair v.clk = some n → n ≠ v.dev.plat.nodeId →
      exec (.platPropose k cbs ready) s = .next (v.ran cmd
        { note.send clsControl n (.propose cmd.key (cmd.f 0x40 8) (cmd.f 0x48 8) os cbs) with plat := { v.dev.plat with
            forwarded := v.dev.plat.forwarded ++ [⟨cmd.ref, cmd.key, none, 0⟩] } })) ∧
  (∀ (s v : State) (k : Take) (cmd : Cmd) (n : Nat), v = s.tick k.t → Accepted k 0x0B01 v cmd → 64 ≤ cmd.resultLen → n = min v.dev.leaves.length ((cmd.resultLen - 64) / 16) →
    exec (.platStatus k) s = .next (v.ran cmd (((v.ready cmd).result cmd 0 ((v.ready cmd).statusBytes v.clk n ++
      ((v.dev.leaves.take n).map ((v.ready cmd).copyRecord v.clk)).flatten)).endCmd v.clk cmd.ref (if n < v.dev.leaves.length then stShort else stOk) 0 n []))) ∧
  (∀ (s v : State) (k : Take) (cmd : Cmd) (j : Joining), v = s.tick k.t → Accepted k 0x0B02 v cmd → cmd.e 0x58 1 = 0 → cmd.f 0x44 2 < 4096 → v.dev.domain? = none →
    j = ⟨cmd.ref, cmd.f 0x40 4, cmd.f 0x44 2, cmd.cak⟩ →
    (∀ g : PlatGen, g.domain = cmd.f 0x40 4 → versionOk g.version = true →
      exec (.platJoin k (some g)) s = .next (v.ran cmd (((v.ready cmd).enterDomain v.clk g [] j.member j.cak).endCmd v.clk cmd.ref stOk 0 0 []))) ∧
    (v.dev.plat.joining = none →
      exec (.platJoin k none) s = .next (v.ran cmd (({ v.ready cmd with plat := { v.dev.plat with joining := some j } } : Dev).send clsControl (cmd.f 0x44 2) (.fetchGen 0))))) ∧
  (∀ (s v : State) (k : Take) (cmd : Cmd) (g : PlatGen) (cbs : List Space) (d1 : Dev), v = s.tick k.t → Accepted k 0x0B02 v cmd → cmd.e 0x58 1 = 1 →
    AreasOk v cmd [(cmd.e 0x60 8, cmd.e 0x68 8)] → foundBad g cbs v.clk (v.dev.takeCmd cmd) cmd = false → versionOk g.version = true → v.dev.domain? = none →
    d1 = (v.ready cmd).enterDomain v.clk g cbs (cmd.f 0x44 2) cmd.cak →
    exec (.found k g cbs) s = .next (v.ran cmd ((({ d1 with plat := { d1.plat with
      founding := some (g, if g.quorum.contains d1.plat.nodeId then [d1.plat.nodeId] else []) } } : Dev).sendAll clsControl
        (g.quorum.filter fun n => n != d1.plat.nodeId) (.stored 1 0)).endCmd v.clk cmd.ref stOk 0 0 [])))

/-- The chair composes one beacon a station and sends it to the other members; what a beacon it adopted from an earlier term announced, and that was not agreed, it announces again; a generation it announces starts two stations later at the earliest and not before the proposal asks, and under a shorter station at a time that is a boundary of both (R141, R370). A beacon that fewer than three members have stored is not agreed; a member stores the chair's beacon and answers, if no later one stands there and the term is not past (R369). A node holds an agreed beacon that is newer than its own, and a member relays it first (R370). A member without a beacon for two stations and one more for each position offers itself under the next term and votes for itself; a member votes once a term, for a candidate whose latest stored beacon is at least as recent as its own; the third vote makes the candidate chair, which adopts the most recent beacon the voters stored, with its generations (R369, R370). -/
def Obligations.BeaconsAndElections : Prop :=
  ((∀ (s v : State) (t : Nat), v = s.tick t → v.dev.plat.chair = true → v.dev.live = true → (v.dev.position v.clk).isSome = true → v.dev.chairLapsed v.clk = false →
    (∀ b, v.dev.plat.stored = some b → b.station < v.dev.station v.clk) →
    ∃ v' b, exec (.beaconCompose t) s = .next v' ∧ v'.dev.plat.composing = some ⟨b, [v.dev.plat.nodeId]⟩ ∧ v'.dev.plat.stored = some b ∧
      b.station = v.dev.station v.clk ∧ b.term = v.dev.plat.term ∧ b.chair = v.dev.plat.nodeId ∧
      (∀ n ∈ v.dev.quorumNow v.clk, n ≠ v.dev.plat.nodeId → (n, .storeBeacon b) ∈ v'.dev.sent) ∧
      (∀ x, v.dev.adopted = some x → x.announced <+: b.announced ∧ x.outcomes <+: b.outcomes) ∧
      (∀ p old, v.dev.plat.proposal = some p → v.dev.newest = some old → 0 < p.result.timing.stationNs →
        ∃ g, b.announced = (v.dev.adopted.map (·.announced)).getD [] ++ [g] ∧ g = { p.result with term := v.dev.plat.term, fromStation := g.fromStation } ∧ b.station + 2 ≤ g.fromStation ∧ p.reqFrom ≤ g.fromStation ∧
          (g.timing.stationNs < old.timing.stationNs → g.fromStation * old.timing.stationNs % g.timing.stationNs = 0))) ∧
  (∀ (s v : State) (t member : Nat) (x : Composing), v = s.tick t → member < 4096 → v.dev.plat.founding = none → v.dev.plat.composing = some x → v.dev.plat.chair = true →
    x.stored.length < 2 → member ∉ x.stored → member ∈ v.dev.quorumNow v.clk →
    exec (.beaconAgreed t member x.beacon.term x.beacon.station) s =
      .next { v with dev := { v.dev with plat := { v.dev.plat with composing := some { x with stored := x.stored ++ [member] } } } }) ∧
  (∀ (s v : State) (t member pos : Nat) (x : Composing) (d : Dev), v = s.tick t → member < 4096 → v.dev.plat.founding = none → v.dev.plat.composing = some x → v.dev.plat.chair = true →
    x.stored.length = 2 → member ∉ x.stored → member ∈ v.dev.quorumNow v.clk → v.dev.position v.clk = some pos →
    d = { v.dev with plat := { v.dev.plat with composing := none, spaces := v.dev.plat.spaces ++ (v.dev.plat.proposal.map (·.codebooks)).getD [] } } →
    exec (.beaconAgreed t member x.beacon.term x.beacon.station) s = .next { v with dev := ((d.sendAll clsControl
      (((v.dev.quorumNow v.clk).filter fun n => n != v.dev.plat.nodeId) ++ (d.relayTargets v.clk pos).filter fun n => !((v.dev.quorumNow v.clk).contains n))
      (.beacon x.beacon)).hold v.clk x.beacon) }) ∧
  (∀ (s v : State) (t : Nat) (b : Beacon), v = s.tick t → v.dev.live = true → v.dev.plat.gens ≠ [] →
    ((v.dev.position v.clk).isSome = true → v.dev.plat.term ≤ b.term → (∀ x, v.dev.plat.stored = some x → x.station < b.station) → v.dev.plat.chair = false →
      exec (.beaconReceipt t b false) s = .next { v with dev := (v.dev.store b).send clsControl b.chair (.stored b.term b.station) }) ∧
    (v.dev.position v.clk = none → v.dev.plat.chair = false → (∀ x, v.dev.plat.beacon = some x → x.station < b.station) →
      exec (.beaconReceipt t b true) s = .next { v with dev := v.dev.hold v.clk b }) ∧
    (∀ p, v.dev.position v.clk = some p → v.dev.plat.chair = false → (∀ x, v.dev.plat.beacon = some x → x.station < b.station) →
      exec (.beaconReceipt t b true) s = .next { v with dev := ((v.dev.store b).sendAll clsControl (v.dev.relayTargets v.clk p) (.beacon b)).hold v.clk b }) ∧
    (∀ x, v.dev.plat.beacon = some x → b.station ≤ x.station → exec (.beaconReceipt t b true) s = .next v))) ∧
  ((∀ (s v : State) (t p : Nat), v = s.tick t → v.dev.live = true → v.dev.position v.clk = some p → v.dev.plat.chair = false → v.clk.valid = true → v.dev.plat.founding = none →
    (v.dev.silence v.clk < 2 + p → exec (.chairCandidacy t) s = .next v) ∧
    (2 + p ≤ v.dev.silence v.clk →
      ∃ v', exec (.chairCandidacy t) s = .next v' ∧ v'.dev.plat.term = v.dev.plat.term + 1 ∧ v'.dev.plat.candTerm = some (v.dev.plat.term + 1) ∧
        v'.dev.plat.votes = [v.dev.plat.nodeId] ∧ NMap.get? v'.dev.plat.voted (v.dev.plat.term + 1) = some v.dev.plat.nodeId ∧ v'.dev.plat.chair = false ∧
        ∀ n ∈ v.dev.quorumNow v.clk, n ≠ v.dev.plat.nodeId → (n, .candidacy (v.dev.plat.term + 1) ((v.dev.plat.stored.map (·.station)).getD 0)) ∈ v'.dev.sent)) ∧
  (∀ (s v : State) (t cand term station : Nat), v = s.tick t → cand < 4096 →
    ((NMap.get? v.dev.plat.voted term).isSome = true ∨ term < v.dev.plat.term ∨ station < (v.dev.plat.stored.map (·.station)).getD 0 →
      exec (.voteRequest t cand term station) s = .next v) ∧
    (v.dev.live = true → (v.dev.position v.clk).isSome = true → cand ∈ v.dev.quorumNow v.clk → v.dev.plat.term ≤ term → NMap.get? v.dev.plat.voted term = none →
      (v.dev.plat.stored.map (·.station)).getD 0 ≤ station → v.dev.plat.chair = false →
      ∃ v', exec (.voteRequest t cand term station) s = .next v' ∧ NMap.get? v'.dev.plat.voted term = some cand ∧ v'.dev.plat.term = term ∧
        v'.dev.sent = (v.dev.send clsControl cand (.vote term)).sent ∧ (∀ x, x ≠ term → NMap.get? v'.dev.plat.voted x = NMap.get? v.dev.plat.voted x))) ∧
  (∀ (s v : State) (t member term : Nat) (b : Option Beacon), v = s.tick t → member < 4096 → v.dev.plat.candTerm = some term → member ∈ v.dev.quorumNow v.clk →
    member ∉ v.dev.plat.votes →
    (v.dev.plat.votes.length < 2 →
      exec (.voteGrant t member term b) s = .next { v with dev := { v.dev with plat := { v.dev.plat with
        votes := v.dev.plat.votes ++ [member], stored := laterBeacon v.dev.plat.stored b } } }) ∧
    (∀ d : Dev, v.dev.plat.votes.length = 2 → d = { v.dev with plat := { v.dev.plat with
        chair := true, candTerm := none, votes := [], stored := laterBeacon v.dev.plat.stored b, term := term, heard := v.dev.station v.clk, composing := none } } →
      (v.dev.plat.stored = none → b = none → exec (.voteGrant t member term b) s = .next { v with dev := d }) ∧
      ∀ x, laterBeacon v.dev.plat.stored b = some x → exec (.voteGrant t member term b) s = .next { v with dev := d.adoptBeacon v.clk x })))

/-- A generation of this node's domain that arrives is learnt, and work that waited for it is taken up again, as when a codebook arrives that a known generation names; another domain's changes nothing (R371, R381). The start of a station: a quorum that comes into force takes over, connections take its DOMAIN_VERSION, a missed beacon is fetched, and monuments and leaves move on (R142, R194, R358, R370, R389, R553). -/
def Obligations.GenerationsAndStations : Prop :=
  (∀ (s v : State) (t : Nat) (g : PlatGen), v = s.tick t → v.dev.plat.joining = none →
    (v.dev.domain? ≠ some g.domain → exec (.generationFetched t g) s = .next v) ∧
    (v.dev.domain? = some g.domain → ((v.dev.learnGen v.clk g).retryAll v.clk).domain? = some g.domain →
      exec (.generationFetched t g) s = .next { v with dev := (v.dev.learnGen v.clk g).retryAll v.clk })) ∧
  (∀ (s v : State) (t : Nat) (sp : Space) (g : PlatGen) (x : PlatSpace), v = s.tick t → g ∈ v.dev.plat.gens → x ∈ v.dev.missingSpaces g → x = ⟨sp.id, sp.planGen, sp.tag⟩ → sp.formed = true →
    exec (.codebookFetch t sp) s = .next { v with dev := ({ v.dev with plat := { v.dev.plat with spaces := v.dev.plat.spaces ++ [sp] } } : Dev).retryAll v.clk }) ∧
  (∀ (s v : State) (t : Nat), v = s.tick t → v.dev.live = true → v.dev.plat.chair = false →
    exec (.stationStart t) s = .next { v with dev := (((((v.dev.newQuorum v.clk).versionStation v.clk).fetchMissed v.clk).monStation v.clk).leafStation v.clk) } ∧
    (∀ m : Monument, v.dev.leaves = [] → v.dev.plat.gens = [] → v.dev.nb.jobs = [] → v.dev.chain.monuments = [m] → m.move = none →
      (∀ k ∈ m.copies, k.use ≠ .gone ∧ k.home = false) →
      exec (.stationStart t) s = .next { v with dev := { v.dev with chain := { v.dev.chain with monuments := [m.boundary (v.dev.station v.clk) v.clk.valid] } } }))

/-! ### The fabric -/

/-- A fabric port's link comes UP with its eight lanes and no secure association, loses both when it goes down, and with MACSEC_EN is secure only after an association; a port that goes down supplies no time (R350, R352, R384). At an egress opportunity a CONTROL packet leaves first, unshaped; else a green packet of the lowest class, which debits both buckets of its shaper; a port that may not send sends nothing (R352, R449). -/
def Obligations.FabricLinksAndEgress : Prop :=
  (∀ (s v : State) (t : Nat) (q : FabPort) (f : FPort), v = s.tick t → f = v.dev.fab.ports[q] →
    (v.dev.service = true → f.enable = true → f.link = .training → v.dev.tst.loopHolds 1 q.val = false → v.dev.brd.lost = [] → v.dev.pwr.blkReset = none →
      exec (.fabricLinkUp t q) s = .next { v with dev := { v.dev with fab := { v.dev.fab with
        ports := v.dev.fab.ports.set q.val { f with link := .up, lanes := 0xFF, macsecUp := false } } } }) ∧
    (f.link = .up → exec (.fabricLinkDown t q) s = .next { v with
      clk := { v.clk with ptpPort := if v.clk.ptpPort = some q then none else v.clk.ptpPort },
      dev := { v.dev with fab := { v.dev.fab with ports := v.dev.fab.ports.set q.val { f with link := .down, lanes := 0, macsecUp := false } } } }) ∧
    (f.link = .up → f.macsecEn = true →
      (v.dev.plat.cak.isSome = true → exec (.secureAssociation t q) s = .next { v with dev := { v.dev with fab := { v.dev.fab with
        ports := v.dev.fab.ports.set q.val { f with macsecUp := true } } } }) ∧
      (v.dev.plat.cak = none → exec (.secureAssociation t q) s = .next v))) ∧
  (∀ (s v : State) (t : Nat) (q : FabPort), v = s.tick t →
    (v.dev.portSends q = false → exec (.egressOpportunity t q) s = .next v) ∧
    (∀ r : Ready, v.dev.portSends q = true → v.dev.readyOf v.clk q 0 = some r → exec (.egressOpportunity t q) s = .next { v with dev := v.dev.leave v.clk q 0 r }) ∧
    (∀ r : Ready, v.dev.portSends q = true → v.dev.readyOf v.clk q 0 = none → v.dev.readyOf v.clk q 1 = some r → (v.dev.shaper 0).peakPasses r.pkt.size = true →
      (v.dev.shaper 0).greenPasses r.pkt.size = true →
      ∃ v', exec (.egressOpportunity t q) s = .next v' ∧ v'.dev.fab.txLog = v.dev.fab.txLog ++ [v.dev.packetOut q 1 (v.dev.conn r.peer 1) r] ∧
        v'.dev.adm.shapers[0] = (v.dev.adm.shapers[0]).debit r.pkt.size true ∧ ∀ j : Fin 7, j ≠ 0 → v'.dev.adm.shapers[j] = v.dev.adm.shapers[j]))

/-- A DATA packet whose HCHECK is wrong is counted and changes nothing else but the time of the last packet; the next packet expected that brings a whole message delivers it once and moves the expected PSN on (R353, R354). An ACK packet of the connection is taken as an acknowledgement (R355). The timers of a connection: an acknowledgement leaves 5 µs after the first packet it answers, with the last PSN in order and the map of those beyond; packets whose timer has run out are to be sent again; after a round-trip time without an echo the rate rises by 1 Gb/s up to line rate; and after PEER_DEAD_NS without progress the peer counts as unreachable, and each connection to it fails back what it holds, starts again with HELLO and has nothing at egress (R355, R356). A HELLO of a version both ends support brings its connection up, anew if it was up, and the peer counts as reachable; one on an up connection that changes the withdrawn ports only notes them; another version leaves it down and the peer unreachable (R355, R358, R463). -/
def Obligations.TraverseConnections : Prop :=
  (∀ (s v : State) (t : Nat) (q : FabPort) (bs : List Byte) (h : TvHeader) (k : Conn) (d0 : Dev), v = s.tick t → v.dev.portPasses q = true → h = readHeader bs →
    k = v.dev.conn h.src h.tclass → d0 = { v.dev with fab := { v.dev.fab with ports := v.dev.fab.ports.set q.val { v.dev.fab.ports[q] with lastRx := v.clk.now } } } →
    (∀ ce : Bool, 32 ≤ bs.length → bs.length ≤ 8224 → checkOk bs = false → exec (.traverseData t q ce bs) s = .next { v with dev := d0.count 95 q.val 1 }) ∧
    (bs.length = 40 → checkOk bs = true → v.dev.packetOk bs h 2 = true →
      exec (.traverseAck t q bs) s = .next { v with dev := d0.takeAck v.clk h.src h.tclass h.ackPsn (fieldN bs 32 8) h.ceEcho }) ∧
    (∀ ce : Bool, 33 ≤ bs.length → bs.length ≤ 8224 → checkOk bs = true → v.dev.packetOk bs h 1 = true → h.msgOff = 0 → h.msgLen = bs.length - 32 → h.psn = k.rxCum → k.rxMap = [] →
      k.rxMsgs = [] → h.msgId = k.rxNextMsg →
      ∃ v', exec (.traverseData t q ce bs) s = .next v' ∧ v'.dev.fab.rxDone = v.dev.fab.rxDone ++ [(h.src, h.tclass, bs.drop 32)] ∧
        (v'.dev.conn h.src h.tclass).rxCum = (k.rxCum + 1) % 2 ^ 32 ∧ (v'.dev.conn h.src h.tclass).rxMap = [] ∧ (v'.dev.conn h.src h.tclass).rxMsgs = [])) ∧
  (∀ (s v : State) (t peer cls : Nat) (k : Conn), v = s.tick t → peer < 4096 → cls < 4 → k = v.dev.conn peer cls →
    (∀ x : Nat, k.ackDue = some x → x ≤ v.clk.now →
      ∃ v', exec (.ackTimer t peer cls) s = .next v' ∧ v'.dev.fab.acks = v.dev.fab.acks ++ [⟨peer, cls, (k.rxCum + 4294967295) % 4294967296, k.ackMap, k.ceSeen⟩] ∧
        v'.dev.conn peer cls = { k with unacked := 0, ackDue := none, ceSeen := false }) ∧
    (k.ackDue = none → exec (.ackTimer t peer cls) s = .next v) ∧
    (∀ p : TxPkt, k.outstanding = [p] → p.sentAt + min 1000000 (max 20000 (4 * k.srtt)) ≤ v.clk.now →
      ∃ v', exec (.retransmitTimeout t peer cls) s = .next v' ∧ v'.dev.conn peer cls = { k with outstanding := [], resend := k.resend ++ [p] }) ∧
    (k.up = true → max k.lastEcho k.lastRaise + k.srtt ≤ v.clk.now →
      ∃ v', exec (.rateRaise t peer cls) s = .next v' ∧ v'.dev.conn peer cls = { k with rate := min Config.lineRate (k.rate + 1000), lastRaise := v.clk.now }) ∧
    (∀ d : Dev, k.up = true → k.outstanding ≠ [] → k.progress + (v.dev.timing v.clk).peerDeadNs ≤ v.clk.now → peer ∉ v.dev.plat.unreachable →
      d = (({ v.dev with plat := { v.dev.plat with unreachable := v.dev.plat.unreachable ++ [peer] } } : Dev).count 98 0 1).losePeer v.clk peer →
      exec (.peerUnreachable t peer cls) s = .next { v with dev := d } ∧
      ((∀ j : Fin 4, (v.dev.conn peer j.val).msgs = []) → peer ∈ d.plat.unreachable ∧ ∀ j : Fin 4, (v.dev.conn peer j.val).up = true →
        d.conn peer j.val = Conn.fresh ∧ (peer, d.helloMsg j.val) ∈ d.sent ∧ ∀ m ∈ d.fab.egress[j], m.peer ≠ peer))) ∧
  (∀ (s v : State) (t peer cls vmin vmax n : Nat) (w : List FabPort) (d0 : Dev), v = s.tick t → peer < 4096 → cls < 4 → v.dev.live = true → n = v.dev.connVersion v.clk → versionOk n = true →
    d0 = { v.dev with plat := { v.dev.plat with ranges := NMap.put v.dev.plat.ranges peer (vmin, vmax) }, fab := { v.dev.fab with peerHeld := NMap.put v.dev.fab.peerHeld peer w } } →
    (∀ d1 d2 : Dev, vmin ≤ n → n ≤ vmax → ((v.dev.conn peer cls).up = false ∧ d1 = d0) ∨ ((v.dev.conn peer cls).up = true ∧ d0.fab.peerHeld = v.dev.fab.peerHeld ∧ d1 = d0.dropConn v.clk peer (clsFin cls)) →
      d2 = d1.updConn peer cls (fun k => { k with up := true, version := n, progress := v.clk.now }) →
      exec (.hello t peer cls vmin vmax w) s =
        .next { v with dev := ({ d2 with plat := { d2.plat with unreachable := d2.plat.unreachable.filter fun x => x != peer } } : Dev).askAgain v.clk peer }) ∧
    (vmin ≤ n → n ≤ vmax → (v.dev.conn peer cls).up = true → d0.fab.peerHeld ≠ v.dev.fab.peerHeld → exec (.hello t peer cls vmin vmax w) s = .next { v with dev := d0 }) ∧
    (n < vmin ∨ vmax < n → (v.dev.conn peer cls).msgs = [] →
      ∃ v', exec (.hello t peer cls vmin vmax w) s = .next v' ∧ (v'.dev.conn peer cls).up = false ∧ peer ∈ v'.dev.plat.unreachable))

/-! ### Datum time -/

/-- A PTP measurement of a port that passes frames, while SOURCE takes PTP and the node has a domain: in UNSYNC it counts towards the 16 within 250 ns that lock the unit, or starts the count again and steps the time; LOCKED, up to 1,000 ns it sets the bound to its magnitude and 8 ns, and VALID falls where that exceeds 1,000 ns; beyond 1,000 ns it steps the time and loses VALID; in HOLDOVER inside the bound it locks again, and outside it is no measurement. Frees that waited for VALID take place when it rises (R361, R365, R367). The pins: a TIME_1PPS edge is kept; a good TIME_TOD frame that comes in its window measures that edge against the second it names, while SOURCE is PINS or PTP supplies no time, and any other is ignored (R361, R364). A LOCKED unit that loses its source goes to HOLDOVER with its bound; when the bound passes 1,000 ns it is UNSYNC and VALID 0, and not before; VALID comes back once datum time has passed its highest value held while VALID was 1, and frees that waited for it take place (R365 to R367). -/
def Obligations.TimeSources : Prop :=
  (∀ (s v : State) (t : Nat) (q : FabPort) (off : Int) (c : Clock), v = s.tick t → v.dev.timeRuns = true → v.dev.usesPtp = true → v.dev.epoch?.isSome = true → v.dev.fab.ports[q].passes = true →
    v.dev.plat.chair = false → c = { v.clk with ptpPort := some q, pins := false } →
    (v.clk.state = .unsync → off.natAbs ≤ 250 → v.clk.lockRun < 15 → exec (.ptpMeasurement t q off) s = .next { v with clk := { c with lockRun := v.clk.lockRun + 1 } }) ∧
    (v.clk.state = .unsync → 250 < off.natAbs → exec (.ptpMeasurement t q off) s = .next { v with clk := { c with lockRun := 0, now := ((v.clk.now : Int) + off).toNat } }) ∧
    (∀ c1 : Clock, v.clk.state = .unsync → off.natAbs ≤ 250 → 15 ≤ v.clk.lockRun → v.clk.valid = false → v.clk.hiValid < v.clk.now →
      c1 = { c with state := .locked, errBound := off.natAbs + 8, lockRun := 0, valid := true } →
      exec (.ptpMeasurement t q off) s = .next { v with clk := c1, dev := v.dev.dueFrees c1 }) ∧
    (v.clk.state = .locked → v.clk.valid = true → off.natAbs ≤ 992 → exec (.ptpMeasurement t q off) s = .next { v with clk := { c with errBound := off.natAbs + 8, lockRun := 0 } }) ∧
    (v.clk.state = .locked → v.clk.valid = true → 992 < off.natAbs → off.natAbs ≤ 1000 →
      exec (.ptpMeasurement t q off) s = .next { v with clk := { c with errBound := off.natAbs + 8, lockRun := 0, valid := false, hiValid := max v.clk.hiValid v.clk.now } }) ∧
    (v.clk.state = .locked → v.clk.valid = true → 1000 < off.natAbs →
      exec (.ptpMeasurement t q off) s = .next { v with clk := { c with
        state := .unsync, errBound := 0xFFFFFFFF, lockRun := 0, valid := false, hiValid := max v.clk.hiValid v.clk.now, now := ((v.clk.now : Int) + off).toNat } }) ∧
    (v.clk.state = .holdover → v.clk.valid = true → 1000000000 * off.natAbs ≤ v.clk.holdBound v.dev.holdPpb → off.natAbs ≤ 992 →
      exec (.ptpMeasurement t q off) s = .next { v with clk := { c with state := .locked, errBound := off.natAbs + 8, lockRun := 0 } }) ∧
    (v.clk.state = .holdover → v.clk.holdBound v.dev.holdPpb < 1000000000 * off.natAbs → exec (.ptpMeasurement t q off) s = .next { v with clk := c })) ∧
  (∀ (s v : State) (t : Nat), v = s.tick t →
    (v.dev.timeRuns = true → v.dev.usesPins = true → exec (.time1pps t) s = .next { v with clk := { v.clk with edge := some v.clk.now } }) ∧
    (∀ (frame : List Byte) (e ep : Nat) (c1 : Clock), frame.length = 16 → v.clk.edge = some e → v.dev.epoch? = some ep → v.dev.timeRuns = true →
      v.dev.regs.source = 1 ∨ (v.dev.regs.source = 2 ∧ v.clk.ptpPort = none) →
      c1 = ({ v.clk with ptpPort := none, pins := true, edge := none } : Clock).measure ((fieldN frame 4 8 : Int) - 1000000000 * ep - e) v.dev.holdPpb →
      (todOk frame = true → todOnTime v.clk.now e = true →
        exec (.timeTod t frame) s = .next { v with clk := c1, dev := if v.clk.valid = false ∧ c1.valid = true then v.dev.dueFrees c1 else if v.dev.chairLapsed c1 = true then v.dev.stepDown else v.dev }) ∧
      (todOk frame = false ∨ todOnTime v.clk.now e = false → exec (.timeTod t frame) s = .next v)) ∧
    (v.clk.state = .locked → exec (.timeSourceLoss t) s = .next { v with clk := { v.clk with
      ptpPort := none, pins := false, edge := none, lockRun := 0, state := .holdover, holdAt := v.clk.now, holdBase := v.clk.errBound } }) ∧
    (v.dev.plat.chair = false → v.clk.state = .holdover → v.clk.valid = true →
      (1000000000000 < v.clk.holdBound v.dev.holdPpb → exec (.holdoverExpiry t) s = .next { v with clk := { v.clk with
        state := .unsync, errBound := 0xFFFFFFFF, valid := false, hiValid := max v.clk.hiValid v.clk.now, lockRun := 0 } }) ∧
      (v.clk.holdBound v.dev.holdPpb ≤ 1000000000000 → exec (.holdoverExpiry t) s = .next v)) ∧
    (v.clk.valid = false → v.clk.state = .locked → v.clk.errBound ≤ 1000 →
      (∀ c1 : Clock, v.clk.hiValid < v.clk.now → c1 = { v.clk with valid := true } → exec (.validReturn t) s = .next { v with clk := c1, dev := v.dev.dueFrees c1 }) ∧
      (v.clk.now ≤ v.clk.hiValid → v.clk.hiValid ≠ 0 → exec (.validReturn t) s = .next v)))

/-- In every step from a state that keeps the clock's rule: VALID stays within LOCKED or HOLDOVER and the bound (R365). While VALID is 1 datum time does not fall. When VALID falls, the highest value held is kept, and it stays while VALID is 0; VALID comes back to 1 only when datum time has passed it (R366). A unit that starts anew at a cold reset or a loss of power holds nothing (R474). -/
def Obligations.DatumTimeHolds : Prop :=
  ∀ s s' : State, s.clk.Ok → step s = .next s' →
    s'.clk.Ok ∧ (s.clk.valid = true → s'.clk.valid = true → s.clk.now ≤ s'.clk.now) ∧
      (s.clk.valid = true → s'.clk.valid = false → s'.clk = Clock.reset ∨ (s.clk.now ≤ s'.clk.hiValid ∧ s.clk.hiValid ≤ s'.clk.hiValid)) ∧
      (s.clk.valid = false → s'.clk.valid = false → s'.clk = Clock.reset ∨ s'.clk.hiValid = s.clk.hiValid) ∧
      (s.clk.valid = false → s'.clk.valid = true → s.clk.hiValid < s'.clk.now ∨ s.clk.hiValid = 0)

/-! ### Tests and deadlines -/

/-- A loop-back takes its unit out of service: depth 4 of a host port opens an empty echo window and of a fabric port sends LEN bytes to its node, any other depth takes the link under test down; a unit under test or still in service makes it end ST_BUSY (R528 to R531). It ends with its result, ST_OK once LEN bytes are compared, ST_SHORT where the pattern never locked or the peer was lost first (R529, R532, R533). test.bist ends ST_BUSY when a selected unit is not held and idle, and otherwise runs on the units that SCOPE selects; where none is selected it ends at once. PROGRESS counts the units tested; the command ends with one record for each, ST_OK when each passed or was repaired, and the arrays that gave a wrong value go out of use (R50, R534 to R536). -/
def Obligations.LoopbacksAndSelfTests : Prop :=
  ((∀ (s v : State) (k : Take) (cmd : Cmd) (r d : Dev) (i u m : Nat), v = s.tick k.t → Accepted k 0x0D00 v cmd → testLoopbackBad v.clk (v.dev.takeCmd cmd) cmd = false → r = v.ready cmd →
    i = cmd.f 0x40 1 → u = cmd.f 0x41 1 → m = cmd.f 0x42 1 → (∀ l ∈ v.dev.tst.loops, l.iface ≠ 1) →
    d = { r with tst := { v.dev.tst with loops := v.dev.tst.loops ++ [{ ref := cmd.ref, iface := i, unit := u, depth := m, len := cmd.f 0x48 8, node := cmd.f 0x50 2, bytes := 0, bad := 0, echoed := 0 }] } } →
    (r.tst.onUnit i u = true ∨ r.loopReady v.clk i u m = false → exec (.testLoopback k) s = .next (v.ran cmd (r.refuse cmd.ref stBusy))) ∧
    (r.tst.onUnit i u = false → r.loopReady v.clk i u m = true →
      (2 ≤ i → exec (.testLoopback k) s = .next (v.ran cmd d)) ∧
      (∀ q : FabPort, i = 1 → u = q.val → m ≠ 4 →
        exec (.testLoopback k) s = .next { v.ran cmd ({ d with fab := { d.fab with ports := vupdN d.fab.ports q.val fun x => { x with link := .down, lanes := 0, macsecUp := false } } }) with
          clk := { v.clk with ptpPort := if v.clk.ptpPort = some q then none else v.clk.ptpPort } }) ∧
      (i = 1 → m = 4 → exec (.testLoopback k) s = .next (v.ran cmd (d.send clsBulk (cmd.f 0x50 2) (.echo (cmd.f 0x48 8))))) ∧
      (∀ p : Port, i = 0 → u = p.val → (m = 4 → exec (.testLoopback k) s = .next (v.ran cmd (d.updPort p fun x => { x with echo := some [], echoRead := 0 }))) ∧
        (m ≠ 4 → exec (.testLoopback k) s = .next (v.ran cmd (d.portReset v.clk p)))))) ∧
  (∀ (s v : State) (t i u : Nat) (l : LoopTest), v = s.tick t → i < 4 → v.dev.tst.loops.find? (fun l => l.iface = i && l.unit = u) = some l →
    (l.depth ≠ 4 → exec (.loopbackLockTimeout t i u) s = .next { v with dev := v.dev.loopEnd v.clk l ⟨0, 0, none, [], 0⟩ stShort }) ∧
    (∀ r : LoopRes, l.depth ≠ 4 → exec (.testComplete t i u r) s = .next { v with dev :=
      (v.dev.loopEnd v.clk l { r with bytes := min r.bytes l.len } (if l.len ≤ r.bytes then stOk else stShort)) }) ∧
    (∀ r : LoopRes, l.depth = 4 → i = 1 → l.iface = 1 → exec (.testComplete t i u r) s = .next { v with dev :=
      (v.dev.loopEnd v.clk l { r with bytes := l.bytes, errBits := l.bad, echoed := l.echoed } (if l.len ≤ l.bytes then stOk else stShort)) }) ∧
    (∀ (r : LoopRes) (p : Port) (n : Nat), l.depth = 4 → i = 0 → l.iface = 0 → l.unit = p.val → u = p.val → n = (v.dev.port p).echoRead →
      (n < l.len → (v.dev.port p).linkUp = true → exec (.testComplete t i u r) s = .next v) ∧
      (l.len ≤ n ∨ (v.dev.port p).linkUp = false → exec (.testComplete t i u r) s = .next { v with dev := v.dev.loopEnd v.clk l ⟨n, 0, none, [], n / 64⟩ (if l.len ≤ n then stOk else stShort) }))) ∧
  (∀ (s v : State) (t len bad : Nat) (l : LoopTest), v = s.tick t → v.dev.tst.loops = [l] → l.iface = 1 → l.depth = 4 →
    (l.bytes + len < l.len → exec (.loopbackEcho t len bad) s = .next { v with dev := { v.dev with tst := { v.dev.tst with
      loops := [{ l with bytes := l.bytes + len, bad := l.bad + bad, echoed := l.echoed + 1 }] } } }) ∧
    (l.len ≤ l.bytes + len → (v.dev.cmd? l.ref).isSome = true → ∃ v', exec (.loopbackEcho t len bad) s = .next v' ∧ v'.dev.tst.loops = [] ∧ v'.dev.cmd? l.ref = none))) ∧
  ((∀ (s v : State) (k : Take) (cmd : Cmd) (us : List (Nat × Nat × Nat)), v = s.tick k.t → Accepted k 0x0D01 v cmd → cmd.f 0x40 4 ≤ 15 → us = (v.ready cmd).bistUnits (cmd.f 0x40 4) →
    ((∃ u ∈ us, (v.ready cmd).bistReady v.clk u = false) → exec (.testBist k) s = .next (v.ran cmd ((v.ready cmd).refuse cmd.ref stBusy))) ∧
    (us = [] → exec (.testBist k) s = .next (v.ran cmd ((v.ready cmd).endCmd v.clk cmd.ref stOk 0 0 []))) ∧
    (us ≠ [] → (∀ u ∈ us, (v.ready cmd).bistReady v.clk u = true) → exec (.testBist k) s = .next (v.ran cmd ((v.ready cmd).bistBegin ⟨cmd.ref, BitVec.ofNat 4 (cmd.f 0x40 4), us, []⟩)))) ∧
  (∀ (s v : State) (t : Nat) (b : BistTest) (r : BistRec) (cmd : Cmd) (bs : List BistTest) (d : Dev), v = s.tick t → v.dev.tst.bists = [b] → b.recs = [] → r.result ≤ 2 →
    v.dev.cmd? b.ref = some cmd → 16 ≤ cmd.resultLen →
    d = (if r.kind = 0 ∧ r.bit = 1 then { v.dev with tst := { v.dev.tst with bists := bs }, scan := { v.dev.scan with
           dies := vupdN v.dev.scan.dies r.unit fun (a : Arrays) => { a with working := a.working - r.fails } } }
         else { v.dev with tst := { v.dev.tst with bists := bs } }) →
    (b.units = [(r.kind, r.unit, r.bit)] → bs = [] →
      exec (.bistComplete t b.ref.port b.ref.slot [r]) s =
        .next { v with dev := (((d.result cmd 0 (BistRec.out r)).endCmd v.clk b.ref (if r.result < 2 then stOk else stShort) 0 1 []).testOver v.clk) }) ∧
    (∀ u : Nat × Nat × Nat, b.units = [(r.kind, r.unit, r.bit), u] → u ≠ (r.kind, r.unit, r.bit) → bs = [{ b with recs := [r] }] → cmd.abandoned = false →
      exec (.bistComplete t b.ref.port b.ref.slot [r]) s = .next { v with dev := d.report b.ref stRunning (progressOf 1 2) 0 false false false })))

/-- A running command's DEADLINE ends it with ST_DEADLINE where its own rules say so: a gather keeps its prefix, a near-bank command stops, an operation on a table generation leaves it, a loop-back ends with the counts so far, and a model.run still queued ends with count 0 (the model's reading of R427, log 63); any other command runs on (R28, R186, R234, R254, R427, R533). -/
def Obligations.CommandDeadlines : Prop :=
  ∀ (s v : State) (t : Nat) (p : Port) (n : SlotNo) (cmd : Cmd), v = s.tick t →
    v.dev.cmds.running.find? (fun x => x.ref.port = p && x.ref.slot = n && !x.abandoned) = some cmd → v.dev.live = true →
    (∀ x : Reader, cmd.opcode = 0x0500 → v.dev.chain.readers = [x] → x.kind = .gather cmd.ref → x.deadline ≤ v.clk.now →
      exec (.commandDeadline t p n) s = .next { v with dev := (v.dev.endCmd v.clk cmd.ref stDeadline 1 x.count []).endReader x.id }) ∧
    (∀ d : Dev, cmd.opcode = 0x0700 → cmd.deadline ≠ 0 → cmd.deadline ≤ v.clk.now →
      (cmd.f 0x40 1 ≠ 1 → exec (.commandDeadline t p n) s = .next { v with dev := v.dev.stopNb v.clk cmd.ref }) ∧
      (cmd.f 0x40 1 = 1 → d = v.dev.stopRows v.clk cmd.key → (d.cmd? cmd.ref = none → exec (.commandDeadline t p n) s = .next { v with dev := d }) ∧
        ((d.cmd? cmd.ref).isSome = true → exec (.commandDeadline t p n) s = .next { v with dev := d.endCmd v.clk cmd.ref stDeadline 0 (v.dev.shownCount cmd) [] }))) ∧
    (∀ (g : Nat) (x : Nat × TableGen), cmd.opcode = 0x0602 → cmd.deadline ≠ 0 → cmd.deadline ≤ v.clk.now → g = x.1 → v.dev.mdl.gens = [x] → x.2.pend.map (·.1) = some cmd.ref →
      exec (.commandDeadline t p n) s = .next { v with dev := v.dev.tableGenDeadline v.clk g cmd.ref }) ∧
    (∀ l : LoopTest, cmd.opcode = 0x0D00 → cmd.deadline ≠ 0 → cmd.deadline ≤ v.clk.now → v.dev.tst.loops = [l] → l.ref = cmd.ref → l.depth = 4 → l.iface = 1 →
      exec (.commandDeadline t p n) s = .next { v with dev :=
        (v.dev.loopEnd v.clk l { LoopRes.none with bytes := l.bytes, errBits := l.bad, echoed := l.echoed } stDeadline) }) ∧
    (cmd.opcode = 0x0300 → cmd.ref ∈ v.dev.root.waiting → v.dev.deadlineOf v.clk cmd ≤ v.clk.now →
      exec (.commandDeadline t p n) s = .next { v with dev :=
        (({ v.dev with root := { v.dev.root with waiting := v.dev.root.waiting.filter fun r => r != cmd.ref } } : Dev).refuse cmd.ref stDeadline) }) ∧
    (∀ x : Run, cmd.opcode = 0x0601 → v.dev.mdl.waves = [] → v.dev.mdl.runs = [x] → x.ref = some cmd.ref → x.deadline ≤ v.clk.now →
      exec (.commandDeadline t p n) s = .next { v with dev := (({ v.dev with mdl := { v.dev.mdl with runs := [] } } : Dev).endCmd v.clk cmd.ref stDeadline 0 0 []) }) ∧
    (cmd.opcode ∉ [0x0300, 0x0500, 0x0601, 0x0602, 0x0700, 0x0D00] → exec (.commandDeadline t p n) s = .next v)

/-! ### Resets, images and the start -/

/-- A block reset starts on a held, idle block while no other runs and the node is in PS0 or PS1, and ends with ST_BUSY in PS2, while another runs, or on a block in use (R465, R468); a search die's arrays, a flash channel's rate and a fabric port's link are what it leaves when it ends ST_OK, and work that waited for the block goes on (R319, R466, R467). Firmware: an image goes whole into the inactive set; a set that checks becomes active in trial with a warm reset, one that fails its keys or signatures ends ST_AUTH, and one that names no compatible version ST_VERSION. A reset package from the fabric resets the node when all of R502 holds; any other is dropped, counted and logged (R497, R498, R502). -/
def Obligations.BlockResetsAndFirmware : Prop :=
  ((∀ (s v : State) (k : Take) (cmd : Cmd), v = s.tick k.t → TurnedAway k 0x0102 v cmd → blockPairOk (cmd.f 0x40 1) (cmd.f 0x41 1) = true → cmd.f 0x40 1 ≠ 7 → v.dev.pwr.ps = 2 →
    exec (.devBlockReset k) s = .next { v with clk := ((v.ready cmd).refuse cmd.ref stBusy).resetPort v.clk, dev := (v.ready cmd).refuse cmd.ref stBusy }) ∧
  (∀ (s v : State) (k : Take) (cmd : Cmd) (r : Dev) (b u : Nat), v = s.tick k.t → Accepted k 0x0102 v cmd → r = v.ready cmd → b = cmd.f 0x40 1 → u = cmd.f 0x41 1 → blockPairOk b u = true → b ≠ 7 →
    (v.dev.pwr.blkReset.isSome = true ∨ r.idle v.clk b u = false →
      exec (.devBlockReset k) s = .next { v.ran cmd (r.refuse cmd.ref stBusy) with clk := (v.ran cmd (r.refuse cmd.ref stBusy)).dev.resetPort v.clk }) ∧
    (v.dev.pwr.ps.toNat < 2 → v.dev.pwr.blkReset = none → r.idle v.clk b u = true →
      (b ≠ 3 → exec (.devBlockReset k) s = .next (v.ran cmd (({ r with pwr := { v.dev.pwr with blkReset := some ⟨cmd.ref, b, u⟩ } } : Dev).startBlock b u))) ∧
      (∀ q : FabPort, b = 3 → u = q.val → v.dev.fab.ports[q].enable = true →
        ∃ v', exec (.devBlockReset k) s = .next v' ∧ v'.dev.pwr.blkReset = some ⟨cmd.ref, 3, q.val⟩ ∧ v'.dev.fab.ports[q].link = .training ∧
          v'.clk.ptpPort ≠ some q))) ∧
  (∀ (s v : State) (t failed : Nat) (b : BlockReset) (d : Dev), v = s.tick t → v.dev.pwr.blkReset = some b → d = { v.dev with pwr := { v.dev.pwr with blkReset := none } } →
    (b.block = 1 → exec (.blockResetComplete t failed) s = .next { v with dev := (((d.count 121 1 1).endCmd v.clk b.ref stOk 0 0 []).chansGoOn v.clk) }) ∧
    (b.block = 0 → exec (.blockResetComplete t failed) s = .next { v with dev := (((({ d with scan := { d.scan with
      dies := vupdN d.scan.dies b.unit fun (a : Arrays) => ⟨a.working - failed, 0⟩ } } : Dev).count 121 0 1).endCmd v.clk b.ref stOk 0 0 []).chansGoOn v.clk) }) ∧
    (b.block = 2 → failed ≤ 7 → exec (.blockResetComplete t failed) s = .next { v with dev :=
      ((((d.updChan b.unit fun x => { x with rate := 3600 - 400 * failed }).count 121 2 1).endCmd v.clk b.ref stOk 0 0 []).chansGoOn v.clk) }) ∧
    (b.block = 2 → 7 < failed → exec (.blockResetComplete t failed) s = .next v) ∧
    (b.block = 3 → exec (.blockResetComplete t failed) s = .next { v with dev := (((({ d with fab := { d.fab with
      ports := vupdN d.fab.ports b.unit fun x => if x.link = .training then { x with link := .up, lanes := 0xFF } else x } } : Dev).count 121 3 1).endCmd v.clk b.ref stOk 0 0 []).chansGoOn v.clk) }))) ∧
  ((∀ (s v : State) (k : Take) (cmd : Cmd), v = s.tick k.t → Accepted k 0x0104 v cmd → fwStageBad v.clk (v.dev.takeCmd cmd) cmd = false →
    AreasOk v cmd (fwStageAreas (v.dev.takeCmd cmd) cmd) → v.dev.start.phase = .service → cmd.f 0x50 8 ≠ 0 →
    exec (.devFwStage k) s = .next (v.ran cmd (({ v.ready cmd with start :=
      (v.dev.start.putImage (!v.dev.start.dir.active) (cmd.f 0x40 1) ((v.ready cmd).partRead cmd.ref.port (cmd.f 0x48 8) (cmd.f 0x50 8))) } : Dev).endCmd v.clk cmd.ref stOk 0 0 []))) ∧
  (∀ (s v : State) (k : Take) (cmd : Cmd) (sig : List Bool), v = s.tick k.t → sig.length = 3 → Accepted k 0x0105 v cmd → v.dev.start.phase = .service →
    cmd.f 0x40 1 = (if v.dev.start.dir.active then 0 else 1) →
    (v.fuse.checkSet (v.dev.start.set (!v.dev.start.dir.active)) sig = .refused →
      exec (.devFwActivate k sig) s = .next (v.ran cmd ((v.ready cmd).refuse cmd.ref stAuth))) ∧
    (v.fuse.checkSet (v.dev.start.set (!v.dev.start.dir.active)) sig = .incompatible →
      exec (.devFwActivate k sig) s = .next (v.ran cmd ((v.ready cmd).refuse cmd.ref stVersion))) ∧
    (v.fuse.checkSet (v.dev.start.set (!v.dev.start.dir.active)) sig = .accepted → ∃ v', exec (.devFwActivate k sig) s = .next v' ∧ WarmBegun v v' 1)) ∧
  (∀ (s v : State) (t : Nat) (img : List Byte) (node notBefore notAfter nonce : Nat) (sig : Bool), v = s.tick t → v.dev.service = true →
    (v.dev.resetPkgOk v.fuse v.clk img node notBefore notAfter nonce sig = true →
      ∃ v', exec (.resetPackage t img node notBefore notAfter nonce sig) s = .next v' ∧ WarmBegun v v' 1) ∧
    (nonce ≤ v.dev.start.dir.nonce ∨ v.clk.valid = false ∨ v.clk.now < notBefore ∨ notAfter < v.clk.now ∨ node ≠ v.dev.plat.nodeId ∨ sig = false →
      exec (.resetPackage t img node notBefore notAfter nonce sig) s = .next { v with dev := ((v.dev.count 122 0 1).logErr v.clk 0 0 0 8 node Config.noParcel 1 0) })))

/-- A warm reset by a command on NODE, the watchdog or an uncorrectable control-SRAM word, with its cause (R403, R407, R457, R458). A port reset takes the link down, clears the port's slots, vectors' enables and take order, and abandons its commands: what still runs of them writes nothing (R40, R413). Over a warm or cold reset that begins, the set directory, the straps and the retired frames stay (R273, R459, R474, R491). -/
def Obligations.WarmAndPortResets : Prop :=
  ((∀ (s v : State) (k : Take) (cmd : Cmd), v = s.tick k.t → Accepted k 0x0102 v cmd → cmd.f 0x40 1 = 7 → cmd.f 0x41 1 = 0 →
    ∃ v', exec (.devBlockResetNode k) s = .next v' ∧ WarmBegun v v' 1) ∧
  (∀ (s v : State) (t : Nat), v = s.tick t → v.dev.start.phase = .service ∨ v.dev.start.phase = .backsight →
    (∀ core : Fin 16, ∃ v', exec (.watchdogExpiry t core) s = .next v' ∧ WarmBegun v v' 2) ∧
    (∃ v', exec (.controlSramUncorrectable t) s = .next v' ∧ WarmBegun v v' 3))) ∧
  (∀ (s v : State) (t : Nat) (p : Port), v = s.tick t → v.dev.live = true →
    ∃ v', exec (.portReset t p) s = .next v' ∧ v'.clk = v.clk ∧ v'.fuse = v.fuse ∧ (v'.dev.port p).linkUp = false ∧ (v'.dev.port p).slots = [] ∧ (v'.dev.port p).lastSeq = [] ∧
      (v'.dev.port p).order = [] ∧ (v'.dev.port p).deferred = [] ∧ (v'.dev.port p).doneSummary = 0 ∧ (v'.dev.port p).agreed = none ∧ (v'.dev.port p).modUs = 0x10 ∧
      (∀ x ∈ v'.dev.cmds.running, x.ref.port = p → x.abandoned = true)) ∧
  (∀ (s s' v : State) (t : Nat), v = s.tick t →
    ((∃ core : Fin 16, exec (.watchdogExpiry t core) s = .next s') ∨ exec (.controlSramUncorrectable t) s = .next s' ∨ exec (.resetNAssert t) s = .next s' ∨
      (∃ b : Bool, exec (.supplyLoss t b) s = .next s') ∨ (∃ k : RefClk, exec (.refclkLoss t k) s = .next s')) → StaysOver v s')

/-- A start that fails: at stake 1 no record is left and the node answers on no port; a stake that fails raises the failure count and resets the node with WARM_CAUSE 2; at three failures the node stops after stake 4 in backsight mode with host port 0 alone, and no fuse changes (R485, R491). A cold or warm start in which nothing hangs and no mandatory stake fails completes: the node serves, the failure count is 0 and the skip list is empty; and so does an exit from PS3 (R459, R472, R484 to R488, R491). -/
def Obligations.Starts : Prop :=
  (∀ (s v : State) (t : Nat) (o : StartOutcome) (c : Instr) (d : Dev), v = s.tick t → o.wf = true → o.interrupted = none →
    (c = .coldReset t o ∧ d = (v.dev.sampleStraps o).openStart .cold ∧ v.dev.start.phase = .inReset ∧ v.dev.brd.pwrGood = true ∧ RefClk.clk25 ∉ v.dev.brd.lost) ∨
    (c = .warmReset t o ∧ d = v.dev.openStart .warm ∧ v.dev.start.phase = .warmPending) →
    (o.romOk = false → ∃ v', exec c s = .next v' ∧ v'.clk = v.clk ∧ v'.fuse = v.fuse ∧ v'.dev.start.phase = .dead ∧ v'.dev.start.log = v.dev.start.log) ∧
    (o.romOk = true → o.fusesOk = false → ∃ v', exec c s = .next v' ∧ v'.fuse = v.fuse ∧ v'.dev.start.phase = .warmPending ∧ v'.dev.start.dir.fails = d.start.dir.fails + 1 ∧
      v'.dev.start.failedAt = 2 ∧ v'.dev.regs.warmValid = true ∧ v'.dev.regs.warmCause = 2) ∧
    (o.romOk = true → o.fusesOk = true → o.clocksOk = true → o.sramOk = true → 3 ≤ d.start.dir.fails → (∀ p : Port, (v.dev.port p).linkUp = false) →
      ∃ v', exec c s = .next v' ∧ v'.fuse = v.fuse ∧ v'.dev.start.phase = .backsight ∧ v'.dev.start.stake = 4 ∧ v'.dev.start.dir = d.start.dir ∧
        ∀ p : Port, p ≠ 0 → (v'.dev.port p).linkUp = false)) ∧
  ((∀ (s v : State) (t : Nat) (o : StartOutcome) (c : Instr) (d : Dev), v = s.tick t → o.wf = true → CleanStart o v.dev → o.romOk = true → o.fusesOk = true → o.sramOk = true →
    (c = .coldReset t o ∧ d = (v.dev.sampleStraps o).openStart .cold ∧ o.bootSrc < 2 ∧ o.clkMode < 3 ∧ v.dev.start.phase = .inReset ∧ v.dev.brd.pwrGood = true ∧
      RefClk.clk25 ∉ v.dev.brd.lost) ∨
    (c = .warmReset t o ∧ d = v.dev.openStart .warm ∧ v.dev.start.bootSrc.toNat < 2 ∧ v.dev.start.clkMode.toNat < 3 ∧ v.dev.start.phase = .warmPending) →
    v.fuse.checkSet (d.start.set d.start.dir.active) o.sigActive = .accepted → d.fallBack = false → d.start.dir.fails < 3 →
    ∃ v', exec c s = .next v' ∧ v'.clk = v.clk ∧ v'.dev.start.phase = .service ∧ v'.dev.start.stake = 10 ∧ v'.dev.start.dir.fails = 0 ∧ v'.dev.start.skip = [] ∧
      v'.dev.start.dir.active = d.start.dir.active ∧ (d.start.dir.trial = false → v'.fuse = v.fuse)) ∧
  (∀ (s v : State) (t : Nat) (o : StartOutcome), v = s.tick t → o.wf = true → CleanStart o v.dev → v.dev.start.phase = .service → v.dev.pwr.ps = 3 →
    (v.dev.brd.wakeSeen = true → ∃ v', exec (.wake t o) s = .next v' ∧ v'.dev.start.phase = .service ∧ v'.dev.pwr.ps = 0 ∧ v'.dev.start.stake = 10) ∧
    (v.clk.valid = true → v.dev.pwr.wakeAt ≠ 0 → v.dev.pwr.wakeAt.toNat ≤ v.clk.now →
      ∃ v', exec (.wakeAt t o) s = .next v' ∧ v'.dev.start.phase = .service ∧ v'.dev.pwr.ps = 0 ∧ v'.dev.start.stake = 10)))

/-! ### Power, supply and heat -/

/-- dev.power_state: a request for the current state ends ST_OK, one during a transition ST_BUSY, one for PS2 or PS3 ST_BUSY unless the node is at rest; any other is a transition in progress until the work that the state excludes has ended and the state is reached, which PS_ENTRIES counts; on the way out of PS2 flash channels take the rates they train to (R317, R469 to R472, R478). The governor averages up to 10,000 samples and above 2,700 W takes array issue to 15 notches at once; it adds a notch in the order array issue, easements, flash background, and removes one in the reverse order, when R476 and R516 say so (R476, R478). -/
def Obligations.PowerStatesAndGovernor : Prop :=
  ((∀ (s v : State) (k : Take) (cmd : Cmd), v = s.tick k.t → Accepted k 0x0103 v cmd → cmd.f 0x40 1 ≤ 3 →
    (v.dev.pwr.transition.isSome = true → exec (.devPowerState k) s = .next (v.ran cmd ((v.ready cmd).refuse cmd.ref stBusy))) ∧
    (v.dev.pwr.transition = none → cmd.f 0x40 1 = v.dev.pwr.ps.toNat → exec (.devPowerState k) s = .next (v.ran cmd ((v.ready cmd).endCmd v.clk cmd.ref stOk 0 0 []))) ∧
    (v.dev.pwr.transition = none → cmd.f 0x40 1 ≠ v.dev.pwr.ps.toNat → 2 ≤ cmd.f 0x40 1 → v.dev.leaves ≠ [] →
      exec (.devPowerState k) s = .next (v.ran cmd ((v.ready cmd).refuse cmd.ref stBusy))) ∧
    (v.dev.pwr.transition = none → cmd.f 0x40 1 ≠ v.dev.pwr.ps.toNat → (cmd.f 0x40 1 < 2 ∨ (v.ready cmd).mayRest v.clk cmd.ref = true) →
      exec (.devPowerState k) s = .next (v.ran cmd { v.ready cmd with pwr := { v.dev.pwr with target := BitVec.ofNat 2 (cmd.f 0x40 1), transition := some cmd.ref } }))) ∧
  (∀ (s v : State) (t : Nat) (rates : List Nat) (r : Ref) (d0 d : Dev), v = s.tick t → rates = [] ∨ rates.length = 32 → v.dev.pwr.transition = some r →
    d0 = (if v.dev.pwr.ps = 2 ∧ v.dev.pwr.target.toNat < 2 then v.dev.retrainFlash rates else v.dev) → d = { d0 with pwr := { d0.pwr with ps := v.dev.pwr.target, transition := none } } →
    (v.dev.pwr.target = 0 → exec (.psTransitionComplete ⟨t, rates⟩) s = .next { v with dev := d.endCmd v.clk r stOk 0 0 [] }) ∧
    (v.dev.pwr.target = 1 → v.dev.arraysIdle = true → exec (.psTransitionComplete ⟨t, rates⟩) s = .next { v with dev := (d.failScans.count 120 1 1).endCmd v.clk r stOk 0 0 [] }) ∧
    (v.dev.pwr.target = 2 → v.dev.arraysIdle = true → v.dev.flashQuiet = true →
      exec (.psTransitionComplete ⟨t, rates⟩) s = .next { v with dev := (d.sramOff.count 120 2 1).endCmd v.clk r stOk 0 0 [] }) ∧
    (v.dev.pwr.target ≠ 0 → v.dev.arraysIdle = false → exec (.psTransitionComplete ⟨t, rates⟩) s = .next v) ∧
    (v.dev.pwr.target = 3 → v.dev.arraysIdle = true → v.dev.flashQuiet = true → v.clk.ptpPort = none →
      ∃ v', exec (.psTransitionComplete ⟨t, rates⟩) s = .next v' ∧ v'.clk = v.clk ∧ v'.dev.pwr.ps = 3 ∧ v'.dev.pwr.transition = none ∧
        (∀ p : Port, (v'.dev.port p).linkUp = false) ∧ ∀ q : FabPort, v'.dev.fab.ports[q].link = .down))) ∧
  (∀ (s v : State) (t : Nat), v = s.tick t → v.dev.live = true →
    (∀ watts : Nat, v.dev.pwr.samples = [] → watts ≤ v.dev.capW → exec (.governorSample t watts) s = .next { v with dev :=
      { v.dev.count 112 0 (Config.freeValue (v.dev.freeCtr + 2)) with pwr := { v.dev.pwr with samples := [watts], powerW := watts, peakW := max v.dev.pwr.peakW watts, overSince := none }, brd := { v.dev.brd with vin := Config.freeValue v.dev.freeCtr % 65536, iin := Config.freeValue (v.dev.freeCtr + 1) % 65536 }, freeCtr := v.dev.freeCtr + 3 } }) ∧
    (∀ watts : Nat, 2700 < watts → ∃ v', exec (.governorSample t watts) s = .next v' ∧ v'.dev.pwr.issueNotch = 15 ∧ v'.dev.pwr.easeNotch = v.dev.pwr.easeNotch ∧
      v'.dev.pwr.samples = (watts :: v.dev.pwr.samples).take 10000 ∧ v'.dev.pwr.peakW = max v.dev.pwr.peakW watts ∧
      v'.dev.cnt = ((v.dev.count 112 0 (Config.freeValue (v.dev.freeCtr + 2))).count 119 0 1).cnt) ∧
    (v.dev.brd.hot = false → v.dev.pwr.powerW + 50 ≤ v.dev.capW → v.dev.pwr.overSince = none → exec (.governorNotchAdd t) s = .next v) ∧
    (v.dev.brd.hot = true ∨ v.dev.capW < v.dev.pwr.powerW + 50 →
      (v.dev.pwr.issueNotch < 15 → exec (.governorNotchAdd t) s = .next { v with dev := { v.dev with pwr := { v.dev.pwr with issueNotch := v.dev.pwr.issueNotch + 1 } } }) ∧
      (15 ≤ v.dev.pwr.issueNotch → v.dev.pwr.easeNotch < 8 →
        ∃ v', exec (.governorNotchAdd t) s = .next v' ∧ v'.dev.pwr = { v.dev.pwr with easeNotch := v.dev.pwr.easeNotch + 1 }) ∧
      (15 ≤ v.dev.pwr.issueNotch → 8 ≤ v.dev.pwr.easeNotch → v.dev.pwr.bgNotch < 4 →
        exec (.governorNotchAdd t) s = .next { v with dev := { v.dev with pwr := { v.dev.pwr with bgNotch := v.dev.pwr.bgNotch + 1 } } })) ∧
    (v.dev.brd.hot = false → v.dev.flash.held = false → v.dev.pwr.powerW + 150 < v.dev.capW → v.dev.pwr.samples.headD 0 < v.dev.capW →
      (0 < v.dev.pwr.bgNotch → exec (.governorNotchRemove t) s = .next { v with dev := { v.dev with pwr := { v.dev.pwr with bgNotch := v.dev.pwr.bgNotch - 1 } } }) ∧
      (v.dev.pwr.bgNotch = 0 → 0 < v.dev.pwr.easeNotch →
        exec (.governorNotchRemove t) s = .next { v with dev := { v.dev with pwr := { v.dev.pwr with easeNotch := v.dev.pwr.easeNotch - 1 } } }) ∧
      (v.dev.pwr.bgNotch = 0 → v.dev.pwr.easeNotch = 0 →
        exec (.governorNotchRemove t) s = .next { v with dev := { v.dev with pwr := { v.dev.pwr with issueNotch := v.dev.pwr.issueNotch - 1 } } })))

/-- Heat: THERM_HOT holds from 103 °C until every sensor reads below 100 °C; at 115 °C the part trips and is off without a flush, a loss of power after which the trip holds until VIN falls below 30 V (R511, R515 to R517). PWR_FAIL_N, or VIN below 45.0 V, takes array issue to 15 notches, releases every easement, ends the tests and begins the flush, which is complete at once in PS2 and PS3; when the supply holds the engines resume 1 ms after PWR_FAIL_N is deasserted (R342, R343, R473, R512, R513, R533). -/
def Obligations.HeatAndPowerFailure : Prop :=
  (∀ (s v : State) (t : Nat), v = s.tick t →
    (∀ r : Reading, v.dev.start.phase ≠ .off → r.celsius < 115 → exec (.thermalSample t [r]) s = .next { v with dev := { v.dev with brd := { v.dev.brd with
      tjMax := r.celsius, hotDie := r.die, tjPeak := max v.dev.brd.tjPeak r.celsius,
      hot := decide (103 ≤ r.celsius) || (v.dev.brd.hot && decide (100 ≤ r.celsius)),
      hotSeen := v.dev.brd.hotSeen || decide (103 ≤ r.celsius) || (v.dev.brd.hot && decide (100 ≤ r.celsius)) } } }) ∧
    (∀ r : Reading, v.dev.start.phase ≠ .off → 115 ≤ r.celsius → ∃ v', exec (.thermalSample t [r]) s = .next v' ∧ ColdBegun v v' .off ∧ v'.dev.brd.tripped = true ∧ v'.dev.brd.pwrGood = false) ∧
    (v.dev.brd.tripped = true → exec (.powerOn t) s = .next v) ∧
    (v.dev.start.phase ≠ .off → ∀ below : Bool, ∃ v', exec (.supplyLoss t below) s = .next v' ∧ ColdBegun v v' .off ∧ v'.dev.brd.pwrGood = false ∧
      v'.dev.brd.tripped = (v.dev.brd.tripped && !below) ∧ v'.dev.brd.alwaysOn = (v.dev.brd.alwaysOn && !below)) ∧
    (v.dev.brd.tripped = false → v.dev.brd.pwrGood = false → exec (.powerOn t) s = .next { v with dev := { v.dev with
      brd := { v.dev.brd with alwaysOn := true, pwrGood := true, resetN := true }, start := { v.dev.start with phase := .inReset } } })) ∧
  ((∀ (s v : State) (t : Nat) (c : Instr), v = s.tick t → c = .pwrFailNAssert t ∨ c = .internalUndervoltage t → v.dev.start.phase = .service →
    ∃ v', exec c s = .next v' ∧ v'.dev.pwr.issueNotch = 15 ∧ (∀ i : Fin 20, v'.dev.nb.held[i] = []) ∧ v'.dev.tst.loops = [] ∧ v'.dev.tst.bists = [] ∧
      (v.dev.pwr.ps.toNat < 2 → v.dev.flash.pf = .idle → v'.dev.flash.pf = .flushing v.clk.now) ∧ (2 ≤ v.dev.pwr.ps.toNat → v'.dev.flash.pf = .done) ∧
      (c = .pwrFailNAssert t → v'.dev.brd.pwrFailN = true ∧ v'.dev.brd.pfSeen = true ∧ v'.dev.brd.uvSeen = v.dev.brd.uvSeen) ∧
      (c = .internalUndervoltage t → v'.dev.brd.uvSeen = true ∧ v'.dev.brd.pfSeen = v.dev.brd.pfSeen)) ∧
  (∀ (s v : State) (t x : Nat), v = s.tick t → v.dev.flash.pf = .flushing x →
    (v.dev.brd.deferred = none → v.dev.flushed = true → exec (.pfDone t) s = .next { v with dev := { v.dev with flash := { v.dev.flash with pf := .done } } }) ∧
    (v.dev.brd.deferred = none → v.dev.flushed = false → exec (.pfDone t) s = .next v) ∧
    (v.dev.brd.deferred = none → exec (.pwrFailNDeassert t) s = .next { v with dev := { v.dev with
      brd := { v.dev.brd with pwrFailN := false }, flash := { v.dev.flash with pf := .resuming v.clk.now } } })) ∧
  (∀ (s : State) (t x : Nat), s.dev.timeRuns = true → s.clk.now < t → s.dev.flash.pf = .resuming x → x + 1000000 ≤ t →
    exec (.time1pps t) s = .next ((s.tick t).onClk time1pps) ∧ (s.tick t).dev.flash.pf = .idle))

/-- RESET_N takes effect at once as a cold reset, but while the flush runs it waits for PF_DONE, at most 1.5 ms (R457, R514). Loss of CLK_25M acts as RESET_N without a flush; loss of a host port's reference resets that port, and of an edge die's takes its four fabric ports down, which train again on its return (R520). -/
def Obligations.ResetPinAndReferences : Prop :=
  ∀ (s v : State) (t : Nat), v = s.tick t → v.dev.start.phase ≠ .off →
    (v.dev.flash.pf = .idle → ∃ v', exec (.resetNAssert t) s = .next v' ∧ ColdBegun v v' .inReset ∧ v'.dev.brd.resetN = true) ∧
    (∀ x : Nat, v.dev.flash.pf = .flushing x → v.clk.now < x + 1500000 → v.dev.brd.deferred = none →
      exec (.resetNAssert t) s = .next { v with dev := { v.dev with brd := { v.dev.brd with resetN := true, deferred := some v.clk.now } } }) ∧
    (∀ x y : Nat, v.dev.flash.pf = .flushing x → v.dev.brd.deferred = some y → v.dev.flushed = true ∨ x + 1500000 ≤ v.clk.now →
      ∃ v', exec (.pfDone t) s = .next v' ∧ ColdBegun v v' .inReset) ∧
    (∃ v', exec (.refclkLoss t .clk25) s = .next v' ∧ ColdBegun v v' .inReset ∧ RefClk.clk25 ∈ v'.dev.brd.lost) ∧
    (∀ e : Fin 2, ∃ v', exec (.refclkLoss t (.fb e)) s = .next v' ∧ (∀ q : FabPort, q.val / 4 = e.val → v.dev.fab.ports[q].link ≠ .disabled → v'.dev.fab.ports[q].link = .down) ∧
      ∀ q : FabPort, q.val / 4 ≠ e.val → v'.dev.fab.ports[q] = v.dev.fab.ports[q]) ∧
    (∀ e : Fin 2, v.dev.service = true → ∃ v', exec (.refclkReturn t (.fb e)) s = .next v' ∧ RefClk.fb e ∉ v'.dev.brd.lost ∧
      ∀ q : FabPort, v'.dev.fab.ports[q].link = if q.val / 4 = e.val ∧ v.dev.fab.ports[q].link = .down then .training else v.dev.fab.ports[q].link) ∧
    (∀ p : Port, v.dev.live = true → v.dev.start.clkMode.toNat < 2 →
      ∃ v', exec (.refclkLoss t (.hp p)) s = .next v' ∧ (v'.dev.port p).linkUp = false ∧ (v'.dev.port p).slots = [] ∧ RefClk.hp p ∈ v'.dev.brd.lost) ∧
    (∀ k : RefClk, k = .clk25 ∨ (∃ p : Port, k = .hp p) →
      exec (.refclkReturn t k) s = .next { v with dev := { v.dev with brd := { v.dev.brd with lost := v.dev.brd.lost.filter fun x => x != k } } })

/-! ### Board bus, TAP, attestation and fuses -/

/-- The I3C target: a private write sets the offset; the five bytes that write WAKE are kept in PS3 alone; a private read returns the target registers from that offset, and zero beyond them; an assigned address is kept (R472, R525). The other TAP instructions load at any time that the part is powered; IDCODE shifts out the device's code (R537). SPDM over the DOE mailbox of a port whose link is up: each request is answered; GET_VERSION starts anew, a key exchange opens a handshake, FINISH with a good check value makes it a session, END_SESSION ends it; IDE_KM within a session programs and enables both streams, or disables IDE (R503, R504). Request codes and headers are the model's, log 6. A fuse package that passes R494 and whose every bit can still be set is applied whole; any other changes no fuse (R500, R501). -/
def Obligations.BoardBusAndAttestation : Prop :=
  (∀ (s v : State) (t : Nat), v = s.tick t → v.dev.brd.pwrGood = true →
    (∀ (b : Byte) (bs : List Byte), b :: bs ≠ [0x80, 0x57, 0x41, 0x4B, 0x45] ∨ v.dev.pwr.ps ≠ 3 →
      exec (.i3cPrivateWrite t (b :: bs)) s = .next { v with dev := { v.dev with brd := { v.dev.brd with i3cOff := b.toNat } } }) ∧
    (v.dev.pwr.ps = 3 → v.dev.start.phase = .service →
      exec (.i3cPrivateWrite t [0x80, 0x57, 0x41, 0x4B, 0x45]) s = .next { v with dev := { v.dev with brd := { v.dev.brd with i3cOff := 0x80, wakeSeen := true } } }) ∧
    (∀ len : Nat, ∃ v', exec (.i3cPrivateRead t len) s = .next v' ∧ v' = { v with dev := { v.dev with brd := { v.dev.brd with i3cOut := v'.dev.brd.i3cOut } } } ∧
      v'.dev.brd.i3cOut.length = len ∧
      (v.dev.brd.i3cOff = 0 → 3 ≤ len → v'.dev.brd.i3cOut.take 3 = [BitVec.ofNat 8 v.dev.brd.tjMax, BitVec.ofNat 8 v.dev.pwr.ps.toNat, BitVec.ofNat 8 v.dev.start.stake]) ∧
      (10 ≤ v.dev.brd.i3cOff → v'.dev.brd.i3cOut = List.replicate len 0)) ∧
    (∀ addr : Nat, addr < 128 → exec (.entdaa t addr) s = .next { v with dev := { v.dev with brd := { v.dev.brd with i3cDyn := some addr } } })) ∧
  (∀ (s v : State) (t : Nat), v = s.tick t → v.dev.brd.pwrGood = true →
    exec (.bypass t) s = .next { v with dev := { v.dev with brd := { v.dev.brd with ir := .bypass, tdo := none } } } ∧
    exec (.idcode t) s = .next { v with dev := { v.dev with brd := { v.dev.brd with ir := .idcode, tdo := some Config.idcode } } } ∧
    exec (.samplePreload t) s = .next { v with dev := { v.dev with brd := { v.dev.brd with ir := .samplePreload, tdo := none } } }) ∧
  (∀ (s v : State) (t : Nat) (p : Port) (h : HostPort) (answer : Nat → List Byte → Bool → Bool → Dev), v = s.tick t → v.dev.live = true → h = v.dev.port p → h.linkUp = true →
    (∀ code body hs ss, answer code body hs ss = v.dev.updPort p fun h => { h with spdm := { handshake := hs, session := ss, count := h.spdm.count + 1, response := some (code, spdmHead code h.spdm.count ++ body) } }) →
    (exec (.spdmGetVersion t p) s = .next { v with dev := v.dev.updPort p fun h => { h with spdm := { handshake := false, session := false, count := 1, response := some (spdmVersionCode, spdmHead spdmVersionCode h.spdm.count) } } }) ∧
    exec (.spdmGetCapabilities t p) s = .next { v with dev := answer spdmCapabilitiesCode [] h.spdm.handshake h.spdm.session } ∧
    exec (.spdmNegotiateAlgorithms t p) s = .next { v with dev := answer spdmAlgorithmsCode [] h.spdm.handshake h.spdm.session } ∧
    exec (.spdmGetDigests t p) s = .next { v with dev := answer spdmDigestsCode (digestBytes (Config.sha384 ((List.range 256).map Config.certByte))) h.spdm.handshake h.spdm.session } ∧
    (∀ off len : Nat, exec (.spdmGetCertificate t p off len) s =
      .next { v with dev := answer spdmCertificateCode ((List.range len).map fun i => Config.certByte (off + i)) h.spdm.handshake h.spdm.session }) ∧
    (∀ nonce : List Byte, nonce.length = 32 → exec (.spdmChallenge t p nonce) s = .next { v with dev := answer spdmChallengeCode nonce h.spdm.handshake h.spdm.session }) ∧
    (∀ index : Nat, exec (.spdmGetMeasurements t p index) s = .next { v with dev := answer spdmMeasurementsCode (v.dev.measurement v.fuse index) h.spdm.handshake h.spdm.session }) ∧
    (∀ pub : List Byte, exec (.spdmKeyExchange t p pub) s = .next { v with dev := answer spdmKeyExchangeCode (digestBytes (Config.sha384 pub)) true h.spdm.session }) ∧
    (∀ macOk : Bool, exec (.spdmFinish t p macOk) s = .next { v with dev := answer spdmFinishCode [] false (h.spdm.session || (h.spdm.handshake && macOk)) }) ∧
    exec (.spdmEndSession t p) s = .next { v with dev := answer spdmEndCode [] false false } ∧
    (∀ enable : Bool, (h.spdm.session = true → exec (.ideKm t p enable) s = .next { v with dev := v.dev.updPort p fun h => { h with ide := ⟨enable, enable, enable⟩ } }) ∧
      (h.spdm.session = false → exec (.ideKm t p enable) s = .next v))) ∧
  (∀ (s v : State) (t : Nat) (img : List Byte) (b : FuseBody) (sig : Bool), v = s.tick t → v.dev.brd.pwrGood = true →
    (v.fuse.imageOk img sig = true → (imgHeader img).kind = 0x10 → v.fuse.canSet b = true → v.fuse.leavesSlot b = true →
      exec (.fusePkg t img b sig) s = .next { v with fuse := v.fuse.set b, dev := { v.dev with brd := { v.dev.brd with ir := .fusePkg } } }) ∧
    (v.fuse.imageOk img sig = false ∨ (imgHeader img).kind ≠ 0x10 ∨ v.fuse.canSet b = false ∨ v.fuse.leavesSlot b = false →
      exec (.fusePkg t img b sig) s = .next { v with dev := { v.dev with brd := { v.dev.brd with ir := .fusePkg } } }))

/-- EXTEST, EXTEST_PULSE, EXTEST_TRAIN, CLAMP and HIGHZ are loaded while RESET_N is asserted, and BYPASS in their place otherwise; the RESET_N that a cold start releases ends them, so that no land is in a scan instruction's state (R483, R538). -/
def Obligations.LandInstructions : Prop :=
  (∀ (s v : State) (t : Nat) (c : Instr) (ir : TapIr), v = s.tick t → v.dev.brd.pwrGood = true →
    (c = .extest t ∧ ir = .extest) ∨ (c = .extestPulse t ∧ ir = .extestPulse) ∨ (c = .extestTrain t ∧ ir = .extestTrain) ∨ (c = .clamp t ∧ ir = .clamp) ∨ (c = .highz t ∧ ir = .highz) →
    (v.dev.brd.resetN = true → exec c s = .next { v with dev := { v.dev with brd := { v.dev.brd with ir := ir, tdo := none } } } ∧
      ∀ v', exec c s = .next v' → ∀ (g : LandGroup) (no : Nat), v'.land g no = .scan ir) ∧
    (v.dev.brd.resetN = false → exec c s = .next { v with dev := { v.dev with brd := { v.dev.brd with ir := .bypass, tdo := none } } })) ∧
  (∀ (s v v' : State) (t : Nat) (o : StartOutcome), v = s.tick t → exec (.coldReset t o) s = .next v' → v.dev.start.phase = .inReset → v.dev.brd.pwrGood = true →
    RefClk.clk25 ∉ v.dev.brd.lost → v'.dev.brd.resetN = false ∧
    ∀ (g : LandGroup) (no : Nat), v'.dev.landTaken g = false → v'.land g no = mapCode (NMap.getD v'.fuse.pinMap no 0))

/-- In every step every fuse bit that is set stays set: key slots, REVOKED bits, SVN counters, MAC addresses, pin map, ROM digest and identity seed (R500). -/
def Obligations.FusesOnlyGain : Prop :=
  ∀ s s' : State, step s = .next s' → Fuses.Le s.fuse s'.fuse
end

