-- ==== Sys2Proof/Laws/Mem.lean ====
section
/-! SUPPORT. Laws of byte memory, keyed maps and folds: what a write does to a read, and that every memory operation keeps the canonical form. -/

namespace Sys2Proof.Laws

open Sys2Proof.Machine

/-! ### Byte memory -/

@[simp] theorem rd_nil (a : Nat) : Mem.rd [] a = 0 := rfl

theorem above_mono {lo lo' : Nat} {m : Mem} (h : lo' ≤ lo) (hm : Mem.above lo m = true) : Mem.above lo' m = true := by
  cases m with
  | nil => rfl
  | cons c m => simp only [Mem.above, decide_eq_true_eq] at *; omega

theorem wf_tail {c : Host.Cell} {m : Mem} (h : Mem.wf (c :: m) = true) : Mem.wf m = true := by
  simp only [Mem.wf, Bool.and_eq_true] at h; exact h.2

/-- An address below every listed one reads zero. -/
theorem rd_above {m : Mem} {a lo : Nat} (hw : Mem.wf m = true) (hm : Mem.above lo m = true) (h : a < lo) : Mem.rd m a = 0 := by
  induction m generalizing lo with
  | nil => rfl
  | cons c m ih =>
    simp only [Mem.above, decide_eq_true_eq] at hm
    simp only [Mem.wf, Bool.and_eq_true] at hw
    have hne : c.1 ≠ a := by omega
    simp only [Mem.rd, hne, if_false]
    exact ih hw.2 hw.1.2 (by omega)

/-- Writing at or above lo keeps every listed address at or above lo. -/
theorem above_wr {m : Mem} {a lo : Nat} {b : Byte} (hw : Mem.wf m = true) (hm : Mem.above lo m = true) (h : lo ≤ a) :
    Mem.above lo (Mem.wr m a b) = true := by
  cases m with
  | nil => unfold Mem.wr; split <;> simp [Mem.above, h]
  | cons c m =>
    simp only [Mem.above, decide_eq_true_eq] at hm
    simp only [Mem.wf, Bool.and_eq_true] at hw
    unfold Mem.wr
    split
    · split <;> simp [Mem.above, hm, h]
    · split
      · split
        · exact above_mono (by omega) hw.1.2
        · simp [Mem.above, h]
      · simp [Mem.above, hm]

/-- A write keeps the canonical form. -/
theorem wr_wf {m : Mem} (a : Nat) (b : Byte) (hw : Mem.wf m = true) : Mem.wf (Mem.wr m a b) = true := by
  induction m with
  | nil => unfold Mem.wr; split <;> simp_all [Mem.wf, Mem.above]
  | cons c m ih =>
    have ht := wf_tail hw
    have hc : (c.2 != 0) = true ∧ Mem.above (c.1 + 1) m = true := by
      simp only [Mem.wf, Bool.and_eq_true] at hw; exact hw.1
    unfold Mem.wr
    split
    · rename_i hlt
      split
      · exact hw
      · rename_i hb
        simp only [Mem.wf, Bool.and_eq_true, bne_iff_ne, ne_eq] at hw ⊢
        exact ⟨⟨hb, by simp only [Mem.above, decide_eq_true_eq]; omega⟩, hw⟩
    · split
      · rename_i heq
        split
        · exact ht
        · rename_i hb
          simp only [Mem.wf, Bool.and_eq_true, bne_iff_ne, ne_eq]
          exact ⟨⟨hb, heq ▸ hc.2⟩, ht⟩
      · rename_i h1 h2
        simp only [Mem.wf, Bool.and_eq_true]
        exact ⟨⟨hc.1, above_wr ht hc.2 (by omega)⟩, ih ht⟩

/-- A read after a write to the same address gives the byte written. -/
theorem rd_wr_same {m : Mem} (a : Nat) (b : Byte) (hw : Mem.wf m = true) : Mem.rd (Mem.wr m a b) a = b := by
  induction m with
  | nil => unfold Mem.wr; split <;> simp_all [Mem.rd]
  | cons c m ih =>
    have ht := wf_tail hw
    have hc : Mem.above (c.1 + 1) m = true := by
      simp only [Mem.wf, Bool.and_eq_true] at hw; exact hw.1.2
    unfold Mem.wr
    split
    · rename_i hlt
      split
      · rename_i hb
        rw [hb]
        exact rd_above (lo := c.1) hw (by simp [Mem.above]) hlt
      · simp [Mem.rd]
    · split
      · rename_i heq
        split
        · rename_i hb
          rw [hb]
          exact rd_above ht hc (by omega)
        · simp [Mem.rd]
      · rename_i h1 h2
        have hne : c.1 ≠ a := fun h => h2 h.symm
        simp only [Mem.rd, hne, if_false]
        exact ih ht

/-- A write leaves every other address alone. -/
theorem rd_wr_other {m : Mem} {a x : Nat} (b : Byte) (h : x ≠ a) : Mem.rd (Mem.wr m a b) x = Mem.rd m x := by
  induction m with
  | nil =>
    unfold Mem.wr
    split
    · rfl
    · have hx : a ≠ x := fun h' => h h'.symm
      simp [Mem.rd, hx]
  | cons c m ih =>
    have hx : a ≠ x := fun h' => h h'.symm
    unfold Mem.wr
    split
    · split
      · rfl
      · simp [Mem.rd, hx]
    · split
      · rename_i heq
        have hcx : c.1 ≠ x := by omega
        split <;> simp [Mem.rd, hx, hcx]
      · simp only [Mem.rd, ih]

theorem wrs_wf {m : Mem} (a : Nat) (bs : List Byte) (hw : Mem.wf m = true) : Mem.wf (Mem.wrs m a bs) = true := by
  induction bs generalizing m a with
  | nil => exact hw
  | cons b bs ih => exact ih (a + 1) (wr_wf a b hw)

/-- A write of several bytes leaves every address outside them alone. -/
theorem rd_wrs_other {m : Mem} {a x : Nat} {bs : List Byte} (h : x < a ∨ a + bs.length ≤ x) : Mem.rd (Mem.wrs m a bs) x = Mem.rd m x := by
  induction bs generalizing m a with
  | nil => rfl
  | cons b bs ih =>
    simp only [List.length_cons] at h
    show Mem.rd (Mem.wrs (Mem.wr m a b) (a + 1) bs) x = _
    rw [ih (by omega), rd_wr_other b (by omega)]

/-- A read inside the bytes written gives the byte written there. -/
theorem rd_wrs_in {m : Mem} {a i : Nat} {bs : List Byte} (hw : Mem.wf m = true) (h : i < bs.length) : Mem.rd (Mem.wrs m a bs) (a + i) = bs[i] := by
  induction bs generalizing m a i with
  | nil => simp at h
  | cons b bs ih =>
    show Mem.rd (Mem.wrs (Mem.wr m a b) (a + 1) bs) (a + i) = _
    cases i with
    | zero => rw [rd_wrs_other (by omega)]; simpa using rd_wr_same a b hw
    | succ i =>
      have := ih (a := a + 1) (i := i) (wr_wf a b hw) (by simpa using h)
      simpa [Nat.add_assoc, Nat.add_comm 1 i] using this

theorem wrN_wf {m : Mem} (a n v : Nat) (hw : Mem.wf m = true) : Mem.wf (Mem.wrN m a n v) = true := wrs_wf a _ hw

@[simp] theorem leBytes_length (n v : Nat) : (leBytes n v).length = n := by simp [leBytes]

@[simp] theorem rds_length (m : Mem) (a n : Nat) : (Mem.rds m a n).length = n := by simp [Mem.rds]

/-- What is read back is what was written. -/
theorem rds_wrs {m : Mem} (a : Nat) (bs : List Byte) (hw : Mem.wf m = true) : Mem.rds (Mem.wrs m a bs) a bs.length = bs := by
  apply List.ext_getElem (by simp)
  intro i h1 h2
  simp only [Mem.rds, List.getElem_map, List.getElem_range]
  exact rd_wrs_in hw h2

theorem above_filter {lo : Nat} (p : Host.Cell → Bool) {m : Mem} (hw : Mem.wf m = true) (hm : Mem.above lo m = true) :
    Mem.above lo (m.filter p) = true := by
  induction m generalizing lo with
  | nil => rfl
  | cons c m ih =>
    simp only [Mem.above, decide_eq_true_eq] at hm
    simp only [Mem.wf, Bool.and_eq_true] at hw
    rw [List.filter_cons]
    split
    · simpa [Mem.above] using hm
    · exact ih hw.2 (above_mono (by omega) hw.1.2)

/-- Leaving out bytes keeps the canonical form. -/
theorem filter_wf (p : Host.Cell → Bool) {m : Mem} (hw : Mem.wf m = true) : Mem.wf (m.filter p) = true := by
  induction m with
  | nil => rfl
  | cons c m ih =>
    simp only [Mem.wf, Bool.and_eq_true] at hw
    rw [List.filter_cons]
    split
    · simp only [Mem.wf, Bool.and_eq_true]
      exact ⟨⟨hw.1.1, above_filter p hw.2 hw.1.2⟩, ih hw.2⟩
    · exact ih hw.2

theorem clear_wf {m : Mem} (a n : Nat) (hw : Mem.wf m = true) : Mem.wf (Mem.clear m a n) = true := filter_wf _ hw

/-- A slot's bytes, moved to address 0, keep the canonical form. -/
theorem shift_wf {m : Mem} {a : Nat} (hw : Mem.wf m = true) (hm : ∀ c ∈ m, a ≤ c.1) : Mem.wf (m.map fun c => (c.1 - a, c.2)) = true := by
  induction m with
  | nil => rfl
  | cons c m ih =>
    have hc := hm c (by simp)
    simp only [Mem.wf, Bool.and_eq_true] at hw
    simp only [List.map_cons, Mem.wf, Bool.and_eq_true]
    refine ⟨⟨hw.1.1, ?_⟩, ih hw.2 fun x hx => hm x (by simp [hx])⟩
    cases m with
    | nil => rfl
    | cons d m =>
      have hd := hm d (by simp)
      have h := hw.1.2
      simp only [Mem.above, decide_eq_true_eq] at h
      simp only [List.map_cons, Mem.above, decide_eq_true_eq]
      omega

theorem cut_wf {m : Mem} (a n : Nat) (hw : Mem.wf m = true) : Mem.wf (Mem.cut m a n) = true :=
  shift_wf (filter_wf _ hw) fun c hc => by
    have := (List.mem_filter.mp hc).2
    simp only [Bool.and_eq_true, decide_eq_true_eq] at this
    exact this.1

/-- Memory after reset: nothing is listed. -/
theorem reset_mem_wf (p : Port) : Mem.wf (State.reset.dev.port p).mem = true ∧ Mem.wf (State.reset.dev.port p).slots = true := by
  revert p; decide

/-! ### Keyed maps -/

@[simp] theorem get?_put_same {α : Type} (m : NMap α) (k : Nat) (v : α) : NMap.get? (NMap.put m k v) k = some v := by
  induction m with
  | nil => simp [NMap.put, NMap.get?]
  | cons e m ih =>
    unfold NMap.put
    split
    · simp [NMap.get?]
    · split
      · simp [NMap.get?]
      · rename_i h1 h2
        have hk : e.1 ≠ k := fun h => h2 h.symm
        simp [NMap.get?, hk, ih]

theorem get?_put_other {α : Type} {m : NMap α} {k j : Nat} (v : α) (h : j ≠ k) : NMap.get? (NMap.put m k v) j = NMap.get? m j := by
  induction m with
  | nil =>
    have hk : k ≠ j := fun h' => h h'.symm
    simp [NMap.put, NMap.get?, hk]
  | cons e m ih =>
    have hk : k ≠ j := fun h' => h h'.symm
    unfold NMap.put
    split
    · simp [NMap.get?, hk]
    · split
      · rename_i h2
        simp [NMap.get?, hk, ← h2]
      · simp [NMap.get?, ih]

@[simp] theorem getD_put_same {α : Type} (m : NMap α) (k : Nat) (v x : α) : NMap.getD (NMap.put m k v) k x = v := by
  simp [NMap.getD]

theorem getD_put_other {α : Type} {m : NMap α} {k j : Nat} (v x : α) (h : j ≠ k) : NMap.getD (NMap.put m k v) j x = NMap.getD m j x := by
  simp [NMap.getD, get?_put_other v h]

theorem get?_upd {α : Type} (m : NMap α) (k j : Nat) (f : α → α) : NMap.get? (NMap.upd m k f) j = if j = k then (NMap.get? m j).map f else NMap.get? m j := by
  induction m with
  | nil => simp [NMap.upd, NMap.get?]
  | cons e m ih =>
    have hc : NMap.upd (e :: m) k f = (if e.1 = k then (e.1, f e.2) else e) :: NMap.upd m k f := rfl
    rw [hc, NMap.get?, NMap.get?, ih]
    by_cases h1 : e.1 = k
    · by_cases h2 : e.1 = j
      · have h3 : j = k := h2 ▸ h1
        simp [h1, h3]
      · have h3 : ¬j = k := fun h => h2 (h1.trans h.symm)
        have h4 : ¬k = j := fun h => h3 h.symm
        simp [h1, h3, h4]
    · by_cases h2 : e.1 = j
      · have h3 : ¬j = k := fun h => h1 (h2.trans h)
        simp [h2, h3]
      · simp [h1, h2]

/-! ### Folds -/

/-- A part that every step of a fold keeps is kept by the fold. -/
theorem foldl_keeps {α β γ : Type} (g : β → γ) {f : β → α → β} (h : ∀ b a, g (f b a) = g b) (l : List α) (b : β) : g (l.foldl f b) = g b := by
  induction l generalizing b with
  | nil => rfl
  | cons a l ih => exact (ih (f b a)).trans (h b a)

/-- A property that every step of a fold keeps holds after the fold. -/
theorem foldl_inv {α β : Type} (P : β → Prop) {f : β → α → β} (h : ∀ b a, P b → P (f b a)) (l : List α) (b : β) (hb : P b) : P (l.foldl f b) := by
  induction l generalizing b with
  | nil => exact hb
  | cons a l ih => exact ih (f b a) (h b a hb)

end Sys2Proof.Laws
end

