-- ==== Sys2Proof/Laws/Memory.lean ====
section
/-! SUPPORT. Lemmas about DRAM: the room that a copy's regions need, and the parity line as a reconstruction uses it. -/

namespace Sys2Proof.Machine

@[simp] theorem natSum_nil : natSum [] = 0 := rfl

theorem natSum_zeros {xs : List Nat} (h : ∀ x ∈ xs, x = 0) : natSum xs = 0 := by
  suffices ∀ (xs : List Nat) (a : Nat), (∀ x ∈ xs, x = 0) → xs.foldl (· + ·) a = a from this xs 0 h
  intro xs
  induction xs with
  | nil => intro a _; rfl
  | cons x xs ih =>
    intro a h
    have hx : x = 0 := h x (by simp)
    have := ih (a + x) fun y hy => h y (by simp [hy])
    simpa [hx] using this

/-- A region that stands with the frames wanted lacks none. -/
theorem lacks_held {d : Dev} {w : OwnRegion} {r : Region} (s : Nat) (h : NMap.get? d.mem.regions w.id = some r) (hl : r.len / 4096 = w.frames) : d.lacks w s = 0 := by
  simp [Dev.lacks, h, hl]

/-- Regions that all stand need no more room. -/
theorem roomFor_held {d : Dev} {ws : List OwnRegion} (h : ∀ w ∈ ws, ∃ r, NMap.get? d.mem.regions w.id = some r ∧ r.len / 4096 = w.frames) : d.roomFor ws = true := by
  have hz : ∀ s, natSum (ws.map fun w => d.lacks w s) = 0 := by
    intro s
    refine natSum_zeros fun x hx => ?_
    obtain ⟨w, hw, rfl⟩ := List.mem_map.mp hx
    obtain ⟨r, hr, hl⟩ := h w hw
    exact lacks_held s hr hl
  have : natSum ((List.range 20).map fun s => natSum (ws.map fun w => d.lacks w s)) = 0 :=
    natSum_zeros fun x hx => by obtain ⟨s, -, rfl⟩ := List.mem_map.mp hx; exact hz s
  simp [Dev.roomFor, this]

/-- A copy whose regions all stand fits its DRAM. -/
theorem fits_held {d : Dev} {l : Leaf} (h : ∀ w ∈ l.regions d, ∃ r, NMap.get? d.mem.regions w.id = some r ∧ r.len / 4096 = w.frames) : d.fits l := by
  intro w hw
  obtain ⟨r, hr, hl⟩ := h w hw
  exact ⟨r, hr, by omega⟩

@[simp] theorem xorBytes_length (a b : List Byte) : (xorBytes a b).length = min a.length b.length := by simp [xorBytes]

@[simp] theorem stripeLine_length (m : Mem) (j t k : Nat) : (stripeLine m j t k).length = 64 := by simp [stripeLine]

theorem xorBytes_getElem (a b : List Byte) (i : Nat) (h : i < (xorBytes a b).length) :
    (xorBytes a b)[i] = a[i]'(by simp at h; omega) ^^^ b[i]'(by simp at h; omega) := by simp [xorBytes]

/-- A line of a stripe formed from the other three data lines and the parity line is the line itself (R268, R269, R271). -/
theorem reconstruct_parityLine (m : Mem) (j k t : Nat) (h : t < 4) : reconstruct m (parityLine m j k) j t k = stripeLine m j t k := by
  interval_cases t <;>
  · refine List.ext_getElem (by simp [reconstruct, parityLine, List.range, List.range.loop]) fun i h1 h2 => ?_
    simp [reconstruct, parityLine, List.range, List.range.loop, xorBytes_getElem]
    ext n hn
    simp only [BitVec.getElem_xor]
    cases ((stripeLine m j 0 k)[i]'(by simp at h2; simpa using h2))[n] <;> cases ((stripeLine m j 1 k)[i]'(by simp at h2; simpa using h2))[n] <;>
      cases ((stripeLine m j 2 k)[i]'(by simp at h2; simpa using h2))[n] <;> cases ((stripeLine m j 3 k)[i]'(by simp at h2; simpa using h2))[n] <;> rfl

end Sys2Proof.Machine
end

