-- ==== Sys2Proof/Laws/Slots.lean ====
section
/-! SUPPORT. What a slot command's run is once R422's checks let it run, and what a command of datum time answers. -/

namespace Sys2Proof.Laws

open Sys2Proof.Machine

theorem happens_wf (i : Instr) (t : Nat) (f : State → State) (s : State) (h : i.wf = true) : happens i t f s = .next (f (s.tick t)) := by
  simp [happens, h]

theorem happens_ill (i : Instr) (t : Nat) (f : State → State) (s : State) (h : i.wf = false) : happens i t f s = .fault .illFormed := by
  simp [happens, h]

/-- A change of a port depends on the function only at that port. -/
theorem updPort_congr {d : Dev} {p : Port} {f g : HostPort → HostPort} (h : f (d.port p) = g (d.port p)) : d.updPort p f = d.updPort p g := by
  unfold Dev.updPort vupd Dev.port at *
  exact congrArg (fun x => { d with ports := d.ports.set p.val x }) h

theorem firstCheck_bad_false (d : Dev) (cmd : Cmd) (b : Bool) (h : b = false) : d.firstCheck cmd b = d.firstCheck cmd false := by
  rw [h]

theorem fenced_any_false (h : HostPort) (x : Nat × Nat) (areas : List (Nat × Nat)) (hx : h.fenced x.1 x.2 = false)
    (ha : ∀ a ∈ areas, h.fenced a.1 a.2 = false) : ((x :: areas).any fun a => h.fenced a.1 a.2) = false := by
  simp only [List.any_cons, Bool.or_eq_false_iff, List.any_eq_false]
  exact ⟨hx, fun a m => by simp [ha a m]⟩

/-- An accepted command of the row runs: the one lemma behind every slot command's effect. -/
theorem runSlot_accepted {op : Nat} {row : Cmd → Bool} {bad : Clock → Dev → Cmd → Bool} {areas : Dev → Cmd → List (Nat × Nat)}
    {run : Clock → Dev → Cmd → Dev} {k : Take} {v : State} {cmd : Cmd} (h : Accepted k op v cmd) (hrow : row cmd = true)
    (hbad : bad v.clk (v.dev.takeCmd cmd) cmd = false)
    (h1 : ∀ a ∈ areas (v.dev.takeCmd cmd) cmd, (v.dev.takeCmd cmd).areaIn cmd.ref.port a.1 a.2 = true)
    (h2 : ∀ a ∈ areas (v.ready cmd) cmd, ((v.ready cmd).port cmd.ref.port).fenced a.1 a.2 = false) :
    runSlot op row bad areas run k v.clk v.dev = (run v.clk (v.ready cmd) cmd).showRunning cmd.ref := by
  obtain ⟨hd, ho, hc, hl, hm, hf⟩ := h
  have hany : (bad v.clk (v.dev.takeCmd cmd) cmd || (areas (v.dev.takeCmd cmd) cmd).any fun a => !((v.dev.takeCmd cmd).areaIn cmd.ref.port a.1 a.2)) = false := by
    simp only [hbad, Bool.false_or, List.any_eq_false]
    intro a ha
    simp [h1 a ha]
  have hopk : (knownOpcodes.contains cmd.opcode && !(decide (cmd.opcode = op) && row cmd)) = false := by
    simp [ho, hrow]
  have hfen := fenced_any_false ((v.ready cmd).port cmd.ref.port) (cmd.resultAddr, cmd.resultLen) (areas (v.ready cmd) cmd) hf h2
  unfold runSlot
  simp only [hd, hopk, hany, hc, Bool.false_eq_true, if_false]
  unfold State.ready at hm hfen ⊢
  rcases hloc : cmd.isLocal with _ | _
  · simp only [hloc, Bool.false_eq_true, if_false] at hm hfen ⊢
    rw [ho, hm]
    simp only [hfen, Bool.not_true, Bool.false_eq_true, if_false]
  · obtain ⟨hn, hr⟩ := hl hloc
    obtain ⟨d2, hr2⟩ := Option.isSome_iff_exists.mp hr
    simp only [hloc, hn, hr2, if_true, Option.getD_some] at hm hfen ⊢
    rw [ho, hm]
    simp only [hfen, Bool.not_true, Bool.false_eq_true, if_false]

/-- A command that the node's mode does not allow ends ST_BUSY with nothing done (R468, R485). -/
theorem runSlot_turned {op : Nat} {row : Cmd → Bool} {bad : Clock → Dev → Cmd → Bool} {areas : Dev → Cmd → List (Nat × Nat)}
    {run : Clock → Dev → Cmd → Dev} {k : Take} {v : State} {cmd : Cmd} (h : TurnedAway k op v cmd) (hrow : row cmd = true)
    (hbad : bad v.clk (v.dev.takeCmd cmd) cmd = false)
    (h1 : ∀ a ∈ areas (v.dev.takeCmd cmd) cmd, (v.dev.takeCmd cmd).areaIn cmd.ref.port a.1 a.2 = true) :
    runSlot op row bad areas run k v.clk v.dev = ((v.ready cmd).refuse cmd.ref stBusy).count 22 0 (boolNat cmd.isUpdate) := by
  obtain ⟨hd, ho, hc, hl, hm⟩ := h
  have hany : (bad v.clk (v.dev.takeCmd cmd) cmd || (areas (v.dev.takeCmd cmd) cmd).any fun a => !((v.dev.takeCmd cmd).areaIn cmd.ref.port a.1 a.2)) = false := by
    simp only [hbad, Bool.false_or, List.any_eq_false]
    intro a ha
    simp [h1 a ha]
  have hopk : (knownOpcodes.contains cmd.opcode && !(decide (cmd.opcode = op) && row cmd)) = false := by
    simp [ho, hrow]
  unfold runSlot
  simp only [hd, hopk, hany, hc, Bool.false_eq_true, if_false]
  unfold State.ready at hm ⊢
  rcases hloc : cmd.isLocal with _ | _
  · simp only [hloc, Bool.false_eq_true, if_false] at hm ⊢
    rw [ho, hm]
    simp
  · obtain ⟨hn, hr⟩ := hl hloc
    obtain ⟨d2, hr2⟩ := Option.isSome_iff_exists.mp hr
    simp only [hloc, hn, hr2, if_true, Option.getD_some] at hm ⊢
    rw [ho, hm]
    simp

/-- The same where the command names no areas. -/
theorem runSlot_plain {op : Nat} {row : Cmd → Bool} {bad : Clock → Dev → Cmd → Bool} {run : Clock → Dev → Cmd → Dev} {k : Take} {v : State}
    {cmd : Cmd} (h : Accepted k op v cmd) (hrow : row cmd = true) (hbad : bad v.clk (v.dev.takeCmd cmd) cmd = false) :
    runSlot op row bad noAreas run k v.clk v.dev = (run v.clk (v.ready cmd) cmd).showRunning cmd.ref :=
  runSlot_accepted h hrow hbad (by simp [noAreas]) (by simp [noAreas])

/-! ### What the take and a fresh record leave alone -/

theorem roomForRec_some {d d2 : Dev} {n : Nat} (h : d.roomForRec n = some d2) : d2 = { d with cmds := d2.cmds } := by
  unfold Dev.roomForRec at h
  split at h
  · cases h; rfl
  · split at h
    · cases h
    · cases h; rfl

theorem roomForRec_getD (d : Dev) (n : Nat) : (d.roomForRec n).getD d = { d with cmds := ((d.roomForRec n).getD d).cmds } := by
  rcases h : d.roomForRec n with _ | d2
  · rfl
  · exact roomForRec_some h

theorem ready_eq (v : State) (cmd : Cmd) : v.ready cmd = { v.dev.takeCmd cmd with cmds := (v.ready cmd).cmds } := by
  unfold State.ready
  split
  · exact congrArg (fun d : Dev => { d with cmds := (d.putRec .node cmd.key none).cmds }) (roomForRec_getD _ _)
  · rfl

@[simp] theorem ready_regs (v : State) (cmd : Cmd) : (v.ready cmd).regs = v.dev.regs := by rw [ready_eq]; rfl
@[simp] theorem ready_adm (v : State) (cmd : Cmd) : (v.ready cmd).adm = v.dev.adm := by rw [ready_eq]; rfl
@[simp] theorem ready_plat (v : State) (cmd : Cmd) : (v.ready cmd).plat = v.dev.plat := by rw [ready_eq]; rfl
@[simp] theorem ready_leaves (v : State) (cmd : Cmd) : (v.ready cmd).leaves = v.dev.leaves := by rw [ready_eq]; rfl
@[simp] theorem ready_root (v : State) (cmd : Cmd) : (v.ready cmd).root = v.dev.root := by rw [ready_eq]; rfl
@[simp] theorem ready_scan (v : State) (cmd : Cmd) : (v.ready cmd).scan = v.dev.scan := by rw [ready_eq]; rfl
@[simp] theorem ready_chain (v : State) (cmd : Cmd) : (v.ready cmd).chain = v.dev.chain := by rw [ready_eq]; rfl
@[simp] theorem ready_mdl (v : State) (cmd : Cmd) : (v.ready cmd).mdl = v.dev.mdl := by rw [ready_eq]; rfl
@[simp] theorem ready_nb (v : State) (cmd : Cmd) : (v.ready cmd).nb = v.dev.nb := by rw [ready_eq]; rfl
@[simp] theorem ready_mem (v : State) (cmd : Cmd) : (v.ready cmd).mem = v.dev.mem := by rw [ready_eq]; rfl
@[simp] theorem ready_com (v : State) (cmd : Cmd) : (v.ready cmd).com = v.dev.com := by rw [ready_eq]; rfl
@[simp] theorem ready_flash (v : State) (cmd : Cmd) : (v.ready cmd).flash = v.dev.flash := by rw [ready_eq]; rfl
@[simp] theorem ready_fab (v : State) (cmd : Cmd) : (v.ready cmd).fab = v.dev.fab := by rw [ready_eq]; rfl
@[simp] theorem ready_pwr (v : State) (cmd : Cmd) : (v.ready cmd).pwr = v.dev.pwr := by rw [ready_eq]; rfl
@[simp] theorem ready_start (v : State) (cmd : Cmd) : (v.ready cmd).start = v.dev.start := by rw [ready_eq]; rfl
@[simp] theorem ready_tst (v : State) (cmd : Cmd) : (v.ready cmd).tst = v.dev.tst := by rw [ready_eq]; rfl
@[simp] theorem ready_brd (v : State) (cmd : Cmd) : (v.ready cmd).brd = v.dev.brd := by rw [ready_eq]; rfl
@[simp] theorem ready_cnt (v : State) (cmd : Cmd) : (v.ready cmd).cnt = v.dev.cnt := by rw [ready_eq]; rfl
@[simp] theorem ready_sent (v : State) (cmd : Cmd) : (v.ready cmd).sent = v.dev.sent := by rw [ready_eq]; rfl
@[simp] theorem ready_freeCtr (v : State) (cmd : Cmd) : (v.ready cmd).freeCtr = v.dev.freeCtr := by rw [ready_eq]; rfl
@[simp] theorem ready_ports (v : State) (cmd : Cmd) : (v.ready cmd).ports = (v.dev.takeCmd cmd).ports := by rw [ready_eq]

end Sys2Proof.Laws
end

