-- ==== Sys2Proof/Laws/State.lean ====
section
/-! SUPPORT. What the shared operations leave alone, field by field, so that no later proof unfolds a record update; and what they do to the field they write. -/

namespace Sys2Proof.Laws

open Sys2Proof.Machine

/-! ### A port's state -/

@[simp] theorem updPort_cmds (d : Dev) (p : Port) (g : HostPort → HostPort) : (d.updPort p g).cmds = d.cmds := rfl
@[simp] theorem updPort_regs (d : Dev) (p : Port) (g : HostPort → HostPort) : (d.updPort p g).regs = d.regs := rfl
@[simp] theorem updPort_adm (d : Dev) (p : Port) (g : HostPort → HostPort) : (d.updPort p g).adm = d.adm := rfl
@[simp] theorem updPort_plat (d : Dev) (p : Port) (g : HostPort → HostPort) : (d.updPort p g).plat = d.plat := rfl
@[simp] theorem updPort_leaves (d : Dev) (p : Port) (g : HostPort → HostPort) : (d.updPort p g).leaves = d.leaves := rfl
@[simp] theorem updPort_root (d : Dev) (p : Port) (g : HostPort → HostPort) : (d.updPort p g).root = d.root := rfl
@[simp] theorem updPort_scan (d : Dev) (p : Port) (g : HostPort → HostPort) : (d.updPort p g).scan = d.scan := rfl
@[simp] theorem updPort_chain (d : Dev) (p : Port) (g : HostPort → HostPort) : (d.updPort p g).chain = d.chain := rfl
@[simp] theorem updPort_mdl (d : Dev) (p : Port) (g : HostPort → HostPort) : (d.updPort p g).mdl = d.mdl := rfl
@[simp] theorem updPort_nb (d : Dev) (p : Port) (g : HostPort → HostPort) : (d.updPort p g).nb = d.nb := rfl
@[simp] theorem updPort_mem (d : Dev) (p : Port) (g : HostPort → HostPort) : (d.updPort p g).mem = d.mem := rfl
@[simp] theorem updPort_com (d : Dev) (p : Port) (g : HostPort → HostPort) : (d.updPort p g).com = d.com := rfl
@[simp] theorem updPort_flash (d : Dev) (p : Port) (g : HostPort → HostPort) : (d.updPort p g).flash = d.flash := rfl
@[simp] theorem updPort_fab (d : Dev) (p : Port) (g : HostPort → HostPort) : (d.updPort p g).fab = d.fab := rfl
@[simp] theorem updPort_pwr (d : Dev) (p : Port) (g : HostPort → HostPort) : (d.updPort p g).pwr = d.pwr := rfl
@[simp] theorem updPort_start (d : Dev) (p : Port) (g : HostPort → HostPort) : (d.updPort p g).start = d.start := rfl
@[simp] theorem updPort_tst (d : Dev) (p : Port) (g : HostPort → HostPort) : (d.updPort p g).tst = d.tst := rfl
@[simp] theorem updPort_brd (d : Dev) (p : Port) (g : HostPort → HostPort) : (d.updPort p g).brd = d.brd := rfl
@[simp] theorem updPort_cnt (d : Dev) (p : Port) (g : HostPort → HostPort) : (d.updPort p g).cnt = d.cnt := rfl
@[simp] theorem updPort_sent (d : Dev) (p : Port) (g : HostPort → HostPort) : (d.updPort p g).sent = d.sent := rfl
@[simp] theorem updPort_freeCtr (d : Dev) (p : Port) (g : HostPort → HostPort) : (d.updPort p g).freeCtr = d.freeCtr := rfl

/-! ### A leaf copy -/

@[simp] theorem updLeaf_ports (d : Dev) (parcel : Nat) (g : Leaf → Leaf) : (d.updLeaf parcel g).ports = d.ports := rfl
@[simp] theorem updLeaf_cmds (d : Dev) (parcel : Nat) (g : Leaf → Leaf) : (d.updLeaf parcel g).cmds = d.cmds := rfl
@[simp] theorem updLeaf_regs (d : Dev) (parcel : Nat) (g : Leaf → Leaf) : (d.updLeaf parcel g).regs = d.regs := rfl
@[simp] theorem updLeaf_adm (d : Dev) (parcel : Nat) (g : Leaf → Leaf) : (d.updLeaf parcel g).adm = d.adm := rfl
@[simp] theorem updLeaf_plat (d : Dev) (parcel : Nat) (g : Leaf → Leaf) : (d.updLeaf parcel g).plat = d.plat := rfl
@[simp] theorem updLeaf_root (d : Dev) (parcel : Nat) (g : Leaf → Leaf) : (d.updLeaf parcel g).root = d.root := rfl
@[simp] theorem updLeaf_scan (d : Dev) (parcel : Nat) (g : Leaf → Leaf) : (d.updLeaf parcel g).scan = d.scan := rfl
@[simp] theorem updLeaf_chain (d : Dev) (parcel : Nat) (g : Leaf → Leaf) : (d.updLeaf parcel g).chain = d.chain := rfl
@[simp] theorem updLeaf_mdl (d : Dev) (parcel : Nat) (g : Leaf → Leaf) : (d.updLeaf parcel g).mdl = d.mdl := rfl
@[simp] theorem updLeaf_nb (d : Dev) (parcel : Nat) (g : Leaf → Leaf) : (d.updLeaf parcel g).nb = d.nb := rfl
@[simp] theorem updLeaf_mem (d : Dev) (parcel : Nat) (g : Leaf → Leaf) : (d.updLeaf parcel g).mem = d.mem := rfl
@[simp] theorem updLeaf_com (d : Dev) (parcel : Nat) (g : Leaf → Leaf) : (d.updLeaf parcel g).com = d.com := rfl
@[simp] theorem updLeaf_flash (d : Dev) (parcel : Nat) (g : Leaf → Leaf) : (d.updLeaf parcel g).flash = d.flash := rfl
@[simp] theorem updLeaf_fab (d : Dev) (parcel : Nat) (g : Leaf → Leaf) : (d.updLeaf parcel g).fab = d.fab := rfl
@[simp] theorem updLeaf_pwr (d : Dev) (parcel : Nat) (g : Leaf → Leaf) : (d.updLeaf parcel g).pwr = d.pwr := rfl
@[simp] theorem updLeaf_start (d : Dev) (parcel : Nat) (g : Leaf → Leaf) : (d.updLeaf parcel g).start = d.start := rfl
@[simp] theorem updLeaf_tst (d : Dev) (parcel : Nat) (g : Leaf → Leaf) : (d.updLeaf parcel g).tst = d.tst := rfl
@[simp] theorem updLeaf_brd (d : Dev) (parcel : Nat) (g : Leaf → Leaf) : (d.updLeaf parcel g).brd = d.brd := rfl
@[simp] theorem updLeaf_cnt (d : Dev) (parcel : Nat) (g : Leaf → Leaf) : (d.updLeaf parcel g).cnt = d.cnt := rfl
@[simp] theorem updLeaf_sent (d : Dev) (parcel : Nat) (g : Leaf → Leaf) : (d.updLeaf parcel g).sent = d.sent := rfl
@[simp] theorem updLeaf_freeCtr (d : Dev) (parcel : Nat) (g : Leaf → Leaf) : (d.updLeaf parcel g).freeCtr = d.freeCtr := rfl

/-! ### A connection -/

@[simp] theorem updConn_ports (d : Dev) (peer cls : Nat) (g : Conn → Conn) : (d.updConn peer cls g).ports = d.ports := rfl
@[simp] theorem updConn_cmds (d : Dev) (peer cls : Nat) (g : Conn → Conn) : (d.updConn peer cls g).cmds = d.cmds := rfl
@[simp] theorem updConn_regs (d : Dev) (peer cls : Nat) (g : Conn → Conn) : (d.updConn peer cls g).regs = d.regs := rfl
@[simp] theorem updConn_adm (d : Dev) (peer cls : Nat) (g : Conn → Conn) : (d.updConn peer cls g).adm = d.adm := rfl
@[simp] theorem updConn_plat (d : Dev) (peer cls : Nat) (g : Conn → Conn) : (d.updConn peer cls g).plat = d.plat := rfl
@[simp] theorem updConn_leaves (d : Dev) (peer cls : Nat) (g : Conn → Conn) : (d.updConn peer cls g).leaves = d.leaves := rfl
@[simp] theorem updConn_root (d : Dev) (peer cls : Nat) (g : Conn → Conn) : (d.updConn peer cls g).root = d.root := rfl
@[simp] theorem updConn_scan (d : Dev) (peer cls : Nat) (g : Conn → Conn) : (d.updConn peer cls g).scan = d.scan := rfl
@[simp] theorem updConn_chain (d : Dev) (peer cls : Nat) (g : Conn → Conn) : (d.updConn peer cls g).chain = d.chain := rfl
@[simp] theorem updConn_mdl (d : Dev) (peer cls : Nat) (g : Conn → Conn) : (d.updConn peer cls g).mdl = d.mdl := rfl
@[simp] theorem updConn_nb (d : Dev) (peer cls : Nat) (g : Conn → Conn) : (d.updConn peer cls g).nb = d.nb := rfl
@[simp] theorem updConn_mem (d : Dev) (peer cls : Nat) (g : Conn → Conn) : (d.updConn peer cls g).mem = d.mem := rfl
@[simp] theorem updConn_com (d : Dev) (peer cls : Nat) (g : Conn → Conn) : (d.updConn peer cls g).com = d.com := rfl
@[simp] theorem updConn_flash (d : Dev) (peer cls : Nat) (g : Conn → Conn) : (d.updConn peer cls g).flash = d.flash := rfl
@[simp] theorem updConn_pwr (d : Dev) (peer cls : Nat) (g : Conn → Conn) : (d.updConn peer cls g).pwr = d.pwr := rfl
@[simp] theorem updConn_start (d : Dev) (peer cls : Nat) (g : Conn → Conn) : (d.updConn peer cls g).start = d.start := rfl
@[simp] theorem updConn_tst (d : Dev) (peer cls : Nat) (g : Conn → Conn) : (d.updConn peer cls g).tst = d.tst := rfl
@[simp] theorem updConn_brd (d : Dev) (peer cls : Nat) (g : Conn → Conn) : (d.updConn peer cls g).brd = d.brd := rfl
@[simp] theorem updConn_cnt (d : Dev) (peer cls : Nat) (g : Conn → Conn) : (d.updConn peer cls g).cnt = d.cnt := rfl
@[simp] theorem updConn_sent (d : Dev) (peer cls : Nat) (g : Conn → Conn) : (d.updConn peer cls g).sent = d.sent := rfl
@[simp] theorem updConn_freeCtr (d : Dev) (peer cls : Nat) (g : Conn → Conn) : (d.updConn peer cls g).freeCtr = d.freeCtr := rfl

/-! ### Counters -/

@[simp] theorem count_ports (d : Dev) (k i n : Nat) : (d.count k i n).ports = d.ports := by unfold Dev.count; split <;> rfl
@[simp] theorem count_cmds (d : Dev) (k i n : Nat) : (d.count k i n).cmds = d.cmds := by unfold Dev.count; split <;> rfl
@[simp] theorem count_regs (d : Dev) (k i n : Nat) : (d.count k i n).regs = d.regs := by unfold Dev.count; split <;> rfl
@[simp] theorem count_adm (d : Dev) (k i n : Nat) : (d.count k i n).adm = d.adm := by unfold Dev.count; split <;> rfl
@[simp] theorem count_plat (d : Dev) (k i n : Nat) : (d.count k i n).plat = d.plat := by unfold Dev.count; split <;> rfl
@[simp] theorem count_leaves (d : Dev) (k i n : Nat) : (d.count k i n).leaves = d.leaves := by unfold Dev.count; split <;> rfl
@[simp] theorem count_root (d : Dev) (k i n : Nat) : (d.count k i n).root = d.root := by unfold Dev.count; split <;> rfl
@[simp] theorem count_scan (d : Dev) (k i n : Nat) : (d.count k i n).scan = d.scan := by unfold Dev.count; split <;> rfl
@[simp] theorem count_chain (d : Dev) (k i n : Nat) : (d.count k i n).chain = d.chain := by unfold Dev.count; split <;> rfl
@[simp] theorem count_mdl (d : Dev) (k i n : Nat) : (d.count k i n).mdl = d.mdl := by unfold Dev.count; split <;> rfl
@[simp] theorem count_nb (d : Dev) (k i n : Nat) : (d.count k i n).nb = d.nb := by unfold Dev.count; split <;> rfl
@[simp] theorem count_mem (d : Dev) (k i n : Nat) : (d.count k i n).mem = d.mem := by unfold Dev.count; split <;> rfl
@[simp] theorem count_com (d : Dev) (k i n : Nat) : (d.count k i n).com = d.com := by unfold Dev.count; split <;> rfl
@[simp] theorem count_flash (d : Dev) (k i n : Nat) : (d.count k i n).flash = d.flash := by unfold Dev.count; split <;> rfl
@[simp] theorem count_fab (d : Dev) (k i n : Nat) : (d.count k i n).fab = d.fab := by unfold Dev.count; split <;> rfl
@[simp] theorem count_pwr (d : Dev) (k i n : Nat) : (d.count k i n).pwr = d.pwr := by unfold Dev.count; split <;> rfl
@[simp] theorem count_start (d : Dev) (k i n : Nat) : (d.count k i n).start = d.start := by unfold Dev.count; split <;> rfl
@[simp] theorem count_tst (d : Dev) (k i n : Nat) : (d.count k i n).tst = d.tst := by unfold Dev.count; split <;> rfl
@[simp] theorem count_brd (d : Dev) (k i n : Nat) : (d.count k i n).brd = d.brd := by unfold Dev.count; split <;> rfl
@[simp] theorem count_sent (d : Dev) (k i n : Nat) : (d.count k i n).sent = d.sent := by unfold Dev.count; split <;> rfl
@[simp] theorem count_freeCtr (d : Dev) (k i n : Nat) : (d.count k i n).freeCtr = d.freeCtr := by unfold Dev.count; split <;> rfl

/-! ### Tenant counters -/

@[simp] theorem countTenant_ports (d : Dev) (j t n : Nat) : (d.countTenant j t n).ports = d.ports := by unfold Dev.countTenant; split <;> rfl
@[simp] theorem countTenant_cmds (d : Dev) (j t n : Nat) : (d.countTenant j t n).cmds = d.cmds := by unfold Dev.countTenant; split <;> rfl
@[simp] theorem countTenant_regs (d : Dev) (j t n : Nat) : (d.countTenant j t n).regs = d.regs := by unfold Dev.countTenant; split <;> rfl
@[simp] theorem countTenant_adm (d : Dev) (j t n : Nat) : (d.countTenant j t n).adm = d.adm := by unfold Dev.countTenant; split <;> rfl
@[simp] theorem countTenant_plat (d : Dev) (j t n : Nat) : (d.countTenant j t n).plat = d.plat := by unfold Dev.countTenant; split <;> rfl
@[simp] theorem countTenant_leaves (d : Dev) (j t n : Nat) : (d.countTenant j t n).leaves = d.leaves := by unfold Dev.countTenant; split <;> rfl
@[simp] theorem countTenant_root (d : Dev) (j t n : Nat) : (d.countTenant j t n).root = d.root := by unfold Dev.countTenant; split <;> rfl
@[simp] theorem countTenant_scan (d : Dev) (j t n : Nat) : (d.countTenant j t n).scan = d.scan := by unfold Dev.countTenant; split <;> rfl
@[simp] theorem countTenant_chain (d : Dev) (j t n : Nat) : (d.countTenant j t n).chain = d.chain := by unfold Dev.countTenant; split <;> rfl
@[simp] theorem countTenant_mdl (d : Dev) (j t n : Nat) : (d.countTenant j t n).mdl = d.mdl := by unfold Dev.countTenant; split <;> rfl
@[simp] theorem countTenant_nb (d : Dev) (j t n : Nat) : (d.countTenant j t n).nb = d.nb := by unfold Dev.countTenant; split <;> rfl
@[simp] theorem countTenant_mem (d : Dev) (j t n : Nat) : (d.countTenant j t n).mem = d.mem := by unfold Dev.countTenant; split <;> rfl
@[simp] theorem countTenant_com (d : Dev) (j t n : Nat) : (d.countTenant j t n).com = d.com := by unfold Dev.countTenant; split <;> rfl
@[simp] theorem countTenant_flash (d : Dev) (j t n : Nat) : (d.countTenant j t n).flash = d.flash := by unfold Dev.countTenant; split <;> rfl
@[simp] theorem countTenant_fab (d : Dev) (j t n : Nat) : (d.countTenant j t n).fab = d.fab := by unfold Dev.countTenant; split <;> rfl
@[simp] theorem countTenant_pwr (d : Dev) (j t n : Nat) : (d.countTenant j t n).pwr = d.pwr := by unfold Dev.countTenant; split <;> rfl
@[simp] theorem countTenant_start (d : Dev) (j t n : Nat) : (d.countTenant j t n).start = d.start := by unfold Dev.countTenant; split <;> rfl
@[simp] theorem countTenant_tst (d : Dev) (j t n : Nat) : (d.countTenant j t n).tst = d.tst := by unfold Dev.countTenant; split <;> rfl
@[simp] theorem countTenant_brd (d : Dev) (j t n : Nat) : (d.countTenant j t n).brd = d.brd := by unfold Dev.countTenant; split <;> rfl
@[simp] theorem countTenant_sent (d : Dev) (j t n : Nat) : (d.countTenant j t n).sent = d.sent := by unfold Dev.countTenant; split <;> rfl
@[simp] theorem countTenant_freeCtr (d : Dev) (j t n : Nat) : (d.countTenant j t n).freeCtr = d.freeCtr := by unfold Dev.countTenant; split <;> rfl

/-! ### A fresh free value -/

@[simp] theorem fresh_ports (d : Dev) : (d.fresh.2).ports = d.ports := rfl
@[simp] theorem fresh_cmds (d : Dev) : (d.fresh.2).cmds = d.cmds := rfl
@[simp] theorem fresh_regs (d : Dev) : (d.fresh.2).regs = d.regs := rfl
@[simp] theorem fresh_adm (d : Dev) : (d.fresh.2).adm = d.adm := rfl
@[simp] theorem fresh_plat (d : Dev) : (d.fresh.2).plat = d.plat := rfl
@[simp] theorem fresh_leaves (d : Dev) : (d.fresh.2).leaves = d.leaves := rfl
@[simp] theorem fresh_root (d : Dev) : (d.fresh.2).root = d.root := rfl
@[simp] theorem fresh_scan (d : Dev) : (d.fresh.2).scan = d.scan := rfl
@[simp] theorem fresh_chain (d : Dev) : (d.fresh.2).chain = d.chain := rfl
@[simp] theorem fresh_mdl (d : Dev) : (d.fresh.2).mdl = d.mdl := rfl
@[simp] theorem fresh_nb (d : Dev) : (d.fresh.2).nb = d.nb := rfl
@[simp] theorem fresh_mem (d : Dev) : (d.fresh.2).mem = d.mem := rfl
@[simp] theorem fresh_com (d : Dev) : (d.fresh.2).com = d.com := rfl
@[simp] theorem fresh_flash (d : Dev) : (d.fresh.2).flash = d.flash := rfl
@[simp] theorem fresh_fab (d : Dev) : (d.fresh.2).fab = d.fab := rfl
@[simp] theorem fresh_pwr (d : Dev) : (d.fresh.2).pwr = d.pwr := rfl
@[simp] theorem fresh_start (d : Dev) : (d.fresh.2).start = d.start := rfl
@[simp] theorem fresh_tst (d : Dev) : (d.fresh.2).tst = d.tst := rfl
@[simp] theorem fresh_brd (d : Dev) : (d.fresh.2).brd = d.brd := rfl
@[simp] theorem fresh_cnt (d : Dev) : (d.fresh.2).cnt = d.cnt := rfl
@[simp] theorem fresh_sent (d : Dev) : (d.fresh.2).sent = d.sent := rfl

/-! ### The error log -/

@[simp] theorem logErr_ports (d : Dev) (c : Clock) (sev source unit kind location parcel n cmd : Nat) : (d.logErr c sev source unit kind location parcel n cmd).ports = d.ports := rfl
@[simp] theorem logErr_cmds (d : Dev) (c : Clock) (sev source unit kind location parcel n cmd : Nat) : (d.logErr c sev source unit kind location parcel n cmd).cmds = d.cmds := rfl
@[simp] theorem logErr_adm (d : Dev) (c : Clock) (sev source unit kind location parcel n cmd : Nat) : (d.logErr c sev source unit kind location parcel n cmd).adm = d.adm := rfl
@[simp] theorem logErr_plat (d : Dev) (c : Clock) (sev source unit kind location parcel n cmd : Nat) : (d.logErr c sev source unit kind location parcel n cmd).plat = d.plat := rfl
@[simp] theorem logErr_leaves (d : Dev) (c : Clock) (sev source unit kind location parcel n cmd : Nat) : (d.logErr c sev source unit kind location parcel n cmd).leaves = d.leaves := rfl
@[simp] theorem logErr_root (d : Dev) (c : Clock) (sev source unit kind location parcel n cmd : Nat) : (d.logErr c sev source unit kind location parcel n cmd).root = d.root := rfl
@[simp] theorem logErr_scan (d : Dev) (c : Clock) (sev source unit kind location parcel n cmd : Nat) : (d.logErr c sev source unit kind location parcel n cmd).scan = d.scan := rfl
@[simp] theorem logErr_chain (d : Dev) (c : Clock) (sev source unit kind location parcel n cmd : Nat) : (d.logErr c sev source unit kind location parcel n cmd).chain = d.chain := rfl
@[simp] theorem logErr_mdl (d : Dev) (c : Clock) (sev source unit kind location parcel n cmd : Nat) : (d.logErr c sev source unit kind location parcel n cmd).mdl = d.mdl := rfl
@[simp] theorem logErr_nb (d : Dev) (c : Clock) (sev source unit kind location parcel n cmd : Nat) : (d.logErr c sev source unit kind location parcel n cmd).nb = d.nb := rfl
@[simp] theorem logErr_mem (d : Dev) (c : Clock) (sev source unit kind location parcel n cmd : Nat) : (d.logErr c sev source unit kind location parcel n cmd).mem = d.mem := rfl
@[simp] theorem logErr_com (d : Dev) (c : Clock) (sev source unit kind location parcel n cmd : Nat) : (d.logErr c sev source unit kind location parcel n cmd).com = d.com := rfl
@[simp] theorem logErr_flash (d : Dev) (c : Clock) (sev source unit kind location parcel n cmd : Nat) : (d.logErr c sev source unit kind location parcel n cmd).flash = d.flash := rfl
@[simp] theorem logErr_fab (d : Dev) (c : Clock) (sev source unit kind location parcel n cmd : Nat) : (d.logErr c sev source unit kind location parcel n cmd).fab = d.fab := rfl
@[simp] theorem logErr_pwr (d : Dev) (c : Clock) (sev source unit kind location parcel n cmd : Nat) : (d.logErr c sev source unit kind location parcel n cmd).pwr = d.pwr := rfl
@[simp] theorem logErr_start (d : Dev) (c : Clock) (sev source unit kind location parcel n cmd : Nat) : (d.logErr c sev source unit kind location parcel n cmd).start = d.start := rfl
@[simp] theorem logErr_tst (d : Dev) (c : Clock) (sev source unit kind location parcel n cmd : Nat) : (d.logErr c sev source unit kind location parcel n cmd).tst = d.tst := rfl
@[simp] theorem logErr_brd (d : Dev) (c : Clock) (sev source unit kind location parcel n cmd : Nat) : (d.logErr c sev source unit kind location parcel n cmd).brd = d.brd := rfl
@[simp] theorem logErr_cnt (d : Dev) (c : Clock) (sev source unit kind location parcel n cmd : Nat) : (d.logErr c sev source unit kind location parcel n cmd).cnt = d.cnt := rfl
@[simp] theorem logErr_sent (d : Dev) (c : Clock) (sev source unit kind location parcel n cmd : Nat) : (d.logErr c sev source unit kind location parcel n cmd).sent = d.sent := rfl
@[simp] theorem logErr_freeCtr (d : Dev) (c : Clock) (sev source unit kind location parcel n cmd : Nat) : (d.logErr c sev source unit kind location parcel n cmd).freeCtr = d.freeCtr := rfl

/-! ### An event record -/

@[simp] theorem logEvent_cmds (d : Dev) (c : Clock) (p : Port) (type owner n dpa fenceT slot : Nat) : (d.logEvent c p type owner n dpa fenceT slot).cmds = d.cmds := rfl
@[simp] theorem logEvent_regs (d : Dev) (c : Clock) (p : Port) (type owner n dpa fenceT slot : Nat) : (d.logEvent c p type owner n dpa fenceT slot).regs = d.regs := rfl
@[simp] theorem logEvent_adm (d : Dev) (c : Clock) (p : Port) (type owner n dpa fenceT slot : Nat) : (d.logEvent c p type owner n dpa fenceT slot).adm = d.adm := rfl
@[simp] theorem logEvent_plat (d : Dev) (c : Clock) (p : Port) (type owner n dpa fenceT slot : Nat) : (d.logEvent c p type owner n dpa fenceT slot).plat = d.plat := rfl
@[simp] theorem logEvent_leaves (d : Dev) (c : Clock) (p : Port) (type owner n dpa fenceT slot : Nat) : (d.logEvent c p type owner n dpa fenceT slot).leaves = d.leaves := rfl
@[simp] theorem logEvent_root (d : Dev) (c : Clock) (p : Port) (type owner n dpa fenceT slot : Nat) : (d.logEvent c p type owner n dpa fenceT slot).root = d.root := rfl
@[simp] theorem logEvent_scan (d : Dev) (c : Clock) (p : Port) (type owner n dpa fenceT slot : Nat) : (d.logEvent c p type owner n dpa fenceT slot).scan = d.scan := rfl
@[simp] theorem logEvent_chain (d : Dev) (c : Clock) (p : Port) (type owner n dpa fenceT slot : Nat) : (d.logEvent c p type owner n dpa fenceT slot).chain = d.chain := rfl
@[simp] theorem logEvent_mdl (d : Dev) (c : Clock) (p : Port) (type owner n dpa fenceT slot : Nat) : (d.logEvent c p type owner n dpa fenceT slot).mdl = d.mdl := rfl
@[simp] theorem logEvent_nb (d : Dev) (c : Clock) (p : Port) (type owner n dpa fenceT slot : Nat) : (d.logEvent c p type owner n dpa fenceT slot).nb = d.nb := rfl
@[simp] theorem logEvent_mem (d : Dev) (c : Clock) (p : Port) (type owner n dpa fenceT slot : Nat) : (d.logEvent c p type owner n dpa fenceT slot).mem = d.mem := rfl
@[simp] theorem logEvent_com (d : Dev) (c : Clock) (p : Port) (type owner n dpa fenceT slot : Nat) : (d.logEvent c p type owner n dpa fenceT slot).com = d.com := rfl
@[simp] theorem logEvent_flash (d : Dev) (c : Clock) (p : Port) (type owner n dpa fenceT slot : Nat) : (d.logEvent c p type owner n dpa fenceT slot).flash = d.flash := rfl
@[simp] theorem logEvent_fab (d : Dev) (c : Clock) (p : Port) (type owner n dpa fenceT slot : Nat) : (d.logEvent c p type owner n dpa fenceT slot).fab = d.fab := rfl
@[simp] theorem logEvent_pwr (d : Dev) (c : Clock) (p : Port) (type owner n dpa fenceT slot : Nat) : (d.logEvent c p type owner n dpa fenceT slot).pwr = d.pwr := rfl
@[simp] theorem logEvent_start (d : Dev) (c : Clock) (p : Port) (type owner n dpa fenceT slot : Nat) : (d.logEvent c p type owner n dpa fenceT slot).start = d.start := rfl
@[simp] theorem logEvent_tst (d : Dev) (c : Clock) (p : Port) (type owner n dpa fenceT slot : Nat) : (d.logEvent c p type owner n dpa fenceT slot).tst = d.tst := rfl
@[simp] theorem logEvent_brd (d : Dev) (c : Clock) (p : Port) (type owner n dpa fenceT slot : Nat) : (d.logEvent c p type owner n dpa fenceT slot).brd = d.brd := rfl
@[simp] theorem logEvent_cnt (d : Dev) (c : Clock) (p : Port) (type owner n dpa fenceT slot : Nat) : (d.logEvent c p type owner n dpa fenceT slot).cnt = d.cnt := rfl
@[simp] theorem logEvent_sent (d : Dev) (c : Clock) (p : Port) (type owner n dpa fenceT slot : Nat) : (d.logEvent c p type owner n dpa fenceT slot).sent = d.sent := rfl
@[simp] theorem logEvent_freeCtr (d : Dev) (c : Clock) (p : Port) (type owner n dpa fenceT slot : Nat) : (d.logEvent c p type owner n dpa fenceT slot).freeCtr = d.freeCtr := rfl

/-! ### A message to a peer -/

@[simp] theorem send_ports (d : Dev) (cls : Fin 4) (dst : Nat) (m : OutMsg) : (d.send cls dst m).ports = d.ports := by unfold Dev.send; simp only []; split <;> rfl
@[simp] theorem send_cmds (d : Dev) (cls : Fin 4) (dst : Nat) (m : OutMsg) : (d.send cls dst m).cmds = d.cmds := by unfold Dev.send; simp only []; split <;> rfl
@[simp] theorem send_regs (d : Dev) (cls : Fin 4) (dst : Nat) (m : OutMsg) : (d.send cls dst m).regs = d.regs := by unfold Dev.send; simp only []; split <;> rfl
@[simp] theorem send_adm (d : Dev) (cls : Fin 4) (dst : Nat) (m : OutMsg) : (d.send cls dst m).adm = d.adm := by unfold Dev.send; simp only []; split <;> rfl
@[simp] theorem send_plat (d : Dev) (cls : Fin 4) (dst : Nat) (m : OutMsg) : (d.send cls dst m).plat = d.plat := by unfold Dev.send; simp only []; split <;> rfl
@[simp] theorem send_leaves (d : Dev) (cls : Fin 4) (dst : Nat) (m : OutMsg) : (d.send cls dst m).leaves = d.leaves := by unfold Dev.send; simp only []; split <;> rfl
@[simp] theorem send_root (d : Dev) (cls : Fin 4) (dst : Nat) (m : OutMsg) : (d.send cls dst m).root = d.root := by unfold Dev.send; simp only []; split <;> rfl
@[simp] theorem send_scan (d : Dev) (cls : Fin 4) (dst : Nat) (m : OutMsg) : (d.send cls dst m).scan = d.scan := by unfold Dev.send; simp only []; split <;> rfl
@[simp] theorem send_chain (d : Dev) (cls : Fin 4) (dst : Nat) (m : OutMsg) : (d.send cls dst m).chain = d.chain := by unfold Dev.send; simp only []; split <;> rfl
@[simp] theorem send_mdl (d : Dev) (cls : Fin 4) (dst : Nat) (m : OutMsg) : (d.send cls dst m).mdl = d.mdl := by unfold Dev.send; simp only []; split <;> rfl
@[simp] theorem send_nb (d : Dev) (cls : Fin 4) (dst : Nat) (m : OutMsg) : (d.send cls dst m).nb = d.nb := by unfold Dev.send; simp only []; split <;> rfl
@[simp] theorem send_mem (d : Dev) (cls : Fin 4) (dst : Nat) (m : OutMsg) : (d.send cls dst m).mem = d.mem := by unfold Dev.send; simp only []; split <;> rfl
@[simp] theorem send_com (d : Dev) (cls : Fin 4) (dst : Nat) (m : OutMsg) : (d.send cls dst m).com = d.com := by unfold Dev.send; simp only []; split <;> rfl
@[simp] theorem send_flash (d : Dev) (cls : Fin 4) (dst : Nat) (m : OutMsg) : (d.send cls dst m).flash = d.flash := by unfold Dev.send; simp only []; split <;> rfl
@[simp] theorem send_pwr (d : Dev) (cls : Fin 4) (dst : Nat) (m : OutMsg) : (d.send cls dst m).pwr = d.pwr := by unfold Dev.send; simp only []; split <;> rfl
@[simp] theorem send_start (d : Dev) (cls : Fin 4) (dst : Nat) (m : OutMsg) : (d.send cls dst m).start = d.start := by unfold Dev.send; simp only []; split <;> rfl
@[simp] theorem send_tst (d : Dev) (cls : Fin 4) (dst : Nat) (m : OutMsg) : (d.send cls dst m).tst = d.tst := by unfold Dev.send; simp only []; split <;> rfl
@[simp] theorem send_brd (d : Dev) (cls : Fin 4) (dst : Nat) (m : OutMsg) : (d.send cls dst m).brd = d.brd := by unfold Dev.send; simp only []; split <;> rfl
@[simp] theorem send_cnt (d : Dev) (cls : Fin 4) (dst : Nat) (m : OutMsg) : (d.send cls dst m).cnt = d.cnt := by unfold Dev.send; simp only []; split <;> rfl

/-! ### STATUS_WORD and COUNT_WORD -/

@[simp] theorem writeWords_cmds (d : Dev) (cmd : Cmd) (status progress flags orig n : Nat) : (d.writeWords cmd status progress flags orig n).cmds = d.cmds := by unfold Dev.writeWords; split <;> rfl
@[simp] theorem writeWords_regs (d : Dev) (cmd : Cmd) (status progress flags orig n : Nat) : (d.writeWords cmd status progress flags orig n).regs = d.regs := by unfold Dev.writeWords; split <;> rfl
@[simp] theorem writeWords_adm (d : Dev) (cmd : Cmd) (status progress flags orig n : Nat) : (d.writeWords cmd status progress flags orig n).adm = d.adm := by unfold Dev.writeWords; split <;> rfl
@[simp] theorem writeWords_plat (d : Dev) (cmd : Cmd) (status progress flags orig n : Nat) : (d.writeWords cmd status progress flags orig n).plat = d.plat := by unfold Dev.writeWords; split <;> rfl
@[simp] theorem writeWords_leaves (d : Dev) (cmd : Cmd) (status progress flags orig n : Nat) : (d.writeWords cmd status progress flags orig n).leaves = d.leaves := by unfold Dev.writeWords; split <;> rfl
@[simp] theorem writeWords_root (d : Dev) (cmd : Cmd) (status progress flags orig n : Nat) : (d.writeWords cmd status progress flags orig n).root = d.root := by unfold Dev.writeWords; split <;> rfl
@[simp] theorem writeWords_scan (d : Dev) (cmd : Cmd) (status progress flags orig n : Nat) : (d.writeWords cmd status progress flags orig n).scan = d.scan := by unfold Dev.writeWords; split <;> rfl
@[simp] theorem writeWords_chain (d : Dev) (cmd : Cmd) (status progress flags orig n : Nat) : (d.writeWords cmd status progress flags orig n).chain = d.chain := by unfold Dev.writeWords; split <;> rfl
@[simp] theorem writeWords_mdl (d : Dev) (cmd : Cmd) (status progress flags orig n : Nat) : (d.writeWords cmd status progress flags orig n).mdl = d.mdl := by unfold Dev.writeWords; split <;> rfl
@[simp] theorem writeWords_nb (d : Dev) (cmd : Cmd) (status progress flags orig n : Nat) : (d.writeWords cmd status progress flags orig n).nb = d.nb := by unfold Dev.writeWords; split <;> rfl
@[simp] theorem writeWords_mem (d : Dev) (cmd : Cmd) (status progress flags orig n : Nat) : (d.writeWords cmd status progress flags orig n).mem = d.mem := by unfold Dev.writeWords; split <;> rfl
@[simp] theorem writeWords_com (d : Dev) (cmd : Cmd) (status progress flags orig n : Nat) : (d.writeWords cmd status progress flags orig n).com = d.com := by unfold Dev.writeWords; split <;> rfl
@[simp] theorem writeWords_flash (d : Dev) (cmd : Cmd) (status progress flags orig n : Nat) : (d.writeWords cmd status progress flags orig n).flash = d.flash := by unfold Dev.writeWords; split <;> rfl
@[simp] theorem writeWords_fab (d : Dev) (cmd : Cmd) (status progress flags orig n : Nat) : (d.writeWords cmd status progress flags orig n).fab = d.fab := by unfold Dev.writeWords; split <;> rfl
@[simp] theorem writeWords_pwr (d : Dev) (cmd : Cmd) (status progress flags orig n : Nat) : (d.writeWords cmd status progress flags orig n).pwr = d.pwr := by unfold Dev.writeWords; split <;> rfl
@[simp] theorem writeWords_start (d : Dev) (cmd : Cmd) (status progress flags orig n : Nat) : (d.writeWords cmd status progress flags orig n).start = d.start := by unfold Dev.writeWords; split <;> rfl
@[simp] theorem writeWords_tst (d : Dev) (cmd : Cmd) (status progress flags orig n : Nat) : (d.writeWords cmd status progress flags orig n).tst = d.tst := by unfold Dev.writeWords; split <;> rfl
@[simp] theorem writeWords_brd (d : Dev) (cmd : Cmd) (status progress flags orig n : Nat) : (d.writeWords cmd status progress flags orig n).brd = d.brd := by unfold Dev.writeWords; split <;> rfl
@[simp] theorem writeWords_cnt (d : Dev) (cmd : Cmd) (status progress flags orig n : Nat) : (d.writeWords cmd status progress flags orig n).cnt = d.cnt := by unfold Dev.writeWords; split <;> rfl
@[simp] theorem writeWords_sent (d : Dev) (cmd : Cmd) (status progress flags orig n : Nat) : (d.writeWords cmd status progress flags orig n).sent = d.sent := by unfold Dev.writeWords; split <;> rfl
@[simp] theorem writeWords_freeCtr (d : Dev) (cmd : Cmd) (status progress flags orig n : Nat) : (d.writeWords cmd status progress flags orig n).freeCtr = d.freeCtr := by unfold Dev.writeWords; split <;> rfl

/-! ### A report of a running command -/

@[simp] theorem report_cmds (d : Dev) (r : Ref) (status progress n : Nat) (pv deg tie : Bool) : (d.report r status progress n pv deg tie).cmds = d.cmds := by unfold Dev.report; split; rfl; exact writeWords_cmds _ _ _ _ _ _ _
@[simp] theorem report_regs (d : Dev) (r : Ref) (status progress n : Nat) (pv deg tie : Bool) : (d.report r status progress n pv deg tie).regs = d.regs := by unfold Dev.report; split; rfl; exact writeWords_regs _ _ _ _ _ _ _
@[simp] theorem report_adm (d : Dev) (r : Ref) (status progress n : Nat) (pv deg tie : Bool) : (d.report r status progress n pv deg tie).adm = d.adm := by unfold Dev.report; split; rfl; exact writeWords_adm _ _ _ _ _ _ _
@[simp] theorem report_plat (d : Dev) (r : Ref) (status progress n : Nat) (pv deg tie : Bool) : (d.report r status progress n pv deg tie).plat = d.plat := by unfold Dev.report; split; rfl; exact writeWords_plat _ _ _ _ _ _ _
@[simp] theorem report_leaves (d : Dev) (r : Ref) (status progress n : Nat) (pv deg tie : Bool) : (d.report r status progress n pv deg tie).leaves = d.leaves := by unfold Dev.report; split; rfl; exact writeWords_leaves _ _ _ _ _ _ _
@[simp] theorem report_root (d : Dev) (r : Ref) (status progress n : Nat) (pv deg tie : Bool) : (d.report r status progress n pv deg tie).root = d.root := by unfold Dev.report; split; rfl; exact writeWords_root _ _ _ _ _ _ _
@[simp] theorem report_scan (d : Dev) (r : Ref) (status progress n : Nat) (pv deg tie : Bool) : (d.report r status progress n pv deg tie).scan = d.scan := by unfold Dev.report; split; rfl; exact writeWords_scan _ _ _ _ _ _ _
@[simp] theorem report_chain (d : Dev) (r : Ref) (status progress n : Nat) (pv deg tie : Bool) : (d.report r status progress n pv deg tie).chain = d.chain := by unfold Dev.report; split; rfl; exact writeWords_chain _ _ _ _ _ _ _
@[simp] theorem report_mdl (d : Dev) (r : Ref) (status progress n : Nat) (pv deg tie : Bool) : (d.report r status progress n pv deg tie).mdl = d.mdl := by unfold Dev.report; split; rfl; exact writeWords_mdl _ _ _ _ _ _ _
@[simp] theorem report_nb (d : Dev) (r : Ref) (status progress n : Nat) (pv deg tie : Bool) : (d.report r status progress n pv deg tie).nb = d.nb := by unfold Dev.report; split; rfl; exact writeWords_nb _ _ _ _ _ _ _
@[simp] theorem report_mem (d : Dev) (r : Ref) (status progress n : Nat) (pv deg tie : Bool) : (d.report r status progress n pv deg tie).mem = d.mem := by unfold Dev.report; split; rfl; exact writeWords_mem _ _ _ _ _ _ _
@[simp] theorem report_com (d : Dev) (r : Ref) (status progress n : Nat) (pv deg tie : Bool) : (d.report r status progress n pv deg tie).com = d.com := by unfold Dev.report; split; rfl; exact writeWords_com _ _ _ _ _ _ _
@[simp] theorem report_flash (d : Dev) (r : Ref) (status progress n : Nat) (pv deg tie : Bool) : (d.report r status progress n pv deg tie).flash = d.flash := by unfold Dev.report; split; rfl; exact writeWords_flash _ _ _ _ _ _ _
@[simp] theorem report_fab (d : Dev) (r : Ref) (status progress n : Nat) (pv deg tie : Bool) : (d.report r status progress n pv deg tie).fab = d.fab := by unfold Dev.report; split; rfl; exact writeWords_fab _ _ _ _ _ _ _
@[simp] theorem report_pwr (d : Dev) (r : Ref) (status progress n : Nat) (pv deg tie : Bool) : (d.report r status progress n pv deg tie).pwr = d.pwr := by unfold Dev.report; split; rfl; exact writeWords_pwr _ _ _ _ _ _ _
@[simp] theorem report_start (d : Dev) (r : Ref) (status progress n : Nat) (pv deg tie : Bool) : (d.report r status progress n pv deg tie).start = d.start := by unfold Dev.report; split; rfl; exact writeWords_start _ _ _ _ _ _ _
@[simp] theorem report_tst (d : Dev) (r : Ref) (status progress n : Nat) (pv deg tie : Bool) : (d.report r status progress n pv deg tie).tst = d.tst := by unfold Dev.report; split; rfl; exact writeWords_tst _ _ _ _ _ _ _
@[simp] theorem report_brd (d : Dev) (r : Ref) (status progress n : Nat) (pv deg tie : Bool) : (d.report r status progress n pv deg tie).brd = d.brd := by unfold Dev.report; split; rfl; exact writeWords_brd _ _ _ _ _ _ _
@[simp] theorem report_cnt (d : Dev) (r : Ref) (status progress n : Nat) (pv deg tie : Bool) : (d.report r status progress n pv deg tie).cnt = d.cnt := by unfold Dev.report; split; rfl; exact writeWords_cnt _ _ _ _ _ _ _
@[simp] theorem report_sent (d : Dev) (r : Ref) (status progress n : Nat) (pv deg tie : Bool) : (d.report r status progress n pv deg tie).sent = d.sent := by unfold Dev.report; split; rfl; exact writeWords_sent _ _ _ _ _ _ _
@[simp] theorem report_freeCtr (d : Dev) (r : Ref) (status progress n : Nat) (pv deg tie : Bool) : (d.report r status progress n pv deg tie).freeCtr = d.freeCtr := by unfold Dev.report; split; rfl; exact writeWords_freeCtr _ _ _ _ _ _ _

/-! ### The first report -/

@[simp] theorem showRunning_cmds (d : Dev) (r : Ref) : (d.showRunning r).cmds = d.cmds := by unfold Dev.showRunning; split; rfl; simp only []; split; rfl; exact report_cmds _ _ _ _ _ _ _ _
@[simp] theorem showRunning_regs (d : Dev) (r : Ref) : (d.showRunning r).regs = d.regs := by unfold Dev.showRunning; split; rfl; simp only []; split; rfl; exact report_regs _ _ _ _ _ _ _ _
@[simp] theorem showRunning_adm (d : Dev) (r : Ref) : (d.showRunning r).adm = d.adm := by unfold Dev.showRunning; split; rfl; simp only []; split; rfl; exact report_adm _ _ _ _ _ _ _ _
@[simp] theorem showRunning_plat (d : Dev) (r : Ref) : (d.showRunning r).plat = d.plat := by unfold Dev.showRunning; split; rfl; simp only []; split; rfl; exact report_plat _ _ _ _ _ _ _ _
@[simp] theorem showRunning_leaves (d : Dev) (r : Ref) : (d.showRunning r).leaves = d.leaves := by unfold Dev.showRunning; split; rfl; simp only []; split; rfl; exact report_leaves _ _ _ _ _ _ _ _
@[simp] theorem showRunning_root (d : Dev) (r : Ref) : (d.showRunning r).root = d.root := by unfold Dev.showRunning; split; rfl; simp only []; split; rfl; exact report_root _ _ _ _ _ _ _ _
@[simp] theorem showRunning_scan (d : Dev) (r : Ref) : (d.showRunning r).scan = d.scan := by unfold Dev.showRunning; split; rfl; simp only []; split; rfl; exact report_scan _ _ _ _ _ _ _ _
@[simp] theorem showRunning_chain (d : Dev) (r : Ref) : (d.showRunning r).chain = d.chain := by unfold Dev.showRunning; split; rfl; simp only []; split; rfl; exact report_chain _ _ _ _ _ _ _ _
@[simp] theorem showRunning_mdl (d : Dev) (r : Ref) : (d.showRunning r).mdl = d.mdl := by unfold Dev.showRunning; split; rfl; simp only []; split; rfl; exact report_mdl _ _ _ _ _ _ _ _
@[simp] theorem showRunning_nb (d : Dev) (r : Ref) : (d.showRunning r).nb = d.nb := by unfold Dev.showRunning; split; rfl; simp only []; split; rfl; exact report_nb _ _ _ _ _ _ _ _
@[simp] theorem showRunning_mem (d : Dev) (r : Ref) : (d.showRunning r).mem = d.mem := by unfold Dev.showRunning; split; rfl; simp only []; split; rfl; exact report_mem _ _ _ _ _ _ _ _
@[simp] theorem showRunning_com (d : Dev) (r : Ref) : (d.showRunning r).com = d.com := by unfold Dev.showRunning; split; rfl; simp only []; split; rfl; exact report_com _ _ _ _ _ _ _ _
@[simp] theorem showRunning_flash (d : Dev) (r : Ref) : (d.showRunning r).flash = d.flash := by unfold Dev.showRunning; split; rfl; simp only []; split; rfl; exact report_flash _ _ _ _ _ _ _ _
@[simp] theorem showRunning_fab (d : Dev) (r : Ref) : (d.showRunning r).fab = d.fab := by unfold Dev.showRunning; split; rfl; simp only []; split; rfl; exact report_fab _ _ _ _ _ _ _ _
@[simp] theorem showRunning_pwr (d : Dev) (r : Ref) : (d.showRunning r).pwr = d.pwr := by unfold Dev.showRunning; split; rfl; simp only []; split; rfl; exact report_pwr _ _ _ _ _ _ _ _
@[simp] theorem showRunning_start (d : Dev) (r : Ref) : (d.showRunning r).start = d.start := by unfold Dev.showRunning; split; rfl; simp only []; split; rfl; exact report_start _ _ _ _ _ _ _ _
@[simp] theorem showRunning_tst (d : Dev) (r : Ref) : (d.showRunning r).tst = d.tst := by unfold Dev.showRunning; split; rfl; simp only []; split; rfl; exact report_tst _ _ _ _ _ _ _ _
@[simp] theorem showRunning_brd (d : Dev) (r : Ref) : (d.showRunning r).brd = d.brd := by unfold Dev.showRunning; split; rfl; simp only []; split; rfl; exact report_brd _ _ _ _ _ _ _ _
@[simp] theorem showRunning_cnt (d : Dev) (r : Ref) : (d.showRunning r).cnt = d.cnt := by unfold Dev.showRunning; split; rfl; simp only []; split; rfl; exact report_cnt _ _ _ _ _ _ _ _
@[simp] theorem showRunning_sent (d : Dev) (r : Ref) : (d.showRunning r).sent = d.sent := by unfold Dev.showRunning; split; rfl; simp only []; split; rfl; exact report_sent _ _ _ _ _ _ _ _
@[simp] theorem showRunning_freeCtr (d : Dev) (r : Ref) : (d.showRunning r).freeCtr = d.freeCtr := by unfold Dev.showRunning; split; rfl; simp only []; split; rfl; exact report_freeCtr _ _ _ _ _ _ _ _

/-! ### DONE -/

@[simp] theorem putEnd_regs (d : Dev) (cmd : Cmd) (status flags orig n : Nat) : (d.putEnd cmd status flags orig n).regs = d.regs := by unfold Dev.putEnd; simp only []; split <;> exact writeWords_regs _ _ _ _ _ _ _
@[simp] theorem putEnd_adm (d : Dev) (cmd : Cmd) (status flags orig n : Nat) : (d.putEnd cmd status flags orig n).adm = d.adm := by unfold Dev.putEnd; simp only []; split <;> exact writeWords_adm _ _ _ _ _ _ _
@[simp] theorem putEnd_plat (d : Dev) (cmd : Cmd) (status flags orig n : Nat) : (d.putEnd cmd status flags orig n).plat = d.plat := by unfold Dev.putEnd; simp only []; split <;> exact writeWords_plat _ _ _ _ _ _ _
@[simp] theorem putEnd_leaves (d : Dev) (cmd : Cmd) (status flags orig n : Nat) : (d.putEnd cmd status flags orig n).leaves = d.leaves := by unfold Dev.putEnd; simp only []; split <;> exact writeWords_leaves _ _ _ _ _ _ _
@[simp] theorem putEnd_root (d : Dev) (cmd : Cmd) (status flags orig n : Nat) : (d.putEnd cmd status flags orig n).root = d.root := by unfold Dev.putEnd; simp only []; split <;> exact writeWords_root _ _ _ _ _ _ _
@[simp] theorem putEnd_scan (d : Dev) (cmd : Cmd) (status flags orig n : Nat) : (d.putEnd cmd status flags orig n).scan = d.scan := by unfold Dev.putEnd; simp only []; split <;> exact writeWords_scan _ _ _ _ _ _ _
@[simp] theorem putEnd_chain (d : Dev) (cmd : Cmd) (status flags orig n : Nat) : (d.putEnd cmd status flags orig n).chain = d.chain := by unfold Dev.putEnd; simp only []; split <;> exact writeWords_chain _ _ _ _ _ _ _
@[simp] theorem putEnd_mdl (d : Dev) (cmd : Cmd) (status flags orig n : Nat) : (d.putEnd cmd status flags orig n).mdl = d.mdl := by unfold Dev.putEnd; simp only []; split <;> exact writeWords_mdl _ _ _ _ _ _ _
@[simp] theorem putEnd_nb (d : Dev) (cmd : Cmd) (status flags orig n : Nat) : (d.putEnd cmd status flags orig n).nb = d.nb := by unfold Dev.putEnd; simp only []; split <;> exact writeWords_nb _ _ _ _ _ _ _
@[simp] theorem putEnd_mem (d : Dev) (cmd : Cmd) (status flags orig n : Nat) : (d.putEnd cmd status flags orig n).mem = d.mem := by unfold Dev.putEnd; simp only []; split <;> exact writeWords_mem _ _ _ _ _ _ _
@[simp] theorem putEnd_com (d : Dev) (cmd : Cmd) (status flags orig n : Nat) : (d.putEnd cmd status flags orig n).com = d.com := by unfold Dev.putEnd; simp only []; split <;> exact writeWords_com _ _ _ _ _ _ _
@[simp] theorem putEnd_flash (d : Dev) (cmd : Cmd) (status flags orig n : Nat) : (d.putEnd cmd status flags orig n).flash = d.flash := by unfold Dev.putEnd; simp only []; split <;> exact writeWords_flash _ _ _ _ _ _ _
@[simp] theorem putEnd_fab (d : Dev) (cmd : Cmd) (status flags orig n : Nat) : (d.putEnd cmd status flags orig n).fab = d.fab := by unfold Dev.putEnd; simp only []; split <;> exact writeWords_fab _ _ _ _ _ _ _
@[simp] theorem putEnd_pwr (d : Dev) (cmd : Cmd) (status flags orig n : Nat) : (d.putEnd cmd status flags orig n).pwr = d.pwr := by unfold Dev.putEnd; simp only []; split <;> exact writeWords_pwr _ _ _ _ _ _ _
@[simp] theorem putEnd_start (d : Dev) (cmd : Cmd) (status flags orig n : Nat) : (d.putEnd cmd status flags orig n).start = d.start := by unfold Dev.putEnd; simp only []; split <;> exact writeWords_start _ _ _ _ _ _ _
@[simp] theorem putEnd_tst (d : Dev) (cmd : Cmd) (status flags orig n : Nat) : (d.putEnd cmd status flags orig n).tst = d.tst := by unfold Dev.putEnd; simp only []; split <;> exact writeWords_tst _ _ _ _ _ _ _
@[simp] theorem putEnd_brd (d : Dev) (cmd : Cmd) (status flags orig n : Nat) : (d.putEnd cmd status flags orig n).brd = d.brd := by unfold Dev.putEnd; simp only []; split <;> exact writeWords_brd _ _ _ _ _ _ _
@[simp] theorem putEnd_cnt (d : Dev) (cmd : Cmd) (status flags orig n : Nat) : (d.putEnd cmd status flags orig n).cnt = d.cnt := by unfold Dev.putEnd; simp only []; split <;> exact writeWords_cnt _ _ _ _ _ _ _
@[simp] theorem putEnd_sent (d : Dev) (cmd : Cmd) (status flags orig n : Nat) : (d.putEnd cmd status flags orig n).sent = d.sent := by unfold Dev.putEnd; simp only []; split <;> exact writeWords_sent _ _ _ _ _ _ _
@[simp] theorem putEnd_freeCtr (d : Dev) (cmd : Cmd) (status flags orig n : Nat) : (d.putEnd cmd status flags orig n).freeCtr = d.freeCtr := by unfold Dev.putEnd; simp only []; split <;> exact writeWords_freeCtr _ _ _ _ _ _ _

/-! ### A replayed outcome -/

@[simp] theorem putReplayed_regs (d : Dev) (cmd : Cmd) (e : Ended) : (d.putReplayed cmd e).regs = d.regs := by unfold Dev.putReplayed; simp only [count_regs, putEnd_regs]; split <;> rfl
@[simp] theorem putReplayed_adm (d : Dev) (cmd : Cmd) (e : Ended) : (d.putReplayed cmd e).adm = d.adm := by unfold Dev.putReplayed; simp only [count_adm, putEnd_adm]; split <;> rfl
@[simp] theorem putReplayed_plat (d : Dev) (cmd : Cmd) (e : Ended) : (d.putReplayed cmd e).plat = d.plat := by unfold Dev.putReplayed; simp only [count_plat, putEnd_plat]; split <;> rfl
@[simp] theorem putReplayed_leaves (d : Dev) (cmd : Cmd) (e : Ended) : (d.putReplayed cmd e).leaves = d.leaves := by unfold Dev.putReplayed; simp only [count_leaves, putEnd_leaves]; split <;> rfl
@[simp] theorem putReplayed_root (d : Dev) (cmd : Cmd) (e : Ended) : (d.putReplayed cmd e).root = d.root := by unfold Dev.putReplayed; simp only [count_root, putEnd_root]; split <;> rfl
@[simp] theorem putReplayed_scan (d : Dev) (cmd : Cmd) (e : Ended) : (d.putReplayed cmd e).scan = d.scan := by unfold Dev.putReplayed; simp only [count_scan, putEnd_scan]; split <;> rfl
@[simp] theorem putReplayed_chain (d : Dev) (cmd : Cmd) (e : Ended) : (d.putReplayed cmd e).chain = d.chain := by unfold Dev.putReplayed; simp only [count_chain, putEnd_chain]; split <;> rfl
@[simp] theorem putReplayed_mdl (d : Dev) (cmd : Cmd) (e : Ended) : (d.putReplayed cmd e).mdl = d.mdl := by unfold Dev.putReplayed; simp only [count_mdl, putEnd_mdl]; split <;> rfl
@[simp] theorem putReplayed_nb (d : Dev) (cmd : Cmd) (e : Ended) : (d.putReplayed cmd e).nb = d.nb := by unfold Dev.putReplayed; simp only [count_nb, putEnd_nb]; split <;> rfl
@[simp] theorem putReplayed_mem (d : Dev) (cmd : Cmd) (e : Ended) : (d.putReplayed cmd e).mem = d.mem := by unfold Dev.putReplayed; simp only [count_mem, putEnd_mem]; split <;> rfl
@[simp] theorem putReplayed_com (d : Dev) (cmd : Cmd) (e : Ended) : (d.putReplayed cmd e).com = d.com := by unfold Dev.putReplayed; simp only [count_com, putEnd_com]; split <;> rfl
@[simp] theorem putReplayed_flash (d : Dev) (cmd : Cmd) (e : Ended) : (d.putReplayed cmd e).flash = d.flash := by unfold Dev.putReplayed; simp only [count_flash, putEnd_flash]; split <;> rfl
@[simp] theorem putReplayed_fab (d : Dev) (cmd : Cmd) (e : Ended) : (d.putReplayed cmd e).fab = d.fab := by unfold Dev.putReplayed; simp only [count_fab, putEnd_fab]; split <;> rfl
@[simp] theorem putReplayed_pwr (d : Dev) (cmd : Cmd) (e : Ended) : (d.putReplayed cmd e).pwr = d.pwr := by unfold Dev.putReplayed; simp only [count_pwr, putEnd_pwr]; split <;> rfl
@[simp] theorem putReplayed_start (d : Dev) (cmd : Cmd) (e : Ended) : (d.putReplayed cmd e).start = d.start := by unfold Dev.putReplayed; simp only [count_start, putEnd_start]; split <;> rfl
@[simp] theorem putReplayed_tst (d : Dev) (cmd : Cmd) (e : Ended) : (d.putReplayed cmd e).tst = d.tst := by unfold Dev.putReplayed; simp only [count_tst, putEnd_tst]; split <;> rfl
@[simp] theorem putReplayed_brd (d : Dev) (cmd : Cmd) (e : Ended) : (d.putReplayed cmd e).brd = d.brd := by unfold Dev.putReplayed; simp only [count_brd, putEnd_brd]; split <;> rfl
@[simp] theorem putReplayed_sent (d : Dev) (cmd : Cmd) (e : Ended) : (d.putReplayed cmd e).sent = d.sent := by unfold Dev.putReplayed; simp only [count_sent, putEnd_sent]; split <;> rfl
@[simp] theorem putReplayed_freeCtr (d : Dev) (cmd : Cmd) (e : Ended) : (d.putReplayed cmd e).freeCtr = d.freeCtr := by unfold Dev.putReplayed; simp only [count_freeCtr, putEnd_freeCtr]; split <;> rfl

/-! ### A command taken anew -/

@[simp] theorem retake_regs (d : Dev) (cmd : Cmd) : (d.retake cmd).regs = d.regs := by unfold Dev.retake; simp only []; split <;> rfl
@[simp] theorem retake_adm (d : Dev) (cmd : Cmd) : (d.retake cmd).adm = d.adm := by unfold Dev.retake; simp only []; split <;> rfl
@[simp] theorem retake_plat (d : Dev) (cmd : Cmd) : (d.retake cmd).plat = d.plat := by unfold Dev.retake; simp only []; split <;> rfl
@[simp] theorem retake_leaves (d : Dev) (cmd : Cmd) : (d.retake cmd).leaves = d.leaves := by unfold Dev.retake; simp only []; split <;> rfl
@[simp] theorem retake_root (d : Dev) (cmd : Cmd) : (d.retake cmd).root = d.root := by unfold Dev.retake; simp only []; split <;> rfl
@[simp] theorem retake_scan (d : Dev) (cmd : Cmd) : (d.retake cmd).scan = d.scan := by unfold Dev.retake; simp only []; split <;> rfl
@[simp] theorem retake_chain (d : Dev) (cmd : Cmd) : (d.retake cmd).chain = d.chain := by unfold Dev.retake; simp only []; split <;> rfl
@[simp] theorem retake_mdl (d : Dev) (cmd : Cmd) : (d.retake cmd).mdl = d.mdl := by unfold Dev.retake; simp only []; split <;> rfl
@[simp] theorem retake_nb (d : Dev) (cmd : Cmd) : (d.retake cmd).nb = d.nb := by unfold Dev.retake; simp only []; split <;> rfl
@[simp] theorem retake_mem (d : Dev) (cmd : Cmd) : (d.retake cmd).mem = d.mem := by unfold Dev.retake; simp only []; split <;> rfl
@[simp] theorem retake_com (d : Dev) (cmd : Cmd) : (d.retake cmd).com = d.com := by unfold Dev.retake; simp only []; split <;> rfl
@[simp] theorem retake_flash (d : Dev) (cmd : Cmd) : (d.retake cmd).flash = d.flash := by unfold Dev.retake; simp only []; split <;> rfl
@[simp] theorem retake_fab (d : Dev) (cmd : Cmd) : (d.retake cmd).fab = d.fab := by unfold Dev.retake; simp only []; split <;> rfl
@[simp] theorem retake_pwr (d : Dev) (cmd : Cmd) : (d.retake cmd).pwr = d.pwr := by unfold Dev.retake; simp only []; split <;> rfl
@[simp] theorem retake_start (d : Dev) (cmd : Cmd) : (d.retake cmd).start = d.start := by unfold Dev.retake; simp only []; split <;> rfl
@[simp] theorem retake_tst (d : Dev) (cmd : Cmd) : (d.retake cmd).tst = d.tst := by unfold Dev.retake; simp only []; split <;> rfl
@[simp] theorem retake_brd (d : Dev) (cmd : Cmd) : (d.retake cmd).brd = d.brd := by unfold Dev.retake; simp only []; split <;> rfl
@[simp] theorem retake_cnt (d : Dev) (cmd : Cmd) : (d.retake cmd).cnt = d.cnt := by unfold Dev.retake; simp only []; split <;> rfl
@[simp] theorem retake_sent (d : Dev) (cmd : Cmd) : (d.retake cmd).sent = d.sent := by unfold Dev.retake; simp only []; split <;> rfl
@[simp] theorem retake_freeCtr (d : Dev) (cmd : Cmd) : (d.retake cmd).freeCtr = d.freeCtr := by unfold Dev.retake; simp only []; split <;> rfl

/-! ### The end of an accepted command -/

@[simp] theorem endCmd_regs (d : Dev) (c : Clock) (r : Ref) (status flags n : Nat) (head : List Byte) : (d.endCmd c r status flags n head).regs = d.regs := by
  unfold Dev.endCmd; split; rfl; simp only []; split
  · exact (foldl_keeps (fun (x : Dev) => x.regs) (fun b a => putReplayed_regs b a _) _ _).trans (putEnd_regs _ _ _ _ _ _)
  · exact putEnd_regs _ _ _ _ _ _
@[simp] theorem endCmd_adm (d : Dev) (c : Clock) (r : Ref) (status flags n : Nat) (head : List Byte) : (d.endCmd c r status flags n head).adm = d.adm := by
  unfold Dev.endCmd; split; rfl; simp only []; split
  · exact (foldl_keeps (fun (x : Dev) => x.adm) (fun b a => putReplayed_adm b a _) _ _).trans (putEnd_adm _ _ _ _ _ _)
  · exact putEnd_adm _ _ _ _ _ _
@[simp] theorem endCmd_plat (d : Dev) (c : Clock) (r : Ref) (status flags n : Nat) (head : List Byte) : (d.endCmd c r status flags n head).plat = d.plat := by
  unfold Dev.endCmd; split; rfl; simp only []; split
  · exact (foldl_keeps (fun (x : Dev) => x.plat) (fun b a => putReplayed_plat b a _) _ _).trans (putEnd_plat _ _ _ _ _ _)
  · exact putEnd_plat _ _ _ _ _ _
@[simp] theorem endCmd_leaves (d : Dev) (c : Clock) (r : Ref) (status flags n : Nat) (head : List Byte) : (d.endCmd c r status flags n head).leaves = d.leaves := by
  unfold Dev.endCmd; split; rfl; simp only []; split
  · exact (foldl_keeps (fun (x : Dev) => x.leaves) (fun b a => putReplayed_leaves b a _) _ _).trans (putEnd_leaves _ _ _ _ _ _)
  · exact putEnd_leaves _ _ _ _ _ _
@[simp] theorem endCmd_root (d : Dev) (c : Clock) (r : Ref) (status flags n : Nat) (head : List Byte) : (d.endCmd c r status flags n head).root = d.root := by
  unfold Dev.endCmd; split; rfl; simp only []; split
  · exact (foldl_keeps (fun (x : Dev) => x.root) (fun b a => putReplayed_root b a _) _ _).trans (putEnd_root _ _ _ _ _ _)
  · exact putEnd_root _ _ _ _ _ _
@[simp] theorem endCmd_scan (d : Dev) (c : Clock) (r : Ref) (status flags n : Nat) (head : List Byte) : (d.endCmd c r status flags n head).scan = d.scan := by
  unfold Dev.endCmd; split; rfl; simp only []; split
  · exact (foldl_keeps (fun (x : Dev) => x.scan) (fun b a => putReplayed_scan b a _) _ _).trans (putEnd_scan _ _ _ _ _ _)
  · exact putEnd_scan _ _ _ _ _ _
@[simp] theorem endCmd_chain (d : Dev) (c : Clock) (r : Ref) (status flags n : Nat) (head : List Byte) : (d.endCmd c r status flags n head).chain = d.chain := by
  unfold Dev.endCmd; split; rfl; simp only []; split
  · exact (foldl_keeps (fun (x : Dev) => x.chain) (fun b a => putReplayed_chain b a _) _ _).trans (putEnd_chain _ _ _ _ _ _)
  · exact putEnd_chain _ _ _ _ _ _
@[simp] theorem endCmd_mdl (d : Dev) (c : Clock) (r : Ref) (status flags n : Nat) (head : List Byte) : (d.endCmd c r status flags n head).mdl = d.mdl := by
  unfold Dev.endCmd; split; rfl; simp only []; split
  · exact (foldl_keeps (fun (x : Dev) => x.mdl) (fun b a => putReplayed_mdl b a _) _ _).trans (putEnd_mdl _ _ _ _ _ _)
  · exact putEnd_mdl _ _ _ _ _ _
@[simp] theorem endCmd_nb (d : Dev) (c : Clock) (r : Ref) (status flags n : Nat) (head : List Byte) : (d.endCmd c r status flags n head).nb = d.nb := by
  unfold Dev.endCmd; split; rfl; simp only []; split
  · exact (foldl_keeps (fun (x : Dev) => x.nb) (fun b a => putReplayed_nb b a _) _ _).trans (putEnd_nb _ _ _ _ _ _)
  · exact putEnd_nb _ _ _ _ _ _
@[simp] theorem endCmd_mem (d : Dev) (c : Clock) (r : Ref) (status flags n : Nat) (head : List Byte) : (d.endCmd c r status flags n head).mem = d.mem := by
  unfold Dev.endCmd; split; rfl; simp only []; split
  · exact (foldl_keeps (fun (x : Dev) => x.mem) (fun b a => putReplayed_mem b a _) _ _).trans (putEnd_mem _ _ _ _ _ _)
  · exact putEnd_mem _ _ _ _ _ _
@[simp] theorem endCmd_com (d : Dev) (c : Clock) (r : Ref) (status flags n : Nat) (head : List Byte) : (d.endCmd c r status flags n head).com = d.com := by
  unfold Dev.endCmd; split; rfl; simp only []; split
  · exact (foldl_keeps (fun (x : Dev) => x.com) (fun b a => putReplayed_com b a _) _ _).trans (putEnd_com _ _ _ _ _ _)
  · exact putEnd_com _ _ _ _ _ _
@[simp] theorem endCmd_flash (d : Dev) (c : Clock) (r : Ref) (status flags n : Nat) (head : List Byte) : (d.endCmd c r status flags n head).flash = d.flash := by
  unfold Dev.endCmd; split; rfl; simp only []; split
  · exact (foldl_keeps (fun (x : Dev) => x.flash) (fun b a => putReplayed_flash b a _) _ _).trans (putEnd_flash _ _ _ _ _ _)
  · exact putEnd_flash _ _ _ _ _ _
@[simp] theorem endCmd_fab (d : Dev) (c : Clock) (r : Ref) (status flags n : Nat) (head : List Byte) : (d.endCmd c r status flags n head).fab = d.fab := by
  unfold Dev.endCmd; split; rfl; simp only []; split
  · exact (foldl_keeps (fun (x : Dev) => x.fab) (fun b a => putReplayed_fab b a _) _ _).trans (putEnd_fab _ _ _ _ _ _)
  · exact putEnd_fab _ _ _ _ _ _
@[simp] theorem endCmd_pwr (d : Dev) (c : Clock) (r : Ref) (status flags n : Nat) (head : List Byte) : (d.endCmd c r status flags n head).pwr = d.pwr := by
  unfold Dev.endCmd; split; rfl; simp only []; split
  · exact (foldl_keeps (fun (x : Dev) => x.pwr) (fun b a => putReplayed_pwr b a _) _ _).trans (putEnd_pwr _ _ _ _ _ _)
  · exact putEnd_pwr _ _ _ _ _ _
@[simp] theorem endCmd_start (d : Dev) (c : Clock) (r : Ref) (status flags n : Nat) (head : List Byte) : (d.endCmd c r status flags n head).start = d.start := by
  unfold Dev.endCmd; split; rfl; simp only []; split
  · exact (foldl_keeps (fun (x : Dev) => x.start) (fun b a => putReplayed_start b a _) _ _).trans (putEnd_start _ _ _ _ _ _)
  · exact putEnd_start _ _ _ _ _ _
@[simp] theorem endCmd_tst (d : Dev) (c : Clock) (r : Ref) (status flags n : Nat) (head : List Byte) : (d.endCmd c r status flags n head).tst = d.tst := by
  unfold Dev.endCmd; split; rfl; simp only []; split
  · exact (foldl_keeps (fun (x : Dev) => x.tst) (fun b a => putReplayed_tst b a _) _ _).trans (putEnd_tst _ _ _ _ _ _)
  · exact putEnd_tst _ _ _ _ _ _
@[simp] theorem endCmd_brd (d : Dev) (c : Clock) (r : Ref) (status flags n : Nat) (head : List Byte) : (d.endCmd c r status flags n head).brd = d.brd := by
  unfold Dev.endCmd; split; rfl; simp only []; split
  · exact (foldl_keeps (fun (x : Dev) => x.brd) (fun b a => putReplayed_brd b a _) _ _).trans (putEnd_brd _ _ _ _ _ _)
  · exact putEnd_brd _ _ _ _ _ _
@[simp] theorem endCmd_sent (d : Dev) (c : Clock) (r : Ref) (status flags n : Nat) (head : List Byte) : (d.endCmd c r status flags n head).sent = d.sent := by
  unfold Dev.endCmd; split; rfl; simp only []; split
  · exact (foldl_keeps (fun (x : Dev) => x.sent) (fun b a => putReplayed_sent b a _) _ _).trans (putEnd_sent _ _ _ _ _ _)
  · exact putEnd_sent _ _ _ _ _ _
@[simp] theorem endCmd_freeCtr (d : Dev) (c : Clock) (r : Ref) (status flags n : Nat) (head : List Byte) : (d.endCmd c r status flags n head).freeCtr = d.freeCtr := by
  unfold Dev.endCmd; split; rfl; simp only []; split
  · exact (foldl_keeps (fun (x : Dev) => x.freeCtr) (fun b a => putReplayed_freeCtr b a _) _ _).trans (putEnd_freeCtr _ _ _ _ _ _)
  · exact putEnd_freeCtr _ _ _ _ _ _

/-! ### The end of a refused command -/

@[simp] theorem refuse_regs (d : Dev) (r : Ref) (status : Nat) : (d.refuse r status).regs = d.regs := by
  unfold Dev.refuse; split; rfl; simp only []; split
  · exact (foldl_keeps (fun (x : Dev) => x.regs) (fun b a => retake_regs b a) _ _).trans (putEnd_regs _ _ _ _ _ _)
  · exact putEnd_regs _ _ _ _ _ _
@[simp] theorem refuse_adm (d : Dev) (r : Ref) (status : Nat) : (d.refuse r status).adm = d.adm := by
  unfold Dev.refuse; split; rfl; simp only []; split
  · exact (foldl_keeps (fun (x : Dev) => x.adm) (fun b a => retake_adm b a) _ _).trans (putEnd_adm _ _ _ _ _ _)
  · exact putEnd_adm _ _ _ _ _ _
@[simp] theorem refuse_plat (d : Dev) (r : Ref) (status : Nat) : (d.refuse r status).plat = d.plat := by
  unfold Dev.refuse; split; rfl; simp only []; split
  · exact (foldl_keeps (fun (x : Dev) => x.plat) (fun b a => retake_plat b a) _ _).trans (putEnd_plat _ _ _ _ _ _)
  · exact putEnd_plat _ _ _ _ _ _
@[simp] theorem refuse_leaves (d : Dev) (r : Ref) (status : Nat) : (d.refuse r status).leaves = d.leaves := by
  unfold Dev.refuse; split; rfl; simp only []; split
  · exact (foldl_keeps (fun (x : Dev) => x.leaves) (fun b a => retake_leaves b a) _ _).trans (putEnd_leaves _ _ _ _ _ _)
  · exact putEnd_leaves _ _ _ _ _ _
@[simp] theorem refuse_root (d : Dev) (r : Ref) (status : Nat) : (d.refuse r status).root = d.root := by
  unfold Dev.refuse; split; rfl; simp only []; split
  · exact (foldl_keeps (fun (x : Dev) => x.root) (fun b a => retake_root b a) _ _).trans (putEnd_root _ _ _ _ _ _)
  · exact putEnd_root _ _ _ _ _ _
@[simp] theorem refuse_scan (d : Dev) (r : Ref) (status : Nat) : (d.refuse r status).scan = d.scan := by
  unfold Dev.refuse; split; rfl; simp only []; split
  · exact (foldl_keeps (fun (x : Dev) => x.scan) (fun b a => retake_scan b a) _ _).trans (putEnd_scan _ _ _ _ _ _)
  · exact putEnd_scan _ _ _ _ _ _
@[simp] theorem refuse_chain (d : Dev) (r : Ref) (status : Nat) : (d.refuse r status).chain = d.chain := by
  unfold Dev.refuse; split; rfl; simp only []; split
  · exact (foldl_keeps (fun (x : Dev) => x.chain) (fun b a => retake_chain b a) _ _).trans (putEnd_chain _ _ _ _ _ _)
  · exact putEnd_chain _ _ _ _ _ _
@[simp] theorem refuse_mdl (d : Dev) (r : Ref) (status : Nat) : (d.refuse r status).mdl = d.mdl := by
  unfold Dev.refuse; split; rfl; simp only []; split
  · exact (foldl_keeps (fun (x : Dev) => x.mdl) (fun b a => retake_mdl b a) _ _).trans (putEnd_mdl _ _ _ _ _ _)
  · exact putEnd_mdl _ _ _ _ _ _
@[simp] theorem refuse_nb (d : Dev) (r : Ref) (status : Nat) : (d.refuse r status).nb = d.nb := by
  unfold Dev.refuse; split; rfl; simp only []; split
  · exact (foldl_keeps (fun (x : Dev) => x.nb) (fun b a => retake_nb b a) _ _).trans (putEnd_nb _ _ _ _ _ _)
  · exact putEnd_nb _ _ _ _ _ _
@[simp] theorem refuse_mem (d : Dev) (r : Ref) (status : Nat) : (d.refuse r status).mem = d.mem := by
  unfold Dev.refuse; split; rfl; simp only []; split
  · exact (foldl_keeps (fun (x : Dev) => x.mem) (fun b a => retake_mem b a) _ _).trans (putEnd_mem _ _ _ _ _ _)
  · exact putEnd_mem _ _ _ _ _ _
@[simp] theorem refuse_com (d : Dev) (r : Ref) (status : Nat) : (d.refuse r status).com = d.com := by
  unfold Dev.refuse; split; rfl; simp only []; split
  · exact (foldl_keeps (fun (x : Dev) => x.com) (fun b a => retake_com b a) _ _).trans (putEnd_com _ _ _ _ _ _)
  · exact putEnd_com _ _ _ _ _ _
@[simp] theorem refuse_flash (d : Dev) (r : Ref) (status : Nat) : (d.refuse r status).flash = d.flash := by
  unfold Dev.refuse; split; rfl; simp only []; split
  · exact (foldl_keeps (fun (x : Dev) => x.flash) (fun b a => retake_flash b a) _ _).trans (putEnd_flash _ _ _ _ _ _)
  · exact putEnd_flash _ _ _ _ _ _
@[simp] theorem refuse_fab (d : Dev) (r : Ref) (status : Nat) : (d.refuse r status).fab = d.fab := by
  unfold Dev.refuse; split; rfl; simp only []; split
  · exact (foldl_keeps (fun (x : Dev) => x.fab) (fun b a => retake_fab b a) _ _).trans (putEnd_fab _ _ _ _ _ _)
  · exact putEnd_fab _ _ _ _ _ _
@[simp] theorem refuse_pwr (d : Dev) (r : Ref) (status : Nat) : (d.refuse r status).pwr = d.pwr := by
  unfold Dev.refuse; split; rfl; simp only []; split
  · exact (foldl_keeps (fun (x : Dev) => x.pwr) (fun b a => retake_pwr b a) _ _).trans (putEnd_pwr _ _ _ _ _ _)
  · exact putEnd_pwr _ _ _ _ _ _
@[simp] theorem refuse_start (d : Dev) (r : Ref) (status : Nat) : (d.refuse r status).start = d.start := by
  unfold Dev.refuse; split; rfl; simp only []; split
  · exact (foldl_keeps (fun (x : Dev) => x.start) (fun b a => retake_start b a) _ _).trans (putEnd_start _ _ _ _ _ _)
  · exact putEnd_start _ _ _ _ _ _
@[simp] theorem refuse_tst (d : Dev) (r : Ref) (status : Nat) : (d.refuse r status).tst = d.tst := by
  unfold Dev.refuse; split; rfl; simp only []; split
  · exact (foldl_keeps (fun (x : Dev) => x.tst) (fun b a => retake_tst b a) _ _).trans (putEnd_tst _ _ _ _ _ _)
  · exact putEnd_tst _ _ _ _ _ _
@[simp] theorem refuse_brd (d : Dev) (r : Ref) (status : Nat) : (d.refuse r status).brd = d.brd := by
  unfold Dev.refuse; split; rfl; simp only []; split
  · exact (foldl_keeps (fun (x : Dev) => x.brd) (fun b a => retake_brd b a) _ _).trans (putEnd_brd _ _ _ _ _ _)
  · exact putEnd_brd _ _ _ _ _ _
@[simp] theorem refuse_cnt (d : Dev) (r : Ref) (status : Nat) : (d.refuse r status).cnt = d.cnt := by
  unfold Dev.refuse; split; rfl; simp only []; split
  · exact (foldl_keeps (fun (x : Dev) => x.cnt) (fun b a => retake_cnt b a) _ _).trans (putEnd_cnt _ _ _ _ _ _)
  · exact putEnd_cnt _ _ _ _ _ _
@[simp] theorem refuse_sent (d : Dev) (r : Ref) (status : Nat) : (d.refuse r status).sent = d.sent := by
  unfold Dev.refuse; split; rfl; simp only []; split
  · exact (foldl_keeps (fun (x : Dev) => x.sent) (fun b a => retake_sent b a) _ _).trans (putEnd_sent _ _ _ _ _ _)
  · exact putEnd_sent _ _ _ _ _ _
@[simp] theorem refuse_freeCtr (d : Dev) (r : Ref) (status : Nat) : (d.refuse r status).freeCtr = d.freeCtr := by
  unfold Dev.refuse; split; rfl; simp only []; split
  · exact (foldl_keeps (fun (x : Dev) => x.freeCtr) (fun b a => retake_freeCtr b a) _ _).trans (putEnd_freeCtr _ _ _ _ _ _)
  · exact putEnd_freeCtr _ _ _ _ _ _

/-! ### An abandoned command without a record -/

@[simp] theorem forget_regs (d : Dev) (r : Ref) : (d.forget r).regs = d.regs := by
  unfold Dev.forget; split; rfl; simp only []; split
  · exact (foldl_keeps (fun (x : Dev) => x.regs) (fun b a => retake_regs b a) _ _).trans rfl
  · rfl
@[simp] theorem forget_adm (d : Dev) (r : Ref) : (d.forget r).adm = d.adm := by
  unfold Dev.forget; split; rfl; simp only []; split
  · exact (foldl_keeps (fun (x : Dev) => x.adm) (fun b a => retake_adm b a) _ _).trans rfl
  · rfl
@[simp] theorem forget_plat (d : Dev) (r : Ref) : (d.forget r).plat = d.plat := by
  unfold Dev.forget; split; rfl; simp only []; split
  · exact (foldl_keeps (fun (x : Dev) => x.plat) (fun b a => retake_plat b a) _ _).trans rfl
  · rfl
@[simp] theorem forget_leaves (d : Dev) (r : Ref) : (d.forget r).leaves = d.leaves := by
  unfold Dev.forget; split; rfl; simp only []; split
  · exact (foldl_keeps (fun (x : Dev) => x.leaves) (fun b a => retake_leaves b a) _ _).trans rfl
  · rfl
@[simp] theorem forget_root (d : Dev) (r : Ref) : (d.forget r).root = d.root := by
  unfold Dev.forget; split; rfl; simp only []; split
  · exact (foldl_keeps (fun (x : Dev) => x.root) (fun b a => retake_root b a) _ _).trans rfl
  · rfl
@[simp] theorem forget_scan (d : Dev) (r : Ref) : (d.forget r).scan = d.scan := by
  unfold Dev.forget; split; rfl; simp only []; split
  · exact (foldl_keeps (fun (x : Dev) => x.scan) (fun b a => retake_scan b a) _ _).trans rfl
  · rfl
@[simp] theorem forget_chain (d : Dev) (r : Ref) : (d.forget r).chain = d.chain := by
  unfold Dev.forget; split; rfl; simp only []; split
  · exact (foldl_keeps (fun (x : Dev) => x.chain) (fun b a => retake_chain b a) _ _).trans rfl
  · rfl
@[simp] theorem forget_mdl (d : Dev) (r : Ref) : (d.forget r).mdl = d.mdl := by
  unfold Dev.forget; split; rfl; simp only []; split
  · exact (foldl_keeps (fun (x : Dev) => x.mdl) (fun b a => retake_mdl b a) _ _).trans rfl
  · rfl
@[simp] theorem forget_nb (d : Dev) (r : Ref) : (d.forget r).nb = d.nb := by
  unfold Dev.forget; split; rfl; simp only []; split
  · exact (foldl_keeps (fun (x : Dev) => x.nb) (fun b a => retake_nb b a) _ _).trans rfl
  · rfl
@[simp] theorem forget_mem (d : Dev) (r : Ref) : (d.forget r).mem = d.mem := by
  unfold Dev.forget; split; rfl; simp only []; split
  · exact (foldl_keeps (fun (x : Dev) => x.mem) (fun b a => retake_mem b a) _ _).trans rfl
  · rfl
@[simp] theorem forget_com (d : Dev) (r : Ref) : (d.forget r).com = d.com := by
  unfold Dev.forget; split; rfl; simp only []; split
  · exact (foldl_keeps (fun (x : Dev) => x.com) (fun b a => retake_com b a) _ _).trans rfl
  · rfl
@[simp] theorem forget_flash (d : Dev) (r : Ref) : (d.forget r).flash = d.flash := by
  unfold Dev.forget; split; rfl; simp only []; split
  · exact (foldl_keeps (fun (x : Dev) => x.flash) (fun b a => retake_flash b a) _ _).trans rfl
  · rfl
@[simp] theorem forget_fab (d : Dev) (r : Ref) : (d.forget r).fab = d.fab := by
  unfold Dev.forget; split; rfl; simp only []; split
  · exact (foldl_keeps (fun (x : Dev) => x.fab) (fun b a => retake_fab b a) _ _).trans rfl
  · rfl
@[simp] theorem forget_pwr (d : Dev) (r : Ref) : (d.forget r).pwr = d.pwr := by
  unfold Dev.forget; split; rfl; simp only []; split
  · exact (foldl_keeps (fun (x : Dev) => x.pwr) (fun b a => retake_pwr b a) _ _).trans rfl
  · rfl
@[simp] theorem forget_start (d : Dev) (r : Ref) : (d.forget r).start = d.start := by
  unfold Dev.forget; split; rfl; simp only []; split
  · exact (foldl_keeps (fun (x : Dev) => x.start) (fun b a => retake_start b a) _ _).trans rfl
  · rfl
@[simp] theorem forget_tst (d : Dev) (r : Ref) : (d.forget r).tst = d.tst := by
  unfold Dev.forget; split; rfl; simp only []; split
  · exact (foldl_keeps (fun (x : Dev) => x.tst) (fun b a => retake_tst b a) _ _).trans rfl
  · rfl
@[simp] theorem forget_brd (d : Dev) (r : Ref) : (d.forget r).brd = d.brd := by
  unfold Dev.forget; split; rfl; simp only []; split
  · exact (foldl_keeps (fun (x : Dev) => x.brd) (fun b a => retake_brd b a) _ _).trans rfl
  · rfl
@[simp] theorem forget_cnt (d : Dev) (r : Ref) : (d.forget r).cnt = d.cnt := by
  unfold Dev.forget; split; rfl; simp only []; split
  · exact (foldl_keeps (fun (x : Dev) => x.cnt) (fun b a => retake_cnt b a) _ _).trans rfl
  · rfl
@[simp] theorem forget_sent (d : Dev) (r : Ref) : (d.forget r).sent = d.sent := by
  unfold Dev.forget; split; rfl; simp only []; split
  · exact (foldl_keeps (fun (x : Dev) => x.sent) (fun b a => retake_sent b a) _ _).trans rfl
  · rfl
@[simp] theorem forget_freeCtr (d : Dev) (r : Ref) : (d.forget r).freeCtr = d.freeCtr := by
  unfold Dev.forget; split; rfl; simp only []; split
  · exact (foldl_keeps (fun (x : Dev) => x.freeCtr) (fun b a => retake_freeCtr b a) _ _).trans rfl
  · rfl

/-! ### Bytes of a result area -/

@[simp] theorem result_cmds (d : Dev) (cmd : Cmd) (off : Nat) (bs : List Byte) : (d.result cmd off bs).cmds = d.cmds := by unfold Dev.result; split <;> rfl
@[simp] theorem result_regs (d : Dev) (cmd : Cmd) (off : Nat) (bs : List Byte) : (d.result cmd off bs).regs = d.regs := by unfold Dev.result; split <;> rfl
@[simp] theorem result_adm (d : Dev) (cmd : Cmd) (off : Nat) (bs : List Byte) : (d.result cmd off bs).adm = d.adm := by unfold Dev.result; split <;> rfl
@[simp] theorem result_plat (d : Dev) (cmd : Cmd) (off : Nat) (bs : List Byte) : (d.result cmd off bs).plat = d.plat := by unfold Dev.result; split <;> rfl
@[simp] theorem result_leaves (d : Dev) (cmd : Cmd) (off : Nat) (bs : List Byte) : (d.result cmd off bs).leaves = d.leaves := by unfold Dev.result; split <;> rfl
@[simp] theorem result_root (d : Dev) (cmd : Cmd) (off : Nat) (bs : List Byte) : (d.result cmd off bs).root = d.root := by unfold Dev.result; split <;> rfl
@[simp] theorem result_scan (d : Dev) (cmd : Cmd) (off : Nat) (bs : List Byte) : (d.result cmd off bs).scan = d.scan := by unfold Dev.result; split <;> rfl
@[simp] theorem result_chain (d : Dev) (cmd : Cmd) (off : Nat) (bs : List Byte) : (d.result cmd off bs).chain = d.chain := by unfold Dev.result; split <;> rfl
@[simp] theorem result_mdl (d : Dev) (cmd : Cmd) (off : Nat) (bs : List Byte) : (d.result cmd off bs).mdl = d.mdl := by unfold Dev.result; split <;> rfl
@[simp] theorem result_nb (d : Dev) (cmd : Cmd) (off : Nat) (bs : List Byte) : (d.result cmd off bs).nb = d.nb := by unfold Dev.result; split <;> rfl
@[simp] theorem result_mem (d : Dev) (cmd : Cmd) (off : Nat) (bs : List Byte) : (d.result cmd off bs).mem = d.mem := by unfold Dev.result; split <;> rfl
@[simp] theorem result_com (d : Dev) (cmd : Cmd) (off : Nat) (bs : List Byte) : (d.result cmd off bs).com = d.com := by unfold Dev.result; split <;> rfl
@[simp] theorem result_flash (d : Dev) (cmd : Cmd) (off : Nat) (bs : List Byte) : (d.result cmd off bs).flash = d.flash := by unfold Dev.result; split <;> rfl
@[simp] theorem result_fab (d : Dev) (cmd : Cmd) (off : Nat) (bs : List Byte) : (d.result cmd off bs).fab = d.fab := by unfold Dev.result; split <;> rfl
@[simp] theorem result_pwr (d : Dev) (cmd : Cmd) (off : Nat) (bs : List Byte) : (d.result cmd off bs).pwr = d.pwr := by unfold Dev.result; split <;> rfl
@[simp] theorem result_start (d : Dev) (cmd : Cmd) (off : Nat) (bs : List Byte) : (d.result cmd off bs).start = d.start := by unfold Dev.result; split <;> rfl
@[simp] theorem result_tst (d : Dev) (cmd : Cmd) (off : Nat) (bs : List Byte) : (d.result cmd off bs).tst = d.tst := by unfold Dev.result; split <;> rfl
@[simp] theorem result_brd (d : Dev) (cmd : Cmd) (off : Nat) (bs : List Byte) : (d.result cmd off bs).brd = d.brd := by unfold Dev.result; split <;> rfl
@[simp] theorem result_cnt (d : Dev) (cmd : Cmd) (off : Nat) (bs : List Byte) : (d.result cmd off bs).cnt = d.cnt := by unfold Dev.result; split <;> rfl
@[simp] theorem result_sent (d : Dev) (cmd : Cmd) (off : Nat) (bs : List Byte) : (d.result cmd off bs).sent = d.sent := by unfold Dev.result; split <;> rfl
@[simp] theorem result_freeCtr (d : Dev) (cmd : Cmd) (off : Nat) (bs : List Byte) : (d.result cmd off bs).freeCtr = d.freeCtr := by unfold Dev.result; split <;> rfl

/-! ### The fields they write -/

@[simp] theorem port_updPort_same (d : Dev) (p : Port) (g : HostPort → HostPort) : (d.updPort p g).port p = g (d.port p) := by
  simp [Dev.updPort, Dev.port, vupd]

@[simp] theorem port_updPort_other {d : Dev} {p q : Port} (g : HostPort → HostPort) (h : q ≠ p) : (d.updPort p g).port q = d.port q := by
  have h' : p.val ≠ q.val := fun e => h (Fin.ext e.symm)
  simp [Dev.updPort, Dev.port, vupd, h']

@[simp] theorem conn_updConn_same (d : Dev) (peer cls : Nat) (g : Conn → Conn) : (d.updConn peer cls g).conn peer cls = g (d.conn peer cls) := by
  simp [Dev.updConn, Dev.conn]

theorem conn_updConn_other {d : Dev} {peer cls x y : Nat} (g : Conn → Conn) (h : connKey x y ≠ connKey peer cls) :
    (d.updConn peer cls g).conn x y = d.conn x y := by
  simp [Dev.updConn, Dev.conn, getD_put_other _ _ h]

/-- A counter goes up by what is counted; every other stays. -/
theorem cnt_count (d : Dev) (k i n j : Nat) :
    NMap.getD (d.count k i n).cnt j 0 = if j = 128 * k + i then NMap.getD d.cnt j 0 + BitVec.ofNat 64 n else NMap.getD d.cnt j 0 := by
  unfold Dev.count
  split
  · rename_i h; split <;> simp [h]
  · split
    · rename_i h; rw [h]; simp
    · rename_i h; exact getD_put_other _ _ h

/-! ### Time passing -/

/-- A part of the device that the counters of time and a resumed flash leave alone. -/
theorem countTime_keeps {α : Type} (g : Dev → α) (h : ∀ (d : Dev) (k i n : Nat), g (d.count k i n) = g d) (d : Dev) (c : Clock) (n : Nat) :
    g (d.countTime c n) = g d := by
  have hi : ∀ (P : Prop) [Decidable P] (x : Dev) (k i : Nat), g (if P then x.count k i n else x) = g x := by
    intro P _ x k i; split <;> simp [h]
  have hj : ∀ (P : Prop) [Decidable P] (x : Dev) (k i : Nat), g (if P then x else x.count k i n) = g x := by
    intro P _ x k i; split <;> simp [h]
  unfold Dev.countTime
  simp only []
  refine (foldl_keeps g (fun b a => hj _ b _ _) _ _).trans ?_
  refine (foldl_keeps g (fun b a => hi _ b _ _) _ _).trans ?_
  refine (foldl_keeps g (fun b a => hi _ b _ _) _ _).trans ?_
  refine (foldl_keeps g (fun b a => hi _ b _ _) _ _).trans ?_
  refine (foldl_keeps g (fun b a => hj _ b _ _) _ _).trans ?_
  simp only [hi, hj]

@[simp] theorem tick_ports (s : State) (t : Nat) : (s.tick t).dev.ports = s.dev.ports := by
  unfold State.tick; split
  · exact countTime_keeps (fun d => d.ports) count_ports _ _ _
  · rfl
@[simp] theorem tick_cmds (s : State) (t : Nat) : (s.tick t).dev.cmds = s.dev.cmds := by
  unfold State.tick; split
  · exact countTime_keeps (fun d => d.cmds) count_cmds _ _ _
  · rfl
@[simp] theorem tick_regs (s : State) (t : Nat) : (s.tick t).dev.regs = s.dev.regs := by
  unfold State.tick; split
  · exact countTime_keeps (fun d => d.regs) count_regs _ _ _
  · rfl
@[simp] theorem tick_adm (s : State) (t : Nat) : (s.tick t).dev.adm = s.dev.adm := by
  unfold State.tick; split
  · exact countTime_keeps (fun d => d.adm) count_adm _ _ _
  · rfl
@[simp] theorem tick_plat (s : State) (t : Nat) : (s.tick t).dev.plat = s.dev.plat := by
  unfold State.tick; split
  · exact countTime_keeps (fun d => d.plat) count_plat _ _ _
  · rfl
@[simp] theorem tick_leaves (s : State) (t : Nat) : (s.tick t).dev.leaves = s.dev.leaves := by
  unfold State.tick; split
  · exact countTime_keeps (fun d => d.leaves) count_leaves _ _ _
  · rfl
@[simp] theorem tick_root (s : State) (t : Nat) : (s.tick t).dev.root = s.dev.root := by
  unfold State.tick; split
  · exact countTime_keeps (fun d => d.root) count_root _ _ _
  · rfl
@[simp] theorem tick_scan (s : State) (t : Nat) : (s.tick t).dev.scan = s.dev.scan := by
  unfold State.tick; split
  · exact countTime_keeps (fun d => d.scan) count_scan _ _ _
  · rfl
@[simp] theorem tick_chain (s : State) (t : Nat) : (s.tick t).dev.chain = s.dev.chain := by
  unfold State.tick; split
  · exact countTime_keeps (fun d => d.chain) count_chain _ _ _
  · rfl
@[simp] theorem tick_mdl (s : State) (t : Nat) : (s.tick t).dev.mdl = s.dev.mdl := by
  unfold State.tick; split
  · exact countTime_keeps (fun d => d.mdl) count_mdl _ _ _
  · rfl
@[simp] theorem tick_nb (s : State) (t : Nat) : (s.tick t).dev.nb = s.dev.nb := by
  unfold State.tick; split
  · exact countTime_keeps (fun d => d.nb) count_nb _ _ _
  · rfl
@[simp] theorem tick_mem (s : State) (t : Nat) : (s.tick t).dev.mem = s.dev.mem := by
  unfold State.tick; split
  · exact countTime_keeps (fun d => d.mem) count_mem _ _ _
  · rfl
@[simp] theorem tick_com (s : State) (t : Nat) : (s.tick t).dev.com = s.dev.com := by
  unfold State.tick; split
  · exact countTime_keeps (fun d => d.com) count_com _ _ _
  · rfl
@[simp] theorem tick_fab (s : State) (t : Nat) : (s.tick t).dev.fab = s.dev.fab := by
  unfold State.tick; split
  · exact countTime_keeps (fun d => d.fab) count_fab _ _ _
  · rfl
@[simp] theorem tick_pwr (s : State) (t : Nat) : (s.tick t).dev.pwr = s.dev.pwr := by
  unfold State.tick; split
  · exact countTime_keeps (fun d => d.pwr) count_pwr _ _ _
  · rfl
@[simp] theorem tick_start (s : State) (t : Nat) : (s.tick t).dev.start = s.dev.start := by
  unfold State.tick; split
  · exact countTime_keeps (fun d => d.start) count_start _ _ _
  · rfl
@[simp] theorem tick_tst (s : State) (t : Nat) : (s.tick t).dev.tst = s.dev.tst := by
  unfold State.tick; split
  · exact countTime_keeps (fun d => d.tst) count_tst _ _ _
  · rfl
@[simp] theorem tick_brd (s : State) (t : Nat) : (s.tick t).dev.brd = s.dev.brd := by
  unfold State.tick; split
  · exact countTime_keeps (fun d => d.brd) count_brd _ _ _
  · rfl
@[simp] theorem tick_sent (s : State) (t : Nat) : (s.tick t).dev.sent = s.dev.sent := by
  unfold State.tick; split
  · exact countTime_keeps (fun d => d.sent) count_sent _ _ _
  · rfl
@[simp] theorem tick_freeCtr (s : State) (t : Nat) : (s.tick t).dev.freeCtr = s.dev.freeCtr := by
  unfold State.tick; split
  · exact countTime_keeps (fun d => d.freeCtr) count_freeCtr _ _ _
  · rfl
@[simp] theorem tick_fuse (s : State) (t : Nat) : (s.tick t).fuse = s.fuse := by unfold State.tick; split <;> rfl
@[simp] theorem tick_pending (s : State) (t : Nat) : (s.tick t).pending = s.pending := by unfold State.tick; split <;> rfl

/-- A command whose time is not later than the clock's, or that meets a unit in reset, finds the state as it was. -/
theorem tick_still {s : State} {t : Nat} (h : s.dev.timeRuns = false ∨ t ≤ s.clk.now) : s.tick t = s := by
  unfold State.tick
  rcases h with h | h
  · simp [h]
  · have : ¬s.clk.now < t := by omega
    simp [this]

end Sys2Proof.Laws
end

