-- ==== Sys2Proof/Laws/Updates.lean ====
section
/-! SUPPORT. What an update of one reader, channel, commons window, monument, fragment or query leaves alone, field by field. -/

namespace Sys2Proof.Machine

/-! ### `Dev.updReader` -/

@[simp] theorem updReader_ports (d : Dev) (id : Nat) (g : Reader → Reader) : (d.updReader id g).ports = d.ports := rfl
@[simp] theorem updReader_cmds (d : Dev) (id : Nat) (g : Reader → Reader) : (d.updReader id g).cmds = d.cmds := rfl
@[simp] theorem updReader_regs (d : Dev) (id : Nat) (g : Reader → Reader) : (d.updReader id g).regs = d.regs := rfl
@[simp] theorem updReader_adm (d : Dev) (id : Nat) (g : Reader → Reader) : (d.updReader id g).adm = d.adm := rfl
@[simp] theorem updReader_plat (d : Dev) (id : Nat) (g : Reader → Reader) : (d.updReader id g).plat = d.plat := rfl
@[simp] theorem updReader_leaves (d : Dev) (id : Nat) (g : Reader → Reader) : (d.updReader id g).leaves = d.leaves := rfl
@[simp] theorem updReader_root (d : Dev) (id : Nat) (g : Reader → Reader) : (d.updReader id g).root = d.root := rfl
@[simp] theorem updReader_scan (d : Dev) (id : Nat) (g : Reader → Reader) : (d.updReader id g).scan = d.scan := rfl
@[simp] theorem updReader_mdl (d : Dev) (id : Nat) (g : Reader → Reader) : (d.updReader id g).mdl = d.mdl := rfl
@[simp] theorem updReader_nb (d : Dev) (id : Nat) (g : Reader → Reader) : (d.updReader id g).nb = d.nb := rfl
@[simp] theorem updReader_mem (d : Dev) (id : Nat) (g : Reader → Reader) : (d.updReader id g).mem = d.mem := rfl
@[simp] theorem updReader_com (d : Dev) (id : Nat) (g : Reader → Reader) : (d.updReader id g).com = d.com := rfl
@[simp] theorem updReader_flash (d : Dev) (id : Nat) (g : Reader → Reader) : (d.updReader id g).flash = d.flash := rfl
@[simp] theorem updReader_fab (d : Dev) (id : Nat) (g : Reader → Reader) : (d.updReader id g).fab = d.fab := rfl
@[simp] theorem updReader_pwr (d : Dev) (id : Nat) (g : Reader → Reader) : (d.updReader id g).pwr = d.pwr := rfl
@[simp] theorem updReader_start (d : Dev) (id : Nat) (g : Reader → Reader) : (d.updReader id g).start = d.start := rfl
@[simp] theorem updReader_tst (d : Dev) (id : Nat) (g : Reader → Reader) : (d.updReader id g).tst = d.tst := rfl
@[simp] theorem updReader_brd (d : Dev) (id : Nat) (g : Reader → Reader) : (d.updReader id g).brd = d.brd := rfl
@[simp] theorem updReader_cnt (d : Dev) (id : Nat) (g : Reader → Reader) : (d.updReader id g).cnt = d.cnt := rfl
@[simp] theorem updReader_sent (d : Dev) (id : Nat) (g : Reader → Reader) : (d.updReader id g).sent = d.sent := rfl
@[simp] theorem updReader_freeCtr (d : Dev) (id : Nat) (g : Reader → Reader) : (d.updReader id g).freeCtr = d.freeCtr := rfl
@[simp] theorem updReader_chain_monuments (d : Dev) (id : Nat) (g : Reader → Reader) : (d.updReader id g).chain.monuments = d.chain.monuments := rfl
@[simp] theorem updReader_chain_cache (d : Dev) (id : Nat) (g : Reader → Reader) : (d.updReader id g).chain.cache = d.chain.cache := rfl
@[simp] theorem updReader_chain_reads (d : Dev) (id : Nat) (g : Reader → Reader) : (d.updReader id g).chain.reads = d.chain.reads := rfl
@[simp] theorem updReader_chain_nextReader (d : Dev) (id : Nat) (g : Reader → Reader) : (d.updReader id g).chain.nextReader = d.chain.nextReader := rfl

/-! ### `Dev.updChan` -/

@[simp] theorem updChan_ports (d : Dev) (n : Nat) (g : FChan → FChan) : (d.updChan n g).ports = d.ports := rfl
@[simp] theorem updChan_cmds (d : Dev) (n : Nat) (g : FChan → FChan) : (d.updChan n g).cmds = d.cmds := rfl
@[simp] theorem updChan_regs (d : Dev) (n : Nat) (g : FChan → FChan) : (d.updChan n g).regs = d.regs := rfl
@[simp] theorem updChan_adm (d : Dev) (n : Nat) (g : FChan → FChan) : (d.updChan n g).adm = d.adm := rfl
@[simp] theorem updChan_plat (d : Dev) (n : Nat) (g : FChan → FChan) : (d.updChan n g).plat = d.plat := rfl
@[simp] theorem updChan_leaves (d : Dev) (n : Nat) (g : FChan → FChan) : (d.updChan n g).leaves = d.leaves := rfl
@[simp] theorem updChan_root (d : Dev) (n : Nat) (g : FChan → FChan) : (d.updChan n g).root = d.root := rfl
@[simp] theorem updChan_scan (d : Dev) (n : Nat) (g : FChan → FChan) : (d.updChan n g).scan = d.scan := rfl
@[simp] theorem updChan_chain (d : Dev) (n : Nat) (g : FChan → FChan) : (d.updChan n g).chain = d.chain := rfl
@[simp] theorem updChan_mdl (d : Dev) (n : Nat) (g : FChan → FChan) : (d.updChan n g).mdl = d.mdl := rfl
@[simp] theorem updChan_nb (d : Dev) (n : Nat) (g : FChan → FChan) : (d.updChan n g).nb = d.nb := rfl
@[simp] theorem updChan_mem (d : Dev) (n : Nat) (g : FChan → FChan) : (d.updChan n g).mem = d.mem := rfl
@[simp] theorem updChan_com (d : Dev) (n : Nat) (g : FChan → FChan) : (d.updChan n g).com = d.com := rfl
@[simp] theorem updChan_fab (d : Dev) (n : Nat) (g : FChan → FChan) : (d.updChan n g).fab = d.fab := rfl
@[simp] theorem updChan_pwr (d : Dev) (n : Nat) (g : FChan → FChan) : (d.updChan n g).pwr = d.pwr := rfl
@[simp] theorem updChan_start (d : Dev) (n : Nat) (g : FChan → FChan) : (d.updChan n g).start = d.start := rfl
@[simp] theorem updChan_tst (d : Dev) (n : Nat) (g : FChan → FChan) : (d.updChan n g).tst = d.tst := rfl
@[simp] theorem updChan_brd (d : Dev) (n : Nat) (g : FChan → FChan) : (d.updChan n g).brd = d.brd := rfl
@[simp] theorem updChan_cnt (d : Dev) (n : Nat) (g : FChan → FChan) : (d.updChan n g).cnt = d.cnt := rfl
@[simp] theorem updChan_sent (d : Dev) (n : Nat) (g : FChan → FChan) : (d.updChan n g).sent = d.sent := rfl
@[simp] theorem updChan_freeCtr (d : Dev) (n : Nat) (g : FChan → FChan) : (d.updChan n g).freeCtr = d.freeCtr := rfl
@[simp] theorem updChan_flash_extents (d : Dev) (n : Nat) (g : FChan → FChan) : (d.updChan n g).flash.extents = d.flash.extents := rfl
@[simp] theorem updChan_flash_pf (d : Dev) (n : Nat) (g : FChan → FChan) : (d.updChan n g).flash.pf = d.flash.pf := rfl
@[simp] theorem updChan_flash_readOnly (d : Dev) (n : Nat) (g : FChan → FChan) : (d.updChan n g).flash.readOnly = d.flash.readOnly := rfl
@[simp] theorem updChan_flash_format (d : Dev) (n : Nat) (g : FChan → FChan) : (d.updChan n g).flash.format = d.flash.format := rfl
@[simp] theorem updChan_flash_inflight (d : Dev) (n : Nat) (g : FChan → FChan) : (d.updChan n g).flash.inflight = d.flash.inflight := rfl
@[simp] theorem updChan_flash_tail (d : Dev) (n : Nat) (g : FChan → FChan) : (d.updChan n g).flash.tail = d.flash.tail := rfl
@[simp] theorem updChan_flash_durable (d : Dev) (n : Nat) (g : FChan → FChan) : (d.updChan n g).flash.durable = d.flash.durable := rfl

/-! ### `Dev.updCom` -/

@[simp] theorem updCom_ports (d : Dev) (n : Nat) (g : ComState → ComState) : (d.updCom n g).ports = d.ports := rfl
@[simp] theorem updCom_cmds (d : Dev) (n : Nat) (g : ComState → ComState) : (d.updCom n g).cmds = d.cmds := rfl
@[simp] theorem updCom_regs (d : Dev) (n : Nat) (g : ComState → ComState) : (d.updCom n g).regs = d.regs := rfl
@[simp] theorem updCom_adm (d : Dev) (n : Nat) (g : ComState → ComState) : (d.updCom n g).adm = d.adm := rfl
@[simp] theorem updCom_plat (d : Dev) (n : Nat) (g : ComState → ComState) : (d.updCom n g).plat = d.plat := rfl
@[simp] theorem updCom_leaves (d : Dev) (n : Nat) (g : ComState → ComState) : (d.updCom n g).leaves = d.leaves := rfl
@[simp] theorem updCom_root (d : Dev) (n : Nat) (g : ComState → ComState) : (d.updCom n g).root = d.root := rfl
@[simp] theorem updCom_scan (d : Dev) (n : Nat) (g : ComState → ComState) : (d.updCom n g).scan = d.scan := rfl
@[simp] theorem updCom_chain (d : Dev) (n : Nat) (g : ComState → ComState) : (d.updCom n g).chain = d.chain := rfl
@[simp] theorem updCom_mdl (d : Dev) (n : Nat) (g : ComState → ComState) : (d.updCom n g).mdl = d.mdl := rfl
@[simp] theorem updCom_nb (d : Dev) (n : Nat) (g : ComState → ComState) : (d.updCom n g).nb = d.nb := rfl
@[simp] theorem updCom_mem (d : Dev) (n : Nat) (g : ComState → ComState) : (d.updCom n g).mem = d.mem := rfl
@[simp] theorem updCom_flash (d : Dev) (n : Nat) (g : ComState → ComState) : (d.updCom n g).flash = d.flash := rfl
@[simp] theorem updCom_fab (d : Dev) (n : Nat) (g : ComState → ComState) : (d.updCom n g).fab = d.fab := rfl
@[simp] theorem updCom_pwr (d : Dev) (n : Nat) (g : ComState → ComState) : (d.updCom n g).pwr = d.pwr := rfl
@[simp] theorem updCom_start (d : Dev) (n : Nat) (g : ComState → ComState) : (d.updCom n g).start = d.start := rfl
@[simp] theorem updCom_tst (d : Dev) (n : Nat) (g : ComState → ComState) : (d.updCom n g).tst = d.tst := rfl
@[simp] theorem updCom_brd (d : Dev) (n : Nat) (g : ComState → ComState) : (d.updCom n g).brd = d.brd := rfl
@[simp] theorem updCom_cnt (d : Dev) (n : Nat) (g : ComState → ComState) : (d.updCom n g).cnt = d.cnt := rfl
@[simp] theorem updCom_sent (d : Dev) (n : Nat) (g : ComState → ComState) : (d.updCom n g).sent = d.sent := rfl
@[simp] theorem updCom_freeCtr (d : Dev) (n : Nat) (g : ComState → ComState) : (d.updCom n g).freeCtr = d.freeCtr := rfl

/-! ### `Dev.updMonument` -/

@[simp] theorem updMonument_ports (d : Dev) (k : RowKey) (g : Monument → Monument) : (d.updMonument k g).ports = d.ports := rfl
@[simp] theorem updMonument_cmds (d : Dev) (k : RowKey) (g : Monument → Monument) : (d.updMonument k g).cmds = d.cmds := rfl
@[simp] theorem updMonument_regs (d : Dev) (k : RowKey) (g : Monument → Monument) : (d.updMonument k g).regs = d.regs := rfl
@[simp] theorem updMonument_adm (d : Dev) (k : RowKey) (g : Monument → Monument) : (d.updMonument k g).adm = d.adm := rfl
@[simp] theorem updMonument_plat (d : Dev) (k : RowKey) (g : Monument → Monument) : (d.updMonument k g).plat = d.plat := rfl
@[simp] theorem updMonument_leaves (d : Dev) (k : RowKey) (g : Monument → Monument) : (d.updMonument k g).leaves = d.leaves := rfl
@[simp] theorem updMonument_root (d : Dev) (k : RowKey) (g : Monument → Monument) : (d.updMonument k g).root = d.root := rfl
@[simp] theorem updMonument_scan (d : Dev) (k : RowKey) (g : Monument → Monument) : (d.updMonument k g).scan = d.scan := rfl
@[simp] theorem updMonument_mdl (d : Dev) (k : RowKey) (g : Monument → Monument) : (d.updMonument k g).mdl = d.mdl := rfl
@[simp] theorem updMonument_nb (d : Dev) (k : RowKey) (g : Monument → Monument) : (d.updMonument k g).nb = d.nb := rfl
@[simp] theorem updMonument_mem (d : Dev) (k : RowKey) (g : Monument → Monument) : (d.updMonument k g).mem = d.mem := rfl
@[simp] theorem updMonument_com (d : Dev) (k : RowKey) (g : Monument → Monument) : (d.updMonument k g).com = d.com := rfl
@[simp] theorem updMonument_flash (d : Dev) (k : RowKey) (g : Monument → Monument) : (d.updMonument k g).flash = d.flash := rfl
@[simp] theorem updMonument_fab (d : Dev) (k : RowKey) (g : Monument → Monument) : (d.updMonument k g).fab = d.fab := rfl
@[simp] theorem updMonument_pwr (d : Dev) (k : RowKey) (g : Monument → Monument) : (d.updMonument k g).pwr = d.pwr := rfl
@[simp] theorem updMonument_start (d : Dev) (k : RowKey) (g : Monument → Monument) : (d.updMonument k g).start = d.start := rfl
@[simp] theorem updMonument_tst (d : Dev) (k : RowKey) (g : Monument → Monument) : (d.updMonument k g).tst = d.tst := rfl
@[simp] theorem updMonument_brd (d : Dev) (k : RowKey) (g : Monument → Monument) : (d.updMonument k g).brd = d.brd := rfl
@[simp] theorem updMonument_cnt (d : Dev) (k : RowKey) (g : Monument → Monument) : (d.updMonument k g).cnt = d.cnt := rfl
@[simp] theorem updMonument_sent (d : Dev) (k : RowKey) (g : Monument → Monument) : (d.updMonument k g).sent = d.sent := rfl
@[simp] theorem updMonument_freeCtr (d : Dev) (k : RowKey) (g : Monument → Monument) : (d.updMonument k g).freeCtr = d.freeCtr := rfl
@[simp] theorem updMonument_chain_readers (d : Dev) (k : RowKey) (g : Monument → Monument) : (d.updMonument k g).chain.readers = d.chain.readers := rfl
@[simp] theorem updMonument_chain_cache (d : Dev) (k : RowKey) (g : Monument → Monument) : (d.updMonument k g).chain.cache = d.chain.cache := rfl
@[simp] theorem updMonument_chain_reads (d : Dev) (k : RowKey) (g : Monument → Monument) : (d.updMonument k g).chain.reads = d.chain.reads := rfl
@[simp] theorem updMonument_chain_nextReader (d : Dev) (k : RowKey) (g : Monument → Monument) : (d.updMonument k g).chain.nextReader = d.chain.nextReader := rfl

/-! ### `Dev.updFrag` -/

@[simp] theorem updFrag_ports (d : Dev) (key : FragKey) (g : LFrag → LFrag) : (d.updFrag key g).ports = d.ports := rfl
@[simp] theorem updFrag_cmds (d : Dev) (key : FragKey) (g : LFrag → LFrag) : (d.updFrag key g).cmds = d.cmds := rfl
@[simp] theorem updFrag_regs (d : Dev) (key : FragKey) (g : LFrag → LFrag) : (d.updFrag key g).regs = d.regs := rfl
@[simp] theorem updFrag_adm (d : Dev) (key : FragKey) (g : LFrag → LFrag) : (d.updFrag key g).adm = d.adm := rfl
@[simp] theorem updFrag_plat (d : Dev) (key : FragKey) (g : LFrag → LFrag) : (d.updFrag key g).plat = d.plat := rfl
@[simp] theorem updFrag_leaves (d : Dev) (key : FragKey) (g : LFrag → LFrag) : (d.updFrag key g).leaves = d.leaves := rfl
@[simp] theorem updFrag_root (d : Dev) (key : FragKey) (g : LFrag → LFrag) : (d.updFrag key g).root = d.root := rfl
@[simp] theorem updFrag_chain (d : Dev) (key : FragKey) (g : LFrag → LFrag) : (d.updFrag key g).chain = d.chain := rfl
@[simp] theorem updFrag_mdl (d : Dev) (key : FragKey) (g : LFrag → LFrag) : (d.updFrag key g).mdl = d.mdl := rfl
@[simp] theorem updFrag_nb (d : Dev) (key : FragKey) (g : LFrag → LFrag) : (d.updFrag key g).nb = d.nb := rfl
@[simp] theorem updFrag_mem (d : Dev) (key : FragKey) (g : LFrag → LFrag) : (d.updFrag key g).mem = d.mem := rfl
@[simp] theorem updFrag_com (d : Dev) (key : FragKey) (g : LFrag → LFrag) : (d.updFrag key g).com = d.com := rfl
@[simp] theorem updFrag_flash (d : Dev) (key : FragKey) (g : LFrag → LFrag) : (d.updFrag key g).flash = d.flash := rfl
@[simp] theorem updFrag_fab (d : Dev) (key : FragKey) (g : LFrag → LFrag) : (d.updFrag key g).fab = d.fab := rfl
@[simp] theorem updFrag_pwr (d : Dev) (key : FragKey) (g : LFrag → LFrag) : (d.updFrag key g).pwr = d.pwr := rfl
@[simp] theorem updFrag_start (d : Dev) (key : FragKey) (g : LFrag → LFrag) : (d.updFrag key g).start = d.start := rfl
@[simp] theorem updFrag_tst (d : Dev) (key : FragKey) (g : LFrag → LFrag) : (d.updFrag key g).tst = d.tst := rfl
@[simp] theorem updFrag_brd (d : Dev) (key : FragKey) (g : LFrag → LFrag) : (d.updFrag key g).brd = d.brd := rfl
@[simp] theorem updFrag_cnt (d : Dev) (key : FragKey) (g : LFrag → LFrag) : (d.updFrag key g).cnt = d.cnt := rfl
@[simp] theorem updFrag_sent (d : Dev) (key : FragKey) (g : LFrag → LFrag) : (d.updFrag key g).sent = d.sent := rfl
@[simp] theorem updFrag_freeCtr (d : Dev) (key : FragKey) (g : LFrag → LFrag) : (d.updFrag key g).freeCtr = d.freeCtr := rfl
@[simp] theorem updFrag_scan_probes (d : Dev) (key : FragKey) (g : LFrag → LFrag) : (d.updFrag key g).scan.probes = d.scan.probes := rfl
@[simp] theorem updFrag_scan_travs (d : Dev) (key : FragKey) (g : LFrag → LFrag) : (d.updFrag key g).scan.travs = d.scan.travs := rfl
@[simp] theorem updFrag_scan_dies (d : Dev) (key : FragKey) (g : LFrag → LFrag) : (d.updFrag key g).scan.dies = d.scan.dies := rfl

/-! ### `Dev.updQuery` -/

@[simp] theorem updQuery_ports (d : Dev) (ctx : Nat) (g : Query → Query) : (d.updQuery ctx g).ports = d.ports := rfl
@[simp] theorem updQuery_cmds (d : Dev) (ctx : Nat) (g : Query → Query) : (d.updQuery ctx g).cmds = d.cmds := rfl
@[simp] theorem updQuery_regs (d : Dev) (ctx : Nat) (g : Query → Query) : (d.updQuery ctx g).regs = d.regs := rfl
@[simp] theorem updQuery_adm (d : Dev) (ctx : Nat) (g : Query → Query) : (d.updQuery ctx g).adm = d.adm := rfl
@[simp] theorem updQuery_plat (d : Dev) (ctx : Nat) (g : Query → Query) : (d.updQuery ctx g).plat = d.plat := rfl
@[simp] theorem updQuery_leaves (d : Dev) (ctx : Nat) (g : Query → Query) : (d.updQuery ctx g).leaves = d.leaves := rfl
@[simp] theorem updQuery_scan (d : Dev) (ctx : Nat) (g : Query → Query) : (d.updQuery ctx g).scan = d.scan := rfl
@[simp] theorem updQuery_chain (d : Dev) (ctx : Nat) (g : Query → Query) : (d.updQuery ctx g).chain = d.chain := rfl
@[simp] theorem updQuery_mdl (d : Dev) (ctx : Nat) (g : Query → Query) : (d.updQuery ctx g).mdl = d.mdl := rfl
@[simp] theorem updQuery_nb (d : Dev) (ctx : Nat) (g : Query → Query) : (d.updQuery ctx g).nb = d.nb := rfl
@[simp] theorem updQuery_mem (d : Dev) (ctx : Nat) (g : Query → Query) : (d.updQuery ctx g).mem = d.mem := rfl
@[simp] theorem updQuery_com (d : Dev) (ctx : Nat) (g : Query → Query) : (d.updQuery ctx g).com = d.com := rfl
@[simp] theorem updQuery_flash (d : Dev) (ctx : Nat) (g : Query → Query) : (d.updQuery ctx g).flash = d.flash := rfl
@[simp] theorem updQuery_fab (d : Dev) (ctx : Nat) (g : Query → Query) : (d.updQuery ctx g).fab = d.fab := rfl
@[simp] theorem updQuery_pwr (d : Dev) (ctx : Nat) (g : Query → Query) : (d.updQuery ctx g).pwr = d.pwr := rfl
@[simp] theorem updQuery_start (d : Dev) (ctx : Nat) (g : Query → Query) : (d.updQuery ctx g).start = d.start := rfl
@[simp] theorem updQuery_tst (d : Dev) (ctx : Nat) (g : Query → Query) : (d.updQuery ctx g).tst = d.tst := rfl
@[simp] theorem updQuery_brd (d : Dev) (ctx : Nat) (g : Query → Query) : (d.updQuery ctx g).brd = d.brd := rfl
@[simp] theorem updQuery_cnt (d : Dev) (ctx : Nat) (g : Query → Query) : (d.updQuery ctx g).cnt = d.cnt := rfl
@[simp] theorem updQuery_sent (d : Dev) (ctx : Nat) (g : Query → Query) : (d.updQuery ctx g).sent = d.sent := rfl
@[simp] theorem updQuery_freeCtr (d : Dev) (ctx : Nat) (g : Query → Query) : (d.updQuery ctx g).freeCtr = d.freeCtr := rfl
@[simp] theorem updQuery_root_halved (d : Dev) (ctx : Nat) (g : Query → Query) : (d.updQuery ctx g).root.halved = d.root.halved := rfl
@[simp] theorem updQuery_root_waiting (d : Dev) (ctx : Nat) (g : Query → Query) : (d.updQuery ctx g).root.waiting = d.root.waiting := rfl
@[simp] theorem updQuery_root_nextCtx (d : Dev) (ctx : Nat) (g : Query → Query) : (d.updQuery ctx g).root.nextCtx = d.root.nextCtx := rfl

end Sys2Proof.Machine
end

