-- ==== Sys2Proof/Tests/Slice0.lean ====
section
/-! SUPPORT. Tests: one ill-formed term for each check of WellFormed, worked examples of the manual, and for each statement a state and operands that meet its hypotheses. Expected values are the manual's, or taken from its tables by hand. -/

open Sys2Proof Sys2Proof.Machine

namespace Sys2Proof.Tests

-- One test after another: tests that wait for one another each take a stack of their own.
set_option Elab.async false

/-! ### Small states -/

/-- A node in service with four host links up, 1 GiB partitions and interface 3.2 agreed, at datum time 10 ms with valid time. -/
def base : State :=
  { State.reset with
    clk := { Clock.reset with now := 10000000, state := .locked, errBound := 8, valid := true },
    dev := { Dev.reset with
      start := { Start.reset with phase := .service, stake := 10 }, brd := { Board.reset with resetN := false },
      ports := Vector.replicate 4 { HostPort.reset with linkUp := true, agreed := some (3, 2), part := { PartCfg.zero with gib := 1 } } } }

/-- A state with its device changed. -/
def onDev (s : State) (f : Dev → Dev) : State := { s with dev := f s.dev }

/-- A state whose slot 0 of port 0 holds a new command: opcode, EXPERT, and body fields as (offset, length, value). -/
def put (s : State) (op : Nat) (expert : Bool) (body : List (Nat × Nat × Nat)) : State :=
  onDev s fun d => d.updPort 0 fun h =>
    { h with order := [0], slots := body.foldl (fun m e => Mem.wrN m e.1 e.2.1 e.2.2) (Mem.wrN [] 0 8 (2 ^ 32 + op * 65536 + boolNat expert)) }

def cmdOf (s : State) : Cmd := s.dev.readCmd s.clk 0 0

/-- What an accepted command needs, but for its identity. -/
def ready (s : State) (op : Nat) : Bool :=
  s.dev.live && (s.dev.port 0).linkUp && (s.dev.port 0).order.head? = some 0 && s.dev.newSeq 0 0 && !(s.dev.slotBusy 0 0) && (cmdOf s).opcode = op &&
    ((s.dev.takeCmd (cmdOf s)).firstCheck (cmdOf s) false).isNone && (s.dev.takeCmd (cmdOf s)).cmds.replay.isEmpty &&
    (s.ready (cmdOf s)).modeAllows op && !(((s.ready (cmdOf s)).port 0).fenced (cmdOf s).resultAddr (cmdOf s).resultLen)

theorem accepted {s : State} {op : Nat} (h : ready s op = true) : Accepted ⟨0, 0, 0⟩ op s (cmdOf s) := by
  simp only [ready, Bool.and_eq_true, decide_eq_true_eq, Bool.not_eq_true', List.isEmpty_iff, Option.isNone_iff_eq_none] at h
  obtain ⟨⟨⟨⟨⟨⟨⟨⟨⟨h1, h2⟩, h3⟩, h4⟩, h5⟩, h6⟩, h7⟩, h8⟩, h9⟩, h10⟩ := h
  refine ⟨?_, h6, h7, fun _ => ⟨?_, ?_⟩, h9, h10⟩
  · simp [Dev.headCmd, h1, h2, h3, h4, h5, cmdOf]
  · simp [Dev.findRec, h8]
  · simp [Dev.roomForRec, h8, Config.replayRecords]

/-- What a command that the node's mode does not allow needs, but for its identity. -/
def turned (s : State) (op : Nat) : Bool :=
  s.dev.live && (s.dev.port 0).linkUp && (s.dev.port 0).order.head? = some 0 && s.dev.newSeq 0 0 && !(s.dev.slotBusy 0 0) && (cmdOf s).opcode = op &&
    ((s.dev.takeCmd (cmdOf s)).firstCheck (cmdOf s) false).isNone && (s.dev.takeCmd (cmdOf s)).cmds.replay.isEmpty && !((s.ready (cmdOf s)).modeAllows op)

theorem turnedAway {s : State} {op : Nat} (h : turned s op = true) : TurnedAway ⟨0, 0, 0⟩ op s (cmdOf s) := by
  simp only [turned, Bool.and_eq_true, decide_eq_true_eq, Bool.not_eq_true', List.isEmpty_iff, Option.isNone_iff_eq_none] at h
  obtain ⟨⟨⟨⟨⟨⟨⟨⟨h1, h2⟩, h3⟩, h4⟩, h5⟩, h6⟩, h7⟩, h8⟩, h9⟩ := h
  refine ⟨?_, h6, h7, fun _ => ⟨?_, ?_⟩, h9⟩
  · simp [Dev.headCmd, h1, h2, h3, h4, h5, cmdOf]
  · simp [Dev.findRec, h8]
  · simp [Dev.roomForRec, h8, Config.replayRecords]

/-! ### Witnesses: the field book and the registers -/

def k0 : Take := ⟨0, 0, 0⟩

/-- A port changed. -/
def onPort0 (s : State) (f : HostPort → HostPort) : State := onDev s fun d => d.updPort 0 f

theorem witness_cmd_word : ∃ (s v : State) (p : Port) (n : SlotNo) (w : W64), v = s.tick 0 ∧ v.dev.portOn p = true ∧ w.toNat / 2 ^ 32 ≠ 0 ∧
    NMap.get? (v.dev.port p).lastSeq n.val ≠ some (w.toNat / 2 ^ 32) ∧ v.dev.slotBusy p n = false ∧ n ∉ (v.dev.port p).order :=
  ⟨base, base, 0, 0, 0x100000000, rfl, by decide⟩

/-- A slot whose command still runs. -/
def busy (s : State) (op : Nat) (body : List (Nat × Nat × Nat)) : State :=
  let x := put s op false body
  onDev x fun d => { d with cmds := { d.cmds with running := [cmdOf x], nextNo := 1 } }

theorem witness_cmd_word_deferred : ∃ (s v : State) (p : Port) (n : SlotNo) (w : W64), v = s.tick 0 ∧ v.dev.portOn p = true ∧ w.toNat / 2 ^ 32 ≠ 0 ∧
    NMap.get? (v.dev.port p).lastSeq n.val ≠ some (w.toNat / 2 ^ 32) ∧ v.dev.slotBusy p n = true ∧ n ∉ (v.dev.port p).deferred :=
  ⟨busy base 0x0101 [], busy base 0x0101 [], 0, 0, 0x200000000, rfl, by decide⟩

theorem witness_deferred_take : ∃ (s v : State) (k : Take), v = s.tick k.t ∧ v.dev.live = true ∧ (v.dev.port k.port).linkUp = true ∧
    k.slot ∈ (v.dev.port k.port).deferred ∧ v.dev.slotBusy k.port k.slot = false ∧ v.dev.newSeq k.port k.slot = true ∧ k.slot ∉ (v.dev.port k.port).order :=
  let s := onPort0 (put base 0x0101 false []) fun h => { h with order := [], deferred := [0] }
  ⟨s, s, k0, rfl, by decide⟩

theorem witness_old_seq : ∃ (s v : State) (p : Port) (n : SlotNo) (w : W64), v = s.tick 0 ∧ v.dev.portOn p = true ∧
    NMap.get? (v.dev.port p).lastSeq n.val = some (w.toNat / 2 ^ 32) :=
  let s := onPort0 base fun h => { h with lastSeq := [(0, 1)] }
  ⟨s, s, 0, 0, 0x100000000, rfl, by decide⟩

theorem witness_dev_hello : ∃ (s v : State) (k : Take) (cmd : Cmd) (m : Nat), v = s.tick k.t ∧ Accepted k 0x0100 v cmd ∧ 8 ≤ cmd.resultLen ∧ highestMinor (cmd.f 0x40 2) = some m :=
  let s := put base 0x0100 false [(0x40, 2, 3), (0x42, 1, 2), (0x38, 8, 8)]
  ⟨s, s, k0, cmdOf s, 2, rfl, accepted (by decide), by decide⟩

theorem witness_dev_info : ∃ (s v : State) (k : Take) (cmd : Cmd), v = s.tick k.t ∧ Accepted k 0x0101 v cmd ∧ 256 ≤ cmd.resultLen :=
  let s := put base 0x0101 false [(0x38, 8, 256)]
  ⟨s, s, k0, cmdOf s, rfl, accepted (by decide), by decide⟩

theorem witness_dev_log_read : ∃ (s v : State) (k : Take) (cmd : Cmd), v = s.tick k.t ∧ Accepted k 0x0106 v cmd ∧ cmd.f 0x40 1 ≤ 3 :=
  let s := put base 0x0106 false [(0x40, 1, 3), (0x38, 8, 64)]
  ⟨s, s, k0, cmdOf s, rfl, accepted (by decide), by decide⟩

theorem witness_time_status : ∃ (s v : State) (k : Take) (cmd : Cmd), v = s.tick k.t ∧ Accepted k 0x0C00 v cmd ∧ 32 ≤ cmd.resultLen :=
  let s := put base 0x0C00 false [(0x38, 8, 32)]
  ⟨s, s, k0, cmdOf s, rfl, accepted (by decide), by decide⟩

theorem witness_end : ∃ (d : Dev) (cmd : Cmd) (status flags : Nat), d.cmd? cmd.ref = some cmd ∧ cmd.abandoned = false ∧
    (∀ x ∈ d.cmds.running, x.ref = cmd.ref ∨ x.isLocal = false ∨ x.tenant ≠ cmd.tenant ∨ x.cmdId ≠ cmd.cmdId) ∧ status < 2 ^ 16 ∧ flags < 16 :=
  let s := busy base 0x0101 []
  ⟨s.dev, cmdOf (put base 0x0101 false []), stOk, 1, rfl, rfl, by decide, by decide, by decide⟩

theorem witness_done_signal : ∃ (s v : State) (p : Port), v = s.tick 0 ∧ v.dev.portOn p = true ∧ (v.dev.port p).doneEn = true ∧ (v.dev.port p).newDone = true ∧
    (v.dev.port p).doneSummary ≠ 0 ∧ (∀ x, (v.dev.port p).lastSignal = some x → x + 1000 * (v.dev.port p).modUs.toNat ≤ v.clk.now) :=
  let s := onPort0 base fun h => { h with doneEn := true, newDone := true, doneSummary := 1, lastSignal := some 9984000 }
  ⟨s, s, 0, rfl, by decide, rfl, rfl, fun h => absurd (congrArg (fun b : BitVec 512 => b.getLsbD 0) h) (by simp [s, onPort0, onDev]), by intro x h; cases h; decide⟩

theorem witness_admin_port : ∃ (s v : State) (p : Port) (data : List Byte), v = s.tick 0 ∧ v.dev.portOn p = true ∧ v.dev.regs.adminPorts.getLsbD p.val = true ∧ data.length = 8 :=
  ⟨base, base, 0, List.replicate 8 0, rfl, by decide⟩

theorem witness_hold_three : ∃ (s v : State) (p : Port) (w : W64) (m : BitVec 32), v = s.tick 0 ∧ v.dev.portOn p = true ∧ v.dev.regs.adminPorts.getLsbD p.val = true ∧
    m = w.setWidth 32 &&& 0xFF ∧ v.dev.pwr.hold[3] ≠ m :=
  ⟨base, base, 0, 0x80, 0x80, rfl, by decide⟩

theorem witness_fab_port_write : ∃ (s v : State) (p : Port) (q : FabPort) (w : W64), v = s.tick 0 ∧ v.dev.portOn p = true ∧ v.dev.regs.adminPorts.getLsbD p.val = true ∧
    (v.dev.fab.ports[q].enable ≠ w.getLsbD 0 ∨ v.dev.fab.ports[q].macsecEn ≠ w.getLsbD 1) :=
  ⟨base, base, 0, 7, 0, rfl, by decide⟩

theorem witness_other_port : ∃ (s v : State) (p : Port) (a : Nat) (data : List Byte), v = s.tick 0 ∧ v.dev.regs.adminPorts.getLsbD p.val = false ∧ a < 4194304 ∧
    1 ≤ data.length ∧ data.length ≤ 8 :=
  ⟨base, base, 3, 4194303, [1], rfl, by decide⟩

theorem witness_short_write : ∃ (a : Nat) (short : List Byte), a < 4194304 ∧ short ≠ [] ∧ (short.length < 8 ∨ a % 8 ≠ 0) ∧ short.length ≤ 8 := ⟨0x200, [1, 2, 3, 4], by decide⟩

theorem witness_field_book : ∃ (s v : State) (p : Port) (a : Nat) (data : List Byte), v = s.tick 0 ∧ v.dev.portOn p = true ∧ 1 ≤ data.length ∧ data.length ≤ 8 ∧
    a + data.length ≤ 0x200000 ∧ Mem.wf (v.dev.port p).slots = true :=
  ⟨base, base, 0, 0x1FFFFF, [1], rfl, by decide⟩


/-! ### Witnesses: host memory and the commons -/

/-- Stack 0 in service with frames to give. -/
def withStack (s : State) : State :=
  onDev s fun d => { d with mem := { d.mem with stk := Vector.replicate 20 { d.mem.stk[0] with state := .up } } }

theorem witness_partition : ∃ (s v : State) (k : Take) (cmd : Cmd) (p : Port) (x : PartCfg), v = s.tick k.t ∧ Accepted k 0x0800 v cmd ∧ cmd.f 0x40 1 = 0 ∧ cmd.f 0x41 1 = p.val ∧
    x = cmd.partCfg ∧ partitionBad v.clk (v.dev.takeCmd cmd) cmd = false ∧ x ≠ ((v.ready cmd).port p).part ∧ 0 < x.gib ∧
    ((v.ready cmd).free (pendRegion p)).canAlloc x.protect x.mask x.frames = true :=
  let s := put (withStack base) 0x0800 false [(0x41, 1, 1), (0x48, 4, 1), (0x4C, 4, 2)]
  ⟨s, s, k0, cmdOf s, 1, (cmdOf s).partCfg, rfl, accepted (by decide), by decide⟩

theorem witness_partition_same : ∃ (s v : State) (k : Take) (cmd : Cmd) (p : Port) (x : PartCfg), v = s.tick k.t ∧ Accepted k 0x0800 v cmd ∧ cmd.f 0x40 1 = 0 ∧ cmd.f 0x41 1 = p.val ∧
    x = cmd.partCfg ∧ partitionBad v.clk (v.dev.takeCmd cmd) cmd = false ∧ x = ((v.ready cmd).port p).part :=
  let s := onDev (put base 0x0800 false [(0x41, 1, 3), (0x48, 4, 1), (0x4C, 4, 1)]) fun d => d.updPort 3 fun h => { h with part := ⟨1, .none, 1⟩ }
  ⟨s, s, k0, cmdOf s, 3, (cmdOf s).partCfg, rfl, accepted (by decide), by decide⟩

theorem witness_link_up : ∃ (s v : State) (t : Nat) (p : Port) (x : PartCfg) (r : Region), v = s.tick t ∧ v.dev.service = true ∧ v.dev.brd.lost = [] ∧ (v.dev.port p).off = false ∧
    (v.dev.port p).linkUp = false ∧ v.dev.tst.loops = [] ∧ (v.dev.port p).pend = some x ∧ NMap.get? (v.dev.free (partRegion p)).mem.regions (pendRegion p) = some r :=
  let s := onPort0 base fun h => { h with linkUp := false, pend := some ⟨2, .none, 1⟩ }
  let r : Region := ⟨2147483648, .pin, .none, 1, 5, [(0, 0, 524288)], [], [], [], .protectedSt, [], []⟩
  let s' := onDev s fun d => { d with mem := { d.mem with regions := [(pendRegion 0, r)] } }
  ⟨s', s', 0, 0, ⟨2, .none, 1⟩, r, rfl, by decide⟩

theorem witness_link_up_none : ∃ (s v : State) (t : Nat) (p : Port), v = s.tick t ∧ v.dev.service = true ∧ v.dev.brd.lost = [] ∧ (v.dev.port p).off = false ∧
    (v.dev.port p).linkUp = false ∧ v.dev.tst.loops = [] ∧ (v.dev.port p).pend = none :=
  let s := onPort0 base fun h => { h with linkUp := false }
  ⟨s, s, 0, 0, rfl, by decide⟩

theorem witness_commons_create : ∃ (s v : State) (k : Take) (cmd : Cmd) (x : PartCfg) (len : Nat), v = s.tick k.t ∧ Accepted k 0x0800 v cmd ∧ cmd.f 0x40 1 = 1 ∧ x = cmd.partCfg ∧
    len = cmd.f 0x4C 4 * 1048576 ∧ commonsCreateBad v.clk (v.dev.takeCmd cmd) cmd = false ∧ (v.ready cmd).canAlloc x.protect x.mask (2 * framesOf len) = true :=
  let s := put (withStack base) 0x0800 false [(0x40, 1, 1), (0x41, 1, 63), (0x43, 1, 15), (0x44, 1, 3), (0x48, 4, 1), (0x4C, 4, 2)]
  ⟨s, s, k0, cmdOf s, (cmdOf s).partCfg, 2097152, rfl, accepted (by decide), by decide⟩

/-- Commons slot 5 of 2 MiB: every port reads it, ports 0 and 1 write it. -/
def com5 : ComState :=
  { len := 2097152, readMask := 0xF, writeMask := 0x3, protect := .none, mask := 1, leaseNs := 0, version := 0, curB := false, leasePort := none, leaseGen := 7,
    epochA := 0, epochB := 0, flipNs := 0, leaseEnd := 0, memA := [], memB := [], poisonA := [], poisonB := [], refill := none, done := [] }

def withCom (s : State) (x : ComState) : State := onDev s fun d => { d with com := { d.com with slots := [(5, x)] } }

theorem witness_commons_drop : ∃ (s v : State) (k : Take) (cmd : Cmd) (slot : Nat) (x : ComState), v = s.tick k.t ∧ Accepted k 0x0800 v cmd ∧ cmd.f 0x40 1 = 2 ∧ slot = cmd.f 0x41 1 ∧
    slot ≤ 63 ∧ v.dev.com? slot = some x ∧ x.leasePort = none ∧ (∀ l ∈ v.dev.com.held, l.slot ≠ slot) ∧ (∀ w ∈ v.dev.com.waits, w.slot ≠ slot) ∧
    (∀ p : Port, (v.dev.port p).events.length < 4096 ∧ ∀ f ∈ (v.dev.port p).fences, f.tf ≠ v.clk.now) :=
  let s := put (withCom base com5) 0x0800 false [(0x40, 1, 2), (0x41, 1, 5)]
  ⟨s, s, k0, cmdOf s, 5, com5, rfl, accepted (by decide), by decide⟩

theorem witness_acquire : ∃ (s v : State) (k : Take) (cmd : Cmd) (slot : Nat) (x : ComState), v = s.tick k.t ∧ Accepted k 0x0801 v cmd ∧ slot = cmd.f 0x40 1 ∧ slot ≤ 63 ∧
    16 ≤ cmd.resultLen ∧ cmd.e 0x42 1 ≤ 1 ∧ v.dev.com? slot = some x ∧ (∀ w ∈ v.dev.com.waits, w.slot ≠ slot) ∧ x.writeMask.getLsbD cmd.ref.port.val = true ∧
    (∀ l ∈ v.dev.com.held, l.slot = slot → l.own = false) ∧ cmd.f 0x41 1 = 0 ∧ x.leasePort = none :=
  let s := put (withCom base com5) 0x0801 false [(0x40, 1, 5), (0x38, 8, 16)]
  ⟨s, s, k0, cmdOf s, 5, com5, rfl, accepted (by decide), by decide⟩

theorem witness_break_lease : ∃ (s v : State) (k : Take) (cmd : Cmd) (slot : Nat) (x : ComState) (q : Port), v = s.tick k.t ∧ Accepted k 0x0801 v cmd ∧ slot = cmd.f 0x40 1 ∧ slot ≤ 63 ∧
    16 ≤ cmd.resultLen ∧ cmd.e 0x42 1 ≤ 1 ∧ v.dev.com? slot = some x ∧ (∀ w ∈ v.dev.com.waits, w.slot ≠ slot) ∧ x.writeMask.getLsbD cmd.ref.port.val = true ∧
    (∀ l ∈ v.dev.com.held, l.slot = slot → l.own = false) ∧ cmd.f 0x41 1 = 4 ∧ cmd.expert = true ∧ x.leasePort = some q :=
  let x := { com5 with leasePort := some 1 }
  let s := put (withCom base x) 0x0801 true [(0x40, 1, 5), (0x41, 1, 4), (0x38, 8, 16)]
  ⟨s, s, k0, cmdOf s, 5, x, 1, rfl, accepted (by decide), by decide⟩

/-- Renew, publish and release by the holder. -/
theorem witness_holder : ∀ op ∈ [1, 2, 3], ∃ (s v : State) (k : Take) (cmd : Cmd) (slot : Nat) (x : ComState), v = s.tick k.t ∧ Accepted k 0x0801 v cmd ∧ slot = cmd.f 0x40 1 ∧ slot ≤ 63 ∧
    16 ≤ cmd.resultLen ∧ cmd.e 0x42 1 ≤ 1 ∧ v.dev.com? slot = some x ∧ (∀ w ∈ v.dev.com.waits, w.slot ≠ slot) ∧ x.writeMask.getLsbD cmd.ref.port.val = true ∧
    x.leasePort = some cmd.ref.port ∧ x.expired v.clk.now = false ∧ cmd.f 0x48 8 = x.leaseGen ∧ (∀ l ∈ v.dev.com.held, l.slot = slot → l.own = false) ∧ cmd.f 0x41 1 = op := by
  intro op h
  let x := { com5 with leasePort := some 0 }
  let s := fun op => put (withCom base x) 0x0801 false [(0x40, 1, 5), (0x41, 1, op), (0x38, 8, 16), (0x48, 8, 7)]
  fin_cases h
  · exact ⟨s 1, s 1, k0, cmdOf (s 1), 5, x, rfl, accepted (by decide), by decide⟩
  · exact ⟨s 2, s 2, k0, cmdOf (s 2), 5, x, rfl, accepted (by decide), by decide⟩
  · exact ⟨s 3, s 3, k0, cmdOf (s 3), 5, x, rfl, accepted (by decide), by decide⟩

theorem witness_lease_expiry : ∃ (s v : State) (t : Nat) (c : ComSlot) (x : ComState) (p : Port), v = s.tick t ∧ v.dev.com? c.val = some x ∧ x.leasePort = some p ∧
    x.expired v.clk.now = true ∧ (∀ w ∈ v.dev.com.waits, w.slot ≠ c.val) ∧ (∀ l ∈ v.dev.com.held, l.slot = c.val → l.own = false) :=
  let x := { com5 with leasePort := some 2, leaseEnd := 10000000 }
  ⟨withCom base x, withCom base x, 0, 5, x, 2, rfl, by decide⟩

theorem witness_refill : ∃ (s v : State) (t : Nat) (c : ComSlot) (x : ComState) (line : Nat), v = s.tick t ∧ v.dev.com? c.val = some x ∧ x.refill = some line ∧ line < x.len / 64 ∧
    line ∉ x.done ∧ Mem.wf x.memA = true ∧ Mem.wf x.memB = true :=
  let x := { com5 with refill := some 32767, memA := [(2097151, 9)] }
  ⟨withCom base x, withCom base x, 0, 5, x, 32767, rfl, by decide⟩

theorem witness_snoop : ∃ (s v : State) (t : Nat) (p : Port) (c : ComSlot) (line : Nat) (data : Option (List Byte)) (w : ComWait) (x : ComState), v = s.tick t ∧
    (∀ bs, data = some bs → bs.length = 64) ∧ v.dev.com.waits = [w] ∧ w.slot = c.val ∧ (p, line) ∈ w.lines ∧ (∃ y ∈ w.lines, y ≠ (p, line)) ∧
    v.dev.com.queue = [] ∧ v.dev.com? c.val = some x :=
  let w : ComWait := ⟨5, [(0, 64), (0, 65)], .leaseEnd⟩
  let s := onDev (withCom base com5) fun d => { d with com := { d.com with waits := [w] } }
  ⟨s, s, 0, 0, 5, 64, some (List.replicate 64 1), w, com5, rfl, by intro bs h; cases h; rfl, rfl, rfl, by decide, ⟨(0, 65), by decide⟩, rfl, rfl⟩

theorem witness_revoke : ∃ (s v : State) (k : Take) (cmd : Cmd) (p : Port) (dpa len : Nat), v = s.tick k.t ∧ Accepted k 0x0802 v cmd ∧ cmd.f 0x41 1 = 0 ∧ cmd.f 0x40 1 = p.val ∧
    dpa = cmd.f 0x48 8 ∧ len = cmd.f 0x50 8 ∧ dpa % 4096 = 0 ∧ len % 4096 = 0 ∧ 0 < len ∧ dpa + len ≤ v.dev.partLen p ∧ (v.dev.port p).fences.length < 64 ∧
    dpa < Config.dpaCommons ∧ (∀ y ∈ v.dev.cmds.running, y.ref.port = p → y.meets dpa len = false) :=
  let s := put base 0x0802 false [(0x40, 1, 2), (0x48, 8, 1073737728), (0x50, 8, 4096)]
  ⟨s, s, k0, cmdOf s, 2, 1073737728, 4096, rfl, accepted (by decide), by decide⟩

theorem witness_revoke_commons : ∃ (s v : State) (k : Take) (cmd : Cmd) (p : Port) (dpa len slot : Nat), v = s.tick k.t ∧ Accepted k 0x0802 v cmd ∧ cmd.f 0x41 1 = 0 ∧ cmd.f 0x40 1 = p.val ∧
    dpa = cmd.f 0x48 8 ∧ len = cmd.f 0x50 8 ∧ dpa % 4096 = 0 ∧ len % 4096 = 0 ∧ 0 < len ∧ (v.dev.port p).fences.length < 64 ∧ slotOfExtent dpa len = some slot ∧
    (v.dev.com? slot).bind (·.leasePort) ≠ some p ∧ (∀ w ∈ v.dev.com.waits, w.slot ≠ slot) ∧ (∀ l ∈ v.dev.com.held, l.slot = slot → l.port ≠ p) :=
  let s := put (withCom base com5) 0x0802 false [(0x40, 1, 2), (0x48, 8, comBase 5), (0x50, 8, 4096)]
  ⟨s, s, k0, cmdOf s, 2, comBase 5, 4096, 5, rfl, accepted (by decide), by decide⟩

theorem witness_fence_set : ∃ (s v : State) (t : Nat) (p : Port) (r : Ref) (slot dpa len tf : Nat), v = s.tick t ∧ v.dev.com.waits = [⟨slot, [], .revoke r p dpa len tf⟩] :=
  let r : Ref := ⟨0, 0, 1, 0⟩
  let s := onDev (onPort0 base fun h => { h with fences := [⟨4096, 4096, 9000000, none, none, 0, 0⟩] }) fun d => { d with com := { d.com with waits := [⟨64, [], .revoke r 0 4096 4096 9000000⟩] } }
  ⟨s, s, 0, 0, r, 64, 4096, 4096, 9000000, rfl, rfl⟩

theorem witness_restore : ∃ (s v : State) (k : Take) (cmd : Cmd) (p : Port), v = s.tick k.t ∧ Accepted k 0x0802 v cmd ∧ cmd.f 0x41 1 = 1 ∧ cmd.f 0x40 1 = p.val ∧
    revokeBad v.clk (v.dev.takeCmd cmd) cmd = false :=
  let s := put base 0x0802 false [(0x40, 1, 2), (0x41, 1, 1), (0x48, 8, 0), (0x50, 8, 4096)]
  ⟨s, s, k0, cmdOf s, 2, rfl, accepted (by decide), by decide⟩

theorem witness_partition_access : ∀ op : MemOp, ∃ (s v : State) (t : Nat) (p : Port) (dpa : Nat) (data : List Byte), v = s.tick t ∧ v.dev.portOn p = true ∧
    v.dev.start.phase = .service ∧ v.dev.pwr.ps ≠ 2 ∧ (v.dev.port p).fences = [] ∧ (v.dev.port p).echo = none ∧
    (v.dev.shaper (3 + p.val)).peakPasses 64 = true ∧ (v.dev.port p).queue < 1024 ∧ dpa % 64 = 0 ∧ dpa < v.dev.partLen p ∧ dpa < Config.dpaEnd ∧ Mem.wf (v.dev.port p).mem = true ∧
    data.length = (if op.isWrite then 64 else 0) := fun op =>
  ⟨base, base, 0, 3, 1073741760, List.replicate (if op.isWrite then 64 else 0) 1, rfl, by decide, rfl, by decide, rfl, rfl, by decide, by decide, by decide, by decide, by decide, by decide,
    by simp⟩

/-- An unmapped partition address, an undefined slot, a slot the port may not read, and a hole of a slot's window. -/
theorem witness_unmapped : ∀ i ∈ [0, 1, 2, 3, 4], ∃ (s v : State) (t : Nat) (p : Port) (op : MemOp) (dpa : Nat) (data : List Byte), v = s.tick t ∧
    v.dev.portOn p = true ∧ v.dev.start.phase = .service ∧ v.dev.pwr.ps ≠ 2 ∧ (v.dev.port p).fences = [] ∧ (v.dev.port p).echo = none ∧
    (v.dev.shaper (3 + p.val)).peakPasses 64 = true ∧ (v.dev.port p).queue < 1024 ∧ dpa % 64 = 0 ∧ dpa < Config.dpaEnd ∧ data.length = (if op.isWrite then 64 else 0) ∧
    v.dev.partLen p ≤ dpa ∧ v.dev.partLen p ≤ Config.dpaCommons ∧ (v.dev.port p).events.length < 4096 ∧
    (dpa < Config.dpaCommons ∨ Config.dpaCommonsEnd ≤ dpa ∨ v.dev.com? ((dpa - Config.dpaCommons) / Config.comWindow) = none ∨
      (∃ x, v.dev.com? ((dpa - Config.dpaCommons) / Config.comWindow) = some x ∧ (x.readMask.getLsbD p.val = false ∨
        (let off := (dpa - Config.dpaCommons) % Config.comWindow
         4096 ≤ off ∧ ¬(Config.bufA ≤ off ∧ off < Config.bufA + x.len) ∧ ¬(Config.bufB ≤ off ∧ off < Config.bufB + x.len))))) := by
  intro i h
  fin_cases h
  · exact ⟨base, base, 0, 0, .memRd, 1073741824, [], rfl, by decide, rfl, by decide, rfl, rfl, by decide, by decide, by decide, by decide, rfl, by decide, by decide, by decide, .inl (by decide)⟩
  · exact ⟨base, base, 0, 0, .memRd, Config.dpaCommonsEnd, [], rfl, by decide, rfl, by decide, rfl, rfl, by decide, by decide, by decide, by decide, rfl, by decide, by decide, by decide, .inr (.inl (by decide))⟩
  · exact ⟨base, base, 0, 0, .memRd, Config.dpaCommons, [], rfl, by decide, rfl, by decide, rfl, rfl, by decide, by decide, by decide, by decide, rfl, by decide, by decide, by decide, .inr (.inr (.inl rfl))⟩
  · exact ⟨withCom base { com5 with readMask := 0xE }, _, 0, 0, .memRd, comBase 5, [], rfl, by decide, rfl, by decide, rfl, rfl, by decide, by decide, by decide, by decide, rfl, by decide, by decide,
      by decide, .inr (.inr (.inr ⟨_, rfl, .inl (by decide)⟩))⟩
  · exact ⟨withCom base com5, _, 0, 0, .memRd, comBase 5 + 4096, [], rfl, by decide, rfl, by decide, rfl, rfl, by decide, by decide, by decide, by decide, rfl, by decide, by decide,
      by decide, .inr (.inr (.inr ⟨com5, rfl, .inr (by decide)⟩))⟩

/-! ### Witnesses: stacks, regions and the pool -/

theorem witness_tier_alloc_pin : ∃ (s v : State) (k : Take) (cmd : Cmd) (id n ext : Nat) (tier : Tier) (p : Protect) (mask : BitVec 20) (r : Dev), v = s.tick k.t ∧ Accepted k 0x0803 v cmd ∧ r = v.ready cmd ∧
    memTierAllocBad v.clk (v.dev.takeCmd cmd) cmd = false ∧ id = v.dev.mem.nextRegion ∧ n = framesOf (cmd.f 0x48 8) ∧ mask = BitVec.ofNat 20 (cmd.f 0x44 4) ∧ tierOf (cmd.f 0x40 1) = some tier ∧
    protectOf (cmd.f 0x41 1) = some p ∧ ext = ceilDiv (cmd.f 0x48 8) Config.extentBytes ∧ tier = .pin ∧ r.canAlloc p mask n = true :=
  let s := put (withStack base) 0x0803 false [(0x41, 1, 2), (0x44, 4, 3), (0x48, 8, 4097), (0x38, 8, 8)]
  ⟨s, s, k0, cmdOf s, 1, 2, 1, .pin, .mirror, 3, s.ready (cmdOf s), rfl, accepted (by decide), rfl, by decide⟩

/-- A channel of two targets in service with room for ten extents. -/
def chan1 : FChan := { FChan.reset with state := .up, targets := 2, user := 10 * Config.extentBytes }

def withChan (s : State) (x : FChan) : State := onDev s fun d => { d with flash := { d.flash with chans := Vector.replicate 32 x } }

theorem witness_tier_alloc_flash : ∃ (s v : State) (k : Take) (cmd : Cmd) (id n ext : Nat) (tier : Tier) (p : Protect) (mask : BitVec 20) (r : Dev), v = s.tick k.t ∧ Accepted k 0x0803 v cmd ∧ r = v.ready cmd ∧
    memTierAllocBad v.clk (v.dev.takeCmd cmd) cmd = false ∧ id = v.dev.mem.nextRegion ∧ n = framesOf (cmd.f 0x48 8) ∧ mask = BitVec.ofNat 20 (cmd.f 0x44 4) ∧ tierOf (cmd.f 0x40 1) = some tier ∧
    protectOf (cmd.f 0x41 1) = some p ∧ ext = ceilDiv (cmd.f 0x48 8) Config.extentBytes ∧ tier ≠ .pin ∧ v.dev.flash.readOnly = false ∧ v.dev.flash.format = none ∧
    ext ≤ v.dev.extentRoom :=
  let s := put (withChan base chan1) 0x0803 false [(0x40, 1, 2), (0x44, 4, 1), (0x48, 8, 4097), (0x38, 8, 8)]
  ⟨s, s, k0, cmdOf s, 1, 2, 1, .flash, .none, 1, s.ready (cmdOf s), rfl, accepted (by decide), rfl, by decide⟩

def region1 : Region := ⟨4096, .pin, .parity, 7, 6, [(0, 0, 1), (1, 0, 1), (2, 0, 1)], [], [], [], .protectedSt, [], []⟩

theorem witness_tier_free : ∃ (s v : State) (k : Take) (cmd : Cmd) (x : Region), v = s.tick k.t ∧ Accepted k 0x0804 v cmd ∧ v.dev.tierRegion (cmd.f 0x40 8) = some x ∧
    (∀ y ∈ v.dev.mem.freeing, y.1 ≠ cmd.f 0x40 8) ∧ x.tier = .pin :=
  let s := put (onDev base fun d => { d with mem := { d.mem with regions := [(1, region1)] } }) 0x0804 false [(0x40, 8, 1)]
  ⟨s, s, k0, cmdOf s, region1, rfl, accepted (by decide), by decide⟩

theorem witness_tier_free_dirty : ∃ (s v : State) (k : Take) (cmd : Cmd) (x : Region), v = s.tick k.t ∧ Accepted k 0x0804 v cmd ∧ v.dev.tierRegion (cmd.f 0x40 8) = some x ∧
    (∀ y ∈ v.dev.mem.freeing, y.1 ≠ cmd.f 0x40 8) ∧ x.tier ≠ .pin ∧ v.dev.flash.readOnly = false ∧
    (∃ f ∈ v.dev.mem.pool, f.key = regionKey (cmd.f 0x40 8) ∧ (f.dirty = true ∨ f.writing = true)) :=
  let f : PoolFrame := ⟨9, regionKey 1, 0, 5, true, false, false, false, 0⟩
  let x := { region1 with tier := .cache }
  let s := put (onDev base fun d => { d with mem := { d.mem with regions := [(1, x)], pool := [f] } }) 0x0804 false [(0x40, 8, 1)]
  ⟨s, s, k0, cmdOf s, x, rfl, accepted (by decide), by decide, by decide, by decide, by decide, f, by decide⟩

theorem witness_stack_loss : ∃ (s v : State) (t : Nat) (st : StackNo), v = s.tick t ∧ v.dev.mem.stk[st].serving = true := ⟨withStack base, withStack base, 0, 19, rfl, by decide⟩

theorem witness_stack_idle : ∃ (s v : State) (t : Nat) (st : StackNo), v = s.tick t ∧ v.dev.mem.stk[st].serving = false := ⟨base, base, 0, 19, rfl, by decide⟩

theorem witness_second_error : ∃ (d : Dev) (c : Clock) (st : StackNo) (frame x : Nat), frame < 9437184 ∧ (st.val, frame, x) ∈ d.mem.errs ∧ c.now < x + 86400000000000 ∧
    (st.val, frame) ∉ d.mem.retired ∧ d.mem.stk[st].retired < 1179648 :=
  ⟨(onDev base fun d => { d with mem := { d.mem with errs := [(0, 9437183, 1)] } }).dev, { Clock.reset with now := 86400000000000 }, 0, 9437183, 1, by decide⟩

theorem witness_rebuild : ∀ line ∈ [62, 63], ∃ (s v : State) (t : Nat) (b : Rebuild) (r : Region), v = s.tick t ∧ v.dev.nextRebuild = some b ∧ v.dev.heldBit 1 b.dest = false ∧
    NMap.get? v.dev.mem.regions b.region = some r ∧ b.line = line ∧ r.prot = .rebuilding ∧ (∀ x ∈ v.dev.mem.rebuild, x.region = b.region → x = b) ∧ r.bad = [(b.frame, b.member)] := by
  intro line h
  let r := { region1 with prot := .rebuilding, bad := [(0, 1)] }
  let s := fun n => onDev base fun d => { d with mem := { d.mem with regions := [(1, r)], rebuild := [⟨6, 1, 0, 1, 3, 7, n⟩] } }
  fin_cases h
  · exact ⟨s 62, s 62, 0, ⟨6, 1, 0, 1, 3, 7, 62⟩, r, rfl, by decide⟩
  · exact ⟨s 63, s 63, 0, ⟨6, 1, 0, 1, 3, 7, 63⟩, r, rfl, by decide⟩

theorem witness_rebuild_held : ∃ (s v : State) (t : Nat) (b : Rebuild) (r : Region), v = s.tick t ∧ v.dev.nextRebuild = some b ∧ NMap.get? v.dev.mem.regions b.region = some r ∧
    v.dev.heldBit 1 b.dest = true ∧ b.line = 0 :=
  let r := { region1 with prot := .rebuilding, bad := [(0, 1)] }
  let b : Rebuild := ⟨6, 1, 0, 1, 3, 7, 0⟩
  let s := onDev base fun d => { d with mem := { d.mem with regions := [(1, r)], rebuild := [b] }, pwr := { d.pwr with hold := d.pwr.hold.set 1 8 } }
  ⟨s, s, 0, b, r, rfl, by decide⟩

/-- A page whose fill has gone out, read for a read or for a write. -/
theorem witness_pool_fill : ∀ wr : Bool, ∃ (s v : State) (t key page : Nat) (w : Bool), v = s.tick t ∧ (key, page) ∈ v.dev.mem.fills ∧
    w = (v.dev.mem.pool.any fun f => f.key = key && f.page = page && f.writing) ∧ w = wr ∧ v.dev.pageBad key page = false := by
  intro wr
  let s := fun wr => onDev base fun d => { d with mem := { d.mem with fills := [(4, 9)], pool := [⟨7, 4, 9, 1, false, true, wr, false, 0⟩] } }
  cases wr
  · exact ⟨s false, s false, 0, 4, 9, false, rfl, by decide⟩
  · exact ⟨s true, s true, 0, 4, 9, true, rfl, by decide⟩

theorem witness_pool_fill_bad : ∃ (s v : State) (t key page : Nat), v = s.tick t ∧ (key, page) ∈ v.dev.mem.fills ∧
    (v.dev.mem.pool.any fun f => f.key = key && f.page = page && f.writing) = false ∧ v.dev.pageBad key page = true :=
  let s := onDev (withChan base { FChan.reset with state := .up, targets := 2, map := [(0, ⟨3, 0, 1⟩)], badUnits := [0] }) fun d =>
    { d with mem := { d.mem with fills := [(4, 0)] }, flash := { d.flash with extents := [(0, ⟨31, 0, 4, false⟩)] } }
  ⟨s, s, 0, 4, 0, rfl, by decide⟩

/-! ### Witnesses: flash -/

theorem witness_flash_format : ∃ (s v : State) (k : Take) (cmd : Cmd), v = s.tick k.t ∧ Accepted k 0x0900 v cmd ∧ v.dev.flash.noFlash = false ∧ v.dev.flashInUse = false ∧
    v.dev.flash.format = none ∧ (v.ready cmd).flashCmdBefore cmd.ref = false ∧ v.dev.journalTested = false :=
  let s := put (withChan base chan1) 0x0900 false []
  ⟨s, s, k0, cmdOf s, rfl, accepted (by decide), by decide⟩

/-- A format taken while one runs is turned away. -/
theorem witness_flash_format_busy : ∃ (s v : State) (k : Take) (cmd : Cmd), v = s.tick k.t ∧ Accepted k 0x0900 v cmd ∧ v.dev.flash.noFlash = false ∧
    (v.dev.flashInUse = true ∨ v.dev.flash.format ≠ none ∨ (v.ready cmd).flashCmdBefore cmd.ref = true) :=
  let s := put (onDev (withChan base chan1) fun d => { d with flash := { d.flash with format := some ⟨0, 0, 1, 0⟩ } }) 0x0900 false []
  ⟨s, s, k0, cmdOf s, rfl, accepted (by decide), rfl, .inr (.inl (by decide))⟩

/-- A format before a journal channel's test ends waits for it. -/
theorem witness_flash_format_waits : ∃ (s v : State) (k : Take) (cmd : Cmd), v = s.tick k.t ∧ v.dev.journalTested = true ∧ Accepted k 0x0900 v cmd ∧
    v.dev.flash.noFlash = false ∧ v.dev.flashInUse = false ∧ v.dev.flash.format = none ∧ (v.ready cmd).flashCmdBefore cmd.ref = false :=
  let b : BistTest := ⟨⟨1, 0, 1, 0⟩, 8, [(2, 16, 3)], []⟩
  let s := put (onDev base fun d => { d with tst := { d.tst with bists := [b] } }) 0x0900 false []
  ⟨s, s, k0, cmdOf s, rfl, by decide, accepted (by decide), by decide⟩

theorem witness_flash_discard : ∃ (s v : State) (k : Take) (cmd : Cmd), v = s.tick k.t ∧ Accepted k 0x0901 v cmd ∧ flashDiscardBad v.clk (v.dev.takeCmd cmd) cmd = false ∧
    v.dev.flash.format = none ∧ v.dev.journalTested = false :=
  let s := put (onDev (withChan base chan1) fun d => { d with mem := { d.mem with regions := [(1, { region1 with tier := .flash })] } }) 0x0901 false [(0x40, 8, 1), (0x50, 8, 4096)]
  ⟨s, s, k0, cmdOf s, rfl, accepted (by decide), by decide⟩

theorem witness_flash_health : ∃ (s v : State) (k : Take) (cmd : Cmd), v = s.tick k.t ∧ Accepted k 0x0902 v cmd ∧ 2112 ≤ cmd.resultLen ∧ v.dev.journalTested = false :=
  let s := put base 0x0902 false [(0x38, 8, 2112)]
  ⟨s, s, k0, cmdOf s, rfl, accepted (by decide), by decide⟩

/-- A journal channel of an unformatted node is under test: flash commands wait. -/
theorem witness_flash_waits : ∃ (s v : State) (k : Take) (cmd : Cmd), v = s.tick k.t ∧ Accepted k 0x0902 v cmd ∧ 2112 ≤ cmd.resultLen ∧ v.dev.journalTested = true :=
  let b : BistTest := ⟨⟨1, 0, 1, 0⟩, 8, [(2, 16, 3)], []⟩
  let s := put (onDev base fun d => { d with tst := { d.tst with bists := [b] } }) 0x0902 false [(0x38, 8, 2112)]
  ⟨s, s, k0, cmdOf s, rfl, accepted (by decide), by decide⟩

/-- A dense block that holds unit 5. -/
def block1 : FBlock := ⟨3, 1, .dense, 7, [5], 1, 0, none⟩

theorem witness_flash_read : ∃ (s v : State) (t : Nat) (c : Chan) (r : FRead), v = s.tick t ∧ v.dev.flash.chans[c].reads = [r] ∧ r.cls ≠ 1 ∧ v.dev.flash.chans[c].jobs = [] ∧
    (NMap.get? v.dev.flash.chans[c].map r.unit).map (·.block) = some r.block :=
  let s := withChan base { chan1 with reads := [⟨0, 3, 5, 2, 0⟩], blocks := [block1], map := [(5, ⟨3, 0, 1⟩)] }
  ⟨s, s, 0, 31, ⟨0, 3, 5, 2, 0⟩, rfl, by decide⟩

theorem witness_traverse_read : ∃ (s v : State) (t : Nat) (c : Chan) (r : FRead) (tr : Trav), v = s.tick t ∧ v.dev.flash.chans[c].reads = [r] ∧ r.cls = 1 ∧
    (v.dev.scan.travs.find? fun x => x.id = r.owner) = some tr :=
  let tr : Trav := ⟨6, ⟨true, 31⟩, 9, 0, 0, [], false, []⟩
  let s := onDev (withChan base { chan1 with reads := [⟨0, 3, 5, 1, 6⟩], blocks := [block1] }) fun d => { d with scan := { d.scan with travs := [tr] } }
  ⟨s, s, 0, 31, ⟨0, 3, 5, 1, 6⟩, tr, rfl, by decide⟩

theorem witness_flash_program : ∃ (s v : State) (t : Nat) (c : Chan) (p : FProg), v = s.tick t ∧ v.dev.service = true ∧ v.dev.flash.pf = .idle ∧
    (v.dev.flash.chans[c].progs.find? fun q => q.wseq = p.wseq) = some p ∧ p.src = none ∧ (v.dev.flash.ownerOf c.val p.unit).isSome = true :=
  let s := onDev (withChan base { chan1 with progs := [⟨4, 5, 3, 1, true, none, 0⟩] }) fun d => { d with flash := { d.flash with extents := [(0, ⟨31, 0, 4, false⟩)] } }
  ⟨s, s, 0, 31, ⟨4, 5, 3, 1, true, none, 0⟩, rfl, by decide⟩

theorem witness_flash_erase : ∃ (s v : State) (t : Nat) (c : Chan) (b : FBlock), v = s.tick t ∧ v.dev.service = true ∧ v.dev.flash.pf = .idle ∧ v.dev.flash.format = none ∧
    v.dev.flash.fixedClass = false ∧ v.dev.flash.chans[c].erases = [b.no] ∧ v.dev.flash.chans[c].blocks = [b] ∧ v.dev.flash.chans[c].jobs = [] ∧
    v.dev.flash.chans[c].queue = [] :=
  let s := withChan base { chan1 with erases := [3], blocks := [block1] }
  ⟨s, s, 0, 31, block1, rfl, by decide⟩

theorem witness_tail_due : ∃ (s v : State) (t : Nat), v = s.tick t ∧ v.dev.service = true ∧ v.dev.flash.inflight = [] ∧ v.dev.tailDue v.clk = true ∧ v.dev.journalWorks = true :=
  let s := onDev (withChan base chan1) fun d => { d with flash := { d.flash with tail := [(.format, 9900000)] } }
  ⟨s, s, 0, rfl, by decide, rfl, by simp [Dev.tailDue, s, onDev, withChan, base], by decide⟩

theorem witness_journal_durable : ∃ (s v : State) (t : Nat), v = s.tick t ∧ v.dev.service = true ∧ v.dev.flash.inflight ≠ [] ∧ v.dev.flash.firstDone = true :=
  ⟨onDev (withChan base chan1) fun d => { d with flash := { d.flash with inflight := [.format], firstDone := true } }, _, 0, rfl, by decide⟩

theorem witness_map_durable : ∃ (d : Dev) (ch : Chan) (unit block page wseq : Nat) (r : JRec), r = .map ch.val unit block page wseq true ∧ d.flash.inflight = [r] ∧ d.leaves = [] ∧
    (d.flash.ownerOf ch.val unit).isSome = true ∧ d.flash.chans[ch].jobs = [] ∧ ((NMap.get? d.flash.chans[ch].map unit).map (·.wseq)).getD 0 < wseq ∧
    (∃ b ∈ d.flash.chans[ch].blocks, b.no = block) ∧ d.mem.freeing = [] ∧ d.mdl = Models.reset :=
  let r : JRec := .map 31 5 3 1 9 true
  let s := onDev (withChan base { chan1 with map := [(5, ⟨3, 0, 8⟩)], blocks := [block1] }) fun d => { d with flash := { d.flash with inflight := [r], extents := [(0, ⟨31, 0, 4, false⟩)] } }
  ⟨s.dev, 31, 5, 3, 1, 9, r, by decide⟩

theorem witness_checkpoint : ∃ (s v : State) (t : Nat) (c : Chan) (seg : Nat), v = s.tick t ∧ (v.dev.chan c.val).serving = true ∧ v.dev.chanHeld c.val = false ∧ v.dev.flash.pf = .idle ∧
    v.dev.flash.readOnly = false ∧ (∃ x ∈ (v.dev.chan c.val).dirtySegs, x.1 = seg) :=
  ⟨withChan base { chan1 with dirtySegs := [(2, 0)] }, _, 0, 31, 2, rfl, by decide, by decide, rfl, rfl, (2, 0), by decide⟩

theorem witness_refresh_start : ∃ (s v : State) (t : Nat) (c : Chan) (b : FBlock) (n : Nat), v = s.tick t ∧ v.dev.backRuns c.val = true ∧ (v.dev.chan c.val).refresh = [n] ∧
    (v.dev.chan c.val).blocks.find? (fun x => x.no = n && (x.mode = .dense || x.mode = .oneBit) && !((v.dev.chan c.val).emptying x)) = some b :=
  ⟨withChan base { chan1 with refresh := [3], blocks := [block1] }, _, 0, 31, block1, 3, rfl, by decide⟩

theorem witness_collection : ∃ (s v : State) (t : Nat) (c : Chan) (b : FBlock), v = s.tick t ∧ v.dev.backRuns c.val = true ∧ (v.dev.chan c.val).refresh = [] ∧
    (v.dev.chan c.val).freeBlocks < 2 * (v.dev.chan c.val).collectReserve ∧ (v.dev.chan c.val).collectPick = some b :=
  ⟨withChan base { chan1 with blocks := [block1] }, _, 0, 31, block1, rfl, by decide⟩

theorem witness_fold : ∃ (s v : State) (t : Nat) (c : Chan) (b : FBlock), v = s.tick t ∧ v.dev.backRuns c.val = true ∧ ((v.dev.chan c.val).foreground = false ∨
      (v.dev.chan c.val).bufferLimit v.dev.flash.fixedClass < 2 * ((v.dev.chan c.val).blocks.filter fun b => b.mode = .oneBit && b.used > 0).length) ∧
    ((v.dev.chan c.val).blocks.find? fun x => x.mode = .oneBit && x.used > 0 && !((v.dev.chan c.val).emptying x)) = some b :=
  ⟨withChan base { chan1 with blocks := [{ block1 with mode := .oneBit }] }, _, 0, 31, { block1 with mode := .oneBit }, rfl, by decide⟩

theorem witness_patrol : ∃ (s v : State) (t : Nat) (c : Chan) (b : FBlock), v = s.tick t ∧ v.dev.backReads c.val = true ∧
    ((v.dev.chan c.val).blocks.find? fun x => x.no = b.no) = some b ∧ b.mode ≠ .retired ∧ b.no ∉ (v.dev.chan c.val).refresh :=
  ⟨withChan base { chan1 with blocks := [block1] }, _, 0, 31, block1, rfl, by decide⟩

theorem witness_empty_block : ∃ (d : Dev) (ch : Chan) (b : FBlock), b.units = [] ∧ d.flash.pendingIn ch.val b.no = [] ∧ (∀ j ∈ d.flash.chans[ch].jobs, j.src ≠ b.no) :=
  ⟨(withChan base chan1).dev, 31, { block1 with units := [] }, by decide⟩

theorem witness_extent_migration : ∃ (s v : State) (t : Nat) (c : Chan) (e : Nat × Extent), v = s.tick t ∧ v.dev.backRuns c.val = true ∧ (v.dev.chan c.val).user < (v.dev.chan c.val).alloc ∧
    v.dev.flash.lastExtent c.val = some e ∧ v.dev.flash.migrating e.1 = false ∧ Config.extentBytes ≤ (v.dev.chan v.dev.bestChan).room :=
  let s := onDev (withChan base chan1) fun d => { d with flash := { d.flash with chans := d.flash.chans.set 31 { chan1 with user := 0, alloc := 1 }, extents := [(0, ⟨31, 0, 9, false⟩)] } }
  ⟨s, s, 0, 31, (0, ⟨31, 0, 9, false⟩), rfl, by decide, by decide, by decide, by decide, by decide +kernel⟩

theorem witness_target_fail : ∃ (s v : State) (t : Nat) (c : Chan) (target : Nat) (b : FBlock), v = s.tick t ∧ v.dev.flash.chans[c].serving = true ∧ b ∈ v.dev.flash.chans[c].blocks ∧
    b.target = target ∧ b.mode ≠ .retired ∧ v.dev.flash.chans[c].progs = [] ∧ v.dev.flash.chans[c].queue = [] ∧ v.dev.flash.format = none ∧ 1 < v.dev.flash.chans[c].targets :=
  ⟨withChan base { chan1 with blocks := [block1] }, _, 0, 31, 1, block1, rfl, by decide⟩

theorem witness_arbitration : ∃ (s v : State) (t : Nat), v = s.tick t ∧ (∀ c : Chan, v.dev.flash.chans[c].queue = [] ∧ v.dev.flash.chans[c].jobs = []) :=
  ⟨withChan base chan1, _, 0, rfl, by decide⟩

/-! ### Witnesses: searches -/

/-- Generation 9 from station 1: leaf 7 of space 1 at nodes 1 (lead, this node) and 2. -/
def gen9 : PlatGen :=
  { gen := 9, term := 1, fromStation := 1, domain := 5, epochS := 0, ptpDomain := 0, version := 1, timing := timingDefault, quorum := [2, 1, 3],
    nodes := [⟨1, 0, 0, []⟩, ⟨2, 0, 0, []⟩, ⟨3, 0, 0, []⟩], spaces := [⟨1, 1, 77⟩], leaves := [⟨7, 1, [⟨1, .active⟩, ⟨2, .active⟩]⟩], groups := [] }

/-- Space 1: one element, one subspace with one entry, inner product, fp16. -/
def space1 : Space := ⟨1, 1, 77, .ip, .ip, 1, 1, .bit8, [[[0x3C00]]], none, 1⟩

def beaconOf (st : Nat) : Beacon := ⟨st, 1, 2, 9, 1, [], []⟩

/-- Node 1 in generation 9 with the beacon of the current station, 40. -/
def withPlat (s : State) : State :=
  onDev s fun d => { d with plat := { d.plat with nodeId := 1, gens := [gen9], spaces := [space1], beacon := some (beaconOf 40) } }

/-- A descriptor of leaf 7: k = 1, one fp32 element 1.0, in the basic form. -/
def descMem : Mem := [(0, 4, 7), (4, 4, 0x240), (8, 4, 1), (0x0D, 1, 0xFF), (0x0E, 2, 1), (0x200, 4, 0x3F800000)].foldl (fun m e => Mem.wrN m e.1 e.2.1 e.2.2) ([] : Mem)

def searching (s : State) (deadline : Nat) : State :=
  put (onPort0 (withPlat s) fun h => { h with mem := descMem }) 0x0300 false [(0x40, 2, 1), (0x50, 8, 0x240), (0x30, 8, 4096), (0x38, 8, 128), (0x28, 8, deadline)]

theorem witness_search : ∃ (s v : State) (k : Take) (cmd : Cmd) (g : PlatGen) (qs : List Desc) (r d1 : Dev), v = s.tick k.t ∧ Accepted k 0x0300 v cmd ∧ r = v.ready cmd ∧
    AreasOk v cmd [(cmd.f 0x48 8, cmd.f 0x50 8)] ∧ searchBatchBad v.clk (v.dev.takeCmd cmd) cmd = false ∧ v.dev.pwr.ps = 0 ∧ vgetD v.dev.pwr.hold 0 0 = 0 ∧
    v.dev.genNow v.clk = some g ∧ qs = r.batch cmd ∧ r.knowsGen (r.station v.clk) = true ∧ (∀ q ∈ qs, (r.targetSpace g q.parcel).isSome = true) ∧
    r.gate v.clk cmd (natSum (qs.map (r.queryCharge g))) qs.length (cmd.deadline != 0 && cmd.deadline ≤ v.clk.now) = .inr d1 := by
  let s := searching base 0
  have h : ((s.ready (cmdOf s)).gate s.clk (cmdOf s) (natSum (((s.ready (cmdOf s)).batch (cmdOf s)).map ((s.ready (cmdOf s)).queryCharge gen9)))
    ((s.ready (cmdOf s)).batch (cmdOf s)).length ((cmdOf s).deadline != 0 && (cmdOf s).deadline ≤ s.clk.now)).isRight = true := by decide +kernel
  obtain ⟨d1, hd⟩ := Sum.isRight_iff.mp h
  exact ⟨s, s, k0, cmdOf s, gen9, _, _, d1, rfl, accepted (by decide), rfl, by unfold AreasOk; decide, by decide +kernel, rfl, rfl, by decide, rfl, by decide, by decide +kernel, hd⟩

theorem witness_search_late : ∃ (s v : State) (k : Take) (cmd : Cmd) (g : PlatGen) (qs : List Desc) (r : Dev) (st : Nat), v = s.tick k.t ∧ Accepted k 0x0300 v cmd ∧ r = v.ready cmd ∧
    AreasOk v cmd [(cmd.f 0x48 8, cmd.f 0x50 8)] ∧ searchBatchBad v.clk (v.dev.takeCmd cmd) cmd = false ∧ v.dev.pwr.ps = 0 ∧ vgetD v.dev.pwr.hold 0 0 = 0 ∧
    v.dev.genNow v.clk = some g ∧ qs = r.batch cmd ∧ r.knowsGen (r.station v.clk) = true ∧ (∀ q ∈ qs, (r.targetSpace g q.parcel).isSome = true) ∧
    r.gate v.clk cmd (natSum (qs.map (r.queryCharge g))) qs.length (cmd.deadline != 0 && cmd.deadline ≤ v.clk.now) = .inl st := by
  let s := searching base 10000000
  have h : ((s.ready (cmdOf s)).gate s.clk (cmdOf s) (natSum (((s.ready (cmdOf s)).batch (cmdOf s)).map ((s.ready (cmdOf s)).queryCharge gen9)))
    ((s.ready (cmdOf s)).batch (cmdOf s)).length ((cmdOf s).deadline != 0 && (cmdOf s).deadline ≤ s.clk.now)).isLeft = true := by decide +kernel
  obtain ⟨st, hd⟩ := Sum.isLeft_iff.mp h
  exact ⟨s, s, k0, cmdOf s, gen9, _, _, st, rfl, accepted (by decide), rfl, by unfold AreasOk; decide, by decide +kernel, rfl, rfl, by decide, rfl, by decide, by decide +kernel, hd⟩

theorem witness_search_waits : ∃ (s v : State) (k : Take) (cmd : Cmd) (g : PlatGen) (r : Dev), v = s.tick k.t ∧ Accepted k 0x0300 v cmd ∧ r = v.ready cmd ∧
    AreasOk v cmd [(cmd.f 0x48 8, cmd.f 0x50 8)] ∧ searchBatchBad v.clk (v.dev.takeCmd cmd) cmd = false ∧ v.dev.pwr.ps = 0 ∧ vgetD v.dev.pwr.hold 0 0 = 0 ∧
    v.dev.genNow v.clk = some g ∧ r.knowsGen (r.station v.clk) = false ∧ r.holdsTime v.clk = true :=
  let s := onDev (searching base 0) fun d => { d with plat := { d.plat with beacon := some { beaconOf 40 with newestGen := 10, newestFrom := 40 } } }
  ⟨s, s, k0, cmdOf s, gen9, _, rfl, accepted (by decide), rfl, by unfold AreasOk; decide, by decide +kernel, rfl, rfl, by decide, by decide, by decide⟩

def key7 : FragKey := ⟨1, 0, 7, 0⟩

/-- A fragment of benchmark 40 for leaf 7, deadline 20 ms. -/
def frag7 : Frag := { key := key7, rank := 0, fwd := false, bench := 40, gen := 9, deadline := 20000000, tables := [], scale := [], q := [0x3C00], filter := ⟨false, []⟩, kPrime := 64, leafDepth := 1, margin := 0, np := 1, nrr := 0, widen := false, pMax := 0 }

def att7 : Attempt := ⟨0, 2, 9, 0, [], none, false, .running, false, 0, 0, false⟩

def query7 (deadline : Nat) : Query :=
  { ref := ⟨0, 0, 1, 0⟩, index := 0, bench := 40, gen := 9, deadline := deadline, admitted := 0, target := 7, k := 1, nrr := 0, addr := 0, count := 0, copyRank := none, model := none,
    frags := [⟨7, frag7, [att7], 0, [], none, false⟩], done := false, status := 0, qflags := 0, abandoned := false }

def withQuery (s : State) (q : Query) : State := onDev (withPlat s) fun d => { d with root := { d.root with queries := [(0, q)] } }

theorem witness_answer : ∃ (s v : State) (t : Nat) (key : FragKey) (q : Query) (f : QFrag) (a : Attempt) (st : StaleAns), v = s.tick t ∧ v.dev.attempt? key = some (q, f, a) ∧ q.done = false ∧
    v.clk.now < q.deadline ∧ st.case1 = true ∧ (v.dev.genNo st.gen).isSome = true ∧ a.late = false ∧ v.dev.tLate a.sentAt q.deadline ≤ v.clk.now :=
  ⟨withQuery base (query7 20000000), _, 0, key7, query7 20000000, ⟨7, frag7, [att7], 0, [], none, false⟩, att7, ⟨9, true, none⟩, rfl, by decide⟩

theorem witness_query_deadline : ∃ (s v : State) (t ctx : Nat) (q : Query), v = s.tick t ∧ v.dev.query? ctx = some q ∧ q.done = false ∧ q.deadline ≤ v.clk.now :=
  ⟨withQuery base (query7 10000000), _, 0, 0, query7 10000000, rfl, by decide⟩

theorem witness_halving : ∃ (s v : State) (t : Nat), v = s.tick t ∧ v.dev.timeRuns = true ∧ occurring v.dev.plat.gens (v.dev.station v.clk / 16 * 16) = v.dev.station v.clk ∧ v.dev.root.halved ≠ v.dev.station v.clk :=
  let s := { withPlat base with clk := { base.clk with now := 12000000 } }
  ⟨s, s, 0, rfl, by decide⟩

/-! ### Witnesses: the leaf -/

def cfg7 : LeafCfg := ⟨1, false, false, .fp16, .pin, .pin, 64, 1, 100⟩

/-- A list of the plan with one coded item, homed on die 0. -/
def list7 : LList :=
  ⟨⟨[0x3F80], [], 0, .pin, 0, .none⟩, 0, ⟨0, [⟨0, true, 5, [⟨11, Attr.zero, [0], 5, 5, 0, newRow [0, 0] 5, none⟩], 0⟩], []⟩, none, none⟩

/-- The copy of leaf 7 at this node, loaded at station 5 and settled to station 40. -/
def leaf7 : Leaf :=
  { Leaf.new 7 40 false with cfg := some cfg7, planGen := 1, lists := [list7], load := some ⟨none, [], some 5, 1, ⟨0, 0, 0, 0⟩, ⟨0, 0, 0, 0⟩⟩, loaded := 1 }

def withLeaf (s : State) (l : Leaf) : State := onDev (withPlat s) fun d => { d with leaves := [l] }

theorem witness_fragment_rest : ∃ (s v : State) (t : Nat), v = s.tick t ∧ v.dev.service = true ∧ v.dev.carries = false :=
  ⟨onDev base fun d => { d with pwr := { d.pwr with ps := 2 } }, _, 0, rfl, by decide⟩

theorem witness_fragment_waits : ∃ (s v : State) (t : Nat) (f : Frag), v = s.tick t ∧ v.dev.carries = true ∧ v.dev.routeWork f.gen f.bench f.key.parcel f.rank f.fwd = .wait :=
  ⟨withLeaf base leaf7, _, 0, { frag7 with gen := 10 }, rfl, by decide⟩

theorem witness_fragment : ∃ (s v : State) (t : Nat) (f : Frag) (l : Leaf), v = s.tick t ∧ v.dev.carries = true ∧ v.dev.routeWork f.gen f.bench f.key.parcel f.rank f.fwd = .serve ∧
    v.dev.leaf f.key.parcel = some l ∧ v.dev.frag? f.key = none ∧ v.clk.now < f.deadline ∧ l.serves f.bench = true ∧ v.dev.pwr.ps = 0 ∧ vgetD v.dev.pwr.hold 0 0 = 0 ∧
    fieldN f.scale 12 4 = tableTag f.tables f.scale ∧ (l.loadedAt f.bench = true → l.planGen = scalePlanGen f.scale) :=
  ⟨withLeaf base { leaf7 with planGen := 0 }, _, 0, frag7, { leaf7 with planGen := 0 }, rfl, by decide⟩

def lfrag7 (st : Stage) : LFrag := ⟨frag7, st, [], 0, [], 0, [], 0, 0, [], false, [], 0, false, false⟩

def withFrag (s : State) (f : LFrag) : State := onDev (withLeaf s leaf7) fun d => { d with scan := { d.scan with frags := [f] } }

theorem witness_settled_start : ∃ (s v : State) (t : Nat) (key : FragKey) (f : LFrag) (l : Leaf) (sp : Space), v = s.tick t ∧ v.dev.frag? key = some f ∧ f.stage = .unsettled ∧
    v.dev.leaf key.parcel = some l ∧ l.reached f.frag.bench = true ∧ v.clk.now < f.frag.deadline ∧ l.serves f.frag.bench = true ∧ l.loadedAt f.frag.bench = true ∧
    v.dev.spaceOf l = some sp ∧ (let order := coarseOrder sp l f.frag
      let p := min order.length (if f.frag.np = 0 then ((l.cfg.map (·.np)).getD 1) else f.frag.np)
      v.dev.probesHeld l (order.take p) = false) ∧ v.dev.dieTested (key.parcel % 10) = false :=
  ⟨withFrag base (lfrag7 .unsettled), _, 0, key7, lfrag7 .unsettled, leaf7, space1, rfl, by decide +kernel⟩

theorem witness_held_fragment : ∃ (s v : State) (t : Nat) (key : FragKey) (f : LFrag), v = s.tick t ∧ v.dev.frag? key = some f ∧ f.stage = .held :=
  ⟨withFrag base (lfrag7 .held), _, 0, key7, lfrag7 .held, rfl, by decide⟩

theorem witness_fragment_deadline : ∃ (s v : State) (t : Nat) (key : FragKey) (f : LFrag), v = s.tick t ∧ v.dev.frag? key = some f ∧ f.frag.deadline ≤ v.clk.now :=
  let f := { lfrag7 .held with frag := { frag7 with deadline := 10000000 } }
  ⟨withFrag base f, _, 0, key7, f, rfl, by decide⟩

/-- A waiting probe of leaf 7's list 0, since 9 ms. -/
def probe7 (due : Bool) : Probe := ⟨⟨false, 0⟩, key7, 0, 0, 9000000, due, 0⟩

def withProbe (s : State) (p : Probe) : State := onDev (withFrag s (lfrag7 .probing)) fun d => { d with scan := { d.scan with probes := [p], dies := Vector.replicate 10 ⟨4, 0⟩ } }

theorem witness_batch_window : ∃ (s v : State) (t : Nat) (chan : Bool) (unit parcel : Nat) (l : Leaf) (x : LeafCfg), v = s.tick t ∧ placeOk chan unit = true ∧ v.dev.leaf parcel = some l ∧ l.cfg = some x :=
  ⟨withProbe base (probe7 false), _, 0, false, 9, 7, leaf7, cfg7, rfl, by decide⟩

theorem witness_traverse : ∃ (s v : State) (t unit parcel list ver : Nat) (g : List Probe) (comp : Bool) (ll : LList) (l : Leaf), v = s.tick t ∧ unit < 10 ∧ v.dev.arraysRun = true ∧
    v.dev.heldBit 0 unit = false ∧ v.dev.dieTested unit = false ∧ v.dev.nextTraverse ⟨false, unit⟩ parcel list ver = some (g, comp) ∧ v.dev.leaf parcel = some l ∧ l.lists[list]? = some ll :=
  ⟨withProbe base (probe7 true), _, 0, 0, 7, 0, 0, [probe7 true], false, list7, leaf7, rfl, by decide⟩

theorem witness_traverse_end : ∃ (s v : State) (t id : Nat) (x : Trav) (l : Leaf) (sp : Space) (ll : LList), v = s.tick t ∧ (v.dev.scan.travs.find? fun y => y.id = id) = some x ∧
    v.dev.travReading x = false ∧ v.dev.leaf x.parcel = some l ∧ v.dev.spaceOf l = some sp ∧ l.lists[x.list]? = some ll ∧ v.dev.travLost x ll = false :=
  let x : Trav := ⟨1, ⟨false, 0⟩, 7, 0, 0, [key7], false, []⟩
  let s := onDev (withFrag (withStack base) (lfrag7 .probing)) fun d => { d with scan := { d.scan with travs := [x] } }
  ⟨s, s, 0, 1, x, leaf7, space1, list7, rfl, by decide⟩

/-- A search whose target's codebook is not held waits for it. -/
theorem witness_search_waits_space : ∃ (s v : State) (k : Take) (cmd : Cmd) (g : PlatGen) (qs : List Desc) (r : Dev), v = s.tick k.t ∧ Accepted k 0x0300 v cmd ∧ r = v.ready cmd ∧
    AreasOk v cmd [(cmd.f 0x48 8, cmd.f 0x50 8)] ∧ searchBatchBad v.clk (v.dev.takeCmd cmd) cmd = false ∧ v.dev.pwr.ps = 0 ∧ vgetD v.dev.pwr.hold 0 0 = 0 ∧
    v.dev.genNow v.clk = some g ∧ qs = r.batch cmd ∧ (∃ q ∈ qs, r.targetSpace g q.parcel = none) ∧ r.holdsTime v.clk = true :=
  let s := onDev (searching base 0) fun d => { d with plat := { d.plat with spaces := [] } }
  ⟨s, s, k0, cmdOf s, gen9, _, _, rfl, accepted (by decide), rfl, by unfold AreasOk; decide, by decide +kernel, rfl, rfl, by decide, rfl, by decide +kernel, by decide⟩

/-! ### Witnesses: parcels and updates -/

theorem witness_parcel_create : ∃ (s v : State) (k : Take) (cmd : Cmd), v = s.tick k.t ∧ Accepted k 0x0200 v cmd ∧ parcelCreateBad v.clk (v.dev.takeCmd cmd) cmd = false :=
  let s := put (withPlat base) 0x0200 false [(0x40, 4, 7), (0x44, 4, 1), (0x4A, 1, 4), (0x50, 4, 64), (0x54, 2, 4096)]
  ⟨s, s, k0, cmdOf s, rfl, accepted (by decide), by decide⟩

theorem witness_parcel_load : ∃ (s v : State) (k : Take) (cmd : Cmd), v = s.tick k.t ∧ Accepted k 0x0201 v cmd ∧ AreasOk v cmd [(cmd.f 0x48 8, cmd.f 0x50 8)] ∧
    (v.dev.named v.clk (cmd.f 0x40 4)).isSome = true ∧ cmd.f 0x50 8 ≠ 0 :=
  let s := put (withPlat base) 0x0201 false [(0x40, 4, 7), (0x50, 8, 1073741824)]
  ⟨s, s, k0, cmdOf s, rfl, accepted (by decide), by unfold AreasOk; decide, by decide⟩

theorem witness_parcel_closure : ∃ (s v : State) (k : Take) (cmd : Cmd), v = s.tick k.t ∧ Accepted k 0x0203 v cmd ∧ (v.dev.named v.clk (cmd.f 0x40 4)).isSome = true ∧ cmd.expert = false :=
  let s := put (withPlat base) 0x0203 false [(0x40, 4, 7), (0x48, 8, 100)]
  ⟨s, s, k0, cmdOf s, rfl, accepted (by decide), by decide⟩

theorem witness_parcel_drop : ∃ (s v : State) (k : Take) (cmd : Cmd), v = s.tick k.t ∧ Accepted k 0x0202 v cmd ∧ v.dev.namesLeaf v.clk (cmd.f 0x40 4) = false ∧ cmd.f 0x40 4 ≠ Config.noParcel :=
  let s := put (withPlat base) 0x0202 false [(0x40, 4, 8)]
  ⟨s, s, k0, cmdOf s, rfl, accepted (by decide), by decide⟩

theorem witness_parcel_stats : ∃ (s v : State) (k : Take) (cmd : Cmd) (l : Leaf), v = s.tick k.t ∧ Accepted k 0x0204 v cmd ∧ cmd.f 0x44 1 = 0 ∧ v.dev.leaf (cmd.f 0x40 4) = some l ∧ 128 ≤ cmd.resultLen :=
  let s := put (withLeaf base leaf7) 0x0204 false [(0x40, 4, 7), (0x38, 8, 128)]
  ⟨s, s, k0, cmdOf s, leaf7, rfl, accepted (by decide), by decide⟩

theorem witness_delete : ∃ (s v : State) (k : Take) (cmd : Cmd), v = s.tick k.t ∧ Accepted k 0x0401 v cmd ∧ AreasOk v cmd [(cmd.f 0x48 8, 8 * cmd.f 0x44 2)] ∧
    itemCmdBad .delete v.clk (v.dev.takeCmd cmd) cmd = false :=
  let s := put (withPlat base) 0x0401 false [(0x40, 4, 7), (0x44, 2, 1), (0x38, 8, 8)]
  ⟨s, s, k0, cmdOf s, rfl, accepted (by decide), by unfold AreasOk; decide, by decide⟩

/-- An item command with one record of REC_LEN 128 and fp16 vectors. -/
def itemCmd (op : Nat) : State := put (withPlat base) op false [(0x40, 4, 7), (0x44, 2, 1), (0x46, 1, 4), (0x50, 4, 128), (0x38, 8, 8)]

theorem witness_items : ∀ x ∈ [(0x0400, UpdKind.insert), (0x0402, .upsert), (0x0403, .replace)], ∃ (s v : State) (k : Take) (cmd : Cmd), v = s.tick k.t ∧ Accepted k x.1 v cmd ∧
    AreasOk v cmd [(cmd.f 0x48 8, cmd.f 0x44 2 * cmd.f 0x50 4)] ∧ (v.dev.itemSpace v.clk (cmd.f 0x40 4)).isSome = true ∧ itemCmdBad x.2 v.clk (v.dev.takeCmd cmd) cmd = false := by
  intro x h
  fin_cases h
  · exact ⟨itemCmd 0x0400, _, k0, cmdOf (itemCmd 0x0400), rfl, accepted (by decide), by unfold AreasOk; decide, by decide⟩
  · exact ⟨itemCmd 0x0402, _, k0, cmdOf (itemCmd 0x0402), rfl, accepted (by decide), by unfold AreasOk; decide, by decide⟩
  · exact ⟨itemCmd 0x0403, _, k0, cmdOf (itemCmd 0x0403), rfl, accepted (by decide), by unfold AreasOk; decide, by decide⟩

def upd7 : UpdCmd :=
  { kind := .delete, parcel := 7, entry := 2, ref := ⟨0, 0, 1, 0⟩, key := ⟨0, 1, 0x0401, 0⟩, vfmt := .fp16, items := [⟨11, Attr.zero, [], [], 0⟩], recLenOk := true, resultLen := 8,
    cfg := none, plan := none, closureU := 0, closureK := none, nb := none, forwarded := false }

/-- Leaf 7 with the tombstones that `upd7` adds. -/
def tombed7 : Leaf := { leaf7 with tombs := [⟨11, 41, 2 ^ 48⟩] }

/-- Working stacks, with regions that stand as a leaf needs them. -/
def fitted (s : State) (l : Leaf) : State :=
  onDev (withStack s) fun d => { d with mem := { d.mem with regions := (l.regions (withStack s).dev).map fun w => (w.id, { Region.fresh w.protect w.mask .pin w.cls with len := 4096 * w.frames }) } }

theorem get?_map {α β : Type} (f : α → Nat) (g : α → β) : ∀ ws : List α, (ws.map f).Nodup → ∀ w ∈ ws, NMap.get? (ws.map fun x => (f x, g x)) (f w) = some (g w)
  | [], _, _, h => by simp at h
  | x :: ws, hn, w, hw => by
    simp only [List.map_cons, List.nodup_cons] at hn
    rcases List.mem_cons.mp hw with rfl | hw
    · simp [NMap.get?]
    · have : f x ≠ f w := fun e => hn.1 (e ▸ List.mem_map_of_mem hw)
      simpa [NMap.get?, this] using get?_map f g ws hn.2 w hw

theorem fitted_held {s : State} {l : Leaf} (hn : ((l.regions (withStack s).dev).map (·.id)).Nodup) (w : OwnRegion) (hw : w ∈ l.regions (withStack s).dev) :
    ∃ r, NMap.get? (fitted s l).dev.mem.regions w.id = some r ∧ r.len / 4096 = w.frames :=
  ⟨_, get?_map (fun w : OwnRegion => w.id) _ _ hn w hw, Nat.mul_div_cancel_left _ (by decide)⟩

theorem witness_intake : ∃ (s v : State) (t : Nat) (u : UpdCmd) (l : Leaf) (b : Beacon) (ts : List Tomb), v = s.tick t ∧ v.dev.carries = true ∧ v.dev.leaf u.parcel = some l ∧
    v.dev.leadAt u.parcel (v.dev.commitNow v.clk) = some v.dev.plat.nodeId ∧ l.intakeHeld = false ∧ v.dev.plat.beacon = some b ∧ v.dev.station v.clk ≤ b.station ∧ u.kind = .delete ∧
    v.dev.itemsBad l u = false ∧ v.dev.findRec (.leaf u.parcel) u.key = none ∧ v.dev.holdsTime v.clk = true ∧ v.dev.noIntake l = false ∧ v.dev.overLimits l u = false ∧
    ts = l.tombs ++ (u.items.zipIdx.map fun e => ⟨e.1.id, v.dev.commitNow v.clk, l.nextSeq + e.2⟩) ∧ v.dev.roomFor (({ l with tombs := ts } : Leaf).regions v.dev) = true ∧
    v.dev.fits { l with tombs := ts } :=
  ⟨fitted (withLeaf base leaf7) tombed7, _, 0, upd7, leaf7, beaconOf 40, tombed7.tombs, rfl, by decide +kernel, by decide +kernel, by decide +kernel, rfl, by decide +kernel, by decide +kernel, rfl,
    by decide +kernel, by decide +kernel, by decide +kernel, by decide +kernel, by decide +kernel, rfl, roomFor_held (fitted_held (by decide +kernel)), fits_held (fitted_held (by decide +kernel))⟩

theorem witness_intake_full : ∃ (s v : State) (t : Nat) (u : UpdCmd) (l : Leaf) (b : Beacon) (ts : List Tomb), v = s.tick t ∧ v.dev.carries = true ∧ v.dev.leaf u.parcel = some l ∧
    v.dev.leadAt u.parcel (v.dev.commitNow v.clk) = some v.dev.plat.nodeId ∧ l.intakeHeld = false ∧ v.dev.plat.beacon = some b ∧ v.dev.station v.clk ≤ b.station ∧ u.kind = .delete ∧
    v.dev.itemsBad l u = false ∧ v.dev.findRec (.leaf u.parcel) u.key = none ∧ v.dev.holdsTime v.clk = true ∧ v.dev.noIntake l = false ∧ v.dev.overLimits l u = false ∧
    ts = l.tombs ++ (u.items.zipIdx.map fun e => ⟨e.1.id, v.dev.commitNow v.clk, l.nextSeq + e.2⟩) ∧ v.dev.roomFor (({ l with tombs := ts } : Leaf).regions v.dev) = false :=
  ⟨withLeaf base leaf7, _, 0, upd7, leaf7, beaconOf 40, tombed7.tombs, rfl, by decide +kernel⟩

theorem witness_not_lead : ∃ (s v : State) (t : Nat) (u : UpdCmd) (n : Nat), v = s.tick t ∧ v.dev.carries = true ∧ v.dev.leadAt u.parcel (v.dev.commitNow v.clk) = some n ∧ n ≠ v.dev.plat.nodeId :=
  ⟨onDev (withLeaf base leaf7) fun d => { d with plat := { d.plat with nodeId := 2 } }, _, 0, upd7, 1, rfl, by decide⟩

/-- Node 2, which follows. -/
def follower (l : Leaf) : State := onDev (withLeaf base l) fun d => { d with plat := { d.plat with nodeId := 2 } }

theorem witness_records : ∃ (s v : State) (t parcel : Nat) (l : Leaf) (m : Mark) (n : Nat), v = s.tick t ∧ v.dev.live = true ∧ v.dev.leaf parcel = some l ∧ l.loc ≠ .failed ∧ l.shadow = none ∧
    l.load = none ∧ l.cfg.isSome = true ∧ (v.dev.newest.bind fun g => v.dev.mine g parcel) ≠ some .joining ∧ l.pendingMark = none ∧ l.early = [] ∧
    v.dev.leadAt parcel m.commit = some n ∧ m.seq ≤ l.applied :=
  ⟨follower { leaf7 with load := none }, _, 0, 7, { leaf7 with load := none }, ⟨41, 2 ^ 48 - 1⟩, 1, rfl, by decide⟩

theorem witness_records_fit : ∃ (s : State) (l : Leaf) (c id : Nat), s.dev.leaf 7 = some l ∧ s.dev.fits { l with tombs := l.tombs ++ [⟨id, c, l.applied + 1⟩] } :=
  let l := { leaf7 with load := none }
  ⟨fitted (follower l) { l with tombs := l.tombs ++ [⟨11, 41, l.applied + 1⟩] }, l, 41, 11, by decide +kernel, fits_held (fitted_held (by decide +kernel))⟩

theorem witness_late_mark : ∃ (s v : State) (t parcel : Nat) (l : Leaf) (m : Mark) (n : Nat), v = s.tick t ∧ v.dev.leaf parcel = some l ∧ l.pendingMark = none ∧
    v.dev.leadAt parcel m.commit = some n ∧ l.applied < m.seq :=
  ⟨follower { leaf7 with load := none }, _, 0, 7, { leaf7 with load := none }, ⟨41, 2 ^ 48⟩, 1, rfl, by decide⟩

theorem witness_settles : ∃ (s v : State) (t parcel : Nat) (l : Leaf) (mk : Mark × Nat) (fs lapsed : List Nat), v = s.tick t ∧ v.dev.leaf parcel = some l ∧ v.dev.live = true ∧
    l.intakeHeld = false ∧ l.noIntake = false ∧ l.loc = .current ∧ l.marks = [mk] ∧ l.waits = [] ∧ l.recs = [] ∧ l.closure = none ∧ v.dev.canSettle v.clk l mk = true ∧
    fs = v.dev.followers parcel mk.1.commit ∧ (∀ n ∈ fs, l.peer n = .current) ∧ lapsed = (fs.filter fun n => !(l.hasAck mk.1.commit n)) ∧ lapsed ≠ [] :=
  let l := { leaf7 with marks := [(⟨39, 2 ^ 48 - 1⟩, 9000000)] }
  ⟨withLeaf base l, _, 0, 7, l, (⟨39, 2 ^ 48 - 1⟩, 9000000), [2], [2], rfl, by decide⟩

theorem witness_fetch_ack : ∃ (s v : State) (t parcel : Nat) (l : Leaf) (node seq : Nat) (r : UpdRec) (rs : List UpdRec), v = s.tick t ∧ v.dev.leaf parcel = some l ∧ node < 4096 ∧
    l.recs = r :: rs ∧ r.seq ≤ seq :=
  let l := { leaf7 with recs := [⟨2 ^ 48, 40, .tomb 3, ⟨0, 1, 0x0401, 0⟩⟩] }
  ⟨withLeaf base l, _, 0, 7, l, 4095, 2 ^ 48, ⟨2 ^ 48, 40, .tomb 3, ⟨0, 1, 0x0401, 0⟩⟩, [], rfl, by decide⟩

theorem witness_settled_record : ∃ (s v : State) (t : Nat) (r : Settled) (l : Leaf), v = s.tick t ∧ v.dev.live = true ∧ r.outcomes = [] ∧ r.closure = none ∧
    v.dev.leaf r.parcel = some l ∧ l.loc ≠ .failed ∧ l.shadow = none ∧ l.recs = [] ∧ v.dev.plat.nodeId ∈ r.lapsed ∧ l.loc = .current :=
  ⟨follower leaf7, _, 0, ⟨7, 41, [2], [], none, []⟩, leaf7, rfl, by decide⟩

theorem witness_settled_current : ∃ (s v : State) (t : Nat) (r : Settled) (l : Leaf) (x : Nat), v = s.tick t ∧ v.dev.live = true ∧ r.outcomes = [] ∧ r.closure = none ∧
    v.dev.leaf r.parcel = some l ∧ l.loc ≠ .failed ∧ l.shadow = none ∧ l.recs = [] ∧ v.dev.plat.nodeId ∉ r.lapsed ∧ v.dev.plat.nodeId ∈ r.current ∧ l.loc = .lapsed x :=
  ⟨follower { leaf7 with loc := .lapsed 38 }, _, 0, ⟨7, 41, [], [2], none, []⟩, { leaf7 with loc := .lapsed 38 }, 38, rfl, by decide⟩

def closure7 (building : Bool) : Closure := ⟨35, 60, 2 ^ 48, building, none, [], none, none⟩

theorem witness_closure_build : ∃ (s v : State) (t parcel : Nat) (l l1 : Leaf) (cl : Closure), v = s.tick t ∧ v.dev.leaf parcel = some l ∧ l.closure = some cl ∧ cl.building = false ∧
    cl.outcome = none ∧ cl.ready = none ∧ cl.k ≤ l.settled ∧ l.loc ≠ .failed ∧ l.shadow = none ∧ l.due = none ∧
    l1 = v.dev.formNext { l with closure := some { cl with building := true } } cl ∧ v.dev.nextRoom l1 = true ∧ v.dev.fits l1 :=
  let l := { leaf7 with closure := some (closure7 false) }
  let s := withLeaf base l
  let l1 := s.dev.formNext { l with closure := some { closure7 false with building := true } } (closure7 false)
  ⟨fitted s l1, _, 0, 7, l, l1, closure7 false, rfl, by decide +kernel, rfl, rfl, rfl, rfl, by decide, by decide, rfl, rfl, rfl,
    Bool.and_eq_true_iff.mpr ⟨roomFor_held (fitted_held (by decide +kernel)), by decide +kernel⟩, fits_held (fitted_held (by decide +kernel))⟩

theorem witness_closure_no_room : ∃ (s v : State) (t parcel : Nat) (l l1 : Leaf) (cl : Closure), v = s.tick t ∧ v.dev.leaf parcel = some l ∧ l.closure = some cl ∧ cl.building = false ∧
    cl.outcome = none ∧ cl.ready = none ∧ cl.k ≤ l.settled ∧ l.loc ≠ .failed ∧ l.shadow = none ∧ l.due = none ∧
    l1 = v.dev.formNext { l with closure := some { cl with building := true } } cl ∧ v.dev.nextRoom l1 = false :=
  let l := { leaf7 with closure := some (closure7 false) }
  let s := withLeaf base l
  let l1 := s.dev.formNext { l with closure := some { closure7 false with building := true } } (closure7 false)
  ⟨s, _, 0, 7, l, l1, closure7 false, rfl, rfl, rfl, rfl, rfl, rfl, by decide, by decide, rfl, rfl, rfl, by decide +kernel⟩

theorem witness_closure_complete : ∃ (s v : State) (t parcel : Nat) (l : Leaf) (cl : Closure), v = s.tick t ∧ v.dev.leaf parcel = some l ∧ l.closure = some cl ∧ cl.building = true ∧
    cl.outcome = none ∧ v.dev.nextDurable l = true :=
  let l := { leaf7 with closure := some (closure7 true) }
  ⟨withLeaf base l, _, 0, 7, l, closure7 true, rfl, by decide⟩

theorem witness_load_ack : ∃ (s v : State) (t parcel node : Nat) (x : Load), v = s.tick t ∧ node < 4096 ∧ ((v.dev.leaf parcel).bind fun l => l.load) = some x ∧ node ∉ x.acks :=
  ⟨withLeaf base leaf7, _, 0, 7, 2, ⟨none, [], some 5, 1, ⟨0, 0, 0, 0⟩, ⟨0, 0, 0, 0⟩⟩, rfl, by decide⟩

theorem witness_copy_fill : ∃ (s v : State) (t parcel : Nat) (l : Leaf), v = s.tick t ∧ v.dev.leaf parcel = some l ∧ v.dev.awaitsImage l = true ∧ v.dev.live = true ∧ l.early = [] ∧
    l.pendingMark = none :=
  let s := onDev (withLeaf base (Leaf.new 7 40 false)) fun d => { d with plat := { d.plat with gens := [{ gen9 with leaves := [⟨7, 1, [⟨2, .active⟩, ⟨1, .joining⟩]⟩] }] } }
  ⟨s, s, 0, 7, Leaf.new 7 40 false, rfl, by decide⟩

theorem witness_new_lead : ∃ (s v : State) (t parcel : Nat) (m : Mark) (l : Leaf), v = s.tick t ∧ v.dev.leaf parcel = some l ∧ l.intakeHeld = true ∧
    v.dev.leadAt parcel (m.commit + 1) = some v.dev.plat.nodeId ∧ m.seq ≤ l.applied ∧ l.loc = .current ∧ l.held = [] ∧ m.commit ≤ l.settled :=
  ⟨withLeaf base { leaf7 with intakeHeld := true }, _, 0, 7, ⟨40, 2 ^ 48 - 1⟩, { leaf7 with intakeHeld := true }, rfl, by decide⟩

theorem witness_drain_shadow : ∃ (s v : State) (t parcel : Nat) (l : Leaf) (f : Nat), v = s.tick t ∧ v.dev.leaf parcel = some l ∧ v.clk.valid = true ∧ l.shadow = some f ∧
    drainStation v.dev.plat.gens f ≤ v.dev.station v.clk ∧ (v.dev.newest.bind fun g => v.dev.mine g parcel) ≠ some .joining :=
  ⟨withLeaf base { leaf7 with shadow := some 0 }, _, 0, 7, { leaf7 with shadow := some 0 }, 0, rfl, by decide⟩

theorem witness_drain_old : ∃ (s v : State) (t parcel : Nat) (l : Leaf) (u : Nat), v = s.tick t ∧ v.dev.leaf parcel = some l ∧ v.clk.valid = true ∧ l.shadow = none ∧ l.oldUse = some u ∧
    drainStation v.dev.plat.gens u ≤ v.dev.station v.clk :=
  ⟨withLeaf base { leaf7 with oldUse := some 1 }, _, 0, 7, { leaf7 with oldUse := some 1 }, 1, rfl, by decide⟩

theorem witness_rows_applied : ∃ (s v : State) (t node other : Nat) (l : Leaf) (key : CmdKey) (w : RowsWait), v = s.tick t ∧ node < 4096 ∧ node ≠ other ∧ v.dev.leaves = [l] ∧ l.rowsWait = [w] ∧
    w.key = key ∧ w.left = [node, other] :=
  let w : RowsWait := ⟨1, ⟨0, 0, 1, 0⟩, ⟨0, 1, 0x0700, 0⟩, [2, 3], false, 0, [], false⟩
  ⟨withLeaf base { leaf7 with rowsWait := [w] }, _, 0, 2, 3, { leaf7 with rowsWait := [w] }, w.key, w, rfl, by decide⟩

def forw7 (n : Nat) : Forwarded := ⟨⟨0, 0, 1, 0⟩, upd7.key, some upd7, n⟩

def withForw (n : Nat) : State := onDev (follower leaf7) fun d => { d with plat := { d.plat with forwarded := [forw7 n] } }

theorem witness_third_stale : ∃ (s v : State) (t : Nat) (f : Forwarded) (u : UpdCmd), v = s.tick t ∧ v.dev.plat.forwarded = [f] ∧ f.cmd = some u ∧ 2 ≤ f.stale :=
  ⟨withForw 2, _, 0, forw7 2, upd7, rfl, by decide⟩

theorem witness_stale_again : ∃ (s v : State) (t : Nat) (f : Forwarded) (u : UpdCmd) (g : PlatGen) (m n : Nat), v = s.tick t ∧ v.dev.plat.forwarded = [f] ∧ f.cmd = some u ∧ f.stale < 2 ∧
    v.dev.newest = some g ∧ g.lead u.parcel = some n ∧ n ≠ v.dev.plat.nodeId ∧ u.kind ≠ .load ∧ (g.quorum.filter fun x => x != v.dev.plat.nodeId).head? = some m :=
  ⟨withForw 1, _, 0, forw7 1, upd7, gen9, 1, 1, rfl, by decide⟩

/-! ### Witnesses: the chain engine -/

theorem witness_gather : ∃ (s v : State) (k : Take) (cmd : Cmd) (r d1 : Dev) (g : PlatGen) (kind : RowKind), v = s.tick k.t ∧ Accepted k 0x0500 v cmd ∧ r = v.ready cmd ∧
    AreasOk v cmd [(cmd.f 0x48 8, 8 * cmd.f 0x50 4)] ∧ chainGatherBad [] v.clk (v.dev.takeCmd cmd) cmd = false ∧ rowKindOf (cmd.f 0x40 1) = some kind ∧ kind ≠ .embed ∧
    cmd.expert = false ∧ v.dev.genNow v.clk = some g ∧ r.gate v.clk cmd (cmd.f 0x50 4) 1 (r.deadlineOf v.clk cmd ≤ v.clk.now) = .inr d1 := by
  let s := put (withLeaf base leaf7) 0x0500 false [(0x40, 1, 1), (0x44, 4, 7), (0x50, 4, 1), (0x38, 8, 128), (0x28, 8, 20000000)]
  have h : ((s.ready (cmdOf s)).gate s.clk (cmdOf s) ((cmdOf s).f 0x50 4) 1 ((s.ready (cmdOf s)).deadlineOf s.clk (cmdOf s) ≤ s.clk.now)).isRight = true := by decide +kernel
  obtain ⟨d1, hd⟩ := Sum.isRight_iff.mp h
  exact ⟨s, s, k0, cmdOf s, _, d1, gen9, .vector, rfl, accepted (by decide), rfl, by unfold AreasOk; decide, by decide +kernel, by decide, by decide, by decide, by decide, hd⟩

def remote7 (gen : Nat) : RemoteReq := ⟨2, 5, 7, 0, gen, 40, .vector, 11, false⟩

theorem witness_remote_read : ∃ (s v : State) (t : Nat) (q : RemoteReq), v = s.tick t ∧ v.dev.carries = true ∧ v.dev.routeWork q.gen q.bench q.parcel q.rank q.fwd = .serve ∧ q.kind ≠ .embed :=
  ⟨withLeaf base leaf7, _, 0, remote7 9, rfl, by decide⟩

theorem witness_remote_waits : ∃ (s v : State) (t : Nat) (q : RemoteReq), v = s.tick t ∧ v.dev.carries = true ∧ v.dev.routeWork q.gen q.bench q.parcel q.rank q.fwd = .wait ∧ q.kind ≠ .embed :=
  ⟨withLeaf base leaf7, _, 0, remote7 10, rfl, by decide⟩

/-- A gather of keys 11 and 12 with key 11 in slot 0 of its window. -/
def reader7 (keys : List Nat) (limit : Nat) (w : WSlot) : Reader :=
  { Reader.new 4 (.gather ⟨0, 0, 1, 0⟩) .vector [7] 9 40 keys with pos := 1, window := [w], inflight := 1, limit := limit, rMax := 2, deadline := 20000000 }

def slot7 (row : Option (Nat × List Byte)) : WSlot := ⟨0, 11, [7], [], row, [0], 0⟩

def read7 (live : Bool) : Read := ⟨3, 4, 0, ⟨7, 0, .vector, 11⟩, .dram 0, .shared, [], 9000000, false, live⟩

def withReader (r : Reader) (x : Read) : State :=
  onDev (put (withLeaf base leaf7) 0x0500 false []) fun d => { d with chain := { d.chain with readers := [r], reads := [x], nextReader := 5 }, cmds := ⟨[cmdOf (put base 0x0500 false [])], [], 1⟩ }

theorem witness_walk_late : ∃ (s v : State) (t id : Nat) (r : Reader) (ref : Ref), v = s.tick t ∧ v.dev.reader? id = some r ∧ r.ended = false ∧ r.kind = .gather ref ∧ r.deadline ≤ v.clk.now :=
  let r := { reader7 [11, 11] 4096 (slot7 none) with deadline := 10000000 }
  ⟨withReader r (read7 true), _, 0, 4, r, ⟨0, 0, 1, 0⟩, rfl, by decide⟩

theorem witness_walk_coalesces : ∃ (s v : State) (t id key : Nat) (r : Reader) (x : WSlot), v = s.tick t ∧ v.dev.reader? id = some r ∧ r.ended = false ∧ r.due v.clk = false ∧
    (r.window.find? fun x => x.row.isNone && (v.dev.slotReads id x.no).isEmpty) = none ∧ r.keys[r.pos]? = some key ∧ key ≠ Config.noItem ∧ (r.window.find? fun y => y.key = key) = some x :=
  ⟨withReader (reader7 [11, 11] 4096 (slot7 none)) (read7 true), _, 0, 4, 11, reader7 [11, 11] 4096 (slot7 none), slot7 none, rfl, by decide⟩

theorem witness_walk_issues : ∃ (s v : State) (t id key no : Nat) (r : Reader), v = s.tick t ∧ v.dev.reader? id = some r ∧ r.ended = false ∧ r.due v.clk = false ∧
    (r.window.find? fun x => x.row.isNone && (v.dev.slotReads id x.no).isEmpty) = none ∧ r.keys[r.pos]? = some key ∧ key ≠ Config.noItem ∧
    (r.window.find? fun y => y.key = key) = none ∧ r.inflight < r.limit ∧ r.freeSlot = some no :=
  ⟨withReader (reader7 [11, 12] 2 (slot7 none)) (read7 true), _, 0, 4, 12, 1, reader7 [11, 12] 2 (slot7 none), rfl, by decide⟩

theorem witness_walk_full : ∃ (s v : State) (t id key : Nat) (r : Reader), v = s.tick t ∧ v.dev.reader? id = some r ∧ r.ended = false ∧ r.due v.clk = false ∧
    (r.window.find? fun x => x.row.isNone && (v.dev.slotReads id x.no).isEmpty) = none ∧ r.keys[r.pos]? = some key ∧ key ≠ Config.noItem ∧
    (r.window.find? fun y => y.key = key) = none ∧ r.limit ≤ r.inflight :=
  ⟨withReader (reader7 [11, 12] 1 (slot7 none)) (read7 true), _, 0, 4, 12, reader7 [11, 12] 1 (slot7 none), rfl, by decide⟩

theorem witness_read_ends : ∃ (s v : State) (t tag : Nat) (x : Read) (r : Reader) (st : Nat), v = s.tick t ∧ (v.dev.chain.reads.find? fun y => y.tag = tag) = some x ∧
    v.dev.reader? x.reader = some r ∧ x.live = true ∧ r.ended = false ∧ r.due v.clk = false ∧ x.src = .dram st ∧ v.dev.stackBarred st = false ∧
    v.dev.sourceBad v.clk r x = false :=
  ⟨withStack (withReader (reader7 [11, 12] 4096 (slot7 none)) (read7 true)), _, 0, 3, read7 true, reader7 [11, 12] 4096 (slot7 none), 0, rfl, by decide⟩

theorem witness_dead_read : ∃ (s v : State) (t tag : Nat) (x : Read) (r : Reader), v = s.tick t ∧ (v.dev.chain.reads.find? fun y => y.tag = tag) = some x ∧
    v.dev.reader? x.reader = some r ∧ x.live = false :=
  ⟨withReader (reader7 [11, 12] 4096 (slot7 none)) (read7 false), _, 0, 3, read7 false, reader7 [11, 12] 4096 (slot7 none), rfl, by decide⟩

theorem witness_delivery : ∃ (s v : State) (t id pos : Nat) (r : Reader) (x : WSlot) (ref : Ref) (cmd : Cmd) (bytes : List Byte), v = s.tick t ∧ v.dev.reader? id = some r ∧
    r.kind = .gather ref ∧ r.due v.clk = false ∧ (r.window.find? fun y => y.occ.contains pos) = some x ∧ x.row = some (0, bytes) ∧ v.dev.cmd? ref = some cmd :=
  ⟨withReader (reader7 [11, 12] 4096 (slot7 (some (0, [1, 2])))) (read7 false), _, 0, 4, 0, reader7 [11, 12] 4096 (slot7 (some (0, [1, 2]))), slot7 (some (0, [1, 2])), ⟨0, 0, 1, 0⟩,
    cmdOf (put base 0x0500 false []), [1, 2], rfl, by and_intros <;> rfl⟩

/-- A monument command on leaf 7's item 11. -/
def monCmd (op : Nat) (ms : List Monument) (body : List (Nat × Nat × Nat)) : State :=
  put (onDev (withStack (withLeaf base leaf7)) fun d => { d with chain := { d.chain with monuments := ms } }) op false ([(0x40, 4, 7), (0x45, 1, 1), (0x48, 8, 11)] ++ body)

def row11 : RowKey := ⟨7, 0, .vector, 11⟩

theorem witness_monument_set : ∃ (s v : State) (k : Take) (cmd : Cmd) (ss : List StackNo) (d : Dev), v = s.tick k.t ∧ Accepted k 0x0502 v cmd ∧
    chainMonumentSetBad v.clk (v.dev.takeCmd cmd) cmd = false ∧ v.dev.monument? cmd.monRow = none ∧ ss = cmd.monStacks.filterMap stackOf ∧
    (ss.length ≤ 1 ∨ (v.dev.chain.monuments.filter fun m => 1 < m.copies.length && m.row != cmd.monRow).length < Config.maxMonuments) ∧
    d = { v.ready cmd with chain := { v.dev.chain with monuments := v.dev.chain.monuments ++
      [⟨cmd.monRow, ss.zipIdx.map fun e => if e.2 = 0 ∧ v.dev.pinned cmd.monRow = true then ⟨e.1, .live, 0, true⟩ else ⟨e.1, .filling, 0, false⟩, none⟩] } } ∧
    d.monRoom cmd.monRow = true :=
  let s := monCmd 0x0502 [] [(0x46, 1, 2), (0x50, 1, 0), (0x51, 1, 19)]
  ⟨s, s, k0, cmdOf s, [0, 19], _, rfl, accepted (by decide), by decide, by decide, by decide, by decide, rfl, by decide +kernel⟩

def copy3 (u : CopyUse) : MonCopy := ⟨3, u, 0, false⟩

theorem witness_monument_move : ∃ (s v : State) (k : Take) (cmd : Cmd) (m : Monument) (dest : StackNo) (x : MonCopy) (d : Dev), v = s.tick k.t ∧ Accepted k 0x0503 v cmd ∧
    chainMonumentMoveBad v.clk (v.dev.takeCmd cmd) cmd = false ∧ v.dev.monument? cmd.monRow = some m ∧ m.move = none ∧ m.copies[cmd.f 0x50 1]? = some x ∧ x.use = .live ∧
    cmd.f 0x51 1 = dest.val ∧ v.dev.heldBit 1 x.stack.val = false ∧ v.dev.heldBit 1 dest.val = false ∧ v.dev.serves dest.val = true ∧
    d = (v.ready cmd).putMonument { m with move := some ⟨cmd.f 0x50 1, dest, cmd.f 0x58 8, false, .dual, cmd.ref, x.home⟩ } ∧ d.monRoom cmd.monRow = true :=
  let s := monCmd 0x0503 [⟨row11, [copy3 .live], none⟩] [(0x51, 1, 4), (0x58, 8, 42)]
  ⟨s, s, k0, cmdOf s, ⟨row11, [copy3 .live], none⟩, 4, copy3 .live, _, rfl, accepted (by decide), by decide, by decide, by decide, by decide, by decide, by decide, by decide, by decide, by decide, rfl,
    by decide +kernel⟩

theorem witness_monument_fill : ∃ (s v : State) (t copy : Nat) (row : RowKey) (m : Monument) (x : MonCopy), v = s.tick t ∧ v.dev.chain.monuments = [m] ∧ m.row = row ∧
    m.copies[copy]? = some x ∧ x.use = .filling :=
  ⟨monCmd 0 [⟨row11, [copy3 .filling], none⟩] [], _, 0, 0, row11, ⟨row11, [copy3 .filling], none⟩, copy3 .filling, rfl, by decide⟩

def move4 (filled : Bool) (ph : MovePhase) (w : Nat) : MonMove := ⟨0, 4, w, filled, ph, ⟨0, 0, 1, 0⟩, false⟩

theorem witness_move_fill : ∀ w ∈ [40, 41], ∃ (s v : State) (t copy : Nat) (row : RowKey) (m : Monument) (x : MonCopy) (mv : MonMove), v = s.tick t ∧ v.dev.chain.monuments = [m] ∧ m.row = row ∧
    m.copies[copy]? = some x ∧ x.use = .live ∧ m.move = some mv ∧ mv.copy = copy ∧ mv.phase = .dual ∧ mv.w = w ∧ v.dev.station v.clk = 40 := by
  intro w h
  fin_cases h
  · exact ⟨monCmd 0 [⟨row11, [copy3 .live], some (move4 false .dual 40)⟩] [], _, 0, 0, row11, ⟨row11, [copy3 .live], some (move4 false .dual 40)⟩, copy3 .live, move4 false .dual 40, rfl, by decide⟩
  · exact ⟨monCmd 0 [⟨row11, [copy3 .live], some (move4 false .dual 41)⟩] [], _, 0, 0, row11, ⟨row11, [copy3 .live], some (move4 false .dual 41)⟩, copy3 .live, move4 false .dual 41, rfl, by decide⟩

theorem witness_monument_switch : ∀ w ∈ [40, 41], ∀ filled : Bool, ∃ (s v : State) (t : Nat) (row : RowKey) (m : Monument) (mv : MonMove) (x : MonCopy), v = s.tick t ∧
    v.dev.monument? row = some m ∧ m.move = some mv ∧ m.copies[mv.copy]? = some x ∧ mv.phase = .dual ∧ mv.filled = filled ∧ v.dev.holdsTime v.clk = true ∧ mv.w = w ∧
    v.dev.station v.clk = 40 := by
  intro w h filled
  fin_cases h
  · exact ⟨monCmd 0 [⟨row11, [copy3 .live], some (move4 filled .dual 40)⟩] [], _, 0, row11, ⟨row11, [copy3 .live], some (move4 filled .dual 40)⟩, move4 filled .dual 40, copy3 .live, rfl,
      by cases filled <;> decide⟩
  · exact ⟨monCmd 0 [⟨row11, [copy3 .live], some (move4 filled .dual 41)⟩] [], _, 0, row11, ⟨row11, [copy3 .live], some (move4 filled .dual 41)⟩, move4 filled .dual 41, copy3 .live, rfl,
      by cases filled <;> decide⟩

theorem witness_monument_free : ∃ (s v : State) (t : Nat) (row : RowKey) (m : Monument) (mv : MonMove) (x : MonCopy), v = s.tick t ∧ v.dev.monument? row = some m ∧
    m.move = some mv ∧ m.copies[mv.copy]? = some x ∧ mv.phase = .flipped ∧ mv.w + 1 ≤ v.dev.station v.clk ∧ v.clk.valid = true :=
  ⟨monCmd 0 [⟨row11, [copy3 .live], some (move4 true .flipped 39)⟩] [], _, 0, row11, ⟨row11, [copy3 .live], some (move4 true .flipped 39)⟩, move4 true .flipped 39, copy3 .live, rfl, by decide⟩

theorem witness_cache_load : ∃ (s v : State) (k : Take) (cmd : Cmd), v = s.tick k.t ∧ Accepted k 0x0501 v cmd ∧ AreasOk v cmd [(cmd.f 0x48 8, 16 * cmd.f 0x50 4)] ∧
    chainCacheLoadBad v.clk (v.dev.takeCmd cmd) cmd = false ∧ v.dev.chain.cache.pend = none :=
  let s := put (onPort0 base fun h => { h with mem := [(5, 1)] }) 0x0501 false [(0x40, 1, 64), (0x44, 4, 65536), (0x50, 4, 1)]
  ⟨s, s, k0, cmdOf s, rfl, accepted (by decide), by unfold AreasOk; decide, by decide⟩

theorem witness_cache_refresh : ∀ n ∈ [40, 3], ∃ (s v : State) (t : Nat), v = s.tick t ∧ v.dev.live = true ∧ v.dev.chain.cache.pend = none ∧ v.dev.chain.cache.refresh = n ∧
    (occurring v.dev.plat.gens (v.dev.station v.clk / v.dev.chain.cache.refresh * v.dev.chain.cache.refresh) = v.dev.station v.clk ↔ n = 40) ∧ v.dev.chain.cache.last ≠ some (v.dev.station v.clk) := by
  intro n h
  fin_cases h
  · exact ⟨onDev base fun d => { d with chain := { d.chain with cache := ⟨1, 40, [], none, [], none⟩ } }, _, 0, rfl, by decide⟩
  · exact ⟨onDev base fun d => { d with chain := { d.chain with cache := ⟨1, 3, [], none, [], none⟩ } }, _, 0, rfl, by decide⟩

/-! ### Witnesses: models -/

/-- An image of two tensors, run input and output of 8 fp16 elements, and one step, OUTPUT. -/
def image1 : Mem :=
  [(0, 4, 0x4C444D53), (4, 2, 1), (6, 2, 1), (8, 4, 2), (12, 4, 1), (0x10, 8, 256), (0x18, 8, 0x80), (0x20, 8, 0xA0), (0x38, 4, 0x89EA2C04), (0x80, 1, 0x0F), (0x90, 4, 1),
   (0xA0, 1, 4), (0xA1, 1, 3), (0xA2, 2, 0xFFFF), (0xA4, 4, 1), (0xA8, 4, 1), (0xAC, 4, 1), (0xB0, 4, 8),
   (0xD0, 1, 4), (0xD1, 1, 4), (0xD2, 2, 0xFFFF), (0xD4, 4, 1), (0xD8, 4, 1), (0xDC, 4, 1), (0xE0, 4, 8)].foldl (fun m e => Mem.wrN m e.1 e.2.1 e.2.2) ([] : Mem)

/-- The model that image1 makes under MODEL_ID 3, as it stands once loaded. -/
def model3 : Model :=
  { id := 3, uid := 0, check := 0x89EA2C04, image := [], space := [], layers := 1, tensors := [⟨4, 3, 0xFFFF, [1, 1, 1, 8], 0, 0, 0⟩, ⟨4, 4, 0xFFFF, [1, 1, 1, 8], 0, 0, 0⟩],
    steps := [⟨0x0F, 0, 0, 0, 0, 0, 1, List.replicate 12 0⟩], tier := .pin, embedTier := .pin, windowMib := 32, arrays := 128, holder := 0xFFFF, genMask := 0,
    genTags := List.replicate 16 0, tessel := false, filled := [] }

def loadCmd (s : State) : State := put (onPort0 s fun h => { h with mem := image1 }) 0x0600 false [(0x40, 1, 3), (0x50, 8, 256)]

/-- What model.load asks beside the frames of its stores. -/
def loadOk (s : State) (m : Model) : Bool :=
  m.flashLen + m.flashEmbed = 0 && (s.ready (cmdOf s)).windows ((cmdOf s).f 0x40 1) + m.windowMib ≤ Config.windowMib

set_option maxRecDepth 20000 in
theorem witness_model_load : ∀ room : Bool, ∃ (s v : State) (k : Take) (cmd : Cmd) (held : Option (List Byte)) (m : Model) (r : Dev), v = s.tick k.t ∧ Accepted k 0x0600 v cmd ∧ r = v.ready cmd ∧
    AreasOk v cmd (modelLoadAreas (v.dev.takeCmd cmd) cmd) ∧ modelLoadBad held v.clk (v.dev.takeCmd cmd) cmd = false ∧ cmd.f 0x50 8 ≠ 0 ∧
    r.newModel cmd held = some m ∧ r.windows (cmd.f 0x40 1) + m.windowMib ≤ Config.windowMib ∧
    (let ids := (v.dev.mdl.models.map (·.id) ++ v.dev.mdl.loading.map fun x => x.2.id).dedup
     ids.contains (cmd.f 0x40 1) = true ∨ ids.length < Config.maxModels) ∧
    (m.flashLen + m.flashEmbed ≠ 0 → v.dev.flash.readOnly = false ∧ v.dev.flash.format = none ∧ r.imageRoom m = true) ∧ (r.pinModel m).isSome = room := by
  intro room
  have build : ∀ s : State, s = s.tick 0 → ready s 0x0600 = true → AreasOk s (cmdOf s) (modelLoadAreas (s.dev.takeCmd (cmdOf s)) (cmdOf s)) → modelLoadBad none s.clk (s.dev.takeCmd (cmdOf s)) (cmdOf s) = false →
      (cmdOf s).f 0x50 8 ≠ 0 → (s.dev.mdl.models.map (·.id) ++ s.dev.mdl.loading.map fun x => x.2.id).dedup.length < Config.maxModels → ((s.ready (cmdOf s)).newModel (cmdOf s) none).isSome = true →
      ((s.ready (cmdOf s)).newModel (cmdOf s) none).all (fun m => loadOk s m && ((s.ready (cmdOf s)).pinModel m).isSome == room) = true →
      ∃ (v : State) (k : Take) (cmd : Cmd) (held : Option (List Byte)) (m : Model) (r : Dev), v = s.tick k.t ∧ Accepted k 0x0600 v cmd ∧ r = v.ready cmd ∧
        AreasOk v cmd (modelLoadAreas (v.dev.takeCmd cmd) cmd) ∧ modelLoadBad held v.clk (v.dev.takeCmd cmd) cmd = false ∧ cmd.f 0x50 8 ≠ 0 ∧
        r.newModel cmd held = some m ∧ r.windows (cmd.f 0x40 1) + m.windowMib ≤ Config.windowMib ∧
        (let ids := (v.dev.mdl.models.map (·.id) ++ v.dev.mdl.loading.map fun x => x.2.id).dedup
         ids.contains (cmd.f 0x40 1) = true ∨ ids.length < Config.maxModels) ∧
        (m.flashLen + m.flashEmbed ≠ 0 → v.dev.flash.readOnly = false ∧ v.dev.flash.format = none ∧ r.imageRoom m = true) ∧ (r.pinModel m).isSome = room := by
    intro s h0 h1 h2 h3 h4 h5 h6 h7
    obtain ⟨m, hm⟩ := Option.isSome_iff_exists.mp h6
    simp only [hm, Option.all_some, loadOk, Bool.and_eq_true, decide_eq_true_eq, beq_iff_eq] at h7
    exact ⟨s, k0, cmdOf s, none, m, _, h0, accepted h1, rfl, h2, h3, h4, hm, h7.1.2, .inr h5, fun h => absurd h7.1.1 h, h7.2⟩
  cases room
  · exact ⟨_, build (loadCmd base) rfl (by decide) (by unfold AreasOk; decide) (by decide +kernel) (by decide) (by decide) (by decide +kernel) (by decide +kernel)⟩
  · exact ⟨_, build (loadCmd (withStack base)) rfl (by decide) (by unfold AreasOk; decide) (by decide +kernel) (by decide) (by decide) (by decide +kernel) (by decide +kernel)⟩

def withModel (s : State) : State := onDev s fun d => { d with mdl := { d.mdl with models := [model3] } }

theorem witness_model_unload : ∀ id ∈ [2, 3], ∃ (s v : State) (k : Take) (cmd : Cmd), v = s.tick k.t ∧ Accepted k 0x0600 v cmd ∧ cmd.f 0x50 8 = 0 ∧ cmd.f 0x40 1 = id ∧
    v.dev.modelId? (cmd.f 0x40 1) = (if id = 3 then some model3 else none) := by
  intro id h
  let s := fun id => put (withModel base) 0x0600 false [(0x40, 1, id)]
  fin_cases h
  · exact ⟨s 2, s 2, k0, cmdOf (s 2), rfl, accepted (by decide), by decide⟩
  · exact ⟨s 3, s 3, k0, cmdOf (s 3), rfl, accepted (by decide), by decide⟩

theorem witness_image_free : ∃ (s v : State) (t uid : Nat) (m : Model), v = s.tick t ∧ (v.dev.mdl.olds.find? fun x => x.uid = uid) = some m ∧ v.dev.mdl.hasRuns uid = false ∧
    v.dev.chain.readers = [] ∧ v.dev.mdl.unloads = [] :=
  ⟨onDev base fun d => { d with mdl := { d.mdl with olds := [model3] } }, _, 0, 0, model3, rfl, by decide⟩

theorem witness_model_run : ∃ (s v : State) (k : Take) (cmd : Cmd) (m : Model) (r d1 : Dev), v = s.tick k.t ∧ Accepted k 0x0601 v cmd ∧ r = v.ready cmd ∧
    AreasOk v cmd (modelRunAreas (v.dev.takeCmd cmd) cmd) ∧ modelRunBad v.clk (v.dev.takeCmd cmd) cmd = false ∧ v.dev.pwr.ps = 0 ∧ vgetD v.dev.pwr.hold 0 0 = 0 ∧
    v.dev.modelId? (cmd.f 0x40 1) = some m ∧ r.gate v.clk cmd (64 * cmd.f 0x44 4) (cmd.f 0x44 4) (cmd.deadline != 0 && cmd.deadline ≤ v.clk.now) = .inr d1 := by
  let s := put (withModel (withPlat base)) 0x0601 false [(0x40, 1, 3), (0x44, 4, 1), (0x38, 8, 64)]
  have h : ((s.ready (cmdOf s)).gate s.clk (cmdOf s) (64 * (cmdOf s).f 0x44 4) ((cmdOf s).f 0x44 4) ((cmdOf s).deadline != 0 && (cmdOf s).deadline ≤ s.clk.now)).isRight = true := by
    decide +kernel
  obtain ⟨d1, hd⟩ := Sum.isRight_iff.mp h
  exact ⟨s, s, k0, cmdOf s, model3, _, d1, rfl, accepted (by decide), rfl, by unfold AreasOk; decide, by decide, by decide, by decide, by decide, hd⟩

def run3 (ref : Option Ref) : Run := ⟨0, ref, none, [[0, 0, 0, 0, 0, 0, 0, 0]], [], 0⟩

theorem witness_wave_busy : ∃ (s v : State) (t uid : Nat) (m : Model), v = s.tick t ∧ v.dev.model? uid = some m ∧ v.dev.arraysRun = true ∧ vgetD v.dev.pwr.hold 0 0 = 0 ∧
    (∃ w ∈ v.dev.mdl.waves, w.uid = uid) :=
  ⟨onDev (withModel base) fun d => { d with mdl := { d.mdl with waves := [⟨0, [], 0, []⟩] } }, _, 0, 0, model3, rfl, by decide, by decide, by decide, ⟨0, [], 0, []⟩, by decide⟩

theorem witness_wave_start : ∃ (s v : State) (t uid : Nat) (m : Model) (r : Run) (rest : List Run), v = s.tick t ∧ v.dev.model? uid = some m ∧ v.dev.arraysRun = true ∧
    vgetD v.dev.pwr.hold 0 0 = 0 ∧ (∀ w ∈ v.dev.mdl.waves, w.uid ≠ uid) ∧ (∀ i < 10, v.dev.dieTested i = false) ∧ (v.dev.mdl.runs.filter fun x => x.uid = uid && x.tgWait.isEmpty) = r :: rest ∧ r.rows.length ≤ 4096 :=
  ⟨onDev (withModel base) fun d => { d with mdl := { d.mdl with runs := [run3 none] } }, _, 0, 0, model3, run3 none, [], rfl, by decide⟩

theorem witness_window_fill : ∃ (s v : State) (t uid layer : Nat) (die : Die) (src : List (Fin 4)) (waited : List Nat) (m : Model) (w : Wave), v = s.tick t ∧ v.dev.model? uid = some m ∧ v.dev.mdl.waves = [w] ∧ w.uid = uid ∧
    src.length = waited.length ∧ (layer, die.val) ∈ w.need ∧ layer ≤ w.front m.layers + 1 ∧ v.dev.shareIn m layer die.val = true :=
  ⟨onDev (withModel base) fun d => { d with mdl := { d.mdl with waves := [⟨0, [], 0, [(0, 9), (1, 9)]⟩] } }, _, 0, 0, 1, 9, [0], [7], model3, ⟨0, [], 0, [(0, 9), (1, 9)]⟩, rfl, by decide⟩

/-- model3 with a TIER_CACHE image that holds one weight tensor of 8 columns, whose page no pool frame holds. -/
def model3c : Model :=
  { model3 with tier := .cache, tensors := ⟨4, 0, 0, [1, 1, 8, 8], 0, 128, 0⟩ :: model3.tensors, steps := ⟨1, 0, 0, 1, 0, 0, 2, List.replicate 12 0⟩ :: model3.steps }

theorem witness_window_waits : ∃ (s v : State) (t uid layer : Nat) (die : Die) (src : List (Fin 4)) (waited : List Nat) (m : Model) (w : Wave), v = s.tick t ∧ v.dev.model? uid = some m ∧ v.dev.mdl.waves = [w] ∧ w.uid = uid ∧
    src.length = waited.length ∧ (layer, die.val) ∈ w.need ∧ layer ≤ w.front m.layers + 1 ∧ v.dev.shareIn m layer die.val = false :=
  ⟨onDev (withModel base) fun d => { d with mdl := { d.mdl with models := [model3c], waves := [⟨0, [], 0, [(0, 0)]⟩] } }, _, 0, 0, 0, 0, [0], [7], model3c, ⟨0, [], 0, [(0, 0)]⟩, rfl, by decide +kernel⟩

theorem witness_wave_end : ∃ (s v : State) (t uid : Nat) (m : Model) (w : Wave) (r : Run) (ref : Ref) (cmd : Cmd), v = s.tick t ∧ v.dev.model? uid = some m ∧ v.dev.mdl.waves = [w] ∧
    w.uid = uid ∧ w.need = [] ∧ w.runs = [r] ∧ m.tokens = false ∧ r.ref = some ref ∧ v.dev.cmd? ref = some cmd ∧ v.dev.weightsPoisoned m = false ∧ v.dev.embedReader m.uid 0 = none :=
  let w : Wave := ⟨0, [run3 (some ⟨0, 0, 1, 0⟩)], 1, []⟩
  ⟨onDev (withModel (busy base 0x0601 [])) fun d => { d with mdl := { d.mdl with waves := [w] } }, _, 0, 0, model3, w, run3 (some ⟨0, 0, 1, 0⟩), ⟨0, 0, 1, 0⟩, cmdOf (put base 0x0601 false []),
    rfl, by and_intros <;> rfl⟩

/-- A LOAD of generation 15 with two symbols of length 1, CRC-32C 0xE4F0767F. -/
def tableCmd (gens : NMap TableGen) (models : Models → Models) : State :=
  put (onDev base fun d => { d with mdl := models { d.mdl with gens := gens } }) 0x0602 false [(0x40, 1, 15), (0x44, 4, 0xE4F0767F), (0x80, 1, 0x11)]

set_option maxRecDepth 20000 in
theorem witness_table_load : ∃ (s v : State) (k : Take) (cmd : Cmd) (g tag : Nat) (tbl : List Byte), v = s.tick k.t ∧ Accepted k 0x0602 v cmd ∧ cmd.f 0x41 1 = 0 ∧ g = cmd.f 0x40 1 ∧ g ≤ 15 ∧
    tbl = Mem.rds cmd.slot 0x80 128 ∧ tag = cmd.f 0x44 4 ∧ tag = crc32c tbl ∧ kraftOk tbl = true ∧ NMap.get? v.dev.mdl.gens g = none ∧ v.dev.mdl.gens.length < Config.maxGens :=
  let s := tableCmd [] id
  ⟨s, s, k0, cmdOf s, 15, 0xE4F0767F, Mem.rds (cmdOf s).slot 0x80 128, rfl, accepted (by decide +kernel), by decide +kernel⟩

def oldTable : TableGen := ⟨5, List.replicate 128 0, none⟩

set_option maxRecDepth 20000 in
theorem witness_table_in_use : ∃ (s v : State) (k : Take) (cmd : Cmd) (g tag : Nat) (tbl : List Byte) (old : TableGen), v = s.tick k.t ∧ Accepted k 0x0602 v cmd ∧ cmd.f 0x41 1 = 0 ∧
    g = cmd.f 0x40 1 ∧ g ≤ 15 ∧ tbl = Mem.rds cmd.slot 0x80 128 ∧ tag = cmd.f 0x44 4 ∧ tag = crc32c tbl ∧ kraftOk tbl = true ∧ NMap.get? v.dev.mdl.gens g = some old ∧ old.pend = none ∧
    old.tag ≠ tag ∧ (v.ready cmd).genInUse g = true :=
  let s := tableCmd [(15, oldTable)] fun x => { x with models := [{ model3 with tessel := true, genMask := 0x8000 }], runs := [run3 none] }
  ⟨s, s, k0, cmdOf s, 15, 0xE4F0767F, Mem.rds (cmdOf s).slot 0x80 128, oldTable, rfl, accepted (by decide +kernel), by decide +kernel⟩

theorem witness_table_remove : ∃ (s v : State) (k : Take) (cmd : Cmd) (g : Nat) (old : TableGen), v = s.tick k.t ∧ Accepted k 0x0602 v cmd ∧ cmd.f 0x41 1 = 1 ∧ g = cmd.f 0x40 1 ∧ g ≤ 15 ∧
    NMap.get? v.dev.mdl.gens g = some old ∧ old.pend = none ∧ (v.ready cmd).genInUse g = false :=
  let s := put (onDev base fun d => { d with mdl := { d.mdl with gens := [(15, oldTable)] } }) 0x0602 false [(0x40, 1, 15), (0x41, 1, 1)]
  ⟨s, s, k0, cmdOf s, 15, oldTable, rfl, accepted (by decide), by decide⟩

theorem witness_table_release : ∀ used : Bool, ∃ (s v : State) (t g : Nat) (old : TableGen) (r : Ref) (new : Option (Nat × List Byte)), v = s.tick t ∧ NMap.get? v.dev.mdl.gens g = some old ∧
    old.pend = some (r, new) ∧ v.dev.genInUse g = used ∧ (used = false → v.dev.mdl.runs = []) := by
  intro used
  let old : TableGen := { oldTable with pend := some (⟨0, 0, 1, 0⟩, none) }
  let s := fun (rs : List Run) => onDev base fun d => { d with mdl := { d.mdl with gens := [(15, old)], models := [{ model3 with tessel := true, genMask := 0x8000 }], runs := rs } }
  cases used
  · exact ⟨s [], s [], 0, 15, old, ⟨0, 0, 1, 0⟩, none, rfl, by decide⟩
  · exact ⟨s [run3 none], s [run3 none], 0, 15, old, ⟨0, 0, 1, 0⟩, none, rfl, by decide⟩

/-! ### Witnesses: near-bank units and admission -/

/-- The region of port 0's partition of 1 GiB on stack 0. -/
def partRegion1 : Region := ⟨1073741824, .pin, .none, 1, 5, [(0, 0, 262144)], [], [], [], .protectedSt, [], []⟩

def withPart (s : State) : State := onDev (withStack s) fun d => { d with mem := { d.mem with regions := [(partRegion 0, partRegion1)] } }

/-- An ADD of bf16 lines 0 and 1 of the partition. -/
def bankCmd (ps : Nat) : State :=
  put (onDev (withPart base) fun d => { d with pwr := { d.pwr with ps := BitVec.ofNat 2 ps } }) 0x0700 false [(0x41, 1, 3), (0x42, 1, 1), (0x60, 8, 128), (0x30, 8, 4096), (0x38, 8, 64)]

theorem witness_bank_extent : ∃ (s v : State) (k : Take) (cmd : Cmd) (r : Dev) (p : NbOp) (x : Nat × Region), v = s.tick k.t ∧ Accepted k 0x0700 v cmd ∧ r = v.ready cmd ∧ p = cmd.nbOp 0 0x800 ∧
    AreasOk v cmd (bankAreas v.dev cmd) ∧ bankOpBad v.clk (v.dev.takeCmd cmd) cmd = false ∧ v.dev.pwr.ps < 2 ∧ p.rows = false ∧ r.nbRegion p cmd.ref.port = some x ∧
    (∀ l ∈ extentLines p x.2, r.heldBit 1 l.stack = false) :=
  let s := bankCmd 0
  ⟨s, s, k0, cmdOf s, s.ready (cmdOf s), (cmdOf s).nbOp 0 0x800, (partRegion 0, partRegion1), rfl, accepted (by decide), rfl, rfl, by unfold AreasOk; decide, by decide +kernel, by decide,
    by decide, by decide, by decide +kernel⟩

theorem witness_bank_rows : ∃ (s v : State) (k : Take) (cmd : Cmd) (p : NbOp), v = s.tick k.t ∧ Accepted k 0x0700 v cmd ∧ p = cmd.nbOp 0 0x800 ∧
    AreasOk v cmd (bankAreas v.dev cmd) ∧ bankOpBad v.clk (v.dev.takeCmd cmd) cmd = false ∧ v.dev.pwr.ps < 2 ∧ p.rows = true :=
  let s := put (withLeaf base leaf7) 0x0700 false [(0x40, 1, 1), (0x41, 1, 3), (0x42, 1, 1), (0x70, 4, 7), (0x74, 4, 1), (0x84, 4, 64), (0x30, 8, 4096), (0x38, 8, 64)]
  ⟨s, s, k0, cmdOf s, (cmdOf s).nbOp 0 0x800, rfl, accepted (by decide), rfl, by unfold AreasOk; decide, by decide +kernel, by decide, by decide⟩

theorem witness_bank_in_ps2 : ∃ (s v : State) (k : Take) (cmd : Cmd), v = s.tick k.t ∧ TurnedAway k 0x0700 v cmd ∧ AreasOk v cmd (bankAreas v.dev cmd) ∧
    bankOpBad v.clk (v.dev.takeCmd cmd) cmd = false ∧ v.dev.pwr.ps = 2 :=
  let s := bankCmd 2
  ⟨s, s, k0, cmdOf s, rfl, turnedAway (by decide), by unfold AreasOk; decide, by decide +kernel, by decide⟩

def job7 (lines : List NbLine) (ref : Option Ref) : NbJob :=
  ⟨0, ref, none, ⟨false, 3, 1, 0, 0, 0, false, 0, 0, 0x3F800000, 0, 0, 0, 128, 0, 0, 0, 0, 0, 0, 0, 0, 0, [], 0⟩, 0, 0, [], lines, lines.length, 0, [], false, false⟩

theorem witness_easement_full : ∃ (s v : State) (t : Nat) (st : StackNo), v = s.tick t ∧ v.dev.easeLimit st.val ≤ v.dev.nb.held[st].length :=
  ⟨onDev base fun d => { d with nb := { d.nb with held := Vector.replicate 20 (List.replicate 32 ⟨0, 0, false, 0⟩) } }, _, 0, 19, rfl, by decide⟩

theorem witness_easement : ∃ (s v : State) (t : Nat) (st : StackNo) (task : NbTask) (pre rest : List NbTask) (j : NbJob), v = s.tick t ∧ v.dev.nb.held[st].length < v.dev.easeLimit st.val ∧
    v.dev.flash.pf = .idle ∧ v.dev.nb.queues[st] = pre ++ task :: rest ∧
    (∀ x ∈ pre, (∃ h ∈ v.dev.nb.held[st], h.unit = x.unit) ∨ ∀ y, v.dev.job? x.job = some y → v.dev.nbBlocked y = true) ∧
    (∀ h ∈ v.dev.nb.held[st], h.unit ≠ task.unit) ∧ v.dev.job? task.job = some j ∧ v.dev.nbBlocked j = false :=
  let s := onDev base fun d => { d with nb := { d.nb with jobs := [job7 [] none], queues := Vector.replicate 20 [⟨0, 3, false, 0⟩, ⟨0, 127, false, 9⟩], held := Vector.replicate 20 [⟨0, 3, false, 0⟩] } }
  ⟨s, s, 0, 19, ⟨0, 127, false, 9⟩, [⟨0, 3, false, 0⟩], [], job7 [] none, rfl, by decide, rfl, rfl, by intro x h; exact .inl (by revert x; decide), by decide, by decide, by decide⟩

theorem witness_line_step : ∃ (s v : State) (t : Nat) (st : StackNo) (unit line : Nat) (task : NbTask) (j : NbJob) (r : Region) (port : Port) (ref : Ref) (cmd : Cmd), v = s.tick t ∧
    unit < 128 ∧ v.dev.nb.held[st] = [task] ∧ task.unit = unit ∧ v.dev.job? task.job = some j ∧ j.late v.clk = false ∧ j.op.rows = false ∧ j.op.fenced = false ∧ j.op.u = 0 ∧ j.op.region = 0 ∧
    j.port = port.val ∧ j.ref = some ref ∧ v.dev.cmd? ref = some cmd ∧ cmd.ref.port = port ∧ 8 ≤ cmd.resultLen ∧ j.todo = [⟨st.val, unit, 0, 0, line⟩] ∧
    NMap.get? v.dev.mem.regions (partRegion port) = some r ∧ Mem.wf (v.dev.port port).mem = true :=
  let j := job7 [⟨0, 127, 0, 0, 1⟩] (some ⟨0, 0, 1, 0⟩)
  let s := onDev (busy (withPart base) 0x0700 [(0x38, 8, 8)]) fun d => { d with nb := { d.nb with jobs := [j], held := Vector.replicate 20 [⟨0, 127, false, 0⟩] } }
  ⟨s, s, 0, 0, 127, 1, ⟨0, 127, false, 0⟩, j, partRegion1, 0, ⟨0, 0, 1, 0⟩, cmdOf (put (withPart base) 0x0700 false [(0x38, 8, 8)]), rfl, by and_intros <;> first | rfl | decide⟩

theorem witness_easement_cfg : ∃ (s v : State) (k : Take) (cmd : Cmd), v = s.tick k.t ∧ Accepted k 0x0701 v cmd ∧ cmd.f 0x40 4 < 2 ^ 20 ∧ 1 ≤ cmd.f 0x44 1 ∧ cmd.f 0x44 1 ≤ 32 ∧
    256 ≤ cmd.f 0x48 4 ∧ cmd.f 0x48 4 ≤ 65536 :=
  let s := put base 0x0701 false [(0x40, 4, 0xFFFFF), (0x44, 1, 32), (0x48, 4, 65536)]
  ⟨s, s, k0, cmdOf s, rfl, accepted (by decide), by decide⟩

theorem witness_easement_apply : ∀ late : Bool, ∃ (s v : State) (t : Nat) (ref : Ref) (cmd : Cmd) (mask : BitVec 20) (cap slice : Nat), v = s.tick t ∧ v.dev.nb.pend = [(ref, mask, cap, slice)] ∧
    v.dev.cmd? ref = some cmd ∧ (late = true ↔ stationOf v.dev.plat.gens cmd.takenAt < v.dev.station v.clk) := by
  intro late
  let s := onDev (busy base 0x0701 []) fun d => { d with nb := { d.nb with pend := [(⟨0, 0, 1, 0⟩, 1, 8, 256)] } }
  cases late
  · exact ⟨s, s, 0, ⟨0, 0, 1, 0⟩, cmdOf (put base 0x0701 false []), 1, 8, 256, rfl, rfl, rfl, by decide⟩
  · exact ⟨{ s with clk := { s.clk with now := 10250000 } }, _, 0, ⟨0, 0, 1, 0⟩, cmdOf (put base 0x0701 false []), 1, 8, 256, rfl, rfl, rfl, by decide⟩

theorem witness_tenant_set : ∃ (s v : State) (k : Take) (cmd : Cmd), v = s.tick k.t ∧ Accepted k 0x0A00 v cmd ∧ admTenantSetBad v.clk (v.dev.takeCmd cmd) cmd = false :=
  let s := put base 0x0A00 false [(0x40, 2, 4095), (0x43, 1, 15), (0x48, 8, 5), (0x50, 8, 9), (0x58, 8, 5), (0x60, 8, 9)]
  ⟨s, s, k0, cmdOf s, rfl, accepted (by decide), by decide⟩

theorem witness_shaper_set : ∃ (s v : State) (k : Take) (cmd : Cmd) (i : Nat), v = s.tick k.t ∧ Accepted k 0x0A01 v cmd ∧ admShaperSetBad v.clk (v.dev.takeCmd cmd) cmd = false ∧
    shaperIx (cmd.f 0x40 1) (cmd.f 0x41 1) = some i :=
  let s := put base 0x0A01 false [(0x40, 1, 1), (0x41, 1, 3), (0x48, 8, 5), (0x50, 8, 64), (0x58, 8, 2 ^ 64 - 1), (0x60, 8, 64)]
  ⟨s, s, k0, cmdOf s, 6, rfl, accepted (by decide), by decide⟩

theorem witness_tick : ∃ (s v : State) (t : Nat), v = s.tick t ∧ v.dev.timeRuns = true ∧ v.clk.now % (v.dev.ns v.clk / 16) = 0 ∧ v.dev.adm.lastTick ≠ some v.clk.now ∧ v.dev.adm.pendTenants = [] ∧
    v.dev.adm.pendShapers = [] :=
  ⟨base, base, 0, rfl, by decide⟩

theorem witness_tick_installs : ∃ (s v : State) (t n : Nat) (ref : Ref) (cfg : TenantCfg), v = s.tick t ∧ v.dev.timeRuns = true ∧ v.clk.now % (v.dev.ns v.clk / 16) = 0 ∧
    v.dev.adm.lastTick ≠ some v.clk.now ∧ v.dev.adm.pendTenants = [(ref, n, cfg)] ∧ v.dev.adm.pendShapers = [] ∧ cfg.portMask ≠ 0 :=
  let cfg : TenantCfg := { TenantCfg.off with portMask := 8 }
  ⟨onDev base fun d => { d with adm := { d.adm with pendTenants := [(⟨0, 0, 1, 0⟩, 4095, cfg)] } }, _, 0, 4095, ⟨0, 0, 1, 0⟩, cfg, rfl, by decide⟩

/-! ### Witnesses: the plat -/

/-- Generation 9 with nodes 1 to 5 on trays of their own as its quorum. -/
def gen5 : PlatGen :=
  { gen9 with quorum := [1, 2, 3, 4, 5], nodes := [⟨1, 1, 0, []⟩, ⟨2, 2, 0, []⟩, ⟨3, 3, 0, []⟩, ⟨4, 4, 0, []⟩, ⟨5, 5, 0, []⟩] }

/-- Node 1, chair or not, in generation 9. -/
def quorumNode (f : Plat → Plat) : State := onDev base fun d => { d with plat := f { d.plat with nodeId := 1, gens := [gen5], spaces := [space1], term := 1, heard := 40 } }

/-- A proposal of one operation, VERSION_SET 2, over BASE_GEN. -/
def propCmd (baseGen : Nat) (f : Plat → Plat) : State :=
  put (onPort0 (quorumNode f) fun h => { h with mem := [(0, 0x0E), (2, 16), (8, 2)] }) 0x0B00 false [(0x40, 8, baseGen), (0x58, 4, 16), (0x5C, 2, 1), (0x30, 8, 4096), (0x38, 8, 16)]

theorem witness_propose : ∃ (s v : State) (k : Take) (cmd : Cmd) (os : List PlatOp) (r note d1 : Dev), v = s.tick k.t ∧ Accepted k 0x0B00 v cmd ∧ r = v.ready cmd ∧
    AreasOk v cmd (proposeAreas (v.dev.takeCmd cmd) cmd) ∧ proposeBad [] v.clk (v.dev.takeCmd cmd) cmd = false ∧ r.proposeOps cmd = some os ∧ r.findRec .beacon cmd.key = none ∧
    (∀ f ∈ v.dev.plat.forwarded, f.key ≠ cmd.key) ∧ v.dev.plat.chair = true ∧ note = r.noteAreas cmd.ref (proposeAreas r cmd) ∧ note.propose cmd os [] (r.readyList []) = .inr d1 := by
  let s := propCmd 9 fun p => { p with chair := true }
  have h : (((s.ready (cmdOf s)).noteAreas (cmdOf s).ref (proposeAreas (s.ready (cmdOf s)) (cmdOf s))).propose (cmdOf s) [.versionSet 2] [] ((s.ready (cmdOf s)).readyList [])).isRight = true := by decide +kernel
  obtain ⟨d1, hd⟩ := Sum.isRight_iff.mp h
  exact ⟨s, s, k0, cmdOf s, [.versionSet 2], _, _, d1, rfl, accepted (by decide), rfl, by unfold AreasOk; decide +kernel, by decide, by decide, by decide, by decide, rfl, rfl, hd⟩

theorem witness_propose_stale : ∃ (s v : State) (k : Take) (cmd : Cmd) (os : List PlatOp) (r note : Dev) (st : Nat), v = s.tick k.t ∧ Accepted k 0x0B00 v cmd ∧ r = v.ready cmd ∧
    AreasOk v cmd (proposeAreas (v.dev.takeCmd cmd) cmd) ∧ proposeBad [] v.clk (v.dev.takeCmd cmd) cmd = false ∧ r.proposeOps cmd = some os ∧ r.findRec .beacon cmd.key = none ∧
    (∀ f ∈ v.dev.plat.forwarded, f.key ≠ cmd.key) ∧ v.dev.plat.chair = true ∧ note = r.noteAreas cmd.ref (proposeAreas r cmd) ∧ note.propose cmd os [] (r.readyList []) = .inl st := by
  let s := propCmd 8 fun p => { p with chair := true }
  have h : (((s.ready (cmdOf s)).noteAreas (cmdOf s).ref (proposeAreas (s.ready (cmdOf s)) (cmdOf s))).propose (cmdOf s) [.versionSet 2] [] ((s.ready (cmdOf s)).readyList [])).isLeft = true := by decide +kernel
  obtain ⟨st, hd⟩ := Sum.isLeft_iff.mp h
  exact ⟨s, s, k0, cmdOf s, [.versionSet 2], _, _, st, rfl, accepted (by decide), rfl, by unfold AreasOk; decide +kernel, by decide, by decide, by decide, by decide, rfl, rfl, hd⟩

theorem witness_propose_elsewhere : ∃ (s v : State) (k : Take) (cmd : Cmd) (os : List PlatOp) (r : Dev) (n : Nat), v = s.tick k.t ∧ Accepted k 0x0B00 v cmd ∧ r = v.ready cmd ∧
    AreasOk v cmd (proposeAreas (v.dev.takeCmd cmd) cmd) ∧ proposeBad [] v.clk (v.dev.takeCmd cmd) cmd = false ∧ r.proposeOps cmd = some os ∧ r.findRec .beacon cmd.key = none ∧
    (∀ f ∈ v.dev.plat.forwarded, f.key ≠ cmd.key) ∧ v.dev.knownChair v.clk = some n ∧ n ≠ v.dev.plat.nodeId :=
  let s := propCmd 9 fun p => { p with beacon := some (beaconOf 40) }
  ⟨s, s, k0, cmdOf s, [.versionSet 2], _, 2, rfl, accepted (by decide), rfl, by unfold AreasOk; decide +kernel, by decide⟩

theorem witness_plat_status : ∃ (s v : State) (k : Take) (cmd : Cmd), v = s.tick k.t ∧ Accepted k 0x0B01 v cmd ∧ 64 ≤ cmd.resultLen :=
  let s := put (withLeaf base leaf7) 0x0B01 false [(0x38, 8, 64)]
  ⟨s, s, k0, cmdOf s, rfl, accepted (by decide), by decide⟩

theorem witness_join : ∃ (s v : State) (k : Take) (cmd : Cmd) (g : PlatGen), v = s.tick k.t ∧ Accepted k 0x0B02 v cmd ∧ cmd.e 0x58 1 = 0 ∧ cmd.f 0x44 2 < 4096 ∧ v.dev.domain? = none ∧
    g.domain = cmd.f 0x40 4 ∧ versionOk g.version = true ∧ v.dev.plat.joining = none :=
  let s := put base 0x0B02 false [(0x40, 4, 5), (0x44, 2, 4095)]
  ⟨s, s, k0, cmdOf s, gen5, rfl, accepted (by decide), by decide⟩

/-- Space 1 of 64 binary subspaces. -/
def spaceH : Space := ⟨1, 1, 77, .hamming, .ip, 64, 64, .binary, [], none, 64⟩

theorem witness_found : ∃ (s v : State) (k : Take) (cmd : Cmd) (g : PlatGen) (cbs : List Space), v = s.tick k.t ∧ Accepted k 0x0B02 v cmd ∧ cmd.e 0x58 1 = 1 ∧
    AreasOk v cmd [(cmd.e 0x60 8, cmd.e 0x68 8)] ∧ foundBad g cbs v.clk (v.dev.takeCmd cmd) cmd = false ∧ versionOk g.version = true ∧ v.dev.domain? = none :=
  let s := put base 0x0B02 true [(0x40, 4, 5), (0x44, 2, 1), (0x58, 1, 1)]
  ⟨s, s, k0, cmdOf s, gen5, [spaceH], rfl, accepted (by decide), by decide, by unfold AreasOk; decide, by decide +kernel, by decide, by decide⟩

def prop5 : Proposal := ⟨⟨0, 1, 0x0B00, 0⟩, ⟨0, 0, 1, 0⟩, 50, { gen5 with gen := 10, timing := { timingDefault with stationNs := 200000 } }, []⟩

theorem witness_compose : ∃ (s v : State) (t : Nat) (p : Proposal) (old : PlatGen), v = s.tick t ∧ v.dev.plat.chair = true ∧ v.dev.live = true ∧ (v.dev.position v.clk).isSome = true ∧
    v.dev.chairLapsed v.clk = false ∧ (∀ b, v.dev.plat.stored = some b → b.station < v.dev.station v.clk) ∧ v.dev.plat.proposal = some p ∧ v.dev.newest = some old ∧
    0 < p.result.timing.stationNs ∧ p.result.timing.stationNs < old.timing.stationNs :=
  ⟨quorumNode fun p => { p with chair := true, proposal := some prop5, stored := some (beaconOf 39) }, _, 0, prop5, gen5, rfl, rfl, by decide, by decide, by decide,
    by intro b h; cases h; decide, rfl, by decide⟩

/-- A chair of term 2 that adopted a beacon of term 1. -/
theorem witness_compose_adopted : ∃ (s v : State) (t : Nat) (x : Beacon), v = s.tick t ∧ v.dev.plat.chair = true ∧ v.dev.live = true ∧ (v.dev.position v.clk).isSome = true ∧
    v.dev.chairLapsed v.clk = false ∧ (∀ b, v.dev.plat.stored = some b → b.station < v.dev.station v.clk) ∧ v.dev.adopted = some x :=
  ⟨quorumNode fun p => { p with chair := true, term := (beaconOf 39).term + 1, stored := some (beaconOf 39) }, _, 0, beaconOf 39, rfl, rfl, by decide, by decide, by decide,
    by intro b h; cases h; decide, by decide⟩

theorem witness_agreed : ∀ n ∈ [1, 2], ∃ (s v : State) (t member pos : Nat) (x : Composing), v = s.tick t ∧ member < 4096 ∧ v.dev.plat.founding = none ∧ v.dev.plat.composing = some x ∧
    v.dev.plat.chair = true ∧ x.stored.length = n ∧ member ∉ x.stored ∧ member ∈ v.dev.quorumNow v.clk ∧ v.dev.position v.clk = some pos ∧ v.dev.plat.proposal = none := by
  intro n h
  let s := fun l => quorumNode fun p => { p with chair := true, composing := some ⟨beaconOf 40, l⟩ }
  fin_cases h
  · exact ⟨s [1], s [1], 0, 5, 0, ⟨beaconOf 40, [1]⟩, rfl, by decide⟩
  · exact ⟨s [1, 2], s [1, 2], 0, 5, 0, ⟨beaconOf 40, [1, 2]⟩, rfl, by decide⟩

theorem witness_store_beacon : ∃ (s v : State) (t : Nat) (b : Beacon), v = s.tick t ∧ v.dev.live = true ∧ v.dev.plat.gens ≠ [] ∧ (v.dev.position v.clk).isSome = true ∧
    v.dev.plat.term ≤ b.term ∧ (∀ x, v.dev.plat.stored = some x → x.station < b.station) ∧ v.dev.plat.chair = false :=
  ⟨quorumNode fun p => { p with stored := some (beaconOf 39) }, _, 0, beaconOf 40, rfl, by decide, by decide, by decide, by decide, by intro x h; cases h; decide, by decide⟩

theorem witness_hold_beacon : ∃ (s v : State) (t : Nat) (b : Beacon), v = s.tick t ∧ v.dev.live = true ∧ v.dev.plat.gens ≠ [] ∧ v.dev.position v.clk = none ∧ v.dev.plat.chair = false ∧
    (∀ x, v.dev.plat.beacon = some x → x.station < b.station) :=
  ⟨quorumNode fun p => { p with nodeId := 6, beacon := some (beaconOf 39) }, _, 0, beaconOf 40, rfl, by decide, by decide, by decide, by decide, by intro x h; cases h; decide⟩

theorem witness_relay_beacon : ∃ (s v : State) (t p : Nat) (b : Beacon), v = s.tick t ∧ v.dev.live = true ∧ v.dev.plat.gens ≠ [] ∧ v.dev.position v.clk = some p ∧ v.dev.plat.chair = false ∧
    (∀ x, v.dev.plat.beacon = some x → x.station < b.station) :=
  ⟨quorumNode fun p => { p with beacon := some (beaconOf 39) }, _, 0, 0, beaconOf 40, rfl, by decide, by decide, by decide, by decide, by intro x h; cases h; decide⟩

theorem witness_old_beacon : ∃ (s v : State) (t : Nat) (b x : Beacon), v = s.tick t ∧ v.dev.live = true ∧ v.dev.plat.gens ≠ [] ∧ v.dev.plat.beacon = some x ∧ b.station ≤ x.station :=
  ⟨quorumNode fun p => { p with beacon := some (beaconOf 40) }, _, 0, beaconOf 39, beaconOf 40, rfl, by decide⟩

theorem witness_candidacy : ∀ h ∈ [37, 38], ∃ (s v : State) (t p : Nat), v = s.tick t ∧ v.dev.live = true ∧ v.dev.position v.clk = some p ∧ v.dev.plat.chair = false ∧ v.clk.valid = true ∧
    v.dev.plat.founding = none ∧ (h = 37 ↔ 2 + p ≤ v.dev.silence v.clk) := by
  intro h hh
  fin_cases hh
  · exact ⟨quorumNode fun p => { p with heard := 37 }, _, 0, 0, rfl, by decide⟩
  · exact ⟨quorumNode fun p => { p with heard := 38 }, _, 0, 0, rfl, by decide⟩

theorem witness_no_vote : ∃ (s v : State) (t cand term : Nat), v = s.tick t ∧ cand < 4096 ∧ (NMap.get? v.dev.plat.voted term).isSome = true :=
  ⟨quorumNode fun p => { p with voted := [(2, 3)] }, _, 0, 4, 2, rfl, by decide⟩

theorem witness_vote : ∃ (s v : State) (t cand term station : Nat), v = s.tick t ∧ cand < 4096 ∧ v.dev.live = true ∧ (v.dev.position v.clk).isSome = true ∧ cand ∈ v.dev.quorumNow v.clk ∧
    v.dev.plat.term ≤ term ∧ NMap.get? v.dev.plat.voted term = none ∧ (v.dev.plat.stored.map (·.station)).getD 0 ≤ station ∧ v.dev.plat.chair = false :=
  ⟨quorumNode fun p => { p with stored := some (beaconOf 39) }, _, 0, 4, 2, 39, rfl, by decide⟩

theorem witness_vote_grant : ∀ n ∈ [1, 2], ∃ (s v : State) (t member term : Nat), v = s.tick t ∧ member < 4096 ∧ v.dev.plat.candTerm = some term ∧ member ∈ v.dev.quorumNow v.clk ∧
    member ∉ v.dev.plat.votes ∧ v.dev.plat.votes.length = n ∧ v.dev.plat.stored = none := by
  intro n h
  fin_cases h
  · exact ⟨quorumNode fun p => { p with candTerm := some 2, votes := [1] }, _, 0, 3, 2, rfl, by decide⟩
  · exact ⟨quorumNode fun p => { p with candTerm := some 2, votes := [1, 2] }, _, 0, 3, 2, rfl, by decide⟩

theorem witness_vote_chair : ∃ (s v : State) (t member term : Nat) (b : Option Beacon) (x : Beacon), v = s.tick t ∧ member < 4096 ∧ v.dev.plat.candTerm = some term ∧
    member ∈ v.dev.quorumNow v.clk ∧ member ∉ v.dev.plat.votes ∧ v.dev.plat.votes.length = 2 ∧ laterBeacon v.dev.plat.stored b = some x :=
  ⟨quorumNode fun p => { p with candTerm := some 2, votes := [1, 2], stored := some (beaconOf 39) }, _, 0, 3, 2, some (beaconOf 40), beaconOf 40, rfl, by decide⟩

theorem witness_other_domain : ∃ (s v : State) (t : Nat) (g : PlatGen), v = s.tick t ∧ v.dev.plat.joining = none ∧ v.dev.domain? ≠ some g.domain :=
  ⟨quorumNode id, _, 0, { gen5 with domain := 6 }, rfl, by decide⟩

theorem witness_generation : ∃ (s v : State) (t : Nat) (g : PlatGen), v = s.tick t ∧ v.dev.plat.joining = none ∧ v.dev.domain? = some g.domain ∧
    ((v.dev.learnGen v.clk g).retryAll v.clk).domain? = some g.domain :=
  ⟨quorumNode id, _, 0, { gen5 with gen := 10, fromStation := 50, leaves := [] }, rfl, by decide, by decide, by decide +kernel⟩

theorem witness_codebook : ∃ (s v : State) (t : Nat) (sp : Space) (g : PlatGen) (x : PlatSpace), v = s.tick t ∧ g ∈ v.dev.plat.gens ∧ x ∈ v.dev.missingSpaces g ∧ x = ⟨sp.id, sp.planGen, sp.tag⟩ ∧ sp.formed = true :=
  ⟨quorumNode fun p => { p with spaces := [] }, _, 0, spaceH, gen5, ⟨1, 1, 77⟩, rfl, by decide⟩

theorem witness_station : ∃ (s v : State) (t : Nat) (m : Monument), v = s.tick t ∧ v.dev.live = true ∧ v.dev.plat.chair = false ∧ v.dev.leaves = [] ∧ v.dev.plat.gens = [] ∧ v.dev.nb.jobs = [] ∧
    v.dev.chain.monuments = [m] ∧ m.move = none ∧ ∀ k ∈ m.copies, k.use ≠ .gone ∧ k.home = false :=
  let m : Monument := ⟨⟨7, 0, .vector, 11⟩, [⟨3, .ready, 39, false⟩], none⟩
  ⟨onDev base fun d => { d with chain := { d.chain with monuments := [m] } }, _, 0, m, rfl, by decide⟩

/-! ### Fabric and datum time -/

/-- Fabric port 0 changed. -/
def onFab0 (s : State) (f : FPort → FPort) : State := onDev s fun d => { d with fab := { d.fab with ports := vupdN d.fab.ports 0 f } }

/-- Fabric port 0 up, and the connections given. -/
def linked (cs : NMap Conn) : State :=
  onDev (onFab0 base fun f => { f with enable := true, link := .up, lanes := 0xFF }) fun d => { d with plat := { d.plat with nodeId := 1 }, fab := { d.fab with conns := cs } }

theorem witness_fabric_up : ∃ (s v : State) (t : Nat) (q : FabPort) (f : FPort), v = s.tick t ∧ f = v.dev.fab.ports[q] ∧ v.dev.service = true ∧ f.enable = true ∧ f.link = .training ∧
    v.dev.tst.loopHolds 1 q.val = false ∧ v.dev.brd.lost = [] ∧ v.dev.pwr.blkReset = none :=
  ⟨onFab0 base fun f => { f with enable := true, link := .training }, _, 0, 0, _, rfl, rfl, by decide⟩

theorem witness_fabric_secure : ∀ b : Bool, ∃ (s v : State) (t : Nat) (q : FabPort) (f : FPort), v = s.tick t ∧ f = v.dev.fab.ports[q] ∧ f.link = .up ∧
    f.macsecEn = true ∧ v.dev.plat.cak.isSome = b :=
  fun b => ⟨onDev (onFab0 base fun f => { f with link := .up, macsecEn := true }) fun d => { d with plat := { d.plat with cak := if b then some [5] else none } }, _, 0, 0, _, rfl, rfl, rfl, rfl,
    by cases b <;> rfl⟩

/-- A connection up in version 1. -/
def conn1 : Conn := { Conn.fresh with up := true, version := 1 }

/-- A packet of node 2 for node 1 in class 1: its type, lengths of message and payload, and payload. -/
def packet (type msgLen : Nat) (pay : List Byte) : List Byte :=
  let head : List Byte := [1, BitVec.ofNat 8 type, 1, 3, 2, 0, 1, 0] ++ leBytes 4 0 ++ leBytes 4 0 ++ leBytes 4 0 ++ leBytes 4 msgLen ++ leBytes 4 0
  head ++ leBytes 4 (crc32c (head ++ pay)) ++ pay

theorem witness_bad_check : ∃ (s v : State) (t : Nat) (q : FabPort) (bs : List Byte), v = s.tick t ∧ v.dev.portPasses q = true ∧ 32 ≤ bs.length ∧ bs.length ≤ 8224 ∧ checkOk bs = false :=
  ⟨linked [], _, 0, 0, List.replicate 31 0 ++ [1], rfl, by decide, by decide, by decide, by decide +kernel⟩

theorem witness_ack_packet : ∃ (s v : State) (t : Nat) (q : FabPort) (bs : List Byte) (h : TvHeader), v = s.tick t ∧ v.dev.portPasses q = true ∧ h = readHeader bs ∧ bs.length = 40 ∧
    checkOk bs = true ∧ v.dev.packetOk bs h 2 = true :=
  ⟨linked [(9, conn1)], _, 0, 0, packet 2 0 (List.replicate 8 0), _, rfl, by decide, rfl, by decide +kernel⟩

theorem witness_data_packet : ∃ (s v : State) (t : Nat) (q : FabPort) (bs : List Byte) (h : TvHeader) (k : Conn), v = s.tick t ∧ v.dev.portPasses q = true ∧ h = readHeader bs ∧
    k = v.dev.conn h.src h.tclass ∧ 33 ≤ bs.length ∧ bs.length ≤ 8224 ∧ checkOk bs = true ∧ v.dev.packetOk bs h 1 = true ∧ h.msgOff = 0 ∧ h.msgLen = bs.length - 32 ∧ h.psn = k.rxCum ∧
    k.rxMap = [] ∧ k.rxMsgs = [] ∧ h.msgId = k.rxNextMsg :=
  ⟨linked [(9, conn1)], _, 0, 0, packet 1 1 [0xA5], _, _, rfl, by decide, rfl, rfl, by decide +kernel⟩

def pkt1 : TxPkt := ⟨0, 0, 0, 64, 64, 9000000, 0, 0⟩

theorem witness_ack_timer : ∃ (s v : State) (t peer cls : Nat) (k : Conn) (x : Nat), v = s.tick t ∧ peer < 4096 ∧ cls < 4 ∧ k = v.dev.conn peer cls ∧ k.ackDue = some x ∧ x ≤ v.clk.now :=
  ⟨linked [(9, { conn1 with ackDue := some 10000000 })], _, 0, 2, 1, _, 10000000, rfl, by decide, by decide, rfl, rfl, by decide⟩

theorem witness_retransmit : ∃ (s v : State) (t peer cls : Nat) (k : Conn) (p : TxPkt), v = s.tick t ∧ k = v.dev.conn peer cls ∧ k.outstanding = [p] ∧
    p.sentAt + min 1000000 (max 20000 (4 * k.srtt)) ≤ v.clk.now :=
  ⟨linked [(9, { conn1 with srtt := 250000, outstanding := [pkt1] })], _, 0, 2, 1, _, pkt1, rfl, rfl, rfl, by decide⟩

theorem witness_rate_raise : ∃ (s v : State) (t peer cls : Nat) (k : Conn), v = s.tick t ∧ k = v.dev.conn peer cls ∧ k.up = true ∧ max k.lastEcho k.lastRaise + k.srtt ≤ v.clk.now :=
  ⟨linked [(9, { conn1 with srtt := 1000, lastEcho := 9999000 })], _, 0, 2, 1, _, rfl, rfl, by decide⟩

theorem witness_unreachable : ∃ (s v : State) (t peer cls : Nat) (k : Conn), v = s.tick t ∧ k = v.dev.conn peer cls ∧ k.up = true ∧ k.outstanding ≠ [] ∧
    k.progress + (v.dev.timing v.clk).peerDeadNs ≤ v.clk.now ∧ peer ∉ v.dev.plat.unreachable ∧ (∀ j : Fin 4, (v.dev.conn peer j.val).msgs = []) ∧ (v.dev.conn peer 3).up = true :=
  let k := { conn1 with outstanding := [pkt1], progress := 1000000 }
  ⟨linked [(9, k), (11, k)], _, 0, 2, 1, _, rfl, rfl, by decide⟩

theorem witness_ack_not_due : ∃ (s v : State) (t peer cls : Nat) (k : Conn), v = s.tick t ∧ k = v.dev.conn peer cls ∧ k.ackDue = none := ⟨linked [], _, 0, 2, 1, _, rfl, rfl, by decide⟩

/-- What every clause about a HELLO asks, for a range that takes this node's version in. -/
def HelloOk (v : State) (vmin vmax : Nat) : Prop :=
  v.dev.live = true ∧ versionOk (v.dev.connVersion v.clk) = true ∧ vmin ≤ v.dev.connVersion v.clk ∧ v.dev.connVersion v.clk ≤ vmax

theorem witness_hello : ∃ (s v : State) (peer cls : Nat), v = s.tick 0 ∧ peer < 4096 ∧ cls < 4 ∧ HelloOk v (v.dev.connVersion v.clk) (v.dev.connVersion v.clk) ∧ (v.dev.conn peer cls).up = false :=
  ⟨linked [], _, 2, 1, rfl, by unfold HelloOk; decide⟩

/-- A HELLO on a connection that is up: with the ports held as before, and with others. -/
theorem witness_hello_up : ∀ w ∈ [([] : List FabPort), [3]], ∃ (s v : State) (peer cls vmin vmax : Nat) (d0 : Dev), v = s.tick 0 ∧ HelloOk v vmin vmax ∧ (v.dev.conn peer cls).up = true ∧
    d0 = { v.dev with plat := { v.dev.plat with ranges := NMap.put v.dev.plat.ranges peer (vmin, vmax) }, fab := { v.dev.fab with peerHeld := NMap.put v.dev.fab.peerHeld peer w } } ∧
    (d0.fab.peerHeld = v.dev.fab.peerHeld ↔ w = []) := by
  let s := onDev (linked [(9, conn1)]) fun d => { d with fab := { d.fab with peerHeld := [(2, [])] } }
  intro w h
  fin_cases h <;> exact ⟨s, s, 2, 1, 0, 99, _, rfl, by unfold HelloOk; decide, by decide, rfl, by decide⟩

theorem witness_hello_other : ∃ (s v : State) (vmax : Nat), v = s.tick 0 ∧ v.dev.live = true ∧ versionOk (v.dev.connVersion v.clk) = true ∧ vmax < v.dev.connVersion v.clk ∧
    (v.dev.conn 2 1).msgs = [] :=
  ⟨linked [], _, 0, rfl, by decide⟩

theorem witness_egress_control : ∃ (s v : State) (q : FabPort) (r : Ready), v = s.tick 0 ∧ v.dev.portSends q = true ∧ v.dev.readyOf v.clk q 0 = some r :=
  ⟨linked [(8, { conn1 with resend := [pkt1] })], _, 0, ⟨2, { pkt1 with sentAt := 10000000 }, true⟩, rfl, by decide⟩

theorem witness_egress_green : ∃ (s v : State) (q : FabPort) (r : Ready), v = s.tick 0 ∧ v.dev.portSends q = true ∧ v.dev.readyOf v.clk q 0 = none ∧ v.dev.readyOf v.clk q 1 = some r ∧
    (v.dev.shaper 0).peakPasses r.pkt.size = true ∧ (v.dev.shaper 0).greenPasses r.pkt.size = true :=
  ⟨linked [(9, { conn1 with resend := [pkt1] })], _, 0, ⟨2, { pkt1 with sentAt := 10000000 }, true⟩, rfl, by decide⟩

theorem witness_egress_none : ∃ (s v : State) (q : FabPort), v = s.tick 0 ∧ v.dev.portSends q = false := ⟨base, _, 0, rfl, by decide⟩

/-- A node that joins with epoch 0, fabric port 0 up, and the clock given. -/
def timed (c : Clock) : State :=
  { onDev (linked []) fun d => { d with start := { d.start with dir := { d.start.dir with join := some ⟨5, 0, 1, 1⟩ } } } with clk := c }

def unsync (n : Nat) : Clock := { Clock.reset with now := 10000000, lockRun := n }

def lockedClk : Clock := { Clock.reset with now := 10000000, state := .locked, errBound := 8, valid := true }

/-- What every clause about a PTP measurement asks. -/
def PtpReady (v : State) (q : FabPort) : Prop :=
  v.dev.timeRuns = true ∧ v.dev.usesPtp = true ∧ v.dev.epoch?.isSome = true ∧ v.dev.fab.ports[q].passes = true ∧ v.dev.plat.chair = false ∧ v.dev.leaves = []

theorem witness_ptp_unsync : ∀ n ∈ [14, 15], ∃ (s v : State) (q : FabPort) (off : Int), v = s.tick 0 ∧ PtpReady v q ∧ v.clk.state = .unsync ∧ off.natAbs = 250 ∧ v.clk.lockRun = n ∧
    v.clk.valid = false ∧ v.clk.hiValid < v.clk.now := by
  intro n h
  fin_cases h
  · exact ⟨timed (unsync 14), _, 0, -250, rfl, by unfold PtpReady; decide, by decide⟩
  · exact ⟨timed (unsync 15), _, 0, 250, rfl, by unfold PtpReady; decide, by decide⟩

theorem witness_ptp_steps : ∃ (s v : State) (q : FabPort), v = s.tick 0 ∧ PtpReady v q ∧ v.clk.state = .unsync ∧ 250 < (-251 : Int).natAbs := ⟨timed (unsync 15), _, 0, rfl, by unfold PtpReady; decide, by decide⟩

theorem witness_ptp_locked : ∀ off ∈ [(992 : Int), -993, 1000, -1001], ∃ (s v : State) (q : FabPort), v = s.tick 0 ∧ PtpReady v q ∧ v.clk.state = .locked ∧ v.clk.valid = true ∧
    (off.natAbs ≤ 992 ∨ (992 < off.natAbs ∧ off.natAbs ≤ 1000) ∨ 1000 < off.natAbs) := by
  intro off h
  fin_cases h <;> exact ⟨timed lockedClk, _, 0, rfl, by unfold PtpReady; decide, by decide⟩

theorem witness_ptp_holdover : ∀ off ∈ [(8 : Int), 9], ∃ (s v : State) (q : FabPort), v = s.tick 0 ∧ PtpReady v q ∧ v.clk.state = .holdover ∧ v.clk.valid = true ∧
    (1000000000 * off.natAbs ≤ v.clk.holdBound v.dev.holdPpb ↔ off = 8) ∧ off.natAbs ≤ 992 := by
  intro off h
  fin_cases h <;> exact ⟨timed { lockedClk with state := .holdover, holdAt := 10000000, holdBase := 8 }, _, 0, rfl, by unfold PtpReady; decide, by decide⟩

/-- A TIME_TOD frame that names second 0. -/
def frame0 : List Byte :=
  let body := leBytes 2 0x5AA5 ++ [1, 0] ++ leBytes 8 0 ++ leBytes 2 0
  body ++ leBytes 2 (crc16 body)

theorem witness_pins : ∃ (s v : State) (e ep : Nat), v = s.tick 0 ∧ v.dev.timeRuns = true ∧ v.dev.usesPins = true ∧ frame0.length = 16 ∧ v.clk.edge = some e ∧ v.dev.epoch? = some ep ∧
    v.dev.regs.source = 1 ∧ v.dev.leaves = [] ∧ v.dev.plat.chair = false ∧ todOk frame0 = true ∧ todOnTime v.clk.now e = true ∧ todOk (List.replicate 16 0) = false :=
  ⟨onDev (timed { unsync 0 with edge := some 0 }) fun d => { d with regs := { d.regs with source := 1 } }, _, 0, 0, rfl, by decide +kernel⟩

theorem witness_holdover_ends : ∀ n ∈ [1000, 1001], ∃ (s v : State), v = s.tick 0 ∧ v.dev.plat.chair = false ∧ v.clk.state = .holdover ∧ v.clk.valid = true ∧
    (1000000000000 < v.clk.holdBound v.dev.holdPpb ↔ n = 1001) := by
  intro n h
  let s := fun n => timed { lockedClk with state := .holdover, holdAt := 10000000, holdBase := n }
  fin_cases h
  · exact ⟨s 1000, s 1000, rfl, by decide⟩
  · exact ⟨s 1001, s 1001, rfl, by decide⟩

theorem witness_valid_return : ∀ hi ∈ [9999999, 10000000], ∃ (s v : State), v = s.tick 0 ∧ v.clk.valid = false ∧ v.clk.state = .locked ∧ v.clk.errBound ≤ 1000 ∧ v.dev.leaves = [] ∧
    v.clk.hiValid = hi ∧ v.clk.now = 10000000 := by
  intro hi h
  fin_cases h <;> exact ⟨timed { lockedClk with valid := false, errBound := 1000, hiValid := _ }, _, rfl, rfl, rfl, by decide, rfl, rfl, rfl⟩

theorem witness_clock_ok : ∃ s s' : State, s.clk.Ok ∧ step s = .next s' ∧ s.clk.valid = true ∧ s'.clk.valid = true :=
  ⟨base, base, by unfold Clock.Ok; decide, rfl, rfl, rfl⟩

/-! ### Loop-backs, self-tests, deadlines -/

/-- A command of a state whose PWR.HOLD holds unit 0 of every kind. -/
def heldCmd (op : Nat) (body : List (Nat × Nat × Nat)) : State := put (onDev base fun d => { d with pwr := { d.pwr with hold := Vector.replicate 4 1 } }) op false body

theorem witness_loop_stack : ∃ (s v : State) (k : Take) (cmd : Cmd), v = s.tick k.t ∧ Accepted k 0x0D00 v cmd ∧ testLoopbackBad v.clk (v.dev.takeCmd cmd) cmd = false ∧
    (v.ready cmd).tst.onUnit (cmd.f 0x40 1) (cmd.f 0x41 1) = false ∧ (v.ready cmd).loopReady v.clk (cmd.f 0x40 1) (cmd.f 0x41 1) (cmd.f 0x42 1) = true ∧
    2 ≤ cmd.f 0x40 1 ∧ (∀ l ∈ v.dev.tst.loops, l.iface ≠ 1) :=
  let s := heldCmd 0x0D00 [(0x40, 1, 2), (0x42, 1, 1), (0x48, 8, 64), (0x38, 8, 64)]
  ⟨s, s, k0, cmdOf s, rfl, accepted (by decide), by decide, by decide, by decide, by decide, by decide⟩

theorem witness_loop_fabric : ∃ (s v : State) (k : Take) (cmd : Cmd) (q : FabPort), v = s.tick k.t ∧ Accepted k 0x0D00 v cmd ∧ testLoopbackBad v.clk (v.dev.takeCmd cmd) cmd = false ∧
    (v.ready cmd).tst.onUnit (cmd.f 0x40 1) (cmd.f 0x41 1) = false ∧ (v.ready cmd).loopReady v.clk (cmd.f 0x40 1) (cmd.f 0x41 1) (cmd.f 0x42 1) = true ∧
    cmd.f 0x40 1 = 1 ∧ cmd.f 0x41 1 = q.val ∧ cmd.f 0x42 1 ≠ 4 ∧ v.clk.ptpPort = some q :=
  let s0 := onDev (heldCmd 0x0D00 [(0x40, 1, 1), (0x42, 1, 1), (0x48, 8, 64), (0x38, 8, 64)]) fun d =>
    { d with fab := { d.fab with ports := vupdN d.fab.ports 0 fun x => { x with link := .up, withdrawn := true } } }
  let s := { s0 with clk := { s0.clk with ptpPort := some 0 } }
  ⟨s, s, k0, cmdOf s, 0, rfl, accepted (by decide), by decide, by decide, by decide, by decide, by decide, by decide, rfl⟩

theorem witness_loop_host : ∃ (s v : State) (k : Take) (cmd : Cmd) (p : Port), v = s.tick k.t ∧ Accepted k 0x0D00 v cmd ∧ testLoopbackBad v.clk (v.dev.takeCmd cmd) cmd = false ∧
    (v.ready cmd).tst.onUnit (cmd.f 0x40 1) (cmd.f 0x41 1) = false ∧ (v.ready cmd).loopReady v.clk (cmd.f 0x40 1) (cmd.f 0x41 1) (cmd.f 0x42 1) = true ∧
    cmd.f 0x40 1 = 0 ∧ cmd.f 0x41 1 = p.val ∧ cmd.f 0x42 1 = 4 ∧ (∀ l ∈ v.dev.tst.loops, l.iface ≠ 1) :=
  let s := put base 0x0D00 false [(0x40, 1, 0), (0x41, 1, 1), (0x42, 1, 4), (0x48, 8, 64), (0x38, 8, 64)]
  ⟨s, s, k0, cmdOf s, 1, rfl, accepted (by decide), by decide⟩

theorem witness_loop_busy : ∀ tested : Bool, ∃ (s v : State) (k : Take) (cmd : Cmd), v = s.tick k.t ∧ Accepted k 0x0D00 v cmd ∧ testLoopbackBad v.clk (v.dev.takeCmd cmd) cmd = false ∧
    (∀ l ∈ v.dev.tst.loops, l.iface ≠ 1) ∧ (v.ready cmd).tst.onUnit (cmd.f 0x40 1) (cmd.f 0x41 1) = tested ∧
    (tested = false → (v.ready cmd).loopReady v.clk (cmd.f 0x40 1) (cmd.f 0x41 1) (cmd.f 0x42 1) = false) := by
  intro tested
  let s := put (onDev base fun d => { d with tst := { d.tst with loops := if tested then [⟨⟨0, 0, 1, 0⟩, 2, 0, 1, 64, 0, 0, 0, 0⟩] else [] } }) 0x0D00 false [(0x40, 1, 2), (0x42, 1, 1), (0x48, 8, 64), (0x38, 8, 64)]
  cases tested
  · exact ⟨s, s, k0, cmdOf s, rfl, accepted (by decide), by decide, by decide, by decide, by decide⟩
  · exact ⟨s, s, k0, cmdOf s, rfl, accepted (by decide), by decide, by decide, by decide, by decide⟩

theorem witness_loop_echo : ∃ (s v : State) (k : Take) (cmd : Cmd), v = s.tick k.t ∧ Accepted k 0x0D00 v cmd ∧ testLoopbackBad v.clk (v.dev.takeCmd cmd) cmd = false ∧
    (v.ready cmd).tst.onUnit (cmd.f 0x40 1) (cmd.f 0x41 1) = false ∧ (v.ready cmd).loopReady v.clk (cmd.f 0x40 1) (cmd.f 0x41 1) (cmd.f 0x42 1) = true ∧
    cmd.f 0x40 1 = 1 ∧ cmd.f 0x42 1 = 4 ∧ (∀ l ∈ v.dev.tst.loops, l.iface ≠ 1) :=
  let s := onDev (heldCmd 0x0D00 [(0x40, 1, 1), (0x42, 1, 4), (0x48, 8, 64), (0x50, 2, 2), (0x38, 8, 64)]) fun d =>
    { d with plat := { d.plat with nodeId := 1, gens := [gen9] }, fab := { d.fab with ports := vupdN d.fab.ports 0 fun x => { x with link := .up, withdrawn := true }, conns := [(11, conn1)] } }
  ⟨s, s, k0, cmdOf s, rfl, accepted (by decide), by decide, by decide, by decide, by decide, by decide⟩

theorem witness_loop_host_down : ∃ (s v : State) (k : Take) (cmd : Cmd) (p : Port), v = s.tick k.t ∧ Accepted k 0x0D00 v cmd ∧ testLoopbackBad v.clk (v.dev.takeCmd cmd) cmd = false ∧
    (v.ready cmd).tst.onUnit (cmd.f 0x40 1) (cmd.f 0x41 1) = false ∧ (v.ready cmd).loopReady v.clk (cmd.f 0x40 1) (cmd.f 0x41 1) (cmd.f 0x42 1) = true ∧
    cmd.f 0x40 1 = 0 ∧ cmd.f 0x41 1 = p.val ∧ cmd.f 0x42 1 ≠ 4 ∧ (∀ l ∈ v.dev.tst.loops, l.iface ≠ 1) :=
  let s := put (onDev base fun d => d.updPort 1 fun h => { h with linkUp := false }) 0x0D00 false [(0x40, 1, 0), (0x41, 1, 1), (0x42, 1, 1), (0x48, 8, 64), (0x38, 8, 64)]
  ⟨s, s, k0, cmdOf s, 1, rfl, accepted (by decide), by decide⟩

/-- A loop-back of fabric port 0 that a running command waits for. -/
def loop1 (depth : Nat) : LoopTest := ⟨⟨0, 0, 1, 0⟩, 1, 0, depth, 128, 2, 64, 0, 1⟩

def withLoop (depth : Nat) : State := onDev (busy base 0x0D00 [(0x28, 8, 10000000), (0x38, 8, 64)]) fun d => { d with tst := { d.tst with loops := [loop1 depth] } }

theorem witness_loop_ends : ∀ depth ∈ [1, 4], ∃ (s v : State) (t i u : Nat) (l : LoopTest), v = s.tick t ∧ i < 4 ∧ v.dev.tst.loops.find? (fun l => l.iface = i && l.unit = u) = some l ∧
    l.depth = depth ∧ l.iface = 1 ∧ i = 1 := by
  intro depth h
  fin_cases h
  · exact ⟨withLoop 1, _, 0, 1, 0, loop1 1, rfl, by decide⟩
  · exact ⟨withLoop 4, _, 0, 1, 0, loop1 4, rfl, by decide⟩

/-- An echo window of host port 1: LEN bytes read, or fewer with the link up. -/
theorem witness_window_ends : ∀ n ∈ [64, 128], ∃ (s v : State) (l : LoopTest) (p : Port), v = s.tick 0 ∧ v.dev.tst.loops.find? (fun l => l.iface = 0 && l.unit = p.val) = some l ∧ l.depth = 4 ∧
    l.iface = 0 ∧ l.unit = p.val ∧ (v.dev.port p).echoRead = n ∧ (v.dev.port p).linkUp = true ∧ l.len = 128 := by
  let l : LoopTest := { loop1 4 with iface := 0, unit := 1 }
  let s := fun n => onDev (withLoop 4) fun d => { d.updPort 1 (fun h => { h with echoRead := n }) with tst := { d.tst with loops := [l] } }
  intro n h
  fin_cases h
  · exact ⟨s 64, _, l, 1, rfl, by decide⟩
  · exact ⟨s 128, _, l, 1, rfl, by decide⟩

theorem witness_echo : ∀ n ∈ [63, 64], ∃ (s v : State) (l : LoopTest), v = s.tick 0 ∧ v.dev.tst.loops = [l] ∧ l.iface = 1 ∧ l.depth = 4 ∧ (l.bytes + n < l.len ↔ n = 63) ∧
    (v.dev.cmd? l.ref).isSome = true := by
  intro n h
  fin_cases h <;> exact ⟨withLoop 4, _, loop1 4, rfl, rfl, rfl, rfl, by decide⟩

/-- A test.bist of a state whose PWR.HOLD holds unit 0 of every kind. -/
def bistCmd (scope : Nat) : State := heldCmd 0x0D01 [(0x40, 4, scope), (0x38, 8, 64)]

theorem witness_bist : ∃ (s v : State) (k : Take) (cmd : Cmd) (us : List (Nat × Nat × Nat)), v = s.tick k.t ∧ Accepted k 0x0D01 v cmd ∧ cmd.f 0x40 4 ≤ 15 ∧
    us = (v.ready cmd).bistUnits (cmd.f 0x40 4) ∧ us ≠ [] ∧ (∀ u ∈ us, (v.ready cmd).bistReady v.clk u = true) :=
  ⟨bistCmd 3, bistCmd 3, k0, cmdOf (bistCmd 3), _, rfl, accepted (by decide), by decide, rfl, by decide, by decide⟩

theorem witness_bist_busy : ∃ (s v : State) (k : Take) (cmd : Cmd) (us : List (Nat × Nat × Nat)), v = s.tick k.t ∧ Accepted k 0x0D01 v cmd ∧ cmd.f 0x40 4 ≤ 15 ∧
    us = (v.ready cmd).bistUnits (cmd.f 0x40 4) ∧ (∃ u ∈ us, (v.ready cmd).bistReady v.clk u = false) :=
  let s := onDev (bistCmd 1) fun d => { d with scan := { d.scan with travs := [⟨0, ⟨false, 0⟩, 7, 0, 0, [], false, []⟩] } }
  ⟨s, s, k0, cmdOf s, _, rfl, accepted (by decide), by decide, rfl, by decide⟩

theorem witness_bist_none : ∃ (s v : State) (k : Take) (cmd : Cmd) (us : List (Nat × Nat × Nat)), v = s.tick k.t ∧ Accepted k 0x0D01 v cmd ∧ cmd.f 0x40 4 ≤ 15 ∧
    us = (v.ready cmd).bistUnits (cmd.f 0x40 4) ∧ us = [] :=
  ⟨bistCmd 0, bistCmd 0, k0, cmdOf (bistCmd 0), _, rfl, accepted (by decide), by decide, rfl, by decide⟩

theorem witness_bist_complete : ∀ bit ∈ [0, 1], ∃ (s v : State) (b : BistTest) (r : BistRec) (cmd : Cmd), v = s.tick 0 ∧ v.dev.tst.bists = [b] ∧ b.recs = [] ∧ b.units = [(r.kind, r.unit, r.bit)] ∧
    r.result ≤ 2 ∧ v.dev.cmd? b.ref = some cmd ∧ 16 ≤ cmd.resultLen ∧ r.bit = bit := by
  intro bit _
  let s := onDev (busy base 0x0D01 [(0x38, 8, 16)]) fun d => { d with tst := { d.tst with bists := [⟨⟨0, 0, 1, 0⟩, 3, [(0, 9, bit)], []⟩] } }
  exact ⟨s, s, _, ⟨0, 9, bit, 2, 1, 0⟩, cmdOf (put base 0x0D01 false [(0x38, 8, 16)]), rfl, rfl, rfl, rfl, (by decide : 2 ≤ 2), rfl, (by decide : 16 ≤ (cmdOf (put base 0x0D01 false [(0x38, 8, 16)])).resultLen), rfl⟩

theorem witness_bist_step : ∃ (s v : State) (b : BistTest) (r : BistRec) (u : Nat × Nat × Nat) (cmd : Cmd), v = s.tick 0 ∧ v.dev.tst.bists = [b] ∧ b.recs = [] ∧
    b.units = [(r.kind, r.unit, r.bit), u] ∧ u ≠ (r.kind, r.unit, r.bit) ∧ r.result ≤ 2 ∧ v.dev.cmd? b.ref = some cmd ∧ 16 ≤ cmd.resultLen ∧ cmd.abandoned = false :=
  let s := onDev (busy base 0x0D01 [(0x38, 8, 32)]) fun d => { d with tst := { d.tst with bists := [⟨⟨0, 0, 1, 0⟩, 3, [(0, 9, 0), (0, 9, 1)], []⟩] } }
  ⟨s, s, _, ⟨0, 9, 0, 2, 1, 0⟩, (0, 9, 1), cmdOf (put base 0x0D01 false [(0x38, 8, 32)]), rfl, rfl, rfl, rfl, by decide, by decide, rfl, by decide, rfl⟩

/-- What every clause about a command's DEADLINE asks of its running command. -/
def RunsAt (v : State) (cmd : Cmd) : Prop :=
  v.dev.cmds.running.find? (fun x => x.ref.port = 0 && x.ref.slot = 0 && !x.abandoned) = some cmd ∧ v.dev.live = true

theorem witness_gather_deadline : ∃ (s v : State) (cmd : Cmd) (x : Reader), v = s.tick 20000000 ∧ RunsAt v cmd ∧ cmd.opcode = 0x0500 ∧ v.dev.chain.readers = [x] ∧ x.kind = .gather cmd.ref ∧
    x.deadline ≤ v.clk.now :=
  ⟨withReader (reader7 [11, 11] 4096 (slot7 none)) (read7 true), _, cmdOf (put base 0x0500 false []), reader7 [11, 11] 4096 (slot7 none), rfl, ⟨rfl, rfl⟩, by decide, rfl, rfl, by decide⟩

theorem witness_bank_deadline : ∃ (s v : State) (cmd : Cmd), v = s.tick 0 ∧ RunsAt v cmd ∧ cmd.f 0x40 1 ≠ 1 ∧ cmd.opcode = 0x0700 ∧ cmd.deadline ≠ 0 ∧ cmd.deadline ≤ v.clk.now :=
  ⟨busy base 0x0700 [(0x28, 8, 10000000)], _, cmdOf (put base 0x0700 false [(0x28, 8, 10000000)]), rfl, ⟨rfl, rfl⟩, by decide⟩

/-- A ROWS bank.op that this copy alone has still to step, and one without a job here. -/
theorem witness_rows_deadline : ∀ mine : Bool, ∃ (s v : State) (cmd : Cmd) (d : Dev), v = s.tick 0 ∧ RunsAt v cmd ∧ cmd.opcode = 0x0700 ∧ cmd.deadline ≠ 0 ∧ cmd.deadline ≤ v.clk.now ∧ cmd.f 0x40 1 = 1 ∧
    d = v.dev.stopRows v.clk cmd.key ∧ (d.cmd? cmd.ref).isSome = mine := by
  let cmd : Cmd := { cmdOf (put base 0x0700 false [(0x28, 8, 10000000), (0x40, 1, 1)]) with crc := 0 }
  let w : RowsWait := ⟨0, ⟨0, 0, 1, 0⟩, cmd.key, [0], false, 0, [], false⟩
  let s := onDev base fun d => { d with cmds := ⟨[cmd], [], 1⟩, leaves := [{ leaf7 with rowsWait := [w] }] }
  intro mine
  cases mine
  · let j : NbJob := { job7 [⟨0, 127, 0, 0, 1⟩] none with key := some cmd.key, op := { (job7 [] none).op with parcel := 7 } }
    let s1 := onDev s fun d => { d with nb := { d.nb with jobs := [j] } }
    exact ⟨s1, s1, cmd, _, rfl, ⟨rfl, rfl⟩, by decide, by decide, by decide, by decide, rfl, by decide +kernel⟩
  · exact ⟨s, s, cmd, _, rfl, ⟨rfl, rfl⟩, by decide, by decide, by decide, by decide, rfl, by decide +kernel⟩

theorem witness_table_deadline : ∃ (s v : State) (cmd : Cmd) (x : Nat × TableGen), v = s.tick 0 ∧ RunsAt v cmd ∧ cmd.opcode = 0x0602 ∧ cmd.deadline ≠ 0 ∧ cmd.deadline ≤ v.clk.now ∧
    v.dev.mdl.gens = [x] ∧ x.2.pend.map (·.1) = some cmd.ref :=
  ⟨onDev (busy base 0x0602 [(0x28, 8, 10000000)]) fun d => { d with mdl := { d.mdl with gens := [(15, { oldTable with pend := some (⟨0, 0, 1, 0⟩, none) })] } }, _,
    cmdOf (put base 0x0602 false [(0x28, 8, 10000000)]), _, rfl, ⟨rfl, rfl⟩, by decide, by decide, by decide, rfl, rfl⟩

theorem witness_loop_deadline : ∃ (s v : State) (cmd : Cmd) (l : LoopTest), v = s.tick 0 ∧ RunsAt v cmd ∧ cmd.opcode = 0x0D00 ∧ cmd.deadline ≠ 0 ∧ cmd.deadline ≤ v.clk.now ∧
    v.dev.tst.loops = [l] ∧ l.ref = cmd.ref ∧ l.depth = 4 ∧ l.iface = 1 :=
  ⟨withLoop 4, _, cmdOf (put base 0x0D00 false [(0x28, 8, 10000000), (0x38, 8, 64)]), loop1 4, rfl, ⟨rfl, rfl⟩, by decide, by decide, by decide, rfl, by decide, rfl, rfl⟩

theorem witness_search_deadline : ∃ (s v : State) (cmd : Cmd), v = s.tick 0 ∧ RunsAt v cmd ∧ cmd.opcode = 0x0300 ∧ cmd.ref ∈ v.dev.root.waiting ∧ v.dev.deadlineOf v.clk cmd ≤ v.clk.now :=
  ⟨onDev (busy base 0x0300 [(0x28, 8, 9000000)]) fun d => { d with root := { d.root with waiting := [⟨0, 0, 1, 0⟩] } }, _, cmdOf (put base 0x0300 false [(0x28, 8, 9000000)]), rfl, ⟨rfl, rfl⟩, by decide⟩

theorem witness_run_deadline : ∃ (s v : State) (cmd : Cmd) (x : Run), v = s.tick 0 ∧ RunsAt v cmd ∧ cmd.opcode = 0x0601 ∧ v.dev.mdl.waves = [] ∧ v.dev.mdl.runs = [x] ∧ x.ref = some cmd.ref ∧
    x.deadline ≤ v.clk.now :=
  ⟨onDev (busy base 0x0601 []) fun d => { d with mdl := { d.mdl with runs := [run3 (some ⟨0, 0, 1, 0⟩)] } }, _, cmdOf (put base 0x0601 false []), run3 (some ⟨0, 0, 1, 0⟩), rfl, ⟨rfl, rfl⟩, by decide⟩

theorem witness_other_deadline : ∃ (s v : State) (cmd : Cmd), v = s.tick 0 ∧ RunsAt v cmd ∧ cmd.opcode ∉ [0x0300, 0x0500, 0x0601, 0x0602, 0x0700, 0x0D00] :=
  ⟨busy base 0x0106 [], _, cmdOf (put base 0x0106 false []), rfl, ⟨rfl, rfl⟩, by decide⟩

/-! ### Resets, images and the start -/

def blockCmd (b u : Nat) (f : Dev → Dev) : State := onDev (heldCmd 0x0102 [(0x40, 1, b), (0x41, 1, u)]) f

theorem witness_block_reset : ∀ b ∈ [0, 1, 2, 3], ∃ (s v : State) (k : Take) (cmd : Cmd), v = s.tick k.t ∧ Accepted k 0x0102 v cmd ∧ blockPairOk (cmd.f 0x40 1) (cmd.f 0x41 1) = true ∧
    v.dev.pwr.ps.toNat < 2 ∧ v.dev.pwr.blkReset = none ∧ (v.ready cmd).idle v.clk (cmd.f 0x40 1) (cmd.f 0x41 1) = true ∧ cmd.f 0x40 1 = b ∧ v.dev.fab.ports[0].enable = true ∧ (b = 3 → cmd.f 0x41 1 = 0) := by
  intro b h
  let s := fun (b u : Nat) => blockCmd b u fun d => { d with pwr := { d.pwr with hold := Vector.replicate 4 3 }, fab := { d.fab with ports := vupdN d.fab.ports 0 fun x => { x with withdrawn := true } } }
  fin_cases h
  · exact ⟨s 0 0, _, k0, cmdOf (s 0 0), rfl, accepted (by decide), by decide⟩
  · exact ⟨s 1 0, _, k0, cmdOf (s 1 0), rfl, accepted (by decide), by decide⟩
  · exact ⟨s 2 1, _, k0, cmdOf (s 2 1), rfl, accepted (by decide), by decide⟩
  · exact ⟨s 3 0, _, k0, cmdOf (s 3 0), rfl, accepted (by decide), by decide⟩

theorem witness_block_busy : ∃ (s v : State) (k : Take) (cmd : Cmd), v = s.tick k.t ∧ Accepted k 0x0102 v cmd ∧ blockPairOk (cmd.f 0x40 1) (cmd.f 0x41 1) = true ∧ cmd.f 0x40 1 ≠ 7 ∧
    v.dev.pwr.blkReset.isSome = true :=
  let s := blockCmd 0 0 fun d => { d with pwr := { d.pwr with blkReset := some ⟨⟨1, 0, 1, 0⟩, 1, 0⟩ } }
  ⟨s, s, k0, cmdOf s, rfl, accepted (by decide), by decide⟩

theorem witness_block_in_use : ∃ (s v : State) (k : Take) (cmd : Cmd), v = s.tick k.t ∧ Accepted k 0x0102 v cmd ∧ blockPairOk (cmd.f 0x40 1) (cmd.f 0x41 1) = true ∧ cmd.f 0x40 1 ≠ 7 ∧
    (v.ready cmd).idle v.clk (cmd.f 0x40 1) (cmd.f 0x41 1) = false :=
  let s := put base 0x0102 false []
  ⟨s, s, k0, cmdOf s, rfl, accepted (by decide), by decide⟩

theorem witness_block_in_ps2 : ∃ (s v : State) (k : Take) (cmd : Cmd), v = s.tick k.t ∧ TurnedAway k 0x0102 v cmd ∧ blockPairOk (cmd.f 0x40 1) (cmd.f 0x41 1) = true ∧ cmd.f 0x40 1 ≠ 7 ∧ v.dev.pwr.ps = 2 :=
  let s := put (onDev base fun d => { d with pwr := { d.pwr with ps := 2 } }) 0x0102 false []
  ⟨s, s, k0, cmdOf s, rfl, turnedAway (by decide), by decide⟩

theorem witness_block_complete : ∀ b ∈ [0, 1, 2, 3], ∃ (s v : State) (x : BlockReset), v = s.tick 0 ∧ v.dev.pwr.blkReset = some x ∧ x.block = b :=
  fun b _ => ⟨onDev base fun d => { d with pwr := { d.pwr with blkReset := some ⟨⟨0, 0, 1, 0⟩, b, 1⟩ } }, _, _, rfl, rfl, rfl⟩

theorem witness_node_reset : ∃ (s v : State) (k : Take) (cmd : Cmd), v = s.tick k.t ∧ Accepted k 0x0102 v cmd ∧ cmd.f 0x40 1 = 7 ∧ cmd.f 0x41 1 = 0 :=
  let s := put base 0x0102 true [(0x40, 1, 7)]
  ⟨s, s, k0, cmdOf s, rfl, accepted (by decide), by decide⟩

theorem witness_watchdog : ∃ (s v : State) (t : Nat), v = s.tick t ∧ (v.dev.start.phase = .service ∨ v.dev.start.phase = .backsight) := ⟨base, _, 0, rfl, .inl rfl⟩

/-- The fixed fields of an image header without compatibility entries and without body. -/
def image (kind version : Nat) : List Byte :=
  leBytes 4 0x4D495053 ++ leBytes 1 kind ++ leBytes 3 0 ++ leBytes 8 version ++ leBytes 8 0 ++ leBytes 8 0 ++ leBytes 8 17440 ++ List.replicate 24 0

/-- Fuses that hold the digests of the key blocks such an image carries here, which are empty. -/
def keyed : Fuses := { Fuses.reset with keys := Vector.replicate 4 ⟨Config.sha384 [], Config.sha384 [], false⟩ }

theorem image_ok (kind version : Nat) (h : headerSane (imgHeader (image kind version)) = true) (h1 : (imgHeader (image kind version)).keySlot = 0)
    (h2 : (image kind version).length ≤ 256) : keyed.imageOk (image kind version) true = true := by
  have d1 : ∀ n, (image kind version).drop (headerLen + n) = [] := fun n => List.drop_eq_nil_of_le (by simp only [headerLen]; omega)
  have d2 : ∀ n, (image kind version).drop (headerLen + n + keyBlockRsa) = [] := fun n => List.drop_eq_nil_of_le (by simp only [headerLen]; omega)
  simp [Fuses.imageOk, Fuses.keyOk, h, h1, d1, d2, keyed]

theorem witness_stage : ∃ (s v : State) (k : Take) (cmd : Cmd), v = s.tick k.t ∧ Accepted k 0x0104 v cmd ∧ fwStageBad v.clk (v.dev.takeCmd cmd) cmd = false ∧
    AreasOk v cmd (fwStageAreas (v.dev.takeCmd cmd) cmd) ∧ v.dev.start.phase = .service ∧ cmd.f 0x50 8 ≠ 0 :=
  let s := put (onPort0 base fun h => { h with mem := [(0, 0x53), (1, 0x50), (2, 0x49), (3, 0x4D), (4, 1), (0x20, 0x20), (0x21, 0x44)] }) 0x0104 true [(0x40, 1, 1), (0x50, 8, 17440)]
  ⟨s, s, k0, cmdOf s, rfl, accepted (by decide), by decide +kernel, by unfold AreasOk; decide, rfl, by decide⟩

/-- dev.fw_activate of set B, whose images are given. -/
def activate (imgs : List (List Byte)) : State :=
  let s := put (onDev base fun d => { d with start := { d.start with setBImgs := imgs } }) 0x0105 true [(0x40, 1, 1)]
  { s with fuse := keyed }

theorem witness_activate : ∀ ok : Bool, ∃ (s v : State) (k : Take) (cmd : Cmd) (sig : List Bool), v = s.tick k.t ∧ sig.length = 3 ∧ Accepted k 0x0105 v cmd ∧ v.dev.start.phase = .service ∧
    cmd.f 0x40 1 = (if v.dev.start.dir.active then 0 else 1) ∧
    v.fuse.checkSet (v.dev.start.set (!v.dev.start.dir.active)) sig = if ok then .accepted else .refused := by
  intro ok
  let s := activate [[], [], []]
  exact ⟨s, s, k0, cmdOf s, [true, ok, true], rfl, rfl, accepted (by decide), rfl, by decide, by cases ok <;> rfl⟩

theorem witness_incompatible : ∃ (s v : State) (k : Take) (cmd : Cmd) (sig : List Bool), v = s.tick k.t ∧ sig.length = 3 ∧ Accepted k 0x0105 v cmd ∧
    v.fuse.checkSet (v.dev.start.set (!v.dev.start.dir.active)) sig = .incompatible := by
  let s := activate [image 0 1, image 1 1, []]
  have h0 := image_ok 0 1 (by decide) (by decide) (by decide)
  have h1 := image_ok 1 1 (by decide) (by decide) (by decide)
  have c : (s.dev.start.set (!s.dev.start.dir.active)) = [image 0 1, image 1 1, []] := rfl
  have k0' : keyed.setImageOk 0 (image 0 1) true = true := by unfold Fuses.setImageOk; rw [h0]; decide
  have k1' : keyed.setImageOk 1 (image 1 1) true = true := by unfold Fuses.setImageOk; rw [h1]; decide
  have k2' : keyed.setImageOk 2 [] true = true := rfl
  have f : compatOk [image 0 1, image 1 1, []] = false := by decide
  have g : keyed.checkSet [image 0 1, image 1 1, []] [true, true, true] = .incompatible := by
    simp [Fuses.checkSet, List.range, List.range.loop, nthD, k0', k1', k2', f]
  exact ⟨s, s, k0, cmdOf s, [true, true, true], rfl, rfl, accepted (by decide), g⟩

theorem witness_reset_package : ∃ (s v : State) (t : Nat) (img : List Byte) (node notBefore notAfter nonce : Nat) (sig : Bool), v = s.tick t ∧ v.dev.service = true ∧
    v.dev.resetPkgOk v.fuse v.clk img node notBefore notAfter nonce sig = true := by
  let s : State := { withPlat base with fuse := keyed }
  have h := image_ok 0x11 1 (by decide) (by decide) (by decide)
  refine ⟨s, s, 0, image 0x11 1, 1, 9000000, 11000000, 9, true, rfl, rfl, ?_⟩
  unfold Dev.resetPkgOk
  rw [show s.fuse = keyed from rfl, h]
  decide

theorem witness_package_dropped : ∃ (s v : State) (t nonce : Nat), v = s.tick t ∧ v.dev.service = true ∧ nonce ≤ v.dev.start.dir.nonce := ⟨base, _, 0, 0, rfl, rfl, by decide⟩

theorem witness_port_reset : ∃ (s v : State) (t : Nat), v = s.tick t ∧ v.dev.live = true := ⟨busy base 0x0106 [], _, 0, rfl, rfl⟩

/-- A start in which every unit passes. -/
def good : StartOutcome :=
  { romOk := true, fusesOk := true, bootSrc := 0, clkMode := 1, clocksOk := true, sramOk := true, stackRes := List.replicate 20 .passed, arrays := List.replicate 10 16384,
    chans := List.replicate 32 .passed, chanArrays := List.replicate 32 512, rates := List.replicate 32 3600, targets := List.replicate 32 8, densities := List.replicate 32 1,
    goodBlocks := List.replicate 32 0, hostPorts := List.replicate 4 .passed, fabPorts := List.replicate 8 .noPartner, journalOk := true, journalEnd := none, joinAnswer := none,
    sigActive := [true, true, true], sigGood := [true, true, true], regionTableOk := true, interrupted := none }

/-- The node about to start anew, its failure count given. -/
def toStart (cold : Bool) (fails : Nat) : State :=
  onDev State.reset fun d => { d with start := { d.start with phase := if cold then .inReset else .warmPending, dir := { d.start.dir with fails := fails } } }

/-- The forms of a start. -/
def StartForm (v : State) (o : StartOutcome) (c : Instr) (d : Dev) : Prop :=
  (c = .coldReset 0 o ∧ d = (v.dev.sampleStraps o).openStart .cold ∧ v.dev.start.phase = .inReset ∧ v.dev.brd.pwrGood = true ∧ RefClk.clk25 ∉ v.dev.brd.lost) ∨
  (c = .warmReset 0 o ∧ d = v.dev.openStart .warm ∧ v.dev.start.phase = .warmPending)

theorem witness_start_fails : ∀ x ∈ [(true, false, true), (false, true, false)], ∃ (s v : State) (o : StartOutcome) (c : Instr) (d : Dev), v = s.tick 0 ∧ o.wf = true ∧ o.interrupted = none ∧
    StartForm v o c d ∧ o.romOk = x.2.1 ∧ o.fusesOk = x.2.2 := by
  intro x h
  fin_cases h
  · exact ⟨toStart true 0, _, { good with romOk := false }, _, _, rfl, by decide, rfl, .inl ⟨rfl, rfl, rfl, rfl, by decide⟩, rfl, rfl⟩
  · exact ⟨toStart false 0, _, { good with fusesOk := false }, _, _, rfl, by decide, rfl, .inr ⟨rfl, rfl, rfl⟩, rfl, rfl⟩

theorem witness_backsight : ∃ (s v : State) (o : StartOutcome) (c : Instr) (d : Dev), v = s.tick 0 ∧ o.wf = true ∧ o.interrupted = none ∧ StartForm v o c d ∧ o.romOk = true ∧ o.fusesOk = true ∧
    o.clocksOk = true ∧ o.sramOk = true ∧ 3 ≤ d.start.dir.fails ∧ (∀ p : Port, (v.dev.port p).linkUp = false) :=
  ⟨toStart false 3, _, good, _, _, rfl, by decide, rfl, .inr ⟨rfl, rfl, rfl⟩, rfl, rfl, rfl, rfl, by decide, by decide⟩

theorem good_clean (d : Dev) (h : d.start.skip = []) (h1 : d.mem.retired = []) : CleanStart good d :=
  ⟨rfl, rfl, rfl, rfl, h, h1, by decide, by decide, by decide, by decide⟩

theorem witness_clean_start : ∀ cold : Bool, ∃ (s v : State) (o : StartOutcome) (c : Instr) (d : Dev), v = s.tick 0 ∧ o.wf = true ∧ CleanStart o v.dev ∧ o.romOk = true ∧ o.fusesOk = true ∧
    o.sramOk = true ∧ StartForm v o c d ∧ o.bootSrc < 2 ∧ o.clkMode < 3 ∧ v.dev.start.bootSrc.toNat < 2 ∧ v.dev.start.clkMode.toNat < 3 ∧
    v.fuse.checkSet (d.start.set d.start.dir.active) o.sigActive = .accepted ∧ d.fallBack = false ∧ d.start.dir.fails < 3 ∧ d.start.dir.trial = false ∧
    v.dev.start.phase = (if cold then .inReset else .warmPending) := by
  intro cold
  cases cold
  · exact ⟨toStart false 2, _, good, _, _, rfl, by decide, good_clean _ rfl rfl, rfl, rfl, rfl, .inr ⟨rfl, rfl, rfl⟩, by decide⟩
  · exact ⟨toStart true 2, _, good, _, _, rfl, by decide, good_clean _ rfl rfl, rfl, rfl, rfl, .inl ⟨rfl, rfl, rfl, rfl, by decide⟩, by decide⟩

theorem witness_wake : ∃ (s v : State) (o : StartOutcome), v = s.tick 0 ∧ o.wf = true ∧ CleanStart o v.dev ∧ v.dev.start.phase = .service ∧ v.dev.pwr.ps = 3 ∧ v.dev.brd.wakeSeen = true ∧
    v.clk.valid = true ∧ v.dev.pwr.wakeAt ≠ 0 ∧ v.dev.pwr.wakeAt.toNat ≤ v.clk.now :=
  ⟨onDev base fun d => { d with pwr := { d.pwr with ps := 3, wakeAt := 10000000 }, brd := { d.brd with wakeSeen := true } }, _, good, rfl, by decide, good_clean _ rfl rfl, rfl, rfl, rfl, rfl,
    by decide, by decide⟩

theorem witness_reset_keeps : ∃ (s s' v : State) (t : Nat), v = s.tick t ∧ exec (.resetNAssert t) s = .next s' := ⟨base, _, _, 0, rfl, rfl⟩

/-! ### Power, heat, board, attestation and fuses -/

/-- dev.power_state with its PS. -/
def psCmd (ps : Nat) (f : Dev → Dev) : State := put (onDev base f) 0x0103 false [(0x40, 1, ps)]

theorem witness_power_busy : ∃ (s v : State) (k : Take) (cmd : Cmd), v = s.tick k.t ∧ Accepted k 0x0103 v cmd ∧ cmd.f 0x40 1 ≤ 3 ∧ v.dev.pwr.transition.isSome = true :=
  let s := psCmd 1 fun d => { d with pwr := { d.pwr with transition := some ⟨1, 0, 1, 0⟩ } }
  ⟨s, s, k0, cmdOf s, rfl, accepted (by decide), by decide, rfl⟩

theorem witness_power_same : ∃ (s v : State) (k : Take) (cmd : Cmd), v = s.tick k.t ∧ Accepted k 0x0103 v cmd ∧ v.dev.pwr.transition = none ∧ cmd.f 0x40 1 = v.dev.pwr.ps.toNat :=
  ⟨psCmd 0 id, _, k0, cmdOf (psCmd 0 id), rfl, accepted (by decide), rfl, by decide⟩

theorem witness_power_held : ∃ (s v : State) (k : Take) (cmd : Cmd), v = s.tick k.t ∧ Accepted k 0x0103 v cmd ∧ v.dev.pwr.transition = none ∧ cmd.f 0x40 1 = 2 ∧
    v.dev.pwr.ps.toNat = 0 ∧ v.dev.leaves ≠ [] :=
  let s := psCmd 2 fun _ => (withLeaf base leaf7).dev
  ⟨s, s, k0, cmdOf s, rfl, accepted (by decide), rfl, by decide, rfl, by decide⟩

theorem witness_power_begins : ∀ ps ∈ [1, 3], ∃ (s v : State) (k : Take) (cmd : Cmd), v = s.tick k.t ∧ Accepted k 0x0103 v cmd ∧ v.dev.pwr.transition = none ∧ cmd.f 0x40 1 = ps ∧
    v.dev.pwr.ps.toNat = 0 ∧ (v.ready cmd).mayRest v.clk cmd.ref = true := by
  intro ps h
  fin_cases h
  · exact ⟨psCmd 1 id, _, k0, cmdOf (psCmd 1 id), rfl, accepted (by decide), rfl, by decide⟩
  · exact ⟨psCmd 3 id, _, k0, cmdOf (psCmd 3 id), rfl, accepted (by decide), rfl, by decide⟩

theorem witness_power_reached : ∀ ps : BitVec 2, ∃ (s v : State) (r : Ref), v = s.tick 0 ∧ v.dev.pwr.transition = some r ∧ v.dev.pwr.target = ps ∧ v.dev.arraysIdle = true ∧
    v.dev.scan.frags = [] ∧ v.dev.flashQuiet = true ∧ v.clk.ptpPort = none :=
  fun ps => ⟨onDev base fun d => { d with pwr := { d.pwr with transition := some ⟨0, 0, 1, 0⟩, target := ps } }, _, ⟨0, 0, 1, 0⟩, rfl, rfl, rfl, rfl, rfl, rfl, rfl⟩

theorem witness_power_leaves_ps2 : ∃ (s v : State) (r : Ref) (rates : List Nat), v = s.tick 0 ∧ rates.length = 32 ∧ v.dev.pwr.transition = some r ∧ v.dev.pwr.ps = 2 ∧ v.dev.pwr.target = 0 :=
  ⟨onDev base fun d => { d with pwr := { d.pwr with transition := some ⟨0, 0, 1, 0⟩, ps := 2, target := 0 } }, _, ⟨0, 0, 1, 0⟩, List.replicate 32 3600, rfl, rfl, rfl, rfl, rfl⟩

theorem witness_power_waits : ∃ (s v : State) (r : Ref), v = s.tick 0 ∧ v.dev.pwr.transition = some r ∧ v.dev.pwr.target ≠ 0 ∧ v.dev.arraysIdle = false :=
  ⟨onDev base fun d => { d with pwr := { d.pwr with transition := some ⟨0, 0, 1, 0⟩, target := 1 }, mdl := { d.mdl with waves := [⟨0, [], 0, []⟩] } }, _, ⟨0, 0, 1, 0⟩, rfl, rfl, by decide, rfl⟩

/-- A node with its power fields changed. -/
def onPwr (f : Power → Power) : State := onDev base fun d => { d with pwr := f d.pwr }

theorem witness_governor_sample : ∃ (s v : State) (watts : Nat), v = s.tick 0 ∧ v.dev.live = true ∧ v.dev.pwr.samples = [] ∧ watts ≤ v.dev.capW ∧ 2700 < watts + 301 :=
  ⟨base, _, 2400, rfl, by decide⟩

theorem witness_notch_none : ∃ (s v : State), v = s.tick 0 ∧ v.dev.live = true ∧ v.dev.brd.hot = false ∧ v.dev.pwr.powerW + 50 ≤ v.dev.capW ∧ v.dev.pwr.overSince = none :=
  ⟨onPwr fun p => { p with powerW := 2350 }, _, rfl, by decide⟩

theorem witness_notch_add : ∀ x ∈ [(14, 0, 0), (15, 7, 0), (15, 8, 3)], ∃ (s v : State), v = s.tick 0 ∧ v.dev.live = true ∧ v.dev.capW < v.dev.pwr.powerW + 50 ∧
    (v.dev.pwr.issueNotch, v.dev.pwr.easeNotch, v.dev.pwr.bgNotch) = x := by
  intro x h
  fin_cases h
  · exact ⟨onPwr fun p => { p with powerW := 2351, issueNotch := 14 }, _, rfl, by decide⟩
  · exact ⟨onPwr fun p => { p with powerW := 2351, issueNotch := 15, easeNotch := 7 }, _, rfl, by decide⟩
  · exact ⟨onPwr fun p => { p with powerW := 2351, issueNotch := 15, easeNotch := 8, bgNotch := 3 }, _, rfl, by decide⟩

theorem witness_notch_remove : ∀ x ∈ [(15, 8, 1), (15, 1, 0), (1, 0, 0)], ∃ (s v : State), v = s.tick 0 ∧ v.dev.live = true ∧ v.dev.brd.hot = false ∧ v.dev.flash.held = false ∧
    v.dev.pwr.powerW + 150 < v.dev.capW ∧ v.dev.pwr.samples.headD 0 < v.dev.capW ∧ (v.dev.pwr.issueNotch, v.dev.pwr.easeNotch, v.dev.pwr.bgNotch) = x := by
  intro x h
  fin_cases h
  · exact ⟨onPwr fun p => { p with powerW := 2249, issueNotch := 15, easeNotch := 8, bgNotch := 1 }, _, rfl, by decide⟩
  · exact ⟨onPwr fun p => { p with powerW := 2249, issueNotch := 15, easeNotch := 1 }, _, rfl, by decide⟩
  · exact ⟨onPwr fun p => { p with powerW := 2249, issueNotch := 1 }, _, rfl, by decide⟩

theorem witness_heat : ∃ (s v : State), v = s.tick 0 ∧ v.dev.start.phase ≠ .off := ⟨base, _, rfl, by decide⟩

theorem witness_power_on : ∀ trip : Bool, ∃ (s v : State), v = s.tick 0 ∧ v.dev.brd.tripped = trip ∧ v.dev.brd.pwrGood = false :=
  fun trip => ⟨onDev base fun d => { d with start := { d.start with phase := .off }, brd := { d.brd with tripped := trip, pwrGood := false } }, _, rfl, rfl, rfl⟩

theorem witness_power_fail : ∀ ps : BitVec 2, ∃ (s v : State), v = s.tick 0 ∧ v.dev.start.phase = .service ∧ v.dev.pwr.ps = ps ∧ v.dev.flash.pf = .idle :=
  fun ps => ⟨onPwr fun p => { p with ps := ps }, _, rfl, rfl, rfl, rfl⟩

/-- A node in the power-failure state given. -/
def failing (pf : PfState) (x : Option Nat) : State := onDev base fun d => { d with flash := { d.flash with pf := pf }, brd := { d.brd with deferred := x } }

theorem witness_flushed : ∀ y : Option Nat, ∃ (s v : State) (x : Nat), v = s.tick 0 ∧ v.dev.flash.pf = .flushing x ∧ v.dev.brd.deferred = y ∧ v.dev.flushed = true ∧
    v.clk.now < x + 1500000 ∧ v.dev.start.phase ≠ .off :=
  fun y => ⟨failing (.flushing 9000000) y, _, 9000000, rfl, rfl, rfl, rfl, (by decide : 10000000 < 9000000 + 1500000), (by decide : Phase.service ≠ .off)⟩

theorem witness_not_flushed : ∃ (s v : State) (x : Nat), v = s.tick 0 ∧ v.dev.flash.pf = .flushing x ∧ v.dev.brd.deferred = none ∧ v.dev.flushed = false :=
  ⟨onDev (failing (.flushing 9000000) none) fun d => { d with flash := { d.flash with inflight := [.format] } }, _, 9000000, rfl, rfl, rfl, rfl⟩

theorem witness_resumes : ∃ (s : State) (t x : Nat), s.dev.timeRuns = true ∧ s.clk.now < t ∧ s.dev.flash.pf = .resuming x ∧ x + 1000000 ≤ t :=
  ⟨failing (.resuming 10000000) none, 11000000, 10000000, by decide⟩

theorem witness_edge_clock : ∃ (s v : State) (e : Fin 2) (q : FabPort), v = s.tick 0 ∧ v.dev.start.phase ≠ .off ∧ v.dev.service = true ∧ v.dev.start.clkMode.toNat < 2 ∧ q.val / 4 = e.val ∧
    v.dev.fab.ports[q].link ≠ .disabled :=
  ⟨base, _, 1, 4, rfl, by decide⟩

theorem witness_i3c : ∀ ps : BitVec 2, ∃ (s v : State), v = s.tick 0 ∧ v.dev.brd.pwrGood = true ∧ v.dev.pwr.ps = ps ∧ v.dev.start.phase = .service ∧ v.dev.brd.i3cOff = 0 :=
  fun ps => ⟨onPwr fun p => { p with ps := ps }, _, rfl, rfl, rfl, rfl, rfl⟩

theorem witness_i3c_beyond : ∃ (s v : State), v = s.tick 0 ∧ v.dev.brd.pwrGood = true ∧ 10 ≤ v.dev.brd.i3cOff :=
  ⟨onDev base fun d => { d with brd := { d.brd with i3cOff := 10 } }, _, rfl, rfl, by decide⟩

theorem witness_lands : ∀ b : Bool, ∃ (s v : State), v = s.tick 0 ∧ v.dev.brd.pwrGood = true ∧ v.dev.brd.resetN = b :=
  fun b => ⟨onDev base fun d => { d with brd := { d.brd with resetN := b } }, _, rfl, rfl, rfl⟩

theorem witness_lands_start : ∃ (s v v' : State) (t : Nat) (o : StartOutcome), v = s.tick t ∧ exec (.coldReset t o) s = .next v' ∧ v.dev.start.phase = .inReset ∧ v.dev.brd.pwrGood = true ∧
    RefClk.clk25 ∉ v.dev.brd.lost ∧ v'.dev.landTaken (.flash 5) = false :=
  ⟨State.reset, _, _, 0, { good with romOk := false }, rfl, rfl, rfl, rfl, by decide, by decide⟩

theorem witness_attestation : ∃ (s v : State) (p : Port) (h : HostPort) (answer : Nat → List Byte → Bool → Bool → Dev), v = s.tick 0 ∧ v.dev.live = true ∧ h = v.dev.port p ∧ h.linkUp = true ∧
    ∀ code body hs ss, answer code body hs ss = v.dev.updPort p fun h => { h with spdm := { handshake := hs, session := ss, count := h.spdm.count + 1, response := some (code, spdmHead code h.spdm.count ++ body) } } :=
  ⟨base, _, 0, _, fun code body hs ss => base.dev.updPort 0 fun h => { h with spdm := { handshake := hs, session := ss, count := h.spdm.count + 1, response := some (code, spdmHead code h.spdm.count ++ body) } },
    rfl, rfl, rfl, rfl, fun _ _ _ _ => rfl⟩

theorem witness_ide : ∀ b : Bool, ∃ (s v : State), v = s.tick 0 ∧ v.dev.live = true ∧ (v.dev.port 0).linkUp = true ∧ (v.dev.port 0).spdm.session = b :=
  fun b => ⟨onPort0 base fun h => { h with spdm := ⟨false, b, 0, none⟩ }, _, rfl, rfl, rfl, rfl⟩

def fuse1 : FuseBody := { keys := [(3, 5, 9)], revoke := [1], svn := [(2, 63)], macs := [(7, 0xFFFFFFFFFFFF)], pinMap := [(400, 4)], rom := 1, seed := 2 }

theorem witness_fuse_package : ∃ (s v : State) (img : List Byte) (b : FuseBody) (sig : Bool), v = s.tick 0 ∧ v.dev.brd.pwrGood = true ∧ v.fuse.imageOk img sig = true ∧
    (imgHeader img).kind = 0x10 ∧ v.fuse.canSet b = true ∧ v.fuse.leavesSlot b = true := by
  let s : State := { base with fuse := { keyed with keys := vupdN keyed.keys 3 fun _ => ⟨0, 0, false⟩ } }
  have k : s.fuse.keyOk (image 0x10 1) = keyed.keyOk (image 0x10 1) := rfl
  have h := image_ok 0x10 1 (by decide) (by decide) (by decide)
  refine ⟨s, s, image 0x10 1, fuse1, true, rfl, rfl, ?_, by decide, by decide, by decide⟩
  unfold Fuses.imageOk at h ⊢
  rw [k]; exact h

theorem witness_fuse_refused : ∃ (s v : State) (b : FuseBody), v = s.tick 0 ∧ v.dev.brd.pwrGood = true ∧ v.fuse.leavesSlot b = false ∧ v.fuse.canSet b = true :=
  ⟨base, _, ⟨[0, 1, 2, 3], [], [], [], [], 0, 0⟩, rfl, rfl, by decide⟩

theorem witness_fuses_step : ∃ s s' : State, step s = .next s' := ⟨base, _, rfl⟩

/-! ### Forms that are refused -/

/-- What `exec` answers to each is the fault `illFormed`; a command is listed for each check of WellFormed. -/
def illFormed1 : List Instr :=
  [Instr.devFwActivate k0 [true, true], Instr.lineStep 0 0 128 .clean .clean, Instr.loopbackLockTimeout 0 4 0,
   Instr.testComplete 0 4 0 LoopRes.none, Instr.registerWrite 0 0 false 4194304 [1], Instr.registerWrite 0 0 false 0 [],
   Instr.registerWrite 0 0 false 0 (List.replicate 9 0), Instr.hostMemAccess 0 0 .memRd 32 [] 0 .clean, Instr.hostMemAccess 0 0 .memRd Config.dpaEnd [] 0 .clean]

def illFormed2 : List Instr :=
  [Instr.hostMemAccess 0 0 .memWr 0 [1] 0 .clean, Instr.hostMemAccess 0 0 .memWrPtl 0 [1] 0 .clean, Instr.hostMemAccess 0 0 .memRd 0 [1] 0 .clean,
   Instr.hostMemAccess 0 0 .memRdData 0 [1] 0 .clean, Instr.hostMemAccess 0 0 .memInv 0 [1] 0 .clean, Instr.bisnpResponse 0 0 0 0 (some [1]),
   Instr.spdmChallenge 0 0 [], Instr.traverseData 0 0 false (List.replicate 31 0), Instr.traverseAck 0 0 (List.replicate 41 0)]

def illFormed3 : List Instr :=
  [Instr.hello 0 4096 0 1 1 [], Instr.hello 0 0 4 1 1 [], Instr.ackTimer 0 4096 0,
   Instr.ackTimer 0 0 4, Instr.retransmitTimeout 0 4096 0, Instr.retransmitTimeout 0 0 4,
   Instr.rateRaise 0 4096 0, Instr.rateRaise 0 0 4, Instr.peerUnreachable 0 4096 0]

def illFormed4 : List Instr :=
  [Instr.peerUnreachable 0 0 4, Instr.batchWindowExpiry 0 true 32 0 0 0, Instr.batchWindowExpiry 0 false 10 0 0 0,
   Instr.traverseStart 0 true 32 0 0 0, Instr.traverseStart 0 false 10 0 0 0, Instr.markAck 0 0 4096 0 none none,
   Instr.beaconAgreed 0 4096 0 0, Instr.voteRequest 0 4096 0 0, Instr.voteGrant 0 4096 0 none]

def illFormed5 : List Instr :=
  [Instr.timeTod 0 [], Instr.thermalSample 0 [], Instr.i3cPrivateWrite 0 [],
   Instr.entdaa 0 128, Instr.loadAcknowledgement 0 0 4096, Instr.rowsApplied 0 ⟨0, 0, 0, 0⟩ 4096,
   Instr.psTransitionComplete ⟨0, [3600]⟩, Instr.flashReadComplete 0 0 0 9 false false [], Instr.flashReadComplete 0 0 0 7 true false [],
   Instr.windowFillComplete 0 0 0 0 [0] []]

def illFormedTerms : List (List Instr) := [illFormed1, illFormed2, illFormed3, illFormed4, illFormed5]

theorem test_ill_formed : ∀ l ∈ illFormedTerms, ∀ c ∈ l, c.wf = false := by decide

theorem test_ill_formed_faults : exec (.entdaa 0 128) base = .fault .illFormed := by rfl

set_option maxRecDepth 20000 in
theorem test_packet_too_long : (Instr.traverseData 0 0 false (List.replicate 8225 0)).wf = false := by decide +kernel

/-- One answer too many or too few, or a strap beyond two bits. -/
def badStarts : List StartOutcome :=
  [{ good with bootSrc := 4 }, { good with clkMode := 4 }, { good with stackRes := [] }, { good with arrays := [] }, { good with chans := [] }, { good with chanArrays := [] },
   { good with rates := [] }, { good with targets := [] }, { good with densities := [] }, { good with goodBlocks := [] }, { good with hostPorts := [] }, { good with fabPorts := [] },
   { good with sigActive := [] }, { good with sigGood := [] }]

theorem test_bad_starts : ∀ o ∈ badStarts, ∀ c ∈ [Instr.coldReset 0 o, .warmReset 0 o, .wakeAt 0 o, .wake 0 o], c.wf = false := by decide

/-! ### Worked examples of the manual -/

/-- INT16 AXPBY with A = 3, B = 5 (the example after R242). -/
def axpby (act shift : Nat) : NbOp :=
  { rows := false, ty := 1, op := 3, u := 2, act := act, shift := shift, fenced := false, e := 0, a := 3, b := 5, lo := 0, hi := 0, xAddr := 0, xLen := 64, uAddr := 0, region := 0,
    parcel := 0, nIdx := 0, indexAddr := 0, fieldOff := 0, fieldLen := 0, uOff := 0, blen := 0, uData := [], deadline := 0 }

theorem test_axpby : nbInt (axpby 0 2) 1000 (some 65529) = 741 ∧ nbInt (axpby 0 2) 2 (some 0) = 2 ∧ nbInt (axpby 0 2) 65534 (some 0) = 65534 ∧ nbInt (axpby 1 2) 65534 (some 0) = 0 ∧
    nbInt (axpby 0 0) 30000 (some 30000) = 32767 := by decide

/-- The projection row of the example after R100 sums to 5. -/
theorem test_fixed_order : reduceFixed [0x4B800000, 0x3F800000, 0x3F800000, 0x3F800000, 0xCB800000, 0x3F800000, 0, 0] = 0x40A00000 := by decide +kernel

/-- The inner product whose exact sum is 1 (the example after R97). -/
theorem test_rerank_exact : rerankFinite .ip [4096 * 2 ^ 24, 2 ^ 24, 4096 * 2 ^ 24] [4096 * 2 ^ 24, 2 ^ 24, -(4096 * 2 ^ 24)] = 0xBF800000 := by decide +kernel

/-- The FX4 block of the example after R226, its remaining values 0. -/
theorem test_fx4_block : (fxRow .fx4 ([55 * 2 ^ 22, -(5 * 2 ^ 23), 3 * 2 ^ 24, -(3 * 2 ^ 22), 2 ^ 24] ++ List.replicate 27 0)).take 3 = [0x97, 0x02, 0x01] ∧
    (fxRow .fx4 ([55 * 2 ^ 22, -(5 * 2 ^ 23), 3 * 2 ^ 24, -(3 * 2 ^ 22), 2 ^ 24] ++ List.replicate 27 0)).drop 16 = [0x01] := by decide +kernel

/-- Shift and ties of the table build of the example before R95. -/
theorem test_table_shift : tableShift (481 * 2 ^ 44) 65535 = -11 ∧ halfAway (481 * 2 ^ 44) 37 = 0xF080 ∧ halfAway (2 ^ 36) 37 = 1 ∧ halfAway (5 * 2 ^ 36) 37 = 3 := by decide +kernel

theorem test_bench_sec : base.dev.benchSec 4000 = 1 ∧ base.dev.benchSec 7999 = 1 ∧ base.dev.benchSec 8000 = 2 := by decide

theorem test_margins : basicMargin 40000 = 2500 ∧ tierNo 40000 = 3 ∧ basicMargin 100 = 7 := by decide

/-- Data frame 100,000 of a parity region over all groups lies on stack 4. -/
theorem test_parity_frame : frameStack .parity 0xFFFFF 100000 = 4 := by decide +kernel

/-- A word of CTL.ADMIN_PORTS and one of PWR.HOLD as the register map lays them out reach their registers. -/
theorem test_register_words : State.reset.readReg 0x180 = 1 ∧ State.reset.readReg 0x30010 = 2400 := by decide +kernel

/-- R205's top binade of E4M3: 448, 416 and 464 (beyond, so 448), and the least subnormal from its tie. -/
theorem test_e4m3_top : (fToE4m3 0x43E00000, fToE4m3 0x43D00000, fToE4m3 0x43E80000, fToE4m3 0x3A800000) = (0x7E, 0x7D, 0x7E, 1) := by decide +kernel

/-- Metadata of codeword 1 of a data page of unit 5, WSEQ 7, by R321's table; the CHECK is CRC-32C over the data and what stands before it. -/
theorem test_codeword_meta (data : List Byte) : (codewordMeta 5 1 .data 7 data).take 28 = [5, 0, 0, 0, 1, 1, 0, 0, 7, 0, 0, 0, 0, 0, 0, 0] ++ List.replicate 12 0 ∧
    (codewordMeta 5 1 .data 7 data).drop 28 = leBytes 4 (crc32c (data ++ (codewordMeta 5 1 .data 7 data).take 28)) ∧ PageKind.journal.code = 2 ∧ PageKind.mapSegment.code = 3 :=
  ⟨rfl, rfl, rfl, rfl⟩

end Sys2Proof.Tests
end

/-! SUPPORT. Writes through a host port's BAR0 and BAR2: which address reaches which register, what a write into the field book leaves to be read there, and the statement about plain registers and field-book bytes. -/

namespace Sys2Proof.Proofs

open Sys2Proof Sys2Proof.Machine Sys2Proof.Laws

/-! ### A host's write as a command -/

/-- A write through a host port is well formed when it has 1 to 8 bytes inside the 4 MiB window. -/
theorem registerWrite_wf {a : Nat} {data : List Byte} (ha : a < 4194304) (h1 : 1 ≤ data.length) (h8 : data.length ≤ 8) (t : Nat) (p : Port) (bar2 : Bool) :
    (Instr.registerWrite t p bar2 a data).wf = true := by
  show (a < 4194304 && 1 ≤ data.length && data.length ≤ 8) = true
  simp [ha, h1, h8]

theorem exec_registerWrite {a : Nat} {data : List Byte} (ha : a < 4194304) (h1 : 1 ≤ data.length) (h8 : data.length ≤ 8)
    (t : Nat) (p : Port) (bar2 : Bool) (s : State) :
    exec (.registerWrite t p bar2 a data) s = .next ((s.tick t).onClk (registerWrite p bar2 a data)) :=
  happens_wf (.registerWrite t p bar2 a data) t (·.onClk (registerWrite p bar2 a data)) s (registerWrite_wf ha h1 h8 t p bar2)

theorem exec_cmdWordWrite (t : Nat) (p : Port) (n : SlotNo) (w : W64) (s : State) :
    exec (.cmdWordWrite t p n w) s = .next ((s.tick t).onDev (cmdWordWrite p n w)) :=
  happens_wf (.cmdWordWrite t p n w) t (·.onDev (cmdWordWrite p n w)) s rfl

/-! ### BAR0 -/

/-- An aligned address of BAR0 whose register no row of its own writes: neither FAB.PORT, PWR.HOLD, CTL.ADMIN_PORTS, ADM.SEL nor FLS.READ_SHARE. -/
def plainAddr (a : Nat) : Bool :=
  a < 4194304 && a % 8 = 0 && arrayIx a 0x60000 8 = none && arrayIx a 0x30100 4 = none && a != 0x180 && a != 0x20000 && a != 0x50200

theorem plainAddr_iff {a : Nat} : plainAddr a = true ↔ a < 4194304 ∧ a % 8 = 0 ∧ arrayIx a 0x60000 8 = none ∧ arrayIx a 0x30100 4 = none ∧
    a ≠ 0x180 ∧ a ≠ 0x20000 ∧ a ≠ 0x50200 := by
  simp only [plainAddr, Bool.and_eq_true, decide_eq_true_eq, bne_iff_ne, ne_eq, and_assoc]

/-- An aligned 8-byte write to such a register through an admin port reaches it (R539, R540). -/
theorem registerWrite_plain {a : Nat} {data : List Byte} {d : Dev} {p : Port} (ha : plainAddr a = true) (h8 : data.length = 8)
    (hon : d.portOn p = true) (hadm : d.regs.adminPorts.getLsbD p.val = true) (c : Clock) :
    registerWrite p false a data c d = (c, d.writePlainReg a (BitVec.ofNat 64 (leNat data))) := by
  obtain ⟨-, hal, hfab, hhold, hports, hsel, hshare⟩ := plainAddr_iff.mp ha
  simp [registerWrite, Dev.writeBar0, Dev.isAdmin, hon, hadm, h8, hal, hfab, hhold, hports, hsel, hshare]

/-- A narrower or unaligned write through BAR0 is dropped, through whichever port it comes (R540). -/
theorem registerWrite_narrow {a : Nat} {data : List Byte} (h : ¬(data.length = 8 ∧ a % 8 = 0)) (p : Port) (c : Clock) (d : Dev) :
    registerWrite p false a data c d = (c, d) := by
  have hbar0 : d.writeBar0 c p a data = d := by
    have hdrop : (data.length = 8 && a % 8 = 0 && d.isAdmin p) = false := by
      simp only [Bool.and_eq_false_iff, decide_eq_false_iff_not]; tauto
    simp [Dev.writeBar0, hdrop]
  have hfab : (data.length = 8 && a % 8 = 0) = false := by simpa using h
  unfold registerWrite
  split
  · rfl
  · simp only [Bool.false_eq_true, if_false, hfab, hbar0]
    split
    · split <;> rfl
    · rfl

theorem exec_plain_register {s v : State} {t : Nat} {p : Port} {a : Nat} {data : List Byte} (hv : v = s.tick t) (ha : plainAddr a = true)
    (h8 : data.length = 8) (hon : v.dev.portOn p = true) (hadm : v.dev.regs.adminPorts.getLsbD p.val = true) :
    exec (.registerWrite t p false a data) s = .next { v with dev := v.dev.writePlainReg a (BitVec.ofNat 64 (leNat data)) } := by
  obtain ⟨hlt, -⟩ := plainAddr_iff.mp ha
  rw [exec_registerWrite hlt (by omega) (by omega), ← hv, State.onClk, registerWrite_plain ha h8 hon hadm]

theorem exec_narrow_register {s v : State} {t : Nat} {p : Port} {a : Nat} {data : List Byte} (hv : v = s.tick t) (ha : a < 4194304)
    (h1 : 1 ≤ data.length) (h8 : data.length ≤ 8) (h : ¬(data.length = 8 ∧ a % 8 = 0)) :
    exec (.registerWrite t p false a data) s = .next v := by
  rw [exec_registerWrite ha h1 h8, ← hv, State.onClk, registerWrite_narrow h]

/-! ### BAR2 -/

theorem registerWrite_bar2 {d : Dev} {p : Port} (hon : d.portOn p = true) (a : Nat) (data : List Byte) (c : Clock) :
    registerWrite p true a data c d = (c, d.writeBar2 c p a data) := by
  simp [registerWrite, hon]

theorem exec_bar2 {s v : State} {t : Nat} {p : Port} {a : Nat} {data : List Byte} (hv : v = s.tick t) (hon : v.dev.portOn p = true)
    (ha : a < 4194304) (h1 : 1 ≤ data.length) (h8 : data.length ≤ 8) :
    exec (.registerWrite t p true a data) s = .next { v with dev := v.dev.writeBar2 v.clk p a data } := by
  rw [exec_registerWrite ha h1 h8, ← hv, State.onClk, registerWrite_bar2 hon]

theorem writeBar2_irqCtrl {data : List Byte} (h8 : data.length = 8) (c : Clock) (p : Port) (d : Dev) :
    d.writeBar2 c p 0x200040 data = d.updPort p fun h => h.writeIrq (BitVec.ofNat 64 (leNat data)) := by
  simp [Dev.writeBar2, h8]

theorem slotAt_zero_lt (n : SlotNo) : slotAt n 0 < 0x200000 := by
  have := n.isLt; simp only [slotAt]; omega

/-- An aligned 8-byte write of a slot's CMD_WORD is a submission (R414). -/
theorem writeBar2_cmdWord {data : List Byte} (h8 : data.length = 8) (n : SlotNo) (c : Clock) (p : Port) (d : Dev) :
    d.writeBar2 c p (slotAt n 0) data = cmdWordWrite p n (BitVec.ofNat 64 (leNat data)) c d := by
  have hlt := slotAt_zero_lt n
  have hal : slotAt n 0 % 4096 = 0 := by simp [slotAt]
  have hslot : Fin.ofNat 512 (slotAt n 0 / 4096) = n := by simp [slotAt]
  simp only [Dev.writeBar2, hlt, hal, h8, hslot, decide_true, Bool.and_self, if_true]

/-- Any other write into the field book stores its bytes and starts nothing (R414). -/
theorem writeBar2_fieldBook {a : Nat} {data : List Byte} (ha : a < 0x200000) (h : ¬(a % 4096 = 0 ∧ data.length = 8)) (c : Clock) (p : Port) (d : Dev) :
    d.writeBar2 c p a data = d.updPort p fun h => { h with slots := Mem.hostWrite h.slots a data } := by
  have hsub : (decide (a % 4096 = 0) && decide (data.length = 8)) = false := by simpa using h
  simp [Dev.writeBar2, ha, hsub]

/-! ### Bytes of the field book -/

/-- One byte that a host writes lands at its address if the host may write there. -/
theorem rd_hostWrite_byte {m : Mem} {a : Nat} (ha : a < 0x200000) (hw : Mem.wf m = true) (b : Byte) (x : Nat) :
    Mem.rd (if a < 0x200000 && hostWritable a then Mem.wr m a b else m) x = if x = a ∧ hostWritable x = true then b else Mem.rd m x := by
  by_cases hx : x = a
  · subst hx
    cases hostWritable x <;> simp [ha, rd_wr_same x b hw]
  · simp only [hx, false_and, if_false]
    split
    · exact rd_wr_other b hx
    · rfl

/-- What a host's write into the field book leaves to be read: its bytes, but not in STATUS_WORD and COUNT_WORD (R411). -/
theorem rd_hostWrite {m : Mem} {a : Nat} {bs : List Byte} (hb : a + bs.length ≤ 0x200000) (hw : Mem.wf m = true) (x : Nat) :
    Mem.rd (Mem.hostWrite m a bs) x = if a ≤ x ∧ x < a + bs.length ∧ hostWritable x = true then bs.getD (x - a) 0 else Mem.rd m x := by
  induction bs generalizing m a with
  | nil =>
    have hout : ¬(a ≤ x ∧ x < a + ([] : List Byte).length ∧ hostWritable x = true) := by simp only [List.length_nil]; omega
    rw [if_neg hout, Mem.hostWrite]
  | cons b bs ih =>
    simp only [List.length_cons] at hb ⊢
    have hw' : Mem.wf (if a < 0x200000 && hostWritable a then Mem.wr m a b else m) = true := by
      split
      · exact wr_wf a b hw
      · exact hw
    rw [Mem.hostWrite, ih (by omega) hw', rd_hostWrite_byte (by omega) hw]
    rcases Nat.lt_trichotomy x a with hlt | rfl | hgt
    · rw [if_neg (by omega), if_neg (by omega), if_neg (by omega)]
    · simp
    · have hne : x ≠ a := by omega
      have hsub : x - a = x - (a + 1) + 1 := by omega
      have hin : (a + 1 ≤ x ∧ x < a + 1 + bs.length ∧ hostWritable x = true) ↔ (a ≤ x ∧ x < a + (bs.length + 1) ∧ hostWritable x = true) := by
        rw [← and_assoc, ← and_assoc]; exact and_congr_left' (by omega)
      simp only [hin, hne, false_and, if_false, hsub, List.getD_cons_succ]

/-! ### The statement -/

/-- Settles O9. It holds: each address takes one branch of the write's dispatch, and the bytes of a field-book write land one after another. -/
theorem plainRegistersAndFieldBook : Obligations.PlainRegistersAndFieldBook := by
  refine ⟨?_, ?_, ?_⟩
  · intro s v t p data w hv hon hadm h8 hw
    subst hw
    have plain (a : Nat) (ha : plainAddr a = true) := exec_plain_register hv ha h8 hon hadm
    refine ⟨plain 0x200 (by decide), plain 0x10010 (by decide), plain 0x30008 (by decide), plain 0x30010 (by decide), plain 0x30020 (by decide),
      plain 0x30028 (by decide), plain 0x70000 (by decide), plain 0x60108 (by decide), ?_, ?_⟩
    · rw [exec_bar2 hv hon (by decide) (by omega) (by omega), writeBar2_irqCtrl h8]; rfl
    · intro a short ha hne hnarrow hle
      exact exec_narrow_register hv ha (List.length_pos_of_ne_nil hne) hle (by omega)
  · intro s v t p n data hv hon h8
    have hlt := slotAt_zero_lt n
    rw [exec_bar2 hv hon (by omega) (by omega) (by omega), writeBar2_cmdWord h8, exec_cmdWordWrite, ← hv]; rfl
  · intro s v t p a data hv hon h1 h8 hother hin hwf
    refine ⟨_, Mem.hostWrite (v.dev.port p).slots a data, exec_bar2 hv hon (by omega) h1 h8, ?_, rd_hostWrite hin hwf⟩
    rw [writeBar2_fieldBook (by omega) (by omega)]
    exact congrArg (fun d => { v with dev := d }) (updPort_congr rfl)

end Sys2Proof.Proofs

/-! SUPPORT. What the root certifies of a query's merged entries, and the statement that no certified entry can still be preceded. -/

namespace Sys2Proof.Proofs

open Sys2Proof Sys2Proof.Machine Sys2Proof.Laws

/-! ### Merged entries -/

/-- Dropping the entries whose ID has occurred keeps the IDs of the list distinct (R117). -/
theorem dedupIds_nodup (es out : List KeyId) (h : (out.map (·.id)).Nodup) : ((dedupIds es out).map (·.id)).Nodup := by
  induction es generalizing out with
  | nil => exact h
  | cons e es ih =>
    refine ih _ ?_
    split
    · exact h
    next hnew =>
      have hfresh : e.id ∉ out.map (·.id) := by simpa using hnew
      rw [List.map_append, List.map_singleton, ← List.concat_eq_append]
      exact h.concat hfresh

theorem merged_nodup (q : Query) : (q.merged.map (·.id)).Nodup := dedupIds_nodup _ [] List.nodup_nil

/-! ### Certification -/

/-- Each fragment certifies what stands at or before its horizon (R121). -/
theorem not_before_of_certifies {q : Query} {e h : KeyId} {f : QFrag} (hc : q.certifies e = true) (hf : f ∈ q.frags) (hh : f.horizon = some h) :
    h.before e = false := by
  have hall := List.all_eq_true.mp hc f hf
  simpa [QFrag.complete, hh] using hall

/-- A fragment that has not returned certifies what orders before the last entry it delivered (R38, R121). -/
theorem before_last_of_certifies {q : Query} {e : KeyId} {f : QFrag} (hc : q.certifies e = true) (hf : f ∈ q.frags) (hr : f.returned = none) :
    ∃ x, f.taken.getLast? = some x ∧ e.before x = true := by
  have hall := List.all_eq_true.mp hc f hf
  have hh : f.horizon = none := by simp [QFrag.horizon, hr]
  rcases hlast : f.taken.getLast? with _ | x
  · simp [QFrag.complete, hh, hr, hlast] at hall
  · exact ⟨x, rfl, by simpa [QFrag.complete, hh, hr, hlast] using hall⟩

theorem certified_prefix (q : Query) : q.certified <+: q.merged := List.takeWhile_prefix _

/-- Settles O25. It holds: the certified entries are the merged ones up to the first that some fragment does not certify. -/
theorem certifiedEntriesStand : Obligations.CertifiedEntriesStand := by
  intro q
  refine ⟨certified_prefix q, (merged_nodup q).sublist ((certified_prefix q).sublist.map _), fun e he f hf => ?_⟩
  have hc : q.certifies e = true := List.mem_takeWhile_imp he
  exact ⟨fun h => not_before_of_certifies hc hf, before_last_of_certifies hc hf⟩

end Sys2Proof.Proofs

/-! SUPPORT. Commands as steps: a well-formed command of the device leaves what its function makes of the device, and an accepted slot command whose own checks pass what its run makes of it. -/

namespace Sys2Proof.Proofs

open Sys2Proof Sys2Proof.Machine Sys2Proof.Laws

/-- A well-formed command whose effect lies in the device alone. -/
theorem exec_onDev {i : Instr} {t : Nat} {f : Clock → Dev → Dev} {s v : State} {d : Dev} (hi : exec i s = happens i t (·.onDev f) s) (hwf : i.wf = true)
    (hv : v = s.tick t) (hd : f v.clk v.dev = d) : exec i s = .next { v with dev := d } := by
  rw [hi, happens_wf _ _ _ _ hwf, ← hv, ← hd]
  rfl

/-- A well-formed command that leaves the device as it was. -/
theorem exec_idle {i : Instr} {t : Nat} {f : Clock → Dev → Dev} {s v : State} (hi : exec i s = happens i t (·.onDev f) s) (hwf : i.wf = true)
    (hv : v = s.tick t) (hd : f v.clk v.dev = v.dev) : exec i s = .next v := exec_onDev hi hwf hv hd

section SlotCommands
variable {i : Instr} {op : Nat} {row : Cmd → Bool} {bad : Clock → Dev → Cmd → Bool} {run : Clock → Dev → Cmd → Dev} {k : Take} {s v : State} {cmd : Cmd}

/-- A command whose areas are the same before and after its record is made: they must be the port's own and under no fence (R292, R311). -/
theorem exec_slot_areas {areas : Dev → Cmd → List (Nat × Nat)} {l : List (Nat × Nat)}
    (hi : exec i s = happens i k.t (·.onDev (runSlot op row bad areas run k)) s) (hwf : i.wf = true) (hv : v = s.tick k.t) (ha : Accepted k op v cmd)
    (hl : ∀ d, areas d cmd = l) (hareas : AreasOk v cmd l) (hrow : row cmd = true) (hbad : bad v.clk (v.dev.takeCmd cmd) cmd = false) :
    exec i s = .next (v.ran cmd (run v.clk (v.ready cmd) cmd)) := by
  have hrun : runSlot op row bad areas run k v.clk v.dev = (run v.clk (v.ready cmd) cmd).showRunning cmd.ref :=
    runSlot_accepted ha hrow hbad (fun a h => (hareas a (hl _ ▸ h)).1) (fun a h => (hareas a (hl _ ▸ h)).2)
  exact exec_onDev hi hwf hv hrun

/-- A command that names no input areas. -/
theorem exec_slot (hi : exec i s = happens i k.t (·.onDev (runSlot op row bad noAreas run k)) s) (hwf : i.wf = true) (hv : v = s.tick k.t)
    (ha : Accepted k op v cmd) (hrow : row cmd = true) (hbad : bad v.clk (v.dev.takeCmd cmd) cmd = false) :
    exec i s = .next (v.ran cmd (run v.clk (v.ready cmd) cmd)) :=
  exec_slot_areas hi hwf hv ha (fun _ => rfl) (fun _ h => absurd h List.not_mem_nil) hrow hbad

end SlotCommands

end Sys2Proof.Proofs

/-! SUPPORT. A search.batch past the checks of R422: whether it waits for what this node does not hold yet, and what the gate's answer makes of it. -/

namespace Sys2Proof.Proofs

open Sys2Proof Sys2Proof.Machine Sys2Proof.Laws

/-! ### The command's run -/

/-- An accepted search.batch whose descriptors stand the checks comes to its admission. -/
theorem exec_searchBatch {s v : State} {k : Take} {cmd : Cmd} (hv : v = s.tick k.t) (ha : Accepted k 0x0300 v cmd)
    (hareas : AreasOk v cmd [(cmd.f 0x48 8, cmd.f 0x50 8)]) (hbad : searchBatchBad v.clk (v.dev.takeCmd cmd) cmd = false) :
    exec (.searchBatch k) s = .next (v.ran cmd (searchAdmit v.clk (v.ready cmd) cmd)) :=
  exec_slot_areas (areas := searchAreas) rfl rfl hv ha (fun _ => rfl) hareas rfl hbad

/-- The generation in force now is read off the generations this node holds and the clock. -/
theorem ready_genNow (v : State) (cmd : Cmd) (c : Clock) : (v.ready cmd).genNow c = v.dev.genNow c := by
  simp only [Dev.genNow, Dev.station, ready_plat]

/-! ### Admission -/

section Admission
variable {c : Clock} {d : Dev} {cmd : Cmd} {g : PlatGen}

/-- The policer's charge for a batch (R440). -/
def batchCharge (d : Dev) (g : PlatGen) (qs : List Desc) : Nat := natSum (qs.map (d.queryCharge g))

/-- What the gate says of a batch in a generation. -/
def batchGate (c : Clock) (d : Dev) (cmd : Cmd) (g : PlatGen) : Nat ⊕ Dev :=
  d.gate c cmd (batchCharge d g (d.batch cmd)) (d.batch cmd).length (cmd.deadline != 0 && cmd.deadline ≤ c.now)

/-- The node lacks the generation in force, or a search space that a query names. -/
def searchLacks (c : Clock) (d : Dev) (cmd : Cmd) (g : PlatGen) : Bool :=
  !(d.knowsGen (d.station c)) || (d.batch cmd).any fun q => (d.targetSpace g q.parcel).isNone

theorem searchLacks_eq_false (hk : d.knowsGen (d.station c) = true) (hs : ∀ q ∈ d.batch cmd, (d.targetSpace g q.parcel).isSome = true) :
    searchLacks c d cmd g = false := by
  have hany : ((d.batch cmd).any fun q => (d.targetSpace g q.parcel).isNone) = false := by
    rw [List.any_eq_false]
    intro q hq
    simp [Option.ne_none_iff_isSome, hs q hq]
  simp [searchLacks, hk, hany]

theorem searchLacks_eq_true (h : d.knowsGen (d.station c) = false ∨ ∃ q ∈ d.batch cmd, d.targetSpace g q.parcel = none) :
    searchLacks c d cmd g = true := by
  rcases h with hk | ⟨q, hq, hn⟩
  · simp [searchLacks, hk]
  · have hany : ((d.batch cmd).any fun q => (d.targetSpace g q.parcel).isNone) = true := List.any_eq_true.mpr ⟨q, hq, by simp [hn]⟩
    simp [searchLacks, hany]

variable (hfree : (d.pwr.ps != 0 || vgetD d.pwr.hold 0 0 != 0) = false) (hg : d.genNow c = some g)
include hfree hg

/-- A search that lacks a generation or a space waits while datum time is held (R371). -/
theorem searchAdmit_waits (hl : searchLacks c d cmd g = true) (ht : d.holdsTime c = true) :
    searchAdmit c d cmd = ({ d with root := { d.root with waiting := d.root.waiting ++ [cmd.ref] } }).count 101 0 1 := by
  simp only [searchLacks] at hl
  simp only [searchAdmit, hfree, hg, hl, ht, Bool.and_self, Bool.false_eq_true, if_false, if_true]

/-- A batch that lacks nothing and that the gate refuses is not admitted (R28, R29). -/
theorem searchAdmit_refused {st : Nat} (hl : searchLacks c d cmd g = false) (hgate : batchGate c d cmd g = .inl st) :
    searchAdmit c d cmd = d.notAdmitted cmd st := by
  simp only [searchLacks] at hl
  simp only [batchGate, batchCharge] at hgate
  simp only [searchAdmit, hfree, hg, hl, hgate, Bool.false_and, Bool.false_eq_true, if_false]

/-- A batch that lacks nothing and that the gate lets in gets its contexts and headers, is reported running and has its queries started (R30, R31, R135). -/
theorem searchAdmit_starts {d1 : Dev} (hl : searchLacks c d cmd g = false) (hgate : batchGate c d cmd g = .inr d1) :
    searchAdmit c d cmd = ((d.batch cmd).zipIdx).foldl (fun (x : Dev) e => x.startQuery c (d1.root.nextCtx + e.2) e.1)
      ((d1.makeQueries c cmd g (d1.deadlineOf c cmd) ((d.batch cmd).zip (recOffsets (d.batch cmd))) 0).showRunning cmd.ref) := by
  simp only [searchLacks] at hl
  simp only [batchGate, batchCharge] at hgate
  simp only [searchAdmit, hfree, hg, hl, hgate, Bool.false_and, Bool.false_eq_true, if_false]

end Admission

/-! ### The statement -/

/-- Settles O24. It holds: once R422's checks are passed, what the node holds and what the gate answers decide between the three outcomes. -/
theorem searchBatchStarts : Obligations.SearchBatchStarts := by
  intro s v k cmd g qs r hv ha hr hareas hbad hps hhold hg hqs
  subst hr hqs
  have hrun := exec_searchBatch hv ha hareas hbad
  have hfree : ((v.ready cmd).pwr.ps != 0 || vgetD (v.ready cmd).pwr.hold 0 0 != 0) = false := by rw [ready_pwr, hps, hhold]; rfl
  have hg' := (ready_genNow v cmd v.clk).trans hg
  refine ⟨fun hk hs => ⟨fun d1 hgate => ?_, fun st hgate => ?_⟩, fun hl ht => ?_⟩
  · rw [hrun, searchAdmit_starts hfree hg' (searchLacks_eq_false hk hs) hgate]
  · rw [hrun, searchAdmit_refused hfree hg' (searchLacks_eq_false hk hs) hgate]
  · rw [hrun, searchAdmit_waits hfree hg' (searchLacks_eq_true hl) ht]

end Sys2Proof.Proofs

/-! SUPPORT. Parcel and item commands at their entry node: what each hands to the leaf's lead, and what parcel.drop and parcel.stats answer here. -/

namespace Sys2Proof.Proofs

open Sys2Proof Sys2Proof.Machine Sys2Proof.Laws

section EntryNode
variable {s v : State} {k : Take} {cmd : Cmd}

/-! ### Parcel commands -/

theorem exec_parcelCreate (hv : v = s.tick k.t) (ha : Accepted k 0x0200 v cmd) (hbad : parcelCreateBad v.clk (v.dev.takeCmd cmd) cmd = false) :
    exec (.parcelCreate k) s =
      .next (v.ran cmd ((v.ready cmd).submit v.clk { (v.ready cmd).updCmd .create cmd (cmd.f 0x40 4) [] with cfg := cmd.leafCfg })) :=
  exec_slot (run := parcelCreateRun) rfl rfl hv ha rfl hbad

/-- What generations name is read off the clock and the plat, which the take leaves alone. -/
theorem named_takeCmd (d : Dev) (cmd : Cmd) (c : Clock) (parcel : Nat) : (d.takeCmd cmd).named c parcel = d.named c parcel := rfl

theorem exec_parcelLoad (plan : Plan) (hv : v = s.tick k.t) (ha : Accepted k 0x0201 v cmd) (hareas : AreasOk v cmd [(cmd.f 0x48 8, cmd.f 0x50 8)])
    (hnamed : (v.dev.named v.clk (cmd.f 0x40 4)).isSome = true) (hlen : cmd.f 0x50 8 ≠ 0) :
    exec (.parcelLoad k plan) s =
      .next (v.ran cmd ((v.ready cmd).submit v.clk { (v.ready cmd).updCmd .load cmd (cmd.f 0x40 4) [] with plan := some plan })) := by
  have hbad : parcelLoadBad v.clk (v.dev.takeCmd cmd) cmd = false := by
    simp [parcelLoadBad, named_takeCmd, hnamed, hlen]
  exact exec_slot_areas (areas := parcelLoadAreas) (run := parcelLoadRun plan) rfl rfl hv ha (fun _ => rfl) hareas rfl hbad

/-- In the basic form the fields of the expert form read zero (R425): no cut station, no rescale. -/
theorem parcelClosureRun_basic (hx : cmd.expert = false) (c : Clock) (d : Dev) :
    parcelClosureRun c d cmd = d.submit c { d.updCmd .closure cmd (cmd.f 0x40 4) [] with closureU := cmd.f 0x48 8 } := by
  simp [parcelClosureRun, Cmd.e, hx, bitAt, Dev.updCmd]

theorem exec_parcelClosure (hv : v = s.tick k.t) (ha : Accepted k 0x0203 v cmd) (hnamed : (v.dev.named v.clk (cmd.f 0x40 4)).isSome = true)
    (hx : cmd.expert = false) :
    exec (.parcelClosure k) s =
      .next (v.ran cmd ((v.ready cmd).submit v.clk { (v.ready cmd).updCmd .closure cmd (cmd.f 0x40 4) [] with closureU := cmd.f 0x48 8 })) := by
  have hbad : parcelClosureBad v.clk (v.dev.takeCmd cmd) cmd = false := by
    simp [parcelClosureBad, named_takeCmd, hnamed, Cmd.e, hx, bitAt]
  rw [← parcelClosureRun_basic hx]
  exact exec_slot rfl rfl hv ha rfl hbad

theorem exec_parcelDrop (hv : v = s.tick k.t) (ha : Accepted k 0x0202 v cmd) (hnames : v.dev.namesLeaf v.clk (cmd.f 0x40 4) = false)
    (hid : cmd.f 0x40 4 ≠ Config.noParcel) : exec (.parcelDrop k) s = .next (v.ran cmd ((v.ready cmd).endCmd v.clk cmd.ref stOk 0 0 [])) := by
  have hbad : parcelDropBad v.clk (v.dev.takeCmd cmd) cmd = false := by
    have hnames' : (v.dev.takeCmd cmd).namesLeaf v.clk (cmd.f 0x40 4) = false := hnames
    simp [parcelDropBad, hnames', hid]
  exact exec_slot (run := parcelDropRun) rfl rfl hv ha rfl hbad

/-- parcel.stats of WHAT 0 writes the copy's 128 bytes and counts one record (R434). -/
theorem parcelStatsRun_copy {d : Dev} {l : Leaf} (c : Clock) (hwhat : cmd.f 0x44 1 = 0) (hl : d.leaf (cmd.f 0x40 4) = some l) :
    parcelStatsRun c d cmd = (d.result cmd 0 (statsBytes c d l)).endCmd c cmd.ref stOk 0 1 [] := by
  simp [parcelStatsRun, hwhat, hl]

theorem exec_parcelStats {l : Leaf} (hv : v = s.tick k.t) (ha : Accepted k 0x0204 v cmd) (hwhat : cmd.f 0x44 1 = 0)
    (hl : v.dev.leaf (cmd.f 0x40 4) = some l) (hlen : 128 ≤ cmd.resultLen) :
    exec (.parcelStats k) s = .next (v.ran cmd (((v.ready cmd).result cmd 0 (statsBytes v.clk (v.ready cmd) l)).endCmd v.clk cmd.ref stOk 0 1 [])) := by
  have hbad : parcelStatsBad v.clk (v.dev.takeCmd cmd) cmd = false := by
    have hl' : (v.dev.takeCmd cmd).leaf (cmd.f 0x40 4) = some l := hl
    simp [parcelStatsBad, hl', hwhat, hlen]
  have hl' : (v.ready cmd).leaf (cmd.f 0x40 4) = some l := by rw [Dev.leaf, ready_leaves]; exact hl
  rw [← parcelStatsRun_copy v.clk hwhat hl']
  exact exec_slot rfl rfl hv ha rfl hbad

/-! ### Item commands -/

/-- The search space of a leaf is read off the plat, which the take and a fresh record leave alone. -/
theorem ready_itemSpace (v : State) (cmd : Cmd) (c : Clock) (parcel : Nat) : (v.ready cmd).itemSpace c parcel = v.dev.itemSpace c parcel := by
  rw [ready_eq]; rfl

/-- An item command goes towards the lead: a deletion always, another when its leaf's search space is held here (R144, log 32). -/
theorem itemRun_submits {kind : UpdKind} {c : Clock} {d : Dev} (h : kind = .delete ∨ (d.itemSpace c (cmd.f 0x40 4)).isSome = true) :
    itemRun kind c d cmd = d.submit c (d.updCmd kind cmd (cmd.f 0x40 4) (d.readItems c kind cmd)) := by
  have hheld : (kind != .delete && (d.itemSpace c (cmd.f 0x40 4)).isNone) = false := by
    rcases h with h | h
    · simp [h]
    · simp [h]
  simp [itemRun, hheld]

/-- The common part of the four item commands. -/
theorem exec_item {i : Instr} {op : Nat} {kind : UpdKind} {areas : List (Nat × Nat)}
    (hi : exec i s = happens i k.t (·.onDev (runSlot op allRows (itemCmdBad kind) (itemAreas (kind = .delete)) (itemRun kind) k)) s) (hwf : i.wf = true)
    (hv : v = s.tick k.t) (ha : Accepted k op v cmd) (hl : ∀ d, itemAreas (kind = .delete) d cmd = areas) (hareas : AreasOk v cmd areas)
    (hbad : itemCmdBad kind v.clk (v.dev.takeCmd cmd) cmd = false) (hheld : kind = .delete ∨ (v.dev.itemSpace v.clk (cmd.f 0x40 4)).isSome = true) :
    exec i s = .next (v.ran cmd ((v.ready cmd).submit v.clk ((v.ready cmd).updCmd kind cmd (cmd.f 0x40 4) ((v.ready cmd).readItems v.clk kind cmd)))) := by
  rw [← itemRun_submits (by rwa [ready_itemSpace])]
  exact exec_slot_areas hi hwf hv ha hl hareas rfl hbad

end EntryNode

/-! ### The statement -/

/-- Settles O29. It holds: each command passes its own checks and its run is the one case the statement names. -/
theorem parcelAndItemCommands : Obligations.ParcelAndItemCommands := by
  refine ⟨⟨?_, ?_, ?_, ?_, ?_⟩, ?_⟩
  · exact fun s v k cmd hv ha hbad => exec_parcelCreate hv ha hbad
  · exact fun s v k cmd plan hv ha hareas hnamed hlen => exec_parcelLoad plan hv ha hareas hnamed hlen
  · exact fun s v k cmd hv ha hnamed hx => exec_parcelClosure hv ha hnamed hx
  · exact fun s v k cmd hv ha hnames hid => exec_parcelDrop hv ha hnames hid
  · exact fun s v k cmd l hv ha hwhat hl hlen => exec_parcelStats hv ha hwhat hl hlen
  · intro s v k cmd recs hv hrecs
    subst hrecs
    refine ⟨fun ha hareas hbad => exec_item rfl rfl hv ha (fun _ => rfl) hareas hbad (.inl rfl), fun hareas hheld => ⟨?_, ?_, ?_⟩⟩
    · exact fun ha hbad => exec_item rfl rfl hv ha (fun _ => rfl) hareas hbad (.inr hheld)
    · exact fun ha hbad => exec_item rfl rfl hv ha (fun _ => rfl) hareas hbad (.inr hheld)
    · exact fun ha hbad => exec_item rfl rfl hv ha (fun _ => rfl) hareas hbad (.inr hheld)

end Sys2Proof.Proofs

/-! SUPPORT. A fragment at its leaf, from its arrival to its end: where it is sent on, held, started, queued and answered as expired; and the batch window of a list's oldest probes. -/

namespace Sys2Proof.Proofs

open Sys2Proof Sys2Proof.Machine Sys2Proof.Laws

section Fragments
variable {s v : State} {t : Nat}

/-! ### Arrival -/

theorem exec_fragmentArrival (hv : v = s.tick t) (fs : List Frag) :
    exec (.fragmentArrival t fs) s = .next { v with dev := fragmentArrival fs v.clk v.dev } := exec_onDev rfl rfl hv rfl

/-- What arrives while the fabric carries no work is not taken (R471). -/
theorem fragmentArrival_dropped {d : Dev} (fs : List Frag) (c : Clock) (h : d.carries = false) : fragmentArrival fs c d = d := by
  simp [fragmentArrival, h]

theorem fragmentArrival_single {d : Dev} (f : Frag) (c : Clock) (h : d.carries = true) : fragmentArrival [f] c d = d.takeFrag c f := by
  simp [fragmentArrival, h]

/-- A fragment whose generation is not held waits for it (R381). -/
theorem takeFrag_wait {d : Dev} {f : Frag} (c : Clock) (h : d.routeWork f.gen f.bench f.key.parcel f.rank f.fwd = .wait) :
    d.takeFrag c f = ({ d with plat := { d.plat with waitFrags := d.plat.waitFrags ++ [f] } } : Dev).wantGen f.gen := by
  simp only [Dev.takeFrag, h]

theorem takeFrag_serve {d : Dev} {f : Frag} (c : Clock) (h : d.routeWork f.gen f.bench f.key.parcel f.rank f.fwd = .serve) :
    d.takeFrag c f = d.acceptFrag c f := by
  simp only [Dev.takeFrag, h]

/-- A fragment that passes the checks at its leaf is held, unsettled (R23, R93, R148, R388). -/
theorem acceptFrag_held {d : Dev} {c : Clock} {f : Frag} {l : Leaf} (hl : d.leaf f.key.parcel = some l) (hnew : d.frag? f.key = none)
    (htime : c.now < f.deadline) (hserves : l.serves f.bench = true) (hfree : (d.pwr.ps != 0 || vgetD d.pwr.hold 0 0 != 0) = false)
    (htag : fieldN f.scale 12 4 = tableTag f.tables f.scale) (hplan : l.loadedAt f.bench = true → l.planGen = scalePlanGen f.scale) :
    d.acceptFrag c f = (({ d with scan := { d.scan with
      frags := d.scan.frags ++ [⟨f, .unsettled, [], 0, [], 0, [], 0, 0, [], false, [], 0, false, false⟩] } } : Dev).count 23 0 (boolNat !(l.reached f.bench))) := by
  have hlate : ¬ f.deadline ≤ c.now := Nat.not_le.mpr htime
  have hfail : (!(l.serves f.bench) || d.pwr.ps != 0 || vgetD d.pwr.hold 0 0 != 0 || fieldN f.scale 12 4 != tableTag f.tables f.scale) = false := by
    simp only [hserves, htag, Bool.not_true, Bool.false_or, hfree, bne_self_eq_false, Bool.or_false]
  have hstale : (l.loadedAt f.bench && l.planGen != scalePlanGen f.scale) = false := by
    rcases hload : l.loadedAt f.bench with _ | _
    · rfl
    · simp [hplan hload]
  simp only [Dev.acceptFrag, hnew, hl, hlate, hfail, hstale, Option.isSome_none, Bool.false_eq_true, if_false]

/-! ### Start, queues and DEADLINE -/

/-- A settled fragment takes its lists in coarse order and probes them (R35, R101). -/
theorem fragmentSettledStart_probes {d : Dev} {c : Clock} {key : FragKey} {f : LFrag} {l : Leaf} {sp : Space} {order : List Nat} {p : Nat}
    (hf : d.frag? key = some f) (hstage : f.stage = .unsettled) (hl : d.leaf key.parcel = some l) (hreached : l.reached f.frag.bench = true)
    (htime : c.now < f.frag.deadline) (hserves : l.serves f.frag.bench = true) (hload : l.loadedAt f.frag.bench = true) (hsp : d.spaceOf l = some sp)
    (ho : order = coarseOrder sp l f.frag) (hp : p = min order.length (if f.frag.np = 0 then ((l.cfg.map (·.np)).getD 1) else f.frag.np))
    (hheld : d.probesHeld l (order.take p) = false) (htest : d.dieTested (key.parcel % 10) = false) :
    fragmentSettledStart key c d =
      ((d.leafTask.updFrag key fun x => ({ x with order := order, p := p } : LFrag).addProbes l (order.take p)).enqueue c key).roundEnd c key := by
  subst ho hp
  have hlate : ¬ f.frag.deadline ≤ c.now := Nat.not_le.mpr htime
  simp only [fragmentSettledStart, hf, hstage, hl, hreached, hlate, hserves, hsp, hload, hheld, htest, Option.filter_some, decide_true, Bool.not_true,
    decide_false, Bool.or_self, Bool.false_eq_true, if_false, if_true]

theorem exec_fragmentSettledStart (hv : v = s.tick t) (key : FragKey) :
    exec (.fragmentSettledStart t key) s = .next { v with dev := fragmentSettledStart key v.clk v.dev } := exec_onDev rfl rfl hv rfl

/-- Probes held at the input enter their queues (R70). -/
theorem exec_probeEnqueue (hv : v = s.tick t) {key : FragKey} {f : LFrag} (hf : v.dev.frag? key = some f) (hstage : f.stage = .held) :
    exec (.probeEnqueue t key) s = .next { v with dev := v.dev.enqueue v.clk key } := by
  have hd : probeEnqueue key v.clk v.dev = v.dev.enqueue v.clk key := by simp [probeEnqueue, hf, hstage, Option.filter]
  exact exec_onDev rfl rfl hv hd

/-- A fragment still held at its DEADLINE is answered as expired (R140). -/
theorem exec_fragmentDeadline (hv : v = s.tick t) {key : FragKey} {f : LFrag} (hf : v.dev.frag? key = some f) (hlate : f.frag.deadline ≤ v.clk.now) :
    exec (.fragmentDeadline t key) s = .next { v with dev := (v.dev.send clsQuery key.root (.fragExpired key)).dropFrag key } := by
  have hd : fragmentDeadline key v.clk v.dev = (v.dev.send clsQuery key.root (.fragExpired key)).dropFrag key := by
    simp [fragmentDeadline, hf, hlate, Option.filter]
  exact exec_onDev rfl rfl hv hd

/-! ### Batch windows -/

/-- A probe of a place, leaf, list and version, no companion, that has waited a window of w ns by a time (R68). -/
def windowOut (place : Place) (parcel list ver w now : Nat) (x : Probe) : Bool :=
  x.place = place && x.key.parcel = parcel && x.list = list && x.ver = ver && x.set = 0 && decide (x.time + w ≤ now)

theorem windowOut_iff {place : Place} {parcel list ver w now : Nat} {x : Probe} : windowOut place parcel list ver w now x = true ↔
    x.place = place ∧ x.key.parcel = parcel ∧ x.list = list ∧ x.ver = ver ∧ x.set = 0 ∧ x.time + w ≤ now := by
  simp only [windowOut, Bool.and_eq_true, decide_eq_true_eq, and_assoc]

/-- Probes marked as due where a test says so. -/
def markDue (out : Probe → Bool) (ps : List Probe) : List Probe := updIf out (fun x => { x with due := true }) ps

theorem mem_markDue {out : Probe → Bool} {ps : List Probe} {p : Probe} :
    p ∈ markDue out ps ↔ ∃ x ∈ ps, p = if out x then { x with due := true } else x := by
  simp only [markDue, updIf, List.mem_map, eq_comm]

/-- Marking changes nothing of a probe but whether it is due. -/
theorem markDue_map_due (out : Probe → Bool) (ps : List Probe) :
    (markDue out ps).map (fun p => { p with due := false }) = ps.map (fun p => { p with due := false }) := by
  rw [markDue, updIf, List.map_map]
  refine List.map_congr_left fun x _ => ?_
  rcases h : out x with _ | _ <;> simp [h]

/-- After marking, what passes the test is due. -/
theorem due_of_mem_markDue {out : Probe → Bool} {ps : List Probe} {p : Probe} (hp : p ∈ markDue out ps)
    (hout : out p = true) : p.due = true := by
  obtain ⟨x, -, rfl⟩ := mem_markDue.mp hp
  by_cases hx : out x = true
  · simp [hx]
  · simp [hx] at hout

/-- A probe that marking by a test blind to the mark brought in passes the test and is due. -/
theorem new_of_mem_markDue {out : Probe → Bool} (hblind : ∀ x b, out { x with due := b } = out x) {ps : List Probe} {p : Probe} (hp : p ∈ markDue out ps)
    (hnew : p ∉ ps) : p.due = true ∧ out p = true := by
  obtain ⟨x, hx, rfl⟩ := mem_markDue.mp hp
  by_cases h : out x = true
  · simp [h, hblind]
  · simp [h, hx] at hnew

theorem exec_batchWindowExpiry {chan : Bool} {unit parcel : Nat} {l : Leaf} {x : LeafCfg} (hv : v = s.tick t) (hplace : placeOk chan unit = true)
    (hl : v.dev.leaf parcel = some l) (hx : l.cfg = some x) (list ver : Nat) :
    exec (.batchWindowExpiry t chan unit parcel list ver) s = .next { v with dev := { v.dev with scan := { v.dev.scan with
      probes := markDue (windowOut ⟨chan, unit⟩ parcel list ver (1000 * x.wUs) v.clk.now) v.dev.scan.probes } } } := by
  have hd : batchWindowExpiry chan unit parcel list ver v.clk v.dev = { v.dev with scan := { v.dev.scan with
      probes := markDue (windowOut ⟨chan, unit⟩ parcel list ver (1000 * x.wUs) v.clk.now) v.dev.scan.probes } } := by
    simp only [batchWindowExpiry, hl, hx]; rfl
  exact exec_onDev rfl hplace hv hd

end Fragments

/-! ### The statement -/

/-- Settles O27. It holds: each command finds the fragment or the probes it names and takes the one branch the hypotheses leave. -/
theorem fragmentsAndWindows : Obligations.FragmentsAndWindows := by
  refine ⟨⟨?_, ?_, ?_, ?_⟩, ?_⟩
  · intro s v t fs hv h
    rw [exec_fragmentArrival hv, fragmentArrival_dropped fs v.clk h]
  · refine fun s v t f hv h => ⟨fun hroute => ?_, fun l hroute hl hnew htime hserves hps hhold htag hplan => ?_⟩
    · rw [exec_fragmentArrival hv, fragmentArrival_single f v.clk h, takeFrag_wait v.clk hroute]
    · have hfree : (v.dev.pwr.ps != 0 || vgetD v.dev.pwr.hold 0 0 != 0) = false := by rw [hps, hhold]; rfl
      rw [exec_fragmentArrival hv, fragmentArrival_single f v.clk h, takeFrag_serve v.clk hroute, acceptFrag_held hl hnew htime hserves hfree htag hplan]
  · intro s v t key f l sp hv hf hstage hl hreached htime hserves hload hsp order p hheld htest
    rw [exec_fragmentSettledStart hv, fragmentSettledStart_probes hf hstage hl hreached htime hserves hload hsp rfl rfl hheld htest]
  · exact fun s v t key f hv hf => ⟨exec_probeEnqueue hv hf, exec_fragmentDeadline hv hf⟩
  · intro s v t chan unit parcel list ver l x hv hplace hl hx
    have hblind : ∀ (y : Probe) (b : Bool), windowOut ⟨chan, unit⟩ parcel list ver (1000 * x.wUs) v.clk.now { y with due := b } =
        windowOut ⟨chan, unit⟩ parcel list ver (1000 * x.wUs) v.clk.now y := fun _ _ => rfl
    refine ⟨_, exec_batchWindowExpiry hv hplace hl hx list ver, rfl, markDue_map_due _ _, fun p hp h1 h2 h3 h4 h5 h6 => ?_, fun p hp hnew => ?_⟩
    · exact due_of_mem_markDue hp (windowOut_iff.mpr ⟨h1, h2, h3, h4, h5, h6⟩)
    · obtain ⟨hdue, hout⟩ := new_of_mem_markDue hblind hp hnew
      exact ⟨hdue, windowOut_iff.mp hout⟩

end Sys2Proof.Proofs

/-! SUPPORT. What asking for pool pages, the die arrays' bookkeeping and the readers of EMBED rows leave of the models and their waves. -/

namespace Sys2Proof.Proofs

open Sys2Proof Sys2Proof.Machine Sys2Proof.Laws

/-! ### Pool pages -/

@[simp] theorem issueRead_mdl (d : Dev) (c unit cls owner : Nat) : (d.issueRead c unit cls owner).mdl = d.mdl := by
  unfold Dev.issueRead; split <;> rfl

@[simp] theorem readUnit_mdl (d : Dev) (key idx cls owner : Nat) : (d.readUnit key idx cls owner).mdl = d.mdl := by
  unfold Dev.readUnit
  split
  · rfl
  · exact issueRead_mdl _ _ _ _ _

/-- A pool frame is taken from memory alone. -/
theorem takeFrame_mdl {d d1 : Dev} {f : PoolFrame} (h : d.takeFrame f = some d1) : d1.mdl = d.mdl := by
  unfold Dev.takeFrame at h
  split at h
  · cases h; rfl
  · split at h
    · cases h
    · cases h; exact count_mdl _ _ _ _

@[simp] theorem waitPage_mdl (d : Dev) (w : PoolWait) : (d.waitPage w).mdl = d.mdl := by
  unfold Dev.waitPage; split <;> rfl

@[simp] theorem fillPage_mdl (d : Dev) (c : Clock) (w : PoolWait) : (d.fillPage c w).mdl = d.mdl := by
  unfold Dev.fillPage
  split
  · rfl
  split
  · exact waitPage_mdl d w
  split
  · exact waitPage_mdl d w
  next d1 htake =>
    simp only [countTenant_mdl]
    refine (foldl_keeps (fun x : Dev => x.mdl) (fun b a => readUnit_mdl b _ _ _ _) _ _).trans ?_
    refine (foldl_keeps (fun x : Dev × List Nat => x.1.mdl) (fun acc p => ?_) _ _).trans (takeFrame_mdl htake)
    split
    next y hy => exact takeFrame_mdl hy
    · rfl

@[simp] theorem poolAccess_mdl (d : Dev) (c : Clock) (t : Tier) (key page tenant : Nat) : (d.poolAccess c t key page tenant).mdl = d.mdl := by
  unfold Dev.poolAccess
  split
  · exact count_mdl _ _ _ _
  · exact (count_mdl _ _ _ _).trans (fillPage_mdl d c _)

@[simp] theorem askShare_mdl (d : Dev) (c : Clock) (m : Model) (layer die : Nat) : (d.askShare c m layer die).mdl = d.mdl :=
  foldl_keeps (fun x : Dev => x.mdl) (fun b p => by
    split
    · rfl
    · exact poolAccess_mdl b c _ _ _ _) _ d

theorem askShares_mdl (d : Dev) (c : Clock) (m : Model) (shares : List (Nat × Nat)) :
    (shares.foldl (fun (x : Dev) e => x.askShare c m e.1 e.2) d).mdl = d.mdl :=
  foldl_keeps (f := fun (x : Dev) (e : Nat × Nat) => x.askShare c m e.1 e.2) (fun x : Dev => x.mdl) (fun b e => askShare_mdl b c m e.1 e.2) _ d

@[simp] theorem touchPool_mdl (d : Dev) (c : Clock) (key page : Nat) : (d.touchPool c key page).mdl = d.mdl := rfl

theorem touchPages_mdl (d : Dev) (c : Clock) (key : Nat) (pages : List Nat) : (pages.foldl (fun (x : Dev) p => x.touchPool c key p) d).mdl = d.mdl :=
  foldl_keeps (fun x : Dev => x.mdl) (fun b p => touchPool_mdl b c key p) _ d

/-! ### Arrays and readers -/

@[simp] theorem toMatrix_mdl (d : Dev) (die n : Nat) : (d.toMatrix die n).mdl = d.mdl := count_mdl _ _ _ _

/-- Arrays of every die enter matrix mode for the waves (R207). -/
theorem toMatrix_all_mdl (d : Dev) : ((List.range 10).foldl (fun (x : Dev) i => x.toMatrix i x.waveArrays) d).mdl = d.mdl :=
  foldl_keeps (fun x : Dev => x.mdl) (fun b i => toMatrix_mdl b i b.waveArrays) _ d

@[simp] theorem addReader_mdl (d : Dev) (r : Reader) : (d.addReader r).mdl = d.mdl := rfl

@[simp] theorem embedReaders_mdl (d : Dev) (m : Model) (runs : List Run) : (d.embedReaders m runs).mdl = d.mdl := by
  unfold Dev.embedReaders
  split
  · rfl
  · exact foldl_keeps (fun x : Dev => x.mdl) (fun b _ => addReader_mdl b _) _ d

@[simp] theorem countWaits_mdl (d : Dev) (m : Model) (die : Nat) (waits : List (Fin 4 × Nat)) : (d.countWaits m die waits).mdl = d.mdl :=
  foldl_keeps (fun x : Dev => x.mdl) (fun _ _ => count_mdl _ _ _ _) _ d

/-! ### Matrix cycles -/

/-- The array cycles of a wave's tasks on all dies (R207). -/
def waveCycles (d : Dev) : Dev := (List.range 10).foldl Dev.mxCycles d

/-- What a die's counter and the free values leave alone, the cycles of a wave leave alone. -/
theorem waveCycles_keeps {α : Type} (g : Dev → α) (hc : ∀ (d : Dev) (k i n : Nat), g (d.count k i n) = g d) (hf : ∀ d : Dev, g d.fresh.2 = g d) (d : Dev) :
    g (waveCycles d) = g d :=
  foldl_keeps g (fun b die => (hc b.fresh.2 41 die b.fresh.1).trans (hf b)) _ d

@[simp] theorem waveCycles_mdl (d : Dev) : (waveCycles d).mdl = d.mdl := waveCycles_keeps (·.mdl) count_mdl fresh_mdl d
@[simp] theorem waveCycles_cmds (d : Dev) : (waveCycles d).cmds = d.cmds := waveCycles_keeps (·.cmds) count_cmds fresh_cmds d
@[simp] theorem waveCycles_mem (d : Dev) : (waveCycles d).mem = d.mem := waveCycles_keeps (·.mem) count_mem fresh_mem d
@[simp] theorem waveCycles_flash (d : Dev) : (waveCycles d).flash = d.flash := waveCycles_keeps (·.flash) count_flash fresh_flash d
@[simp] theorem waveCycles_chain (d : Dev) : (waveCycles d).chain = d.chain := waveCycles_keeps (·.chain) count_chain fresh_chain d

/-- Poison among a model's weights shows in memory and on flash. -/
theorem weightsPoisoned_congr {d e : Dev} (hm : d.mem = e.mem) (hf : d.flash = e.flash) (m : Model) : d.weightsPoisoned m = e.weightsPoisoned m := by
  simp only [Dev.weightsPoisoned, Dev.chan, hm, hf]

theorem embedReader_congr {d e : Dev} (h : d.chain = e.chain) (uid ix : Nat) : d.embedReader uid ix = e.embedReader uid ix := by
  simp only [Dev.embedReader, h]

theorem cmd?_congr {d e : Dev} (h : d.cmds = e.cmds) (r : Ref) : d.cmd? r = e.cmd? r := by
  simp only [Dev.cmd?, h]

end Sys2Proof.Proofs

/-! SUPPORT. Waves and decode-table generations: which runs a wave takes, the shares it still needs, how it ends, and what model.table_gen makes of a generation that is free, unused or in use. -/

namespace Sys2Proof.Proofs

open Sys2Proof Sys2Proof.Machine Sys2Proof.Laws

/-! ### The runs of a wave -/

theorem natSum_eq_sum (xs : List Nat) : natSum xs = xs.sum := List.sum_eq_foldl.symm

theorem waveTake_prefix (room : Nat) (rs : List Run) : waveTake room rs <+: rs := by
  induction rs generalizing room with
  | nil => exact List.nil_prefix
  | cons r rs ih =>
    unfold waveTake
    split
    · exact List.nil_prefix
    · exact (List.prefix_cons_inj r).mpr (ih _)

/-- A wave's runs have no more rows than there is room for (R219). -/
theorem waveTake_rows (room : Nat) (rs : List Run) : natSum ((waveTake room rs).map fun x => x.rows.length) ≤ room := by
  induction rs generalizing room with
  | nil => exact Nat.zero_le _
  | cons r rs ih =>
    unfold waveTake
    split
    · exact Nat.zero_le _
    next hfits =>
      have hrest := ih (room - r.rows.length)
      rw [natSum_eq_sum] at hrest ⊢
      simp only [List.map_cons, List.sum_cons]
      omega

/-- The run admitted first is taken when it fits. -/
theorem waveTake_cons {room : Nat} {r : Run} (rs : List Run) (h : r.rows.length ≤ room) : waveTake room (r :: rs) = r :: waveTake (room - r.rows.length) rs :=
  if_neg (Nat.not_lt.mpr h)

/-! ### A wave's start -/

section Waves
variable {c : Clock} {d : Dev} {uid : Nat} {m : Model}

/-- No second wave of a model starts (R219). -/
theorem modelWaveStart_beside (c : Clock) (hm : d.model? uid = some m) (hw : ∃ w ∈ d.mdl.waves, w.uid = uid) : modelWaveStart uid c d = d := by
  have hany : (d.mdl.waves.any fun w => w.uid = uid) = true := by simpa using hw
  simp [modelWaveStart, hm, hany]

/-- Shares of a model that are not in its window. -/
def sharesOut (m : Model) : List (Nat × Nat) := m.shares.filter fun x => !(m.filled.contains x)

/-- Runs of a model that wait for no decode table, in admission order. -/
def runsReady (d : Dev) (uid : Nat) : List Run := d.mdl.runs.filter fun x => x.uid = uid && x.tgWait.isEmpty

/-- Where a wave may start, the models take its runs out of the queue and the wave in; nothing else that starts with it touches them. -/
theorem modelWaveStart_mdl (c : Clock) (hm : d.model? uid = some m) (hnone : ∀ w ∈ d.mdl.waves, w.uid ≠ uid) (hrun : d.arraysRun = true)
    (hhold : vgetD d.pwr.hold 0 0 = 0) (htest : ∀ i < 10, d.dieTested i = false) (hne : waveTake Config.waveRows (runsReady d uid) ≠ []) :
    (modelWaveStart uid c d).mdl = { d.mdl with
      runs := d.mdl.runs.filter fun x => !((waveTake Config.waveRows (runsReady d uid)).contains x),
      waves := d.mdl.waves ++ [⟨uid, waveTake Config.waveRows (runsReady d uid), 0, sharesOut m⟩] } := by
  have hany : (d.mdl.waves.any fun w => w.uid = uid) = false := by simpa using hnone
  have htested : (List.range 10).any d.dieTested = false := by simpa using htest
  have hempty : (waveTake Config.waveRows (runsReady d uid)).isEmpty = false := by simpa using hne
  have hheld : (vgetD d.pwr.hold 0 0 != 0) = false := by rw [hhold]; rfl
  have hstop : ((waveTake Config.waveRows (runsReady d uid)).isEmpty || (d.mdl.waves.any fun w => w.uid = uid) || !d.arraysRun ||
      vgetD d.pwr.hold 0 0 != 0 || (List.range 10).any d.dieTested) = false := by
    rw [hempty, hany, hrun, hheld, htested]; rfl
  simp only [runsReady] at hstop ⊢
  simp only [modelWaveStart, hm, hstop, Bool.false_eq_true, if_false, embedReaders_mdl, toMatrix_all_mdl, count_mdl, askShares_mdl, sharesOut]

/-! ### A share's arrival -/

variable {w : Wave} {layer : Nat} {die : Die}

/-- A share whose pool pages are still out asks for them (R278). -/
theorem windowFillComplete_asks (src : List (Fin 4)) (waited : List Nat) (c : Clock) (hm : d.model? uid = some m) (hw : d.mdl.waves = [w]) (hu : w.uid = uid)
    (hneed : (layer, die.val) ∈ w.need) (hfront : layer ≤ w.front m.layers + 1) (hin : d.shareIn m layer die.val = false) :
    windowFillComplete uid layer die src waited c d = d.askShare c m layer die.val := by
  have hfind : (d.mdl.waves.find? fun x => x.uid = uid) = some w := by simp [hw, hu]
  have hlate : ¬ w.front m.layers + 1 < layer := Nat.not_lt.mpr hfront
  simp [windowFillComplete, hm, hfind, hneed, hlate, hin]

/-- A share that is filled is needed no more, and the wave's runs stay (R222). -/
theorem windowFillComplete_fills (src : List (Fin 4)) (waited : List Nat) (c : Clock) (hm : d.model? uid = some m) (hw : d.mdl.waves = [w]) (hu : w.uid = uid)
    (hneed : (layer, die.val) ∈ w.need) (hfront : layer ≤ w.front m.layers + 1) (hin : d.shareIn m layer die.val = true) :
    ∃ w', (windowFillComplete uid layer die src waited c d).mdl.waves = [w'] ∧ w'.need = (w.need.filter fun x => x != (layer, die.val)) ∧
      w'.runs = w.runs := by
  have hfind : (d.mdl.waves.find? fun x => x.uid = uid) = some w := by simp [hw, hu]
  have hlate : ¬ w.front m.layers + 1 < layer := Nat.not_lt.mpr hfront
  have hgo : (!(w.need.contains (layer, die.val)) || decide (w.front m.layers + 1 < layer)) = false := by simp [hneed, hlate]
  simp only [windowFillComplete, hm, hfind, hgo, hin, Bool.not_true, Bool.false_eq_true, if_false, count_mdl, countWaits_mdl, touchPages_mdl]
  simp only [hw, updIf, List.map_cons, List.map_nil, hu, decide_true, if_true]
  exact ⟨_, rfl, rfl, rfl⟩

/-! ### A wave's end -/

/-- A run of a command that meets no poison has its rows written, then its count (R46, R218). -/
theorem runEnds_writes {ref : Ref} {cmd : Cmd} {r : Run} {ix : Nat} (c : Clock) (href : r.ref = some ref) (hcmd : d.cmd? ref = some cmd)
    (hpoison : d.weightsPoisoned m = false) (hreader : d.embedReader m.uid ix = none) :
    d.runEnds c m ix r = (r.rows.zipIdx.foldl (fun (x : Dev) e =>
      x.result cmd (e.2 * m.rowOut) (((m.runRow (e.1.map (·.toNat))).map (leBytes 2)).flatten)) (d.count 44 0 r.rows.length)).endCmd c ref stOk 0 r.rows.length [] := by
  have hcmd' : (d.count 44 0 r.rows.length).cmd? ref = some cmd := (cmd?_congr (count_cmds _ _ _ _) ref).trans hcmd
  simp [Dev.runEnds, hpoison, hreader, href, hcmd']

/-- A wave that needs nothing more, of a model without tokens, ends its runs (R219). -/
theorem modelWaveEnd_single {r : Run} (c : Clock) (hm : d.model? uid = some m) (hw : d.mdl.waves = [w]) (hu : w.uid = uid) (hneed : w.need = [])
    (hruns : w.runs = [r]) (htok : m.tokens = false) :
    modelWaveEnd uid c d = ({ waveCycles d with mdl := { (waveCycles d).mdl with waves := [] } } : Dev).runEnds c m 0 r := by
  have hfind : (d.mdl.waves.find? fun x => x.uid = uid) = some w := by simp [hw, hu]
  have hembeds : d.embedsIn m w = true := by simp [Dev.embedsIn, htok]
  have hleft : ((waveCycles d).mdl.waves.filter fun x => x.uid != uid) = [] := by simp [hw, hu]
  simp only [waveCycles] at hleft ⊢
  simp only [modelWaveEnd, hm, hfind, hneed, hembeds, hleft, hruns, List.isEmpty_nil, Bool.not_true, Bool.or_self, Bool.false_eq_true, if_false,
    List.zipIdx_cons, List.zipIdx_nil, List.foldl_cons, List.foldl_nil]

end Waves

/-! ### Decode-table generations -/

section Tables
variable {s v : State} {k : Take} {cmd : Cmd}

/-- The device with its table generations changed. -/
def withGens (d : Dev) (gens : NMap TableGen) : Dev := { d with mdl := { d.mdl with gens := gens } }

/-- A generation and a table that the checks of model.table_gen pass (R232). -/
theorem exec_tableGenLoad (hv : v = s.tick k.t) (ha : Accepted k 0x0602 v cmd) (hop : cmd.f 0x41 1 = 0) (hg : cmd.f 0x40 1 ≤ 15)
    (hcrc : cmd.f 0x44 4 = crc32c (Mem.rds cmd.slot 0x80 128)) (hkraft : kraftOk (Mem.rds cmd.slot 0x80 128) = true) :
    exec (.tableGenLoad k) s = .next (v.ran cmd (tableGenRun v.clk (v.ready cmd) cmd)) := by
  have hbad : tableGenBad 0 v.clk (v.dev.takeCmd cmd) cmd = false := by simp [tableGenBad, hop, hg, ← hcrc, hkraft]
  exact exec_slot (run := tableGenRun) rfl rfl hv ha (by simp [isLoadOp, hop]) hbad

theorem exec_tableGenRemove (hv : v = s.tick k.t) (ha : Accepted k 0x0602 v cmd) (hop : cmd.f 0x41 1 = 1) (hg : cmd.f 0x40 1 ≤ 15) :
    exec (.tableGenRemove k) s = .next (v.ran cmd (tableGenRun v.clk (v.ready cmd) cmd)) := by
  have hbad : tableGenBad 1 v.clk (v.dev.takeCmd cmd) cmd = false := by simp [tableGenBad, hop, hg]
  exact exec_slot (run := tableGenRun) rfl rfl hv ha (by simp [isRemoveOp, hop]) hbad

variable {c : Clock} {d : Dev}

/-- A LOAD of a free generation is resident at once (R232). -/
theorem tableGenRun_loads (c : Clock) (hop : cmd.f 0x41 1 = 0) (hfree : NMap.get? d.mdl.gens (cmd.f 0x40 1) = none) (hroom : d.mdl.gens.length < Config.maxGens) :
    tableGenRun c d cmd = (withGens d (NMap.put d.mdl.gens (cmd.f 0x40 1) ⟨cmd.f 0x44 4, Mem.rds cmd.slot 0x80 128, none⟩)).endCmd c cmd.ref stOk 0 0 [] := by
  have hfull : ¬ Config.maxGens ≤ d.mdl.gens.length := Nat.not_le.mpr hroom
  simp only [tableGenRun, hfree, hop, hfull, if_true, if_false, withGens]

/-- A LOAD of another table into a generation that is in use waits, shown as ST_IN_USE (R234). -/
theorem tableGenRun_waits {old : TableGen} (c : Clock) (hop : cmd.f 0x41 1 = 0) (hold : NMap.get? d.mdl.gens (cmd.f 0x40 1) = some old) (hpend : old.pend = none)
    (htag : old.tag ≠ cmd.f 0x44 4) (huse : d.genInUse (cmd.f 0x40 1) = true) :
    tableGenRun c d cmd = (withGens d (NMap.put d.mdl.gens (cmd.f 0x40 1)
      { old with pend := some (cmd.ref, some (cmd.f 0x44 4, Mem.rds cmd.slot 0x80 128)) })).report cmd.ref stInUse 0 0 false false false := by
  have hsame : decide (cmd.f 0x44 4 = old.tag) = false := by simpa using htag.symm
  simp only [tableGenRun, hold, hop, hpend, hsame, huse, if_true, if_false, Option.isSome_none, Bool.false_eq_true, withGens]

/-- A REMOVE of a generation that nothing uses frees it at once (R232). -/
theorem tableGenRun_removes {old : TableGen} (c : Clock) (hop : cmd.f 0x41 1 = 1) (hold : NMap.get? d.mdl.gens (cmd.f 0x40 1) = some old)
    (hpend : old.pend = none) (huse : d.genInUse (cmd.f 0x40 1) = false) :
    tableGenRun c d cmd = (withGens d (NMap.del d.mdl.gens (cmd.f 0x40 1))).endCmd c cmd.ref stOk 0 0 [] := by
  simp [tableGenRun, hold, hop, hpend, huse, withGens]

/-- Without runs none waits for a generation. -/
theorem releaseRuns_idle (c : Clock) (g : Nat) (h : d.mdl.runs = []) : d.releaseRuns c g = d := by
  have hfreed : ({ d with mdl := { d.mdl with runs := [] } } : Dev) = d := by rw [← h]
  simp only [Dev.releaseRuns, h, List.filter_nil, List.foldl_nil, List.map_nil, hfreed]

/-- What a pending operation makes of the generations. -/
def gensAfter (gens : NMap TableGen) (g : Nat) : Option (Nat × List Byte) → NMap TableGen
  | some x => NMap.put gens g ⟨x.1, x.2, none⟩
  | none => NMap.del gens g

variable {g : Nat} {old : TableGen} {r : Ref} {new : Option (Nat × List Byte)}

theorem tableGenRelease_inUse (c : Clock) (hold : NMap.get? d.mdl.gens g = some old) (hpend : old.pend = some (r, new)) (huse : d.genInUse g = true) :
    tableGenRelease g c d = d := by
  simp [tableGenRelease, hold, hpend, huse]

/-- Once nothing uses the generation, its table is replaced or freed and the command ends (R234). -/
theorem tableGenRelease_ends (c : Clock) (hold : NMap.get? d.mdl.gens g = some old) (hpend : old.pend = some (r, new)) (huse : d.genInUse g = false)
    (hruns : d.mdl.runs = []) :
    tableGenRelease g c d = (withGens d (gensAfter d.mdl.gens g new)).endCmd c r stOk 0 0 [] := by
  have hidle : ((withGens d (gensAfter d.mdl.gens g new)).endCmd c r stOk 0 0 []).mdl.runs = [] := by rw [endCmd_mdl]; exact hruns
  rw [← releaseRuns_idle c g hidle]
  cases new <;> simp [tableGenRelease, hold, hpend, huse, withGens, gensAfter]

end Tables

/-! ### The statement -/

/-- Settles O39. It holds: a wave takes the first of the runs that wait, as many as fit, and each command on a generation is one case of R232 to R234. -/
theorem modelWavesAndTables : Obligations.ModelWavesAndTables := by
  refine ⟨⟨?_, ?_, ?_⟩, ?_, ?_, ?_⟩
  · refine fun s v t uid m hv hm hrun hhold => ⟨fun hw => exec_idle rfl rfl hv (modelWaveStart_beside v.clk hm hw), ?_⟩
    intro r rest hnone htest hready hfits
    have htake : waveTake Config.waveRows (runsReady v.dev uid) = r :: waveTake (Config.waveRows - r.rows.length) rest := by
      rw [runsReady, hready]; exact waveTake_cons rest hfits
    have hmdl := modelWaveStart_mdl v.clk hm hnone hrun hhold htest (by simp [htake])
    refine ⟨_, waveTake Config.waveRows (runsReady v.dev uid), exec_onDev rfl rfl hv rfl, by simp [htake], ?_, waveTake_rows _ _, ?_, ?_⟩
    · rw [← hready]; exact waveTake_prefix _ _
    · exact congrArg Models.waves hmdl
    · exact congrArg Models.runs hmdl
  · intro s v t uid layer die src waited m w hv hm hw hu hlen hneed hfront
    have hwf : (Instr.windowFillComplete t uid layer die src waited).wf = true := decide_eq_true hlen
    refine ⟨fun hin => exec_onDev rfl hwf hv (windowFillComplete_asks src waited v.clk hm hw hu hneed hfront hin), fun hin => ?_⟩
    obtain ⟨w', hwaves, hneed', hruns⟩ := windowFillComplete_fills src waited v.clk hm hw hu hneed hfront hin
    exact ⟨_, w', exec_onDev rfl hwf hv rfl, hwaves, hneed', hruns⟩
  · intro s v t uid m w r ref cmd hv hm hw hu hneed hruns htok href hcmd hpoison hreader
    refine exec_onDev rfl rfl hv ((modelWaveEnd_single v.clk hm hw hu hneed hruns htok).trans (runEnds_writes v.clk href ?_ ?_ ?_))
    · exact (cmd?_congr (waveCycles_cmds v.dev) ref).trans hcmd
    · exact (weightsPoisoned_congr (waveCycles_mem v.dev) (waveCycles_flash v.dev) m).trans hpoison
    · exact (embedReader_congr (waveCycles_chain v.dev) m.uid 0).trans hreader
  · intro s v k cmd g tag tbl hv ha hop hg hle htbl htag hcrc hkraft
    subst hg htbl htag
    rw [exec_tableGenLoad hv ha hop hle hcrc hkraft, ← ready_mdl v cmd]
    refine ⟨fun hfree hroom => ?_, fun old hold hpend hother huse => ?_⟩
    · rw [tableGenRun_loads v.clk hop hfree hroom]; rfl
    · rw [tableGenRun_waits v.clk hop hold hpend hother huse]; rfl
  · intro s v k cmd g old hv ha hop hg hle hold hpend huse
    subst hg
    rw [exec_tableGenRemove hv ha hop hle, ← ready_mdl v cmd, tableGenRun_removes v.clk hop (by rwa [ready_mdl]) hpend huse]; rfl
  · intro s v t g old r new hv hold hpend
    refine ⟨fun huse => exec_idle rfl rfl hv (tableGenRelease_inUse v.clk hold hpend huse), fun huse hruns => ?_⟩
    refine exec_onDev rfl rfl hv ((tableGenRelease_ends v.clk hold hpend huse hruns).trans ?_)
    cases new <;> rfl

end Sys2Proof.Proofs

/-! SUPPORT. What the end of a command shows its host: the slot's words, the DONE_SUMMARY bit and vector 0. The words are read back where the slot memory is canonical; a list that is not canonical refutes the statement, which does not ask for it. -/

namespace Sys2Proof.Proofs

open Sys2Proof Sys2Proof.Machine Sys2Proof.Laws

/-! ### Fields of a memory -/

theorem leBytes_succ (n v : Nat) : leBytes (n + 1) v = BitVec.ofNat 8 v :: leBytes n (v / 256) := by
  simp only [leBytes, List.range_succ_eq_map, List.map_cons, List.map_map, leByte, pow_zero, Nat.div_one]
  refine congrArg _ (List.map_congr_left fun i _ => ?_)
  simp only [Function.comp_apply, leByte, Nat.succ_eq_add_one, pow_succ', Nat.div_div_eq_div_mul]

theorem leNat_leBytes (n v : Nat) : leNat (leBytes n v) = v % 256 ^ n := by
  induction n generalizing v with
  | zero => simp [leBytes, leNat, Nat.mod_one]
  | succ n ih => rw [leBytes_succ, leNat, ih, pow_succ', Nat.mod_mul, BitVec.toNat_ofNat]

/-- A field read back after it was written. -/
theorem rdN_wrN_same {m : Mem} (a n v : Nat) (hw : Mem.wf m = true) : Mem.rdN (Mem.wrN m a n v) a n = v % 256 ^ n := by
  have hback := rds_wrs a (leBytes n v) hw
  rw [leBytes_length] at hback
  rw [Mem.rdN, Mem.wrN, hback, leNat_leBytes]

/-- A field beside the one written. -/
theorem rdN_wrN_other {m : Mem} {a b k n : Nat} (v : Nat) (h : a + k ≤ b ∨ b + n ≤ a) : Mem.rdN (Mem.wrN m b n v) a k = Mem.rdN m a k := by
  refine congrArg leNat (List.map_congr_left fun i hi => rd_wrs_other ?_)
  rw [leBytes_length]
  have := List.mem_range.mp hi
  omega

/-! ### The slot's words -/

theorem or_one_odd (flags : Nat) : (flags ||| 1) % 2 = 1 := by
  simp

/-- STATUS_WORD of a command with DONE shows PROGRESS 0 (R411). -/
theorem statusWord_done {status flags : Nat} (seq progress : Nat) (hs : status < 2 ^ 16) (hf : flags < 16) :
    statusWord seq status progress (flags ||| 1) = seq % 2 ^ 32 * 2 ^ 32 + status * 2 ^ 16 + (flags ||| 1) := by
  have hfl : flags ||| 1 < 16 := Nat.or_lt_two_pow (n := 4) hf (by decide)
  rw [statusWord, if_pos (or_one_odd flags), Nat.mod_eq_of_lt hs, Nat.mod_eq_of_lt hfl, Nat.zero_mul, Nat.add_zero]

theorem statusWord_done_lt {status flags : Nat} (seq progress : Nat) (hs : status < 2 ^ 16) (hf : flags < 16) :
    statusWord seq status progress (flags ||| 1) < 256 ^ 8 := by
  have hfl : flags ||| 1 < 16 := Nat.or_lt_two_pow (n := 4) hf (by decide)
  rw [statusWord_done seq progress hs hf]
  omega

theorem countWord_plain (count : Nat) : countWord 0 count = count % 2 ^ 32 := by simp [countWord]

/-! ### DONE -/

section Done
variable {d : Dev} {cmd : Cmd} {status flags count : Nat}

/-- The end of a command that its port has not abandoned, as its port shows it (R46, R419). -/
theorem port_putEnd (hab : cmd.abandoned = false) (orig : Nat) : (d.putEnd cmd status flags orig count).port cmd.ref.port =
    { d.port cmd.ref.port with
      slots := Mem.wrN (Mem.wrN (d.port cmd.ref.port).slots (slotAt cmd.ref.slot 0x10) 8 (countWord orig count)) (slotAt cmd.ref.slot 0x08) 8
        (statusWord cmd.ref.seq status 0 (flags ||| 1)),
      doneSummary := (d.port cmd.ref.port).doneSummary ||| (1#512 <<< cmd.ref.slot.val),
      newDone := (d.port cmd.ref.port).newDone || ((d.port cmd.ref.port).doneEn && !((d.port cmd.ref.port).doneSummary.getLsbD cmd.ref.slot.val)) } := by
  simp only [Dev.putEnd, Dev.writeWords, Dev.setDone, Dev.setSlotWord, hab, Bool.false_eq_true, if_false]
  exact (port_updPort_same _ _ _).trans (by rw [port_updPort_same, port_updPort_same])

/-- The command leaves the running list (R46). -/
theorem putEnd_running (orig : Nat) : (d.putEnd cmd status flags orig count).cmds.running = d.cmds.running.filter fun x => x.ref != cmd.ref := by
  unfold Dev.putEnd
  simp only []
  split <;> simp [Dev.setDone]

/-- When no copy of the command waits, its end changes no other slot (R400). -/
theorem endCmd_alone (c : Clock) (head : List Byte) (hcmd : d.cmd? cmd.ref = some cmd)
    (halone : ∀ x ∈ d.cmds.running, x.ref = cmd.ref ∨ x.isLocal = false ∨ x.tenant ≠ cmd.tenant ∨ x.cmdId ≠ cmd.cmdId) :
    (d.endCmd c cmd.ref status flags count head).ports = (d.putEnd cmd status flags 0 count).ports ∧
      (d.endCmd c cmd.ref status flags count head).cmds.running = (d.putEnd cmd status flags 0 count).cmds.running := by
  have hnone : (d.putEnd cmd status flags 0 count).waiters cmd.key = [] := by
    rw [Dev.waiters, putEnd_running, List.filter_filter, List.filter_eq_nil_iff]
    intro x hx
    rcases halone x hx with h | h | h | h <;> simp [Cmd.key, h]
  simp only [Dev.endCmd, hcmd, hnone, List.foldl_nil]
  split <;> exact ⟨rfl, rfl⟩

/-- The first part of the statement where the slot memory is canonical: the slot's words, its DONE_SUMMARY bit, and the command gone. -/
theorem endCmd_shows (c : Clock) (head : List Byte) (hcmd : d.cmd? cmd.ref = some cmd) (hab : cmd.abandoned = false)
    (halone : ∀ x ∈ d.cmds.running, x.ref = cmd.ref ∨ x.isLocal = false ∨ x.tenant ≠ cmd.tenant ∨ x.cmdId ≠ cmd.cmdId)
    (hs : status < 2 ^ 16) (hf : flags < 16) (hw : Mem.wf (d.port cmd.ref.port).slots = true) :
    let e := d.endCmd c cmd.ref status flags count head
    e.slotN cmd.ref.port cmd.ref.slot 0x08 8 = cmd.ref.seq % 2 ^ 32 * 2 ^ 32 + status * 2 ^ 16 + (flags ||| 1) ∧
      e.slotN cmd.ref.port cmd.ref.slot 0x10 8 = count % 2 ^ 32 ∧ (e.port cmd.ref.port).doneSummary.getLsbD cmd.ref.slot.val = true ∧
      e.cmd? cmd.ref = none := by
  intro e
  obtain ⟨hports, hrunning⟩ := endCmd_alone (status := status) (flags := flags) (count := count) c head hcmd halone
  have hport : e.port cmd.ref.port = (d.putEnd cmd status flags 0 count).port cmd.ref.port := by rw [Dev.port, hports]; rfl
  refine ⟨?_, ?_, ?_, ?_⟩
  · rw [Dev.slotN, hport, port_putEnd hab, rdN_wrN_same _ _ _ (wrN_wf _ _ _ hw), Nat.mod_eq_of_lt (statusWord_done_lt _ _ hs hf), statusWord_done _ _ hs hf]
  · rw [Dev.slotN, hport, port_putEnd hab, rdN_wrN_other _ (by simp only [slotAt]; omega), rdN_wrN_same _ _ _ hw, countWord_plain]
    omega
  · rw [hport, port_putEnd hab]
    simp [cmd.ref.slot.isLt]
  · rw [Dev.cmd?, hrunning, putEnd_running, List.find?_eq_none]
    intro x hx
    simpa using (List.mem_filter.mp hx).2

end Done

/-! ### DONE_SUMMARY and vector 0 -/

section Summary
variable {s v : State} {t : Nat} {p : Port}

/-- Bits of a 512-bit vector outside one of its 64-bit words. -/
theorem getLsbD_clearWord (x : BitVec 512) (word : Fin 8) (i : Fin 512) :
    (x &&& ~~~(((0xFFFFFFFFFFFFFFFF#64).setWidth 512) <<< (64 * word.val))).getLsbD i.val = (x.getLsbD i.val && decide (i.val / 64 ≠ word.val)) := by
  have hones : (0xFFFFFFFFFFFFFFFF#64) = BitVec.allOnes 64 := by decide
  have hi := i.isLt
  have hword : (decide (i.val < 64 * word.val) || !decide (i.val - 64 * word.val < 64)) = decide (i.val / 64 ≠ word.val) := by
    rw [Bool.eq_iff_iff]
    simp only [Bool.or_eq_true, Bool.not_eq_true', decide_eq_true_eq, decide_eq_false_iff_not]
    omega
  rw [← hword, hones]
  simp only [BitVec.getLsbD_and, BitVec.getLsbD_not, BitVec.getLsbD_shiftLeft, BitVec.getLsbD_setWidth, BitVec.getLsbD_allOnes, hi, decide_true,
    Bool.true_and]
  have hsub : i.val - 64 * word.val < 512 := by omega
  simp [hsub]

/-- A read of a DONE_SUMMARY word returns its bits and clears them and no others (R419). -/
theorem exec_doneSummaryRead (hv : v = s.tick t) (hon : v.dev.portOn p = true) (word : Fin 8) :
    ∃ v', exec (.doneSummaryRead t p word) s = .next v' ∧ (v'.dev.port p).readData = (v.dev.port p).doneSummary.extractLsb' (64 * word.val) 64 ∧
      (∀ i : Fin 512, (v'.dev.port p).doneSummary.getLsbD i.val = ((v.dev.port p).doneSummary.getLsbD i.val && decide (i.val / 64 ≠ word.val))) ∧
      v' = { v with dev := v.dev.updPort p fun h => { h with readData := (v'.dev.port p).readData, doneSummary := (v'.dev.port p).doneSummary } } := by
  have hd : doneSummaryRead p word v.clk v.dev = v.dev.updPort p fun h => { h with
      readData := h.doneSummary.extractLsb' (64 * word.val) 64,
      doneSummary := h.doneSummary &&& ~~~(((0xFFFFFFFFFFFFFFFF#64).setWidth 512) <<< (64 * word.val)) } := by
    simp only [doneSummaryRead, hon, if_true]
  refine ⟨_, exec_onDev rfl rfl hv hd, ?_, fun i => ?_, ?_⟩
  · simp only [port_updPort_same]
  · simp only [port_updPort_same, getLsbD_clearWord]
  · simp only [port_updPort_same]
    exact congrArg (fun d => { v with dev := d }) (updPort_congr rfl)

/-- Vector 0 is signalled when it is enabled, a bit is newly set and MOD_US has passed since the last signal (R420). -/
theorem exec_doneIrqSignal (hv : v = s.tick t) (hen : (v.dev.port p).doneEn = true) (hnew : (v.dev.port p).newDone = true)
    (hset : (v.dev.port p).doneSummary ≠ 0) (hpast : ∀ x, (v.dev.port p).lastSignal = some x → x + 1000 * (v.dev.port p).modUs.toNat ≤ v.clk.now) :
    exec (.doneIrqSignal t p) s =
      .next { v with dev := v.dev.updPort p fun h => { h with vectors := h.vectors ++ [(0, v.clk.now)], lastSignal := some v.clk.now, newDone := false } } := by
  have hdue : (v.dev.port p).doneDue v.clk.now = true := by
    have hany : ((v.dev.port p).doneSummary != 0) = true := bne_iff_ne.mpr hset
    rcases hlast : (v.dev.port p).lastSignal with _ | x
    · simp only [HostPort.doneDue, hen, hnew, hany, hlast, Bool.and_self]
    · simp only [HostPort.doneDue, hen, hnew, hany, hlast, hpast x hlast, decide_true, Bool.and_self]
  exact exec_onDev rfl rfl hv (by simp only [doneIrqSignal, hdue, if_true])

end Summary

/-! ### The statement -/

/-- A dev.info command of slot 0 of port 0 that runs. -/
def endingCmd : Cmd :=
  { ref := ⟨0, 0, 1, 0⟩, opcode := 0x0101, minor := 0, major := 3, expert := false, tenant := 0, colour := 0, cmdId := 0, deadline := 0, resultAddr := 0,
    resultLen := 0, slot := [], takenAt := 0, crc := 0, areas := [], abandoned := false }

/-- A device that runs it, and whose field book lists byte 1 of the slot's STATUS_WORD twice: a list no canonical memory is. -/
def doubledByte : Dev :=
  { Dev.reset.updPort 0 fun h => { h with slots := [(9, 1), (9, 1)] } with cmds := ⟨[endingCmd], [], 1⟩ }

theorem doubledByte_not_wf : Mem.wf (doubledByte.port 0).slots = false := by decide

/-- The zero byte of PROGRESS takes one of the two listings away and leaves the other to be read: PROGRESS reads 16. -/
theorem doubledByte_statusWord : (doubledByte.endCmd Clock.reset endingCmd.ref stOk 0 0 []).slotN 0 0 0x08 8 = 2 ^ 32 + 256 + 1 := by decide

/-- Refutes O6: the statement asks nothing of the slot memory, and where its list is not canonical STATUS_WORD is not read back as it was written, as of `doubledByte`. Of canonical memory the first part holds (`endCmd_shows`); the reads of DONE_SUMMARY and the signals of vector 0 are as stated (`exec_doneSummaryRead`, `exec_doneIrqSignal`). -/
theorem not_endsAndDoneSummary : ¬ Obligations.EndsAndDoneSummary := by
  intro h
  obtain ⟨hends, -⟩ := h
  obtain ⟨hword, -⟩ := hends doubledByte Clock.reset endingCmd stOk 0 0 [] (by decide) rfl (by decide) (by decide) (by decide)
  have hread := doubledByte_statusWord.symm.trans hword
  exact absurd hread (by decide)

end Sys2Proof.Proofs

/-! SUPPORT. Traverses: which groups the next traverse of a place may take, what its start on a die leaves of the scan state, and how its end hands the lists over or abandons it. -/

namespace Sys2Proof.Proofs

open Sys2Proof Sys2Proof.Machine Sys2Proof.Laws

section Traverses
variable {s v : State} {t : Nat} {c : Clock} {d : Dev}

/-! ### Start -/

/-- The next traverse takes some fragments, and no more than the place has seats for (R66, R68). -/
theorem nextTraverse_fits {p : Place} {parcel list ver : Nat} {g : List Probe} {comp : Bool} (h : d.nextTraverse p parcel list ver = some (g, comp)) :
    0 < g.length ∧ g.length ≤ d.freeSeats p := by
  have hfits (ps : List Probe) (hok : (!ps.isEmpty && decide (ps.length ≤ d.freeSeats p)) = true) : 0 < ps.length ∧ ps.length ≤ d.freeSeats p := by
    simpa [List.length_pos_iff] using hok
  simp only [Dev.nextTraverse] at h
  generalize (if p.chan then [] else d.companions p parcel list ver) = cs at h
  split at h
  next hcomp =>
    cases h; exact hfits _ hcomp
  split at h
  next hgroup =>
    cases h; exact hfits _ (Bool.and_eq_true_iff.mp hgroup).2
  next => cases h

/-- The free seats of a die are its working arrays that no traverse holds (R54). -/
theorem freeSeats_die (d : Dev) (unit : Nat) :
    d.freeSeats ⟨false, unit⟩ = (vgetD d.scan.dies unit ⟨0, 0⟩).working - d.scanning ⟨false, unit⟩ := rfl

/-- Fragments that fit the free seats of a die fit its working arrays beside those that traverses hold. -/
theorem scanning_add_le_working {unit n : Nat} (hpos : 0 < n) (hfree : n ≤ d.freeSeats ⟨false, unit⟩) :
    d.scanning ⟨false, unit⟩ + n ≤ (vgetD d.scan.dies unit ⟨0, 0⟩).working := by
  rw [freeSeats_die] at hfree
  omega

@[simp] theorem toScan_travs (d : Dev) (die n : Nat) : (d.toScan die n).scan.travs = d.scan.travs := by simp only [Dev.toScan, count_scan]
@[simp] theorem toScan_nextTrav (d : Dev) (die n : Nat) : (d.toScan die n).scan.nextTrav = d.scan.nextTrav := by simp only [Dev.toScan, count_scan]
@[simp] theorem toScan_probes (d : Dev) (die n : Nat) : (d.toScan die n).scan.probes = d.scan.probes := by simp only [Dev.toScan, count_scan]

/-- Where a traverse of a die may start, it joins those in progress and its probes leave the queue; it has no seats of a channel (R66, R68). -/
theorem traverseStart_die {unit parcel list ver : Nat} {g : List Probe} {comp : Bool} {ll : LList} {l : Leaf} (c : Clock) (hrun : d.arraysRun = true)
    (hheld : d.heldBit 0 unit = false) (htest : d.dieTested unit = false) (hnext : d.nextTraverse ⟨false, unit⟩ parcel list ver = some (g, comp))
    (hl : d.leaf parcel = some l) (hll : l.lists[list]? = some ll) :
    (traverseStart false unit parcel list ver c d).scan.travs =
        d.scan.travs ++ [⟨d.scan.nextTrav + 1, ⟨false, unit⟩, parcel, list, ver, g.map (·.key), comp, []⟩] ∧
      (traverseStart false unit parcel list ver c d).scan.probes = d.scan.probes.filter fun x => !(g.contains x) := by
  have hlist : ((d.leaf parcel).bind fun l => l.lists[list]?) = some ll := by rw [hl]; exact hll
  have hseats : d.seatsOf ⟨false, unit⟩ (g.map (·.key)).length = [] := rfl
  simp only [traverseStart, hrun, hheld, htest, hnext, hlist, hseats, count_scan, toScan_travs, toScan_probes, List.append_nil, Bool.not_true,
    Bool.false_eq_true, if_false, Bool.or_self, and_self]

/-! ### End -/

variable {id : Nat} {x : Trav} {l : Leaf} {sp : Space} {ll : LList}

/-- The leaf, search space and list that a traverse reads, while its node holds all three. -/
theorem travTarget_some (hl : d.leaf x.parcel = some l) (hsp : d.spaceOf l = some sp) (hll : l.lists[x.list]? = some ll) :
    ((d.leaf x.parcel).bind fun l => (d.spaceOf l).bind fun s => (l.lists[x.list]?).map fun ll => (l, s, ll)) = some (l, sp, ll) := by
  simp only [hl, hsp, hll, Option.bind_some, Option.map_some]

/-- A bad block has every fragment of the traverse answered as failed (R73). -/
theorem traverseEnd_bad (c : Clock) (hx : (d.scan.travs.find? fun y => y.id = id) = some x) (hread : d.travReading x = false) (hl : d.leaf x.parcel = some l)
    (hsp : d.spaceOf l = some sp) (hll : l.lists[x.list]? = some ll) : traverseEnd id true c d = d.abandonTrav x := by
  simp only [traverseEnd, hx, hread, travTarget_some hl hsp hll, Bool.true_or, Bool.false_eq_true, if_false, if_true]

/-- A traverse that is over: out of those in progress, its cycles counted, and a die's arrays back with the tasks that wait for them (R79, R207). -/
def travOver (d : Dev) (id : Nat) (x : Trav) (n : Nat) : Dev :=
  let d0 := ({ d with scan := { d.scan with travs := d.scan.travs.filter fun y => y.id != id } } : Dev).travCycles x (some n)
  if x.place.chan then d0 else d0.toMatrix x.place.unit d0.waveArrays

/-- Every fragment of a traverse that is over gets its candidates, then its round may end (R72). -/
def travHandOver (c : Clock) (d : Dev) (id : Nat) (x : Trav) (l : Leaf) (sp : Space) (ll : LList) (es : List Entry) : Dev :=
  x.frags.foldl (fun (y : Dev) k => y.roundEnd c k) (x.frags.foldl (fun (y : Dev) k => y.travList x l sp ll es k) (travOver d id x es.length))

/-- A traverse whose blocks could all be read hands its lists over (R66, R72). -/
theorem traverseEnd_handsOver (c : Clock) (hx : (d.scan.travs.find? fun y => y.id = id) = some x) (hread : d.travReading x = false)
    (hl : d.leaf x.parcel = some l) (hsp : d.spaceOf l = some sp) (hll : l.lists[x.list]? = some ll) (hlost : d.travLost x ll = false) :
    traverseEnd id false c d = travHandOver c d id x l sp ll (travEntries x ll) := by
  simp only [traverseEnd, hx, hread, travTarget_some hl hsp hll, hlost, Bool.or_self, Bool.false_eq_true, if_false, travHandOver, travOver]

end Traverses

/-! ### The statement -/

/-- Settles O28. It holds: a traverse starts only with as many fragments as its die has arrays free, and its end takes one of two branches as its blocks could be read or not. -/
theorem traversesStartAndEnd : Obligations.TraversesStartAndEnd := by
  refine ⟨?_, ?_⟩
  · intro s v t unit parcel list ver g comp ll l hv hunit hrun hheld htest hnext hl hll
    have hwf : (Instr.traverseStart t false unit parcel list ver).wf = true := decide_eq_true hunit
    obtain ⟨htravs, hprobes⟩ := traverseStart_die v.clk hrun hheld htest hnext hl hll
    obtain ⟨hpos, hfree⟩ := nextTraverse_fits hnext
    exact ⟨_, exec_onDev rfl hwf hv rfl, htravs, hprobes, hpos, scanning_add_le_working hpos hfree⟩
  · intro s v t id x l sp ll hv hx hread hl hsp hll
    refine ⟨fun hlost => ?_, exec_onDev rfl rfl hv (traverseEnd_bad v.clk hx hread hl hsp hll)⟩
    exact exec_onDev rfl rfl hv (traverseEnd_handsOver v.clk hx hread hl hsp hll hlost)

end Sys2Proof.Proofs

/-! SUPPORT. A leaf copy and the DRAM and flash that follow its content: what a change of the copy leaves to be read, and what keeping its regions and versions in step changes of the copies and the plat. -/

namespace Sys2Proof.Proofs

open Sys2Proof Sys2Proof.Machine Sys2Proof.Laws

/-! ### Reading a copy -/

theorem leaf_parcel {d : Dev} {parcel : Nat} {l : Leaf} (h : d.leaf parcel = some l) : l.parcel = parcel := by
  simpa using List.find?_some h

theorem leaf_congr {d e : Dev} (h : d.leaves = e.leaves) (parcel : Nat) : d.leaf parcel = e.leaf parcel := by
  simp only [Dev.leaf, h]

/-- A change of a copy that keeps its parcel is what is read there next. -/
theorem leaf_updLeaf (d : Dev) {parcel : Nat} {f : Leaf → Leaf} (hf : ∀ x, x.parcel = parcel → (f x).parcel = parcel) :
    (d.updLeaf parcel f).leaf parcel = (d.leaf parcel).map f := by
  have hsame (x : Leaf) : decide ((if decide (x.parcel = parcel) then f x else x).parcel = parcel) = decide (x.parcel = parcel) := by
    by_cases h : x.parcel = parcel
    · simp [h, hf x h]
    · simp [h]
  simp only [Dev.leaf, Dev.updLeaf, updIf, List.find?_map, Function.comp_def, hsame]
  refine Option.map_congr fun x hx => ?_
  have hp : x.parcel = parcel := by simpa using List.find?_some hx
  simp [hp]

/-- The same where the copy is known. -/
theorem leaf_updLeaf_some {d : Dev} {parcel : Nat} {l : Leaf} {f : Leaf → Leaf} (hl : d.leaf parcel = some l)
    (hf : ∀ x, x.parcel = parcel → (f x).parcel = parcel) : (d.updLeaf parcel f).leaf parcel = some (f l) := by
  rw [leaf_updLeaf d hf, hl]; rfl

/-- A copy put in the place of another of its parcel. -/
theorem leaf_updLeaf_const {d : Dev} {parcel : Nat} {l k : Leaf} (hl : d.leaf parcel = some l) (hk : k.parcel = l.parcel) :
    (d.updLeaf parcel fun _ => k).leaf parcel = some k :=
  leaf_updLeaf_some hl fun _ _ => hk.trans (leaf_parcel hl)

/-! ### The copies and the plat -/

/-- What memory, flash, counters and logs leave alone: the leaf copies and the plat. -/
def copiesAndPlat (d : Dev) : List Leaf × Plat := (d.leaves, d.plat)

theorem leaves_of_copiesAndPlat {d e : Dev} (h : copiesAndPlat d = copiesAndPlat e) : d.leaves = e.leaves := congrArg Prod.fst h
theorem plat_of_copiesAndPlat {d e : Dev} (h : copiesAndPlat d = copiesAndPlat e) : d.plat = e.plat := congrArg Prod.snd h

@[simp] theorem count_copiesAndPlat (d : Dev) (k i n : Nat) : copiesAndPlat (d.count k i n) = copiesAndPlat d := by
  simp only [copiesAndPlat, count_leaves, count_plat]

@[simp] theorem free_copiesAndPlat (d : Dev) (id : Nat) : copiesAndPlat (d.free id) = copiesAndPlat d := by
  unfold Dev.free; split <;> rfl

@[simp] theorem evictFor_copiesAndPlat (d : Dev) (s : Nat) : copiesAndPlat (d.evictFor s) = copiesAndPlat d := by
  unfold Dev.evictFor
  split
  · rfl
  · simp only [count_copiesAndPlat]; rfl

@[simp] theorem grow_copiesAndPlat (d : Dev) (id g n : Nat) : copiesAndPlat (d.grow id g n) = copiesAndPlat d := by
  unfold Dev.grow
  split
  · rfl
  · simp only
    rw [foldl_keeps copiesAndPlat evictFor_copiesAndPlat]
    simp only [copiesAndPlat]

@[simp] theorem allocBy_copiesAndPlat (d : Dev) (g id : Nat) (p : Protect) (mask : BitVec 20) (n : Nat) (t : Tier) (cls : Nat) :
    copiesAndPlat (d.allocBy g id p mask n t cls) = copiesAndPlat d := grow_copiesAndPlat _ _ _ _

@[simp] theorem putRegion_copiesAndPlat (d : Dev) (id : Nat) (r : Region) : copiesAndPlat (d.putRegion id r) = copiesAndPlat d := rfl

@[simp] theorem poisonLines_copiesAndPlat (d : Dev) (id : Nat) (lines : List Nat) : copiesAndPlat (d.poisonLines id lines) = copiesAndPlat d := by
  unfold Dev.poisonLines
  split
  · rfl
  · split <;> rfl

@[simp] theorem damage_copiesAndPlat (d : Dev) (c : Clock) (id : Nat) (frames : List Nat) (line : Nat) :
    copiesAndPlat (d.damage c id frames line) = copiesAndPlat d := by
  unfold Dev.damage
  split
  · rfl
  split
  · rfl
  · exact (poisonLines_copiesAndPlat _ _ _).trans (count_copiesAndPlat _ _ _ _)

@[simp] theorem startRebuild_copiesAndPlat (d : Dev) (id u member : Nat) : copiesAndPlat (d.startRebuild id u member) = copiesAndPlat d := by
  unfold Dev.startRebuild
  split
  · rfl
  · split <;> rfl

@[simp] theorem placeRebuilt_copiesAndPlat (d : Dev) (b : Rebuild) : copiesAndPlat (d.placeRebuilt b) = copiesAndPlat d := rfl

@[simp] theorem loseMember_copiesAndPlat (d : Dev) (c : Clock) (id u member : Nat) : copiesAndPlat (d.loseMember c id u member) = copiesAndPlat d := by
  unfold Dev.loseMember
  split
  · rfl
  split
  · rfl
  simp only
  split
  · simp
  · split <;> simp

@[simp] theorem loseDead_copiesAndPlat (d : Dev) (c : Clock) (id : Nat) : copiesAndPlat (d.loseDead c id) = copiesAndPlat d := by
  unfold Dev.loseDead
  split
  · rfl
  · exact foldl_keeps copiesAndPlat (fun b _ => loseMember_copiesAndPlat b _ _ _ _) _ _

@[simp] theorem place_copiesAndPlat (c : Clock) (d : Dev) (w : OwnRegion) : copiesAndPlat (d.place c w) = copiesAndPlat d := by
  unfold Dev.place
  split
  · simp
  · split <;> simp

@[simp] theorem freeExtents_copiesAndPlat (d : Dev) (owner : Nat) : copiesAndPlat (d.freeExtents owner) = copiesAndPlat d := rfl

@[simp] theorem freeVersion_copiesAndPlat (d : Dev) (parcel list : Nat) (x : LList) (v : Version) :
    copiesAndPlat (d.freeVersion parcel list x v) = copiesAndPlat d := by
  unfold Dev.freeVersion; split <;> rfl

@[simp] theorem issueRead_copiesAndPlat (d : Dev) (c unit cls owner : Nat) : copiesAndPlat (d.issueRead c unit cls owner) = copiesAndPlat d := by
  unfold Dev.issueRead; split <;> rfl

@[simp] theorem program_copiesAndPlat (d : Dev) (c unit : Nat) (src : Option Nat) (dest : Option (Nat × FChan)) :
    copiesAndPlat (d.program c unit src dest) = copiesAndPlat d := by
  unfold Dev.program; split <;> rfl

@[simp] theorem readRest_copiesAndPlat (d : Dev) (c unit : Nat) : copiesAndPlat (d.readRest c unit) = copiesAndPlat d := by
  unfold Dev.readRest
  split
  · rfl
  · exact issueRead_copiesAndPlat _ _ _ _ _

@[simp] theorem writeOwned_copiesAndPlat (d : Dev) (key idx : Nat) : copiesAndPlat (d.writeOwned key idx) = copiesAndPlat d := by
  unfold Dev.writeOwned
  split
  · rfl
  unfold Dev.writeUnit
  simp only
  split
  · rfl
  · simp

@[simp] theorem writeVersion_copiesAndPlat (d : Dev) (parcel list : Nat) (x : LList) (v : Version) :
    copiesAndPlat (d.writeVersion parcel list x v) = copiesAndPlat d := by
  unfold Dev.writeVersion
  split
  · rfl
  · exact (foldl_keeps copiesAndPlat (fun b i => writeOwned_copiesAndPlat b _ i) _ _).trans
      (foldl_keeps (f := fun (y : Dev) (_ : Nat) => y.addExtent x.plan.homeChan.val (listKey parcel list v.no) true) copiesAndPlat (fun _ _ => rfl) _ _)

/-- Freeing all that a copy holds. -/
theorem freeLeafStores_copiesAndPlat (d : Dev) (l : Leaf) : copiesAndPlat (d.freeLeafStores l) = copiesAndPlat d := by
  refine (foldl_keeps (f := fun (y : Dev) k => y.freeExtents k) copiesAndPlat (fun _ _ => rfl) _ _).trans ?_
  refine (foldl_keeps copiesAndPlat (fun b (e : LList × Nat) =>
    foldl_keeps copiesAndPlat (fun b v => freeVersion_copiesAndPlat b l.parcel e.2 e.1 v) (e.1.cur :: (e.1.next.toList ++ e.1.old.toList)) b) _ _).trans ?_
  exact foldl_keeps copiesAndPlat (fun b (e : Nat × Region) => free_copiesAndPlat b e.1) _ _

/-! ### Regions that stand -/

theorem get?_del_other {α : Type} {m : NMap α} {k j : Nat} (h : j ≠ k) : NMap.get? (NMap.del m k) j = NMap.get? m j := by
  induction m with
  | nil => rfl
  | cons e m ih =>
    unfold NMap.del at ih ⊢
    by_cases hk : e.1 = k
    · have hj : e.1 ≠ j := fun he => h (he.symm.trans hk)
      simp [NMap.get?, hk, hk ▸ hj, ih]
    · simp [NMap.get?, hk, ih]

theorem ceilDiv_mono {a b : Nat} (h : a ≤ b) (k : Nat) : Machine.ceilDiv a k ≤ Machine.ceilDiv b k := Nat.div_le_div_right (by omega)

theorem countMod_mono {n m : Nat} (h : n ≤ m) (k ix : Nat) : countMod n k ix ≤ countMod m k ix := by
  unfold countMod
  split
  · exact Nat.le_refl 0
  · exact Nat.div_le_div_right (by omega)

/-- More frames of a region take no fewer of a stack (R266 to R268). -/
theorem sharesOn_mono {n m : Nat} (h : n ≤ m) (p : Protect) (mask : BitVec 20) (s : Nat) : sharesOn p mask n s ≤ sharesOn p mask m s := by
  have hshare (ix : Option Nat) (k : Nat) :
      (match ix with | some i => countMod n k i | none => 0) ≤ (match ix with | some i => countMod m k i | none => 0) := by
    cases ix with
    | none => exact Nat.le_refl 0
    | some i => exact countMod_mono h k i
  cases p with
  | none => exact hshare _ _
  | mirror => exact Nat.add_le_add (hshare _ _) (hshare _ _)
  | parity =>
    simp only [sharesOn]
    split
    · exact countMod_mono (ceilDiv_mono h 4) _ _
    · exact Nat.le_refl 0

/-- The regions asked for stand with the frames they need. -/
def RegionsHold (d : Dev) (ws : List OwnRegion) : Prop := ∀ w ∈ ws, ∃ r, NMap.get? d.mem.regions w.id = some r ∧ w.frames ≤ r.len / 4096

theorem fits_iff {d : Dev} {l : Leaf} : d.fits l ↔ RegionsHold d (l.regions d) := Iff.rfl

theorem lacks_eq_zero {d : Dev} {w : OwnRegion} {r : Region} (hr : NMap.get? d.mem.regions w.id = some r) (hw : w.frames ≤ r.len / 4096) (s : Nat) :
    d.lacks w s = 0 := by
  simp only [Dev.lacks, hr]
  split
  · rfl
  · exact Nat.sub_eq_zero_of_le (sharesOn_mono hw _ _ s)

/-- Regions that hold all they need want no more room (R284). -/
theorem RegionsHold.roomFor {d : Dev} {ws : List OwnRegion} (h : RegionsHold d ws) : d.roomFor ws = true := by
  have hlacks (s : Nat) : natSum (ws.map fun w => d.lacks w s) = 0 := natSum_zeros fun x hx => by
    obtain ⟨w, hw, rfl⟩ := List.mem_map.mp hx
    obtain ⟨r, hr, hle⟩ := h w hw
    exact lacks_eq_zero hr hle s
  have hneed : natSum ((List.range 20).map fun s => natSum (ws.map fun w => d.lacks w s)) = 0 := natSum_zeros fun x hx => by
    obtain ⟨s, -, rfl⟩ := List.mem_map.mp hx
    exact hlacks s
  simp [Dev.roomFor, hneed]

theorem place_of_holds {d : Dev} {w : OwnRegion} {r : Region} (c : Clock) (hr : NMap.get? d.mem.regions w.id = some r) (hw : w.frames ≤ r.len / 4096) :
    d.place c w = d := by
  simp only [Dev.place, hr, hw, if_true]

/-- Regions that hold all they need are left as they are (R264). -/
theorem RegionsHold.place {d : Dev} {ws : List OwnRegion} (h : RegionsHold d ws) (c : Clock) : ws.foldl (Dev.place c) d = d := by
  induction ws with
  | nil => rfl
  | cons w ws ih =>
    obtain ⟨r, hr, hw⟩ := h w (by simp)
    rw [List.foldl_cons, place_of_holds c hr hw]
    exact ih fun x hx => h x (by simp [hx])

/-- Freeing another region leaves them standing. -/
theorem RegionsHold.free {d : Dev} {ws : List OwnRegion} (h : RegionsHold d ws) {id : Nat} (hid : ∀ w ∈ ws, w.id ≠ id) : RegionsHold (d.free id) ws := by
  intro w hw
  obtain ⟨r, hr, hle⟩ := h w hw
  refine ⟨r, ?_, hle⟩
  unfold Dev.free
  split
  · exact hr
  · exact (get?_del_other (hid w hw)).trans hr

/-! ### The DRAM of a copy -/

/-- The device without the regions of a copy that its content needs no more. -/
def dropUnneeded (d : Dev) (parcel : Nat) (ws : List OwnRegion) : Dev :=
  ((d.leafRegions parcel).filter fun e => !(ws.any fun w => w.id = e.1)).foldl (fun (x : Dev) e => x.free e.1) d

theorem syncLeaf_eq {d : Dev} {parcel : Nat} {l : Leaf} (c : Clock) (hl : d.leaf parcel = some l) :
    d.syncLeaf c parcel =
      if (dropUnneeded d parcel (l.regions d)).roomFor (l.regions d) then (l.regions d).foldl (Dev.place c) (dropUnneeded d parcel (l.regions d))
      else (dropUnneeded d parcel (l.regions d)).failCopy c parcel := by
  simp only [Dev.syncLeaf, hl]; rfl

theorem dropUnneeded_copiesAndPlat (d : Dev) (parcel : Nat) (ws : List OwnRegion) : copiesAndPlat (dropUnneeded d parcel ws) = copiesAndPlat d :=
  foldl_keeps copiesAndPlat (fun b (e : Nat × Region) => free_copiesAndPlat b e.1) _ _

/-- Regions of which each has the number of one needed stay as they are. -/
theorem RegionsHold.dropUnneeded {d : Dev} {ws ws' : List OwnRegion} (h : RegionsHold d ws') (hin : ∀ w ∈ ws', ∃ w0 ∈ ws, w0.id = w.id) (parcel : Nat) :
    RegionsHold (dropUnneeded d parcel ws) ws' := by
  refine List.foldlRecOn (motive := fun x => RegionsHold x ws') _ _ h fun x hx e he => hx.free fun w hw hid => ?_
  obtain ⟨w0, hw0, hid0⟩ := hin w hw
  have hany : (ws.any fun w => w.id = e.1) = true := List.any_eq_true.mpr ⟨w0, hw0, decide_eq_true (hid0.trans hid)⟩
  simpa [hany] using (List.mem_filter.mp he).2

/-- The regions needed stay as they are. -/
theorem RegionsHold.dropOthers {d : Dev} {ws : List OwnRegion} (h : RegionsHold d ws) (parcel : Nat) : RegionsHold (Proofs.dropUnneeded d parcel ws) ws :=
  h.dropUnneeded (fun w hw => ⟨w, hw, rfl⟩) parcel

/-- A copy that fits what it holds keeps it, and frees what it needs no more. -/
theorem syncLeaf_of_fits {d : Dev} {parcel : Nat} {l : Leaf} (c : Clock) (hl : d.leaf parcel = some l) (h : d.fits l) :
    d.syncLeaf c parcel = dropUnneeded d parcel (l.regions d) := by
  have hold : RegionsHold (dropUnneeded d parcel (l.regions d)) (l.regions d) := (fits_iff.mp h).dropOthers parcel
  rw [syncLeaf_eq c hl, if_pos hold.roomFor, hold.place c]

theorem leaf_failCopy {d : Dev} {parcel : Nat} {l : Leaf} (c : Clock) (hl : d.leaf parcel = some l) :
    (d.failCopy c parcel).leaf parcel = some { l with loc := .failed } := by
  simp only [Dev.failCopy, hl]
  split
  next hfailed => rw [hl, ← hfailed]
  · exact leaf_updLeaf_some hl fun _ hx => hx

@[simp] theorem failCopy_plat (d : Dev) (c : Clock) (parcel : Nat) : (d.failCopy c parcel).plat = d.plat := by
  unfold Dev.failCopy
  split
  · rfl
  · split <;> rfl

@[simp] theorem syncLeaf_plat (d : Dev) (c : Clock) (parcel : Nat) : (d.syncLeaf c parcel).plat = d.plat := by
  rcases hl : d.leaf parcel with _ | l
  · simp only [Dev.syncLeaf, hl]
  have hdrop := plat_of_copiesAndPlat (dropUnneeded_copiesAndPlat d parcel (l.regions d))
  rw [syncLeaf_eq c hl]
  split
  · exact (plat_of_copiesAndPlat (foldl_keeps copiesAndPlat (place_copiesAndPlat c) _ _)).trans hdrop
  · exact (failCopy_plat _ _ _).trans hdrop

/-- Keeping the DRAM of a copy in step changes nothing of the copy but whether it is FAILED, and not that where it fits (R264, R391). -/
theorem leaf_syncLeaf {d : Dev} {parcel : Nat} {l : Leaf} (c : Clock) (hl : d.leaf parcel = some l) :
    ∃ loc, (d.syncLeaf c parcel).leaf parcel = some { l with loc := loc } ∧ (d.fits l → loc = l.loc) := by
  have hdrop : (dropUnneeded d parcel (l.regions d)).leaf parcel = some l :=
    (leaf_congr (leaves_of_copiesAndPlat (dropUnneeded_copiesAndPlat d parcel _)) parcel).trans hl
  by_cases hroom : (dropUnneeded d parcel (l.regions d)).roomFor (l.regions d) = true
  · refine ⟨l.loc, ?_, fun _ => rfl⟩
    rw [syncLeaf_eq c hl, if_pos hroom, leaf_congr (leaves_of_copiesAndPlat (foldl_keeps copiesAndPlat (place_copiesAndPlat c) _ _)), hdrop]
  · refine ⟨.failed, ?_, fun hfits => absurd ((fits_iff.mp hfits).dropOthers parcel).roomFor hroom⟩
    rw [syncLeaf_eq c hl, if_neg hroom, leaf_failCopy c hdrop]

/-! ### What is sent -/

@[simp] theorem send_sent (d : Dev) (cls : Fin 4) (dst : Nat) (m : OutMsg) : (d.send cls dst m).sent = d.sent ++ d.opening cls dst ++ [(dst, m)] := by
  unfold Dev.send; simp only; split <;> rfl

@[simp] theorem sendAll_leaves (d : Dev) (cls : Fin 4) (dsts : List Nat) (m : OutMsg) : (d.sendAll cls dsts m).leaves = d.leaves :=
  foldl_keeps (fun x : Dev => x.leaves) (fun b n => send_leaves b cls n m) _ _

@[simp] theorem sendAll_plat (d : Dev) (cls : Fin 4) (dsts : List Nat) (m : OutMsg) : (d.sendAll cls dsts m).plat = d.plat :=
  foldl_keeps (fun x : Dev => x.plat) (fun b n => send_plat b cls n m) _ _

@[simp] theorem sendAll_cnt (d : Dev) (cls : Fin 4) (dsts : List Nat) (m : OutMsg) : (d.sendAll cls dsts m).cnt = d.cnt :=
  foldl_keeps (fun x : Dev => x.cnt) (fun b n => send_cnt b cls n m) _ _

/-- A message goes to every node named. -/
theorem mem_sendAll {dsts : List Nat} {n : Nat} (hn : n ∈ dsts) (d : Dev) (cls : Fin 4) (m : OutMsg) : (n, m) ∈ (d.sendAll cls dsts m).sent := by
  have hkeeps (ns : List Nat) (x : Dev) (hx : (n, m) ∈ x.sent) : (n, m) ∈ (x.sendAll cls ns m).sent :=
    foldl_inv (fun y : Dev => (n, m) ∈ y.sent) (fun y k hy => by simp [hy]) ns x hx
  obtain ⟨as, bs, rfl⟩ := List.append_of_mem hn
  simp only [Dev.sendAll, List.foldl_append, List.foldl_cons]
  exact hkeeps bs _ (by simp)

/-- Sending looks at neither the copies nor the counters. -/
theorem send_withCopies (d : Dev) (ls : List Leaf) (cnt : NMap W64) (cls : Fin 4) (dst : Nat) (m : OutMsg) :
    ({ d with leaves := ls, cnt := cnt } : Dev).send cls dst m = { d.send cls dst m with leaves := ls, cnt := cnt } := by
  unfold Dev.send; simp only; split <;> rfl

theorem sendAll_withCopies (d : Dev) (ls : List Leaf) (cnt : NMap W64) (cls : Fin 4) (dsts : List Nat) (m : OutMsg) :
    ({ d with leaves := ls, cnt := cnt } : Dev).sendAll cls dsts m = { d.sendAll cls dsts m with leaves := ls, cnt := cnt } := by
  induction dsts generalizing d with
  | nil => rfl
  | cons n ns ih =>
    simp only [Dev.sendAll, List.foldl_cons] at ih ⊢
    rw [send_withCopies, ih]

end Sys2Proof.Proofs

/-! SUPPORT. Records and marks at a following copy, and the statement that records apply in the order of their sequence numbers and a mark is acknowledged once they have. -/

namespace Sys2Proof.Proofs

open Sys2Proof Sys2Proof.Machine Sys2Proof.Laws

/-! ### A tombstone record -/

section Records
variable {c : Clock} {d : Dev} {parcel : Nat} {l : Leaf} {r : UpdRec}

@[simp] theorem putRec_leaves (d : Dev) (place : RecPlace) (k : CmdKey) (e : Option Ended) : (d.putRec place k e).leaves = d.leaves := rfl
@[simp] theorem putRec_plat (d : Dev) (place : RecPlace) (k : CmdKey) (e : Option Ended) : (d.putRec place k e).plat = d.plat := rfl

@[simp] theorem keepRec_leaves (d : Dev) (parcel : Nat) (key : CmdKey) : (d.keepRec parcel key).leaves = d.leaves := by
  unfold Dev.keepRec; split <;> rfl

@[simp] theorem keepRec_plat (d : Dev) (parcel : Nat) (key : CmdKey) : (d.keepRec parcel key).plat = d.plat := by
  unfold Dev.keepRec; split <;> rfl

/-- A copy with a tombstone record applied in its place (R146, R152). -/
def withTombRec (l : Leaf) (r : UpdRec) (id : Nat) : Leaf :=
  { l with applied := r.seq, recs := l.recs ++ [r], tombs := l.tombs ++ [⟨id, r.commit, r.seq⟩] }

/-- A tombstone record is kept and its tombstone added, and the copy's DRAM follows. -/
theorem applyRec_tomb {id : Nat} (hl : d.leaf parcel = some l) (hop : r.op = .tomb id) :
    ∃ d1 : Dev, d.applyRec c parcel r = ((d1.syncLeaf c parcel).count 20 0 1).keepRec parcel r.key ∧ d1.leaf parcel = some (withTombRec l r id) ∧
      d1.plat = d.plat ∧ d1.mem = d.mem ∧ d1.chain = d.chain := by
  have hkept : (d.updLeaf parcel fun x => { x with applied := r.seq, recs := x.recs ++ [r] }).leaf parcel =
      some { l with applied := r.seq, recs := l.recs ++ [r] } := leaf_updLeaf_some hl fun _ hx => hx
  refine ⟨_, ?_, leaf_updLeaf_some (f := fun x => x.addTomb ⟨id, r.commit, r.seq⟩) hkept fun _ hx => hx, rfl, rfl, rfl⟩
  simp only [Dev.applyRec, Dev.applyOp, hkept, hop, Leaf.takeItem, opApplied]

/-- The regions of a copy depend on the device by the stacks that serve, the plat and the monuments. -/
theorem regions_congr {d e : Dev} (hserves : d.serves = e.serves) (hplat : d.plat = e.plat) (hchain : d.chain = e.chain) (l : Leaf) :
    l.regions d = l.regions e := by
  have hspace : d.spaceOf l = e.spaceOf l := by simp only [Dev.spaceOf, Dev.space, Dev.spaceIn, hplat]
  have hversion : Version.regions d = Version.regions e := by
    funext parcel list x v
    simp only [Version.regions, Dev.blockStack, hserves]
  simp only [Leaf.regions, Dev.pairsUp, hserves, hspace, hversion, hchain]

theorem fits_congr {d e : Dev} {l k : Leaf} (hmem : d.mem = e.mem) (hplat : d.plat = e.plat) (hchain : d.chain = e.chain)
    (hk : l.regions e = k.regions e) (h : d.fits l) : e.fits k := by
  have hserves : d.serves = e.serves := by funext s; simp only [Dev.serves, hmem]
  rw [fits_iff, ← hk, ← regions_congr hserves hplat hchain]
  intro w hw
  rw [← hmem]
  exact h w hw

/-- The copy once a tombstone record is applied: as current as before where its regions hold the tombstones. -/
theorem leaf_applyRec_tomb {id : Nat} (c : Clock) (hl : d.leaf parcel = some l) (hop : r.op = .tomb id) :
    ∃ loc, (d.applyRec c parcel r).leaf parcel = some { withTombRec l r id with loc := loc } ∧
      (d.fits { l with tombs := l.tombs ++ [⟨id, r.commit, r.seq⟩] } → loc = l.loc) := by
  obtain ⟨d1, hrec, hl1, hplat, hmem, hchain⟩ := applyRec_tomb (c := c) hl hop
  obtain ⟨loc, hloc, hkeep⟩ := leaf_syncLeaf c hl1
  refine ⟨loc, ?_, fun hfits => hkeep (fits_congr hmem.symm hplat.symm hchain.symm rfl hfits)⟩
  rw [hrec, ← hloc]
  exact leaf_congr (by simp only [keepRec_leaves, count_leaves]) parcel

theorem applyRec_tomb_plat {id : Nat} (c : Clock) (hl : d.leaf parcel = some l) (hop : r.op = .tomb id) : (d.applyRec c parcel r).plat = d.plat := by
  obtain ⟨d1, hrec, -, hplat, -⟩ := applyRec_tomb (c := c) hl hop
  simp only [hrec, keepRec_plat, count_plat, syncLeaf_plat, hplat]

end Records

/-! ### What follows the records received -/

section Receipt
variable {c : Clock} {d : Dev} {parcel : Nat} {l : Leaf} {r : UpdRec}

/-- A copy that has its content holds no records back. -/
theorem awaitsImage_of_cfg (d : Dev) (h : l.cfg.isSome = true) : d.awaitsImage l = false := by
  obtain ⟨x, hx⟩ := Option.isSome_iff_exists.mp h
  simp [Dev.awaitsImage, hx]

/-- Records that do not follow on what has been applied are held (R146). -/
theorem drainRecs_holds (hl : d.leaf parcel = some l) (hnext : ∀ r ∈ l.early, r.seq ≠ l.applied + 1) : d.drainRecs c parcel = d := by
  have hfind : (l.early.find? fun r => r.seq = l.applied + 1) = none := by simpa using hnext
  simp only [Dev.drainRecs, hl]
  split
  · rfl
  rcases l.early.length with _ | n
  · rfl
  · simp only [Dev.drainEarly, hl, hfind]

/-- The one record held applies when it follows on what has been applied (R146). -/
theorem drainRecs_applies (hl : d.leaf parcel = some l) (hcfg : l.cfg.isSome = true) (hr : l.early = [r]) (hnext : r.seq = l.applied + 1) :
    d.drainRecs c parcel = (d.updLeaf parcel fun x => { x with early := x.early.filter fun y => y.seq != r.seq }).applyRec c parcel r := by
  simp only [Dev.drainRecs, hl, awaitsImage_of_cfg d hcfg, hr, List.length_singleton, Dev.drainEarly, List.find?_cons, hnext, decide_true,
    Bool.false_eq_true, if_false]

theorem ackLoad_none (c : Clock) (hl : d.leaf parcel = some l) (hload : l.load = none) : d.ackLoad c parcel = d := by
  simp only [Dev.ackLoad, hl, hload]

theorem ackMark_none (c : Clock) (hl : d.leaf parcel = some l) (hmark : l.pendingMark = none) : d.ackMark c parcel = d := by
  simp only [Dev.ackMark, hl, hmark, Option.bind_none]

/-- Only a copy that the plat has as JOINING reports READY (R376). -/
theorem checkReady_of_not_joining (h : (d.newest.bind fun g => d.mine g parcel) ≠ some .joining) (c : Clock) (seq : Nat) {e : Dev}
    (hplat : e.plat = d.plat) : e.checkReady c parcel seq = e := by
  have hmine : (e.newest.bind fun g => e.mine g parcel) ≠ some .joining := by simpa only [Dev.newest, Dev.mine, hplat] using h
  unfold Dev.checkReady
  split
  · rfl
  split
  next hjoin => exact absurd hjoin hmine
  · rfl

/-- A new record, none being held, is held first. -/
theorem updateRecordReceipt_single (hl : d.leaf parcel = some l) (hlive : d.live = true) (hloc : l.loc ≠ .failed) (hshadow : l.shadow = none)
    (hearly : l.early = []) (hnew : l.applied < r.seq) (hop : ∀ p, r.op ≠ .load p) :
    updateRecordReceipt parcel [r] c d =
      ((((d.updLeaf parcel fun _ => { l with early := [r] }).drainRecs c parcel).ackLoad c parcel).ackMark c parcel).checkReady c parcel 0 := by
  have htakes : l.takes r = true := by simp [Leaf.takes, hearly, hshadow, hnew]
  have hstation (x : Leaf) : x.takeStation r = x := by
    unfold Leaf.takeStation
    split
    next p hp => exact absurd hp (hop p)
    · rfl
  simp only [updateRecordReceipt, hl, hloc, hlive, decide_false, Bool.not_true, Bool.or_self, Bool.false_eq_true, if_false, List.isEmpty_cons,
    List.foldl_cons, List.foldl_nil, htakes, if_true, hstation, hearly, List.nil_append]

/-! ### Marks -/

/-- A mark, none being pending, is pending first. -/
theorem markReceipt_pending {m : Mark} (hl : d.leaf parcel = some l) (hlive : d.live = true) (hloc : l.loc ≠ .failed) (hshadow : l.shadow = none)
    (hmark : l.pendingMark = none) : markReceipt parcel m c d = (d.updLeaf parcel fun x => { x with pendingMark := some m }).ackMark c parcel := by
  simp only [markReceipt, hl, hloc, hlive, hshadow, hmark, decide_false, Bool.not_true, Bool.or_self, Bool.false_eq_true, if_false]

/-- While records up to a mark are missing they are fetched from the lead (R147). -/
theorem ackMark_fetches {m : Mark} {n : Nat} (c : Clock) (hl : d.leaf parcel = some l) (hmark : l.pendingMark = some m)
    (hlead : d.leadAt parcel m.commit = some n) (hmiss : l.applied < m.seq) :
    d.ackMark c parcel = d.send clsControl n (.fetchRecords parcel (l.applied + 1)) := by
  simp only [Dev.ackMark, hl, hmark, Option.bind_some, hlead, hmiss, if_true]

/-- Once everything up to a mark has been applied it is acknowledged to the lead, and pending no more (R147). -/
theorem ackMark_acks {m : Mark} {n : Nat} (c : Clock) (hl : d.leaf parcel = some l) (hmark : l.pendingMark = some m)
    (hlead : d.leadAt parcel m.commit = some n) (hall : m.seq ≤ l.applied) :
    d.ackMark c parcel = ((d.updLeaf parcel fun x => { x with pendingMark := none, ackedTo := max x.ackedTo m.commit }).send clsControl n
      (.markAck parcel m.commit (d.ackReady l))).checkReady c parcel m.seq := by
  have hmiss : ¬ l.applied < m.seq := Nat.not_lt.mpr hall
  simp only [Dev.ackMark, hl, hmark, Option.bind_some, hlead, hmiss, if_false]

end Receipt

/-! ### The statement -/

/-- What the statement asks of a copy that follows: live, not FAILED, no shadow, loaded by records alone and not JOINING. -/
structure Following (d : Dev) (parcel : Nat) (l : Leaf) : Prop where
  live : d.live = true
  copy : d.leaf parcel = some l
  notFailed : l.loc ≠ .failed
  noShadow : l.shadow = none
  noLoad : l.load = none
  hasCfg : l.cfg.isSome = true
  notJoining : (d.newest.bind fun g => d.mine g parcel) ≠ some .joining

section Following
variable {s v : State} {t parcel : Nat} {l : Leaf}

/-- A later record is held (R146). -/
theorem exec_record_held {r : UpdRec} (hv : v = s.tick t) (h : Following v.dev parcel l) (hmark : l.pendingMark = none) (hearly : l.early = [])
    (hgap : l.applied + 1 < r.seq) (hop : ∀ p, r.op ≠ .load p) :
    exec (.updateRecordReceipt t parcel [r]) s = .next { v with dev := v.dev.updLeaf parcel fun _ => { l with early := [r] } } := by
  obtain ⟨hlive, hl, hloc, hshadow, hload, -, hjoin⟩ := h
  have hl1 : (v.dev.updLeaf parcel fun _ => { l with early := [r] }).leaf parcel = some { l with early := [r] } :=
    leaf_updLeaf_const hl rfl
  have hnext : ∀ x ∈ [r], x.seq ≠ l.applied + 1 := by simpa using Nat.ne_of_gt hgap
  refine exec_onDev rfl rfl hv ?_
  rw [updateRecordReceipt_single hl hlive hloc hshadow hearly (by omega) hop, drainRecs_holds hl1 hnext, ackLoad_none _ hl1 hload,
    ackMark_none _ hl1 hmark, checkReady_of_not_joining hjoin]
  rfl

/-- The next record, a tombstone, applies at once (R146, R152). -/
theorem exec_record_applies {commit id : Nat} {key : CmdKey} (hv : v = s.tick t) (h : Following v.dev parcel l) (hmark : l.pendingMark = none)
    (hearly : l.early = []) :
    ∃ v' loc, exec (.updateRecordReceipt t parcel [⟨l.applied + 1, commit, .tomb id, key⟩]) s = .next v' ∧
      v'.dev.leaf parcel = some { withTombRec l ⟨l.applied + 1, commit, .tomb id, key⟩ id with loc := loc } ∧
      (v.dev.fits { l with tombs := l.tombs ++ [⟨id, commit, l.applied + 1⟩] } → loc = l.loc) := by
  obtain ⟨hlive, hl, hloc, hshadow, hload, hcfg, hjoin⟩ := h
  let r : UpdRec := ⟨l.applied + 1, commit, .tomb id, key⟩
  have hl1 : (v.dev.updLeaf parcel fun _ => { l with early := [r] }).leaf parcel = some { l with early := [r] } :=
    leaf_updLeaf_const hl rfl
  have hl2 := leaf_updLeaf_some (f := fun x : Leaf => { x with early := x.early.filter fun y => y.seq != r.seq }) hl1 fun _ hx => hx
  obtain ⟨loc, happlied, hkeep⟩ := leaf_applyRec_tomb v.clk hl2 (r := r) rfl
  have hplat := applyRec_tomb_plat v.clk hl2 (r := r) rfl
  have hdev : updateRecordReceipt parcel [r] v.clk v.dev = ((v.dev.updLeaf parcel fun _ => { l with early := [r] }).updLeaf parcel
      fun x => { x with early := x.early.filter fun y => y.seq != r.seq }).applyRec v.clk parcel r := by
    rw [updateRecordReceipt_single hl hlive hloc hshadow hearly (Nat.lt_succ_self _) (by simp [r]), drainRecs_applies hl1 hcfg rfl rfl,
      ackLoad_none _ happlied hload, ackMark_none _ happlied hmark, checkReady_of_not_joining hjoin _ _ hplat]
  refine ⟨_, loc, exec_onDev rfl rfl hv hdev, ?_, fun hfits => hkeep (fits_congr rfl rfl rfl rfl hfits)⟩
  have hgone : ([r].filter fun y => y.seq != r.seq) = l.early := by simp [hearly]
  rw [happlied, hgone]

end Following

/-- Settles O31. It holds: with nothing held early, a record moves the copy only when it is the next, and a mark waits until the records before it have been applied. -/
theorem recordsApplyInOrder : Obligations.RecordsApplyInOrder := by
  intro s v t parcel l hv hlive hl hloc hshadow hload hcfg hjoin
  have h : Following v.dev parcel l := ⟨hlive, hl, hloc, hshadow, hload, hcfg, hjoin⟩
  refine ⟨fun r hmark hearly hgap hop => exec_record_held hv h hmark hearly hgap hop, fun commit id key hmark hearly => exec_record_applies hv h hmark hearly, ?_⟩
  intro m n hmark hlead
  have hl1 : (v.dev.updLeaf parcel fun x => { x with pendingMark := some m }).leaf parcel = some { l with pendingMark := some m } :=
    leaf_updLeaf_some hl fun _ hx => hx
  refine ⟨_, exec_onDev rfl rfl hv (markReceipt_pending hl hlive hloc hshadow hmark), fun hall => ?_, fun hmiss => ?_⟩
  · have hl2 := leaf_updLeaf_some (f := fun x : Leaf => { x with pendingMark := none, ackedTo := max x.ackedTo m.commit }) hl1 fun _ hx => hx
    rw [ackMark_acks v.clk hl1 rfl hlead hall, checkReady_of_not_joining hjoin _ _ (by simp only [send_plat, updLeaf_plat]), hmark]
    exact ⟨(leaf_congr (send_leaves _ _ _ _) parcel).trans hl2, by simp only [send_sent]; rfl⟩
  · rw [ackMark_fetches v.clk hl1 rfl hlead hmiss]
    exact ⟨(leaf_congr (send_leaves _ _ _ _) parcel).trans hl1, by simp only [send_sent]; rfl⟩

end Sys2Proof.Proofs

/-! SUPPORT. Stations at the lead and at the other copies: what a settled station leaves of the copy, whom it names as lapsed, and what its record makes of a copy that it names; and the statement about stations that settle. -/

namespace Sys2Proof.Proofs

open Sys2Proof Sys2Proof.Machine Sys2Proof.Laws

section Stations
variable {s v : State} {t parcel : Nat} {c : Clock} {d : Dev} {l : Leaf}

/-! ### Intake, acknowledgements and fetches -/

theorem intakeClose_marks (c : Clock) (hl : d.leaf parcel = some l) (hlive : d.live = true) (hheld : l.intakeHeld = false) (hintake : l.noIntake = false)
    (hloc : l.loc = .current) : intakeClose parcel c d =
      (((((d.toMark c l).foldl (fun (x : Dev) y => x.sendMark c parcel y) d).ackLoad c parcel).tryLoadStation c parcel).settleAll c parcel) := by
  simp only [intakeClose, hl, hlive, hheld, hintake, hloc, bne_self_eq_false, Bool.not_true, Bool.or_self, Bool.false_eq_true, if_false]

/-- An acknowledgement is noted with what it says of the closure, and what it lets settle is settled (R147, R162). -/
theorem markAck_notes (c : Clock) (hl : d.leaf parcel = some l) (node commit : Nat) (ready : Option Bool) :
    markAck parcel node commit ready none c d = ((d.updLeaf parcel fun x =>
      { x with acked := NMap.put x.acked node (max commit (NMap.getD x.acked node 0)),
               closure := x.closure.map fun y => match ready with | some b => { y with readyFrom := (node, b) :: y.readyFrom.filter fun z => z.1 != node } | none => y }).settleAll
        c parcel) := by
  simp only [markAck, hl] <;> rfl

/-- Records that the lead still keeps are sent to the copy that asks for them (R147). -/
theorem markAck_fetches {r : UpdRec} {rs : List UpdRec} {seq : Nat} (c : Clock) (hl : d.leaf parcel = some l) (hrecs : l.recs = r :: rs) (hseq : r.seq ≤ seq)
    (node commit : Nat) (ready : Option Bool) : markAck parcel node commit ready (some seq) c d =
      d.send clsUpdate node (.records parcel (l.recs.filter fun x => seq ≤ x.seq)) := by
  simp only [markAck, hl, Leaf.recsFrom, hrecs, hseq, if_true]

/-! ### A station settles -/

/-- A CURRENT copy lapses from a station; one that has lapsed already stays as it is (R389). -/
def markLapsed (commit : Nat) (peers : NMap LocalState) (n : Nat) : NMap LocalState :=
  if NMap.getD peers n LocalState.current = .current then NMap.put peers n (.lapsed commit) else peers

theorem getD_markLapsed (commit n k : Nat) (peers : NMap LocalState) : NMap.getD (markLapsed commit peers k) n .current =
    if n = k ∧ NMap.getD peers n .current = .current then .lapsed commit else NMap.getD peers n .current := by
  unfold markLapsed
  by_cases hnk : n = k
  · subst hnk
    split
    next h => simp [h]
    next h => simp [h]
  · split
    · simp [hnk, getD_put_other _ _ hnk]
    · simp [hnk]

/-- Of the copies marked those that were CURRENT are lapsed from the station; every other copy stays. -/
theorem getD_foldl_markLapsed (commit n : Nat) (ns : List Nat) (peers : NMap LocalState) : NMap.getD (ns.foldl (markLapsed commit) peers) n .current =
    if n ∈ ns ∧ NMap.getD peers n .current = .current then .lapsed commit else NMap.getD peers n .current := by
  induction ns generalizing peers with
  | nil => simp
  | cons k ns ih =>
    rw [List.foldl_cons, ih, getD_markLapsed]
    by_cases hnk : n = k
    · subst hnk
      by_cases hn : NMap.getD peers n .current = .current
      · simp [hn]
      · simp [hn]
    · simp [hnk]

/-- With no record kept no command's record ends. -/
theorem endSeqRecs_none (c : Clock) (hl : d.leaf parcel = some l) (hrecs : l.recs = []) (commit : Nat) (degraded : Bool) :
    d.endSeqRecs c parcel commit degraded = d := by
  simp only [Dev.endSeqRecs, hl, hrecs, List.filter_nil, List.map_nil, List.dedup_nil, List.foldl_nil]

/-- What a station that settles makes of the lead's copy: the other copies as given, and no command that waited for it (R147, R389). -/
def settledCopy (commit : Nat) (peers : NMap LocalState) (l : Leaf) : Leaf :=
  { l with settled := max l.settled commit, marks := l.marks.drop 1, peers := peers,
           waits := l.waits.filter fun w => !(w.kind != .closure && w.station ≤ commit) }

/-- A station settles: the followers without an acknowledgement lapse and are counted, and the settled record goes to every other copy (R147, R389). -/
theorem settleOne_plain {mk : Mark × Nat} {fs lapsed : List Nat} (c : Clock) (hl : d.leaf parcel = some l) (hwaits : l.waits = []) (hrecs : l.recs = [])
    (hclosure : l.closure = none) (hfs : fs = d.followers parcel mk.1.commit) (hcur : ∀ n ∈ fs, l.peer n = .current)
    (hlapsed : lapsed = fs.filter fun n => !(l.hasAck mk.1.commit n)) :
    d.settleOne c parcel mk =
      ((d.updLeaf parcel (settledCopy mk.1.commit (lapsed.foldl (markLapsed mk.1.commit) l.peers))).count 109 0 lapsed.length).sendAll clsControl
        (d.otherCopies parcel mk.1.commit) (.settled ⟨parcel, mk.1.commit, lapsed, [], none, []⟩) := by
  have hmem : ∀ n ∈ lapsed, n ∈ fs := fun n hn => List.mem_of_mem_filter (hlapsed ▸ hn)
  have hlive : (fs.filter fun n => l.peer n != .failed) = fs := List.filter_eq_self.mpr fun n hn => by simp [hcur n hn]
  have hback : (fs.filter fun n => l.peer n != .current && l.catches mk.1.commit n) = [] :=
    List.filter_eq_nil_iff.mpr fun n hn => by simp [hcur n hn]
  have hnone : (fs.filter fun n => !(l.hasAck mk.1.commit n) || (l.peer n != .current && !(([] : List Nat).contains n))) = lapsed := by
    rw [hlapsed]
    exact List.filter_congr fun n hn => by simp [hcur n hn]
  have hnewly : (lapsed.filter fun n => NMap.getD l.peers n LocalState.current = .current) = lapsed :=
    List.filter_eq_self.mpr fun n hn => by simpa [Leaf.peer] using hcur n (hmem n hn)
  have hverdict (ns : List Nat) : closureVerdict l mk.1.commit ns = none := by simp only [closureVerdict, hclosure]
  let d1 := (d.updLeaf parcel (settledCopy mk.1.commit (lapsed.foldl (markLapsed mk.1.commit) l.peers))).count 109 0 lapsed.length
  have hl1 : d1.leaf parcel = some (settledCopy mk.1.commit (lapsed.foldl (markLapsed mk.1.commit) l.peers) l) :=
    (leaf_congr (count_leaves _ _ _ _) parcel).trans (leaf_updLeaf_some hl fun _ hx => hx)
  have hseq := endSeqRecs_none c hl1 hrecs mk.1.commit (!lapsed.isEmpty)
  have hothers : d1.otherCopies parcel mk.1.commit = d.otherCopies parcel mk.1.commit := by
    have hplat : d1.plat = d.plat := count_plat _ _ _ _
    simp only [Dev.otherCopies, Dev.copiesAt, Dev.genFor, Dev.newest, hplat]
  simp only [Dev.settleOne, hl, ← hfs, hlive, hback, hnone, List.foldl_nil, hnewly, hverdict, hwaits, List.filter_nil]
  change (d1.endSeqRecs c parcel mk.1.commit (!lapsed.isEmpty)).sendAll clsControl
    ((d1.endSeqRecs c parcel mk.1.commit (!lapsed.isEmpty)).otherCopies parcel mk.1.commit) _ = _
  rw [hseq, hothers]

/-- The one marked station, when it may settle, settles (R147). -/
theorem lapseTimeout_settles {mk : Mark × Nat} (hl : d.leaf parcel = some l) (hmarks : l.marks = [mk]) (hloc : l.loc = .current)
    (hintake : l.noIntake = false) (hcan : d.canSettle c l mk = true) : lapseTimeout parcel c d = d.settleOne c parcel mk := by
  simp only [lapseTimeout, Dev.settleAll, hl, Option.map_some, Option.getD_some, hmarks, List.length_singleton, Dev.trySettle, hloc, hintake, hcan,
    bne_self_eq_false, Bool.not_true, Bool.or_self, Bool.false_eq_true, if_false]

/-- What the copies and the counters do not decide of a message decides nothing of what is sent. -/
theorem sendAll_sent_counted (g : Leaf → Leaf) (k i n : Nat) (cls : Fin 4) (dsts : List Nat) (m : OutMsg) :
    (((d.updLeaf parcel g).count k i n).sendAll cls dsts m).sent = (d.sendAll cls dsts m).sent := by
  have hcounted : (d.updLeaf parcel g).count k i n =
      { d with leaves := (d.updLeaf parcel g).leaves, cnt := ((d.updLeaf parcel g).count k i n).cnt } := by
    unfold Dev.count; split <;> rfl
  rw [hcounted, sendAll_withCopies]

@[simp] theorem cnt_count_updLeaf (d : Dev) (parcel : Nat) (g : Leaf → Leaf) (k i n : Nat) :
    ((d.updLeaf parcel g).count k i n).cnt = (d.count k i n).cnt := by
  unfold Dev.count; split <;> rfl

/-- A marked station settles at the lapse timeout: who has lapsed, what is counted and what is sent (R147, R389). -/
theorem exec_lapseTimeout {mk : Mark × Nat} {fs lapsed : List Nat} (hv : v = s.tick t) (hl : v.dev.leaf parcel = some l) (hmarks : l.marks = [mk])
    (hloc : l.loc = .current) (hintake : l.noIntake = false) (hwaits : l.waits = []) (hrecs : l.recs = []) (hclosure : l.closure = none)
    (hcan : v.dev.canSettle v.clk l mk = true) (hfs : fs = v.dev.followers parcel mk.1.commit) (hcur : ∀ n ∈ fs, l.peer n = .current)
    (hlapsed : lapsed = fs.filter fun n => !(l.hasAck mk.1.commit n)) :
    ∃ v' l', exec (.lapseTimeout t parcel) s = .next v' ∧ v'.dev.leaf parcel = some l' ∧ l'.settled = max l.settled mk.1.commit ∧ l'.marks = [] ∧
      (∀ n ∈ fs, l'.peer n = if n ∈ lapsed then .lapsed mk.1.commit else .current) ∧ v'.dev.cnt = (v.dev.count 109 0 lapsed.length).cnt ∧
      v'.dev.sent = (v.dev.sendAll clsControl (v.dev.otherCopies parcel mk.1.commit) (.settled ⟨parcel, mk.1.commit, lapsed, [], none, []⟩)).sent := by
  have hdev := (lapseTimeout_settles hl hmarks hloc hintake hcan).trans (settleOne_plain v.clk hl hwaits hrecs hclosure hfs hcur hlapsed)
  refine ⟨_, settledCopy mk.1.commit (lapsed.foldl (markLapsed mk.1.commit) l.peers) l, exec_onDev rfl rfl hv hdev, ?_, rfl, ?_, fun n hn => ?_, ?_,
    sendAll_sent_counted _ _ _ _ _ _ _⟩
  · exact (leaf_congr (by simp only [sendAll_leaves, count_leaves]) parcel).trans (leaf_updLeaf_some hl fun _ hx => hx)
  · simp only [settledCopy, hmarks, List.drop_one, List.tail_cons]
  · have hn' : NMap.getD l.peers n .current = .current := hcur n hn
    exact (getD_foldl_markLapsed _ _ _ _).trans (by simp only [hn', and_true])
  · simp only [sendAll_cnt, cnt_count_updLeaf]

/-! ### A settled record -/

/-- A copy that the settled record names as lapsed refuses benchmarks from its station (R389). -/
theorem noteLapse_lapsed {me : Nat} {r : Settled} (hme : me ∈ r.lapsed) (hloc : l.loc = .current) : (l.noteLapse me r).loc = .lapsed r.commit := by
  simp [Leaf.noteLapse, hme, hloc]

/-- One that it names as CURRENT again is so, and refuses the benchmarks it missed (R389). -/
theorem noteLapse_current {me x : Nat} {r : Settled} (hlapsed : me ∉ r.lapsed) (hme : me ∈ r.current) (hloc : l.loc = .lapsed x) :
    l.noteLapse me r = { l with loc := .current, refused := l.refused ++ [(x, r.commit - 1)] } := by
  simp [Leaf.noteLapse, hlapsed, hme, hloc]

theorem noteLapse_unnamed {me : Nat} {r : Settled} (hlapsed : me ∉ r.lapsed) (hme : me ∉ r.current) : l.noteLapse me r = l := by
  simp [Leaf.noteLapse, hlapsed, hme]

/-- Being named changes a copy's local state and the benchmarks it refuses, and nothing else. -/
theorem noteLapse_eq (l : Leaf) (me : Nat) (r : Settled) :
    l.noteLapse me r = { l with loc := (l.noteLapse me r).loc, refused := (l.noteLapse me r).refused } := by
  unfold Leaf.noteLapse
  split
  · split <;> rfl
  split
  · split <;> rfl
  · rfl

theorem serves_lapsed {b x : Nat} (hloc : l.loc = .lapsed x) (hb : x ≤ b) : l.serves b = false := by
  have hlate : ¬ b < x := Nat.not_lt.mpr hb
  simp [Leaf.serves, hloc, hlate]

theorem serves_refused {b lo hi : Nat} (href : (lo, hi) ∈ l.refused) (hlo : lo ≤ b) (hhi : b ≤ hi) : l.serves b = false := by
  have hany : (l.refused.any fun r => r.1 ≤ b && b ≤ r.2) = true := List.any_eq_true.mpr ⟨_, href, by simp [hlo, hhi]⟩
  simp only [Leaf.serves, hany, Bool.not_true, Bool.and_false, Bool.false_and]

/-- A settled record without outcomes or a closure's, at a copy that keeps no records, is noted there. -/
theorem settledRecordReceipt_notes {r : Settled} (c : Clock) (hlive : d.live = true) (hout : r.outcomes = []) (hclosure : r.closure = none)
    (hl : d.leaf r.parcel = some l) (hloc : l.loc ≠ .failed) (hshadow : l.shadow = none) (hrecs : l.recs = []) :
    settledRecordReceipt r c d = d.updLeaf r.parcel fun x => { x.noteLapse d.plat.nodeId r with settled := max x.settled r.commit } := by
  have hl1 : (d.updLeaf r.parcel fun x => { x.noteLapse d.plat.nodeId r with settled := max x.settled r.commit }).leaf r.parcel =
      some { l.noteLapse d.plat.nodeId r with settled := max l.settled r.commit } :=
    leaf_updLeaf_some hl fun x hx => by rw [noteLapse_eq]; exact hx
  have hrecs1 : (l.noteLapse d.plat.nodeId r).recs = [] := by rw [noteLapse_eq]; exact hrecs
  simp only [settledRecordReceipt, hlive, hout, hclosure, hl, hloc, hshadow, List.foldl_nil, Bool.not_true, decide_false, Bool.or_self,
    Bool.false_eq_true, if_false]
  exact endSeqRecs_none c hl1 hrecs1 _ _

end Stations

/-! ### The statement -/

/-- Settles O32. It holds: every message takes the branch its hypotheses leave, a settled station lapses exactly the copies without an acknowledgement, and a settled record changes the state of the copies it names. -/
theorem stationsSettle : Obligations.StationsSettle := by
  refine ⟨fun s v t parcel l hv hl => ⟨?_, ?_, ?_, ?_⟩, ?_⟩
  · exact fun hlive hheld hintake hloc => exec_onDev rfl rfl hv (intakeClose_marks v.clk hl hlive hheld hintake hloc)
  · exact fun node commit ready hnode => exec_onDev rfl (decide_eq_true hnode) hv (markAck_notes v.clk hl node commit ready)
  · exact fun node commit seq r rs ready hnode hrecs hseq =>
      exec_onDev rfl (decide_eq_true hnode) hv (markAck_fetches v.clk hl hrecs hseq node commit ready)
  · exact fun mk fs lapsed hmarks hloc hintake hwaits hrecs hclosure hcan hfs hcur hlapsed =>
      exec_lapseTimeout hv hl hmarks hloc hintake hwaits hrecs hclosure hcan hfs hcur hlapsed
  · intro s v t r l hv hlive hout hclosure hl hloc hshadow hrecs
    refine ⟨_, { l.noteLapse v.dev.plat.nodeId r with settled := max l.settled r.commit },
      exec_onDev rfl rfl hv (settledRecordReceipt_notes v.clk hlive hout hclosure hl hloc hshadow hrecs), ?_, rfl, ?_, fun hme hcur => ?_,
      fun x hlapsed hme hx => ?_, fun hlapsed hme => ?_⟩
    · exact leaf_updLeaf_some hl fun x hx => by rw [noteLapse_eq]; exact hx
    · rw [noteLapse_eq]
    · have hloc' := noteLapse_lapsed (l := l) hme hcur
      exact ⟨hloc', fun b hb => serves_lapsed hloc' hb⟩
    · rw [noteLapse_current hlapsed hme hx]
      exact ⟨rfl, fun b hlo hhi => serves_refused (by simp) hlo (Nat.le_sub_one_of_lt hhi)⟩
    · rw [noteLapse_unnamed hlapsed hme]

end Sys2Proof.Proofs

/-! SUPPORT. Closures, loads, fills, new leads and drains at a leaf copy: the one branch that each event takes, what it leaves of the copy, and the statement about them. -/

namespace Sys2Proof.Proofs

open Sys2Proof Sys2Proof.Machine Sys2Proof.Laws

section Copies
variable {s v : State} {t parcel : Nat} {c : Clock} {d : Dev} {l : Leaf}

/-! ### A closure's build -/

@[simp] theorem shows_leaves (d : Dev) (entry : Nat) (r : Ref) (done total count : Nat) : (d.shows entry r done total count).leaves = d.leaves := by
  unfold Dev.shows
  split
  · exact report_leaves _ _ _ _ _ _ _ _
  · exact send_leaves _ _ _ _

@[simp] theorem reportClosure_leaves (d : Dev) (c : Clock) (l : Leaf) (done total : Nat) : (d.reportClosure c l done total).leaves = d.leaves := by
  unfold Dev.reportClosure
  split
  · split
    · exact shows_leaves _ _ _ _ _ _
    · rfl
  · rfl

/-- Forming the new version changes a copy's lists alone (R160). -/
theorem formNext_eq (d : Dev) (l : Leaf) (cl : Closure) : d.formNext l cl = { l with lists := (d.formNext l cl).lists } := by
  unfold Dev.formNext; split <;> rfl

/-- A closure that may be built at a copy: not begun, no outcome yet, K settled, and the copy in use and not about to switch (R161, R162). -/
structure Buildable (l : Leaf) (cl : Closure) : Prop where
  closure : l.closure = some cl
  building : cl.building = false
  outcome : cl.outcome = none
  ready : cl.ready = none
  kSettled : cl.k ≤ l.settled
  notFailed : l.loc ≠ .failed
  noShadow : l.shadow = none
  noDue : l.due = none

/-- The copy once the build of its closure has begun. -/
def building (d : Dev) (l : Leaf) (cl : Closure) : Leaf := d.formNext { l with closure := some { cl with building := true } } cl

/-- The new versions of a copy are written where their lists lie on flash (R161). -/
def writeNext (d : Dev) (parcel : Nat) (l : Leaf) : Dev :=
  l.lists.zipIdx.foldl (fun (y : Dev) e => match e.1.next with | some v => y.writeVersion parcel e.2 e.1 v | none => y) d

theorem writeNext_copiesAndPlat (d : Dev) (parcel : Nat) (l : Leaf) : copiesAndPlat (writeNext d parcel l) = copiesAndPlat d :=
  foldl_keeps copiesAndPlat (fun b (e : LList × Nat) => by
    split
    · exact writeVersion_copiesAndPlat _ _ _ _ _
    · rfl) _ _

/-- With room for the new version it is formed, and the copy's DRAM and flash follow; without it the copy is not ready (R161, R162). -/
theorem closureBuildStart_eq {cl : Closure} (c : Clock) (hl : d.leaf parcel = some l) (h : Buildable l cl) : closureBuildStart parcel c d =
    if d.nextRoom (building d l cl) then
      (writeNext ((d.updLeaf parcel fun _ => building d l cl).syncLeaf c parcel) parcel (building d l cl)).reportClosure c l 0 (l.toMerge cl)
    else d.updLeaf parcel fun x => { x with closure := some { cl with ready := some false } } := by
  obtain ⟨hcl, hbuild, hout, hready, hk, hloc, hshadow, hdue⟩ := h
  have hgo : (cl.building || l.due.isSome || cl.outcome = some false || cl.ready.isSome || l.settled < cl.k || l.loc = .failed ||
      (match l.shadow with | some f => decide (f ≤ cl.u) | none => false)) = false := by
    simp [hbuild, hdue, hout, hready, Nat.not_lt.mpr hk, hloc, hshadow]
  have hundecided : ¬ cl.outcome = some true := by simp [hout]
  simp only [closureBuildStart, hl, hcl]
  rw [if_neg (by rw [Bool.not_eq_true]; exact hgo), if_neg hundecided]
  rfl

/-- The copy whose build has begun: as current as before where its regions hold the new version. -/
theorem leaf_closureBuildStart {cl : Closure} (c : Clock) (hl : d.leaf parcel = some l) (h : Buildable l cl) (hroom : d.nextRoom (building d l cl) = true) :
    ∃ loc, (closureBuildStart parcel c d).leaf parcel = some { building d l cl with loc := loc } ∧ (d.fits (building d l cl) → loc = l.loc) := by
  have hparcel : (building d l cl).parcel = l.parcel := by unfold building; rw [formNext_eq]
  have hloc : (building d l cl).loc = l.loc := by unfold building; rw [formNext_eq]
  obtain ⟨loc, hleaf, hkeep⟩ := leaf_syncLeaf c (leaf_updLeaf_const hl hparcel)
  refine ⟨loc, ?_, fun hfits => hloc ▸ hkeep (fits_congr rfl rfl rfl rfl hfits)⟩
  rw [closureBuildStart_eq c hl h, if_pos hroom, leaf_congr (reportClosure_leaves _ _ _ _ _),
    leaf_congr (leaves_of_copiesAndPlat (writeNext_copiesAndPlat _ _ _)), hleaf]

/-- A build that ends says whether the new version is complete (R161, R162). -/
theorem closureBuildComplete_ends {cl : Closure} {ok : Bool} (c : Clock) (hl : d.leaf parcel = some l) (hcl : l.closure = some cl)
    (hbuild : cl.building = true) (hout : cl.outcome = none) (hok : ok = true → d.nextDurable l = true) :
    closureBuildComplete parcel ok c d =
      (d.updLeaf parcel fun x => { x with closure := some { cl with building := false, ready := some ok } }).reportClosure c l
        (if ok then l.toMerge cl else 0) (l.toMerge cl) := by
  have hdurable : (ok && !(d.nextDurable l)) = false := by
    cases ok with
    | false => rfl
    | true => rw [hok rfl]; rfl
  simp only [closureBuildComplete, hl, hcl, hbuild, hout, hdurable, Bool.not_true, Bool.or_self, Bool.false_eq_true, if_false, reduceCtorEq]

/-! ### Loads and fills -/

theorem loadAcknowledgement_notes {node : Nat} {x : Load} (c : Clock) (hx : ((d.leaf parcel).bind fun l => l.load) = some x) (hnode : node ∉ x.acks) :
    loadAcknowledgement parcel node c d =
      (d.updLeaf parcel fun y => { y with load := some { x with acks := x.acks ++ [node] } }).tryLoadStation c parcel := by
  have hnew : x.acks.contains node = false := by simpa using hnode
  simp only [loadAcknowledgement, hx, hnew, Bool.false_eq_true, if_false]

/-- Reporting READY changes a copy in that alone (R376). -/
theorem leaf_checkReady (c : Clock) (seq : Nat) (hl : d.leaf parcel = some l) :
    ∃ ready, (d.checkReady c parcel seq).leaf parcel = some { l with ready := ready } := by
  simp only [Dev.checkReady, hl]
  split
  · split
    · exact ⟨l.ready, hl⟩
    · exact ⟨true, (leaf_congr (sendAll_leaves _ _ _ _) parcel).trans (leaf_updLeaf_some hl fun _ hx => hx)⟩
  · exact ⟨l.ready, hl⟩

/-- The fill of a copy that holds no records: it is as the image has it, but that it may be FAILED for want of DRAM or report READY (R376, R391). -/
theorem leaf_copyFillComplete (c : Clock) {img : CopyImage} (hl : d.leaf parcel = some l) (hwait : d.awaitsImage l = true) (hlive : d.live = true)
    (hearly : l.early = []) (hmark : l.pendingMark = none) :
    ∃ loc ready, (copyFillComplete parcel img c d).leaf parcel =
      some { l.withImage img (d.rowStackMask img.rowStacks) with loc := loc, ready := ready } := by
  let l1 := l.withImage img (d.rowStackMask img.rowStacks)
  obtain ⟨loc, hsync, -⟩ := leaf_syncLeaf c (leaf_updLeaf_const (k := l1) hl rfl)
  let d2 := l1.lists.zipIdx.foldl (fun (y : Dev) e => y.writeVersion parcel e.2 e.1 e.1.cur) ((d.updLeaf parcel fun _ => l1).syncLeaf c parcel)
  have hl2 : d2.leaf parcel = some { l1 with loc := loc } :=
    (leaf_congr (leaves_of_copiesAndPlat (foldl_keeps copiesAndPlat (fun b (e : LList × Nat) => writeVersion_copiesAndPlat b parcel e.2 e.1 e.1.cur) _ _))
      parcel).trans hsync
  have hnone : l1.early = [] := by simp [l1, Leaf.withImage, hearly]
  obtain ⟨ready, hready⟩ := leaf_checkReady c 0 hl2
  refine ⟨loc, ready, ?_⟩
  have hdev : copyFillComplete parcel img c d = d2.checkReady c parcel 0 := by
    simp only [copyFillComplete, hl, hwait, hlive, Bool.not_true, Bool.or_self, Bool.false_eq_true, if_false, hearly, List.filter_nil, List.foldl_nil]
    change ((d2.drainRecs c parcel).ackMark c parcel).checkReady c parcel 0 = _
    rw [drainRecs_holds hl2 (by simp [hnone]), ackMark_none c hl2 hmark]
  rw [hdev, hready]

/-! ### New leads -/

/-- The old lead's stations are all settled, so the new lead marks none of them (R150). -/
theorem markOld_settled {m : Mark} (c : Clock) (hl : d.leaf parcel = some l) (hsettled : m.commit ≤ l.settled) : d.markOld c parcel m = d := by
  have hnone : List.range (m.commit - l.settled) = [] := by rw [Nat.sub_eq_zero_of_le hsettled]; rfl
  simp only [Dev.markOld, hl, hnone, List.map_nil, List.filter_nil, List.foldl_nil, ite_self]

/-- Where no command is held none is taken up again. -/
theorem leaf_retryHeld_none (c : Clock) (hl : d.leaf parcel = some l) (hheld : l.held = []) : (d.retryHeld c parcel).leaf parcel = some l := by
  simp only [Dev.retryHeld, hl, hheld, List.foldl_nil]
  rw [leaf_updLeaf_some (f := fun x : Leaf => { x with held := [] }) hl fun _ hx => hx, ← hheld]

/-- The copy of a lead that takes intake up after an old lead's last mark (R379). -/
def takesUp (m : Mark) (l : Leaf) : Leaf :=
  { l with intakeHeld := false, noIntake := false, nextSeq := m.seq + 1, closedTo := m.commit, marks := [], acked := [], peers := [] }

theorem leaf_newLeadIntakeStart {m : Mark} (c : Clock) (hl : d.leaf parcel = some l) (hintake : l.intakeHeld = true)
    (hlead : d.leadAt parcel (m.commit + 1) = some d.plat.nodeId) (hseq : m.seq ≤ l.applied) (hloc : l.loc = .current) (hheld : l.held = [])
    (hsettled : m.commit ≤ l.settled) : (newLeadIntakeStart parcel m c d).leaf parcel = some (takesUp m l) := by
  have hl1 : (d.updLeaf parcel (takesUp m)).leaf parcel = some (takesUp m l) := leaf_updLeaf_some hl fun _ hx => hx
  have hl2 : ((d.updLeaf parcel (takesUp m)).updLeaf parcel fun x => { x with closedTo := m.commit }).leaf parcel = some (takesUp m l) :=
    leaf_updLeaf_some hl1 fun _ hx => hx
  have hgo : (!(l.intakeHeld && decide (d.leadAt parcel (m.commit + 1) = some d.plat.nodeId) && m.seq ≤ l.applied && l.loc = .current)) = false := by
    simp [hintake, hlead, hseq, hloc]
  have hdev : newLeadIntakeStart parcel m c d =
      (((d.updLeaf parcel (takesUp m)).markOld c parcel m).updLeaf parcel fun x => { x with closedTo := m.commit }).retryHeld c parcel := by
    simp only [newLeadIntakeStart, hl]
    exact if_neg (by rw [Bool.not_eq_true]; exact hgo)
  rw [hdev, markOld_settled c hl1 hsettled, leaf_retryHeld_none c hl2 hheld]

/-! ### Drains -/

/-- Nothing is freed without valid time (R367). -/
theorem drainStationEvent_invalid (parcel : Nat) (hvalid : c.valid = false) : drainStationEvent parcel c d = d := by
  unfold drainStationEvent
  split
  · rfl
  · simp only [hvalid, Bool.not_false, if_true]

@[simp] theorem freeLeaf_plat (d : Dev) (l : Leaf) : (d.freeLeaf l).plat = d.plat := by
  simp only [Dev.freeLeaf, plat_of_copiesAndPlat (freeLeafStores_copiesAndPlat d l)]

theorem freeLeaf_leaves (d : Dev) (l : Leaf) : (d.freeLeaf l).leaves = d.leaves.filter fun x => x.parcel != l.parcel := by
  simp only [Dev.freeLeaf, leaves_of_copiesAndPlat (freeLeafStores_copiesAndPlat d l)]

/-- A copy that the newest generation does not have as JOINING is not made again (R376). -/
theorem addAgain_of_not_joining (c : Clock) (hplat : ∀ g, d.newest = some g → d.mine g parcel ≠ some .joining) : d.addAgain c parcel = d := by
  unfold Dev.addAgain
  split
  · rfl
  next g hg => exact if_neg (hplat g hg)

/-- At its drain station a shadow is freed (R378). -/
theorem drainStationEvent_shadow {f : Nat} (hl : d.leaf parcel = some l) (hvalid : c.valid = true) (hshadow : l.shadow = some f)
    (hdrained : drainStation d.plat.gens f ≤ d.station c) (hjoin : ∀ g, d.newest = some g → d.mine g parcel ≠ some .joining) :
    drainStationEvent parcel c d = d.freeLeaf l := by
  have hpast : d.drained c f = true := decide_eq_true hdrained
  have hjoin1 : ∀ g, (d.freeLeaf l).newest = some g → (d.freeLeaf l).mine g parcel ≠ some .joining := by
    simpa only [Dev.newest, Dev.mine, freeLeaf_plat] using hjoin
  simp only [drainStationEvent, hl, hvalid, hshadow, hpast, Bool.not_true, Bool.false_eq_true, if_false, if_true]
  exact addAgain_of_not_joining c hjoin1

/-- At its drain station the old version of a copy is freed (R163). -/
theorem drainStationEvent_old {u : Nat} (hl : d.leaf parcel = some l) (hvalid : c.valid = true) (hshadow : l.shadow = none) (hold : l.oldUse = some u)
    (hdrained : drainStation d.plat.gens u ≤ d.station c) : drainStationEvent parcel c d = d.freeOld c l u := by
  have hpast : d.drained c u = true := decide_eq_true hdrained
  simp only [drainStationEvent, hl, hvalid, hshadow, hold, hpast, Bool.not_true, Bool.false_eq_true, if_false, if_true]

/-- A copy without its old version and the tombstones of station u and before (R163). -/
def withoutOld (u : Nat) (l : Leaf) : Leaf :=
  ({ l with lists := l.lists.map (fun e => { e with old := none }), oldUse := none, tombUse := 0, tombs := l.tombs.filter fun x => u < x.t } : Leaf).dropRows

theorem leaf_freeOld (c : Clock) (u : Nat) (hl : d.leaf parcel = some l) : ∃ loc, (d.freeOld c l u).leaf parcel = some { withoutOld u l with loc := loc } := by
  let d1 := l.lists.zipIdx.foldl (fun (y : Dev) e => match e.1.old with | some v => y.freeVersion l.parcel e.2 e.1 v | none => y) d
  have hcopies : copiesAndPlat d1 = copiesAndPlat d := foldl_keeps copiesAndPlat (fun b (e : LList × Nat) => by
    split
    · exact freeVersion_copiesAndPlat _ _ _ _ _
    · rfl) _ _
  have hl1 : d1.leaf parcel = some l := (leaf_congr (leaves_of_copiesAndPlat hcopies) parcel).trans hl
  obtain ⟨loc, hloc, -⟩ := leaf_syncLeaf c (leaf_updLeaf_some (f := withoutOld u) hl1 fun _ hx => hx)
  refine ⟨loc, ?_⟩
  rw [← hloc, ← leaf_parcel hl]
  rfl

end Copies

/-! ### The statement -/

/-- Settles O33. It holds: a build, a load, a fill, a new lead and a drain each act on the one copy of the parcel, and the lookup of that copy gives what the statement says of it. -/
theorem closuresAndLeads : Obligations.ClosuresAndLeads := by
  refine ⟨⟨?_, ?_, ?_⟩, ?_, ?_⟩
  · refine fun s v t parcel l cl hv hl hcl => ⟨fun l1 hbuild hout hready hk hloc hshadow hdue hl1 => ?_, fun hbuild hout ok hok => ?_⟩
    · have h : Buildable l cl := ⟨hcl, hbuild, hout, hready, hk, hloc, hshadow, hdue⟩
      subst hl1
      refine ⟨fun hroom => ?_, fun hroom => exec_onDev rfl rfl hv ?_⟩
      · obtain ⟨loc, hleaf, hkeep⟩ := leaf_closureBuildStart v.clk hl h hroom
        exact ⟨_, loc, exec_onDev rfl rfl hv rfl, hleaf, hkeep⟩
      · exact (closureBuildStart_eq v.clk hl h).trans (if_neg (by rw [Bool.not_eq_true]; exact hroom))
    · exact exec_onDev rfl rfl hv (closureBuildComplete_ends v.clk hl hcl hbuild hout hok)
  · exact fun s v t parcel node x hv hnode hx hnew => exec_onDev rfl (decide_eq_true hnode) hv (loadAcknowledgement_notes v.clk hx hnew)
  · intro s v t parcel img l hv hl hwait hlive hearly hmark
    obtain ⟨loc, ready, hleaf⟩ := leaf_copyFillComplete v.clk (img := img) hl hwait hlive hearly hmark
    exact ⟨_, _, exec_onDev rfl rfl hv rfl, hleaf, rfl, rfl, rfl, rfl, rfl, rfl, by simp [Leaf.withImage, hearly]⟩
  · intro s v t parcel m l hv hl hintake hlead hseq hloc hheld hsettled
    exact ⟨_, _, exec_onDev rfl rfl hv rfl, leaf_newLeadIntakeStart v.clk hl hintake hlead hseq hloc hheld hsettled, rfl, rfl, rfl, rfl, rfl⟩
  · refine fun s v t parcel l hv hl => ⟨fun hvalid => ?_, fun f hvalid hshadow hdrained hjoin => ?_, fun u hvalid hshadow hold hdrained => ?_⟩
    · exact exec_idle rfl rfl hv (drainStationEvent_invalid parcel hvalid)
    · have hleaves := leaf_parcel hl ▸ freeLeaf_leaves v.dev l
      refine ⟨_, exec_onDev rfl rfl hv (drainStationEvent_shadow hl hvalid hshadow hdrained hjoin), ?_, hleaves⟩
      simp [Dev.leaf, hleaves, List.find?_filter]
    · obtain ⟨loc, hleaf⟩ := leaf_freeOld v.clk u hl
      refine ⟨_, _, exec_onDev rfl rfl hv (drainStationEvent_old hl hvalid hshadow hold hdrained), hleaf, rfl, ?_, ?_, rfl⟩
      · simp [withoutOld, Leaf.dropRows]
      · simp [withoutOld, Leaf.dropRows]

end Sys2Proof.Proofs

/-! SUPPORT. Beacons and elections: what the chair composes and when a generation it announces starts, what a member makes of a beacon, and when it offers itself, votes and becomes chair; and the statement about them. -/

namespace Sys2Proof.Proofs

open Sys2Proof Sys2Proof.Machine Sys2Proof.Laws

/-! ### When a generation starts -/

theorem le_ceilDiv_mul {m : Nat} (x : Nat) (hm : 0 < m) : x ≤ Machine.ceilDiv x m * m := by
  have hmod : (x + m - 1) % m < m := Nat.mod_lt _ hm
  have hdiv := Nat.div_add_mod (x + m - 1) m
  rw [Machine.ceilDiv, Nat.mul_comm]
  omega

/-- A generation starts two stations after its beacon at the earliest, and not before the proposal asks (R370). -/
theorem le_announceFrom {new : Nat} (old reqFrom a : Nat) (hnew : 0 < new) : max reqFrom (a + 2) ≤ announceFrom old new reqFrom a := by
  unfold announceFrom
  simp only
  split
  · have hm : 0 < new / Nat.gcd old new := Nat.div_pos (Nat.le_of_dvd hnew (Nat.gcd_dvd_right old new)) (Nat.gcd_pos_of_pos_right old hnew)
    exact le_ceilDiv_mul _ hm
  · exact Nat.le_refl _

/-- Under a shorter station it starts at a boundary of both (R141, R370). -/
theorem announceFrom_boundary {old new : Nat} (reqFrom a : Nat) (h : new < old) : announceFrom old new reqFrom a * old % new = 0 := by
  have hdvd : new ∣ new / Nat.gcd old new * old := by
    rw [Nat.div_mul_right_comm (Nat.gcd_dvd_right old new), Nat.mul_div_assoc new (Nat.gcd_dvd_left old new)]
    exact Nat.dvd_mul_right new _
  simp only [announceFrom, h, if_true]
  rw [Nat.mul_assoc]
  exact Nat.mod_eq_zero_of_dvd (Dvd.dvd.mul_left hdvd _)

section Chair
variable {s v : State} {t : Nat} {c : Clock} {d : Dev}

/-! ### The chair's beacon -/

/-- The generation that the chair announces for a proposal, with its term and the station it starts at (R370, R372). -/
def announced (c : Clock) (d : Dev) (p : Proposal) : PlatGen :=
  { p.result with term := d.plat.term, fromStation :=
      announceFrom ((d.newest.map fun g => g.timing.stationNs).getD timingDefault.stationNs) p.result.timing.stationNs p.reqFrom (d.station c) }

/-- The beacon that the chair composes for a station: what it adopted and was not agreed, and what it announces now (R370, R372). -/
def composedBeacon (c : Clock) (d : Dev) : Beacon :=
  let new := d.plat.proposal.map (announced c d)
  let top := new.orElse fun _ => d.newest
  ⟨d.station c, d.plat.term, d.plat.nodeId, (top.map (·.gen)).getD 0, (top.map (·.fromStation)).getD 0,
    (d.adopted.map (·.announced)).getD [] ++ new.toList,
    (d.adopted.map (·.outcomes)).getD [] ++ (d.plat.proposal.map fun p => (⟨p.key, (announced c d p).gen, (announced c d p).fromStation⟩ : ProposalRec)).toList⟩

/-- A beacon that the chair has stored and waits to be agreed. -/
def composing (d : Dev) (b : Beacon) : Dev := { d.store b with plat := { (d.store b).plat with composing := some ⟨b, [d.plat.nodeId]⟩ } }

/-- The chair composes the beacon of a station that has none yet, stores it and sends it to the other members (R370). -/
theorem beaconCompose_sends (hchair : d.plat.chair = true) (hlive : d.live = true) (hpos : (d.position c).isSome = true) (hlapsed : d.chairLapsed c = false)
    (hnew : ∀ b, d.plat.stored = some b → b.station < d.station c) : beaconCompose c d =
      (composing d (composedBeacon c d)).sendAll clsControl ((d.quorumNow c).filter fun n => n != d.plat.nodeId) (.storeBeacon (composedBeacon c d)) := by
  have hstored : (match d.plat.stored with | some b => decide (d.station c ≤ b.station) | none => false) = false := by
    rcases hb : d.plat.stored with _ | b
    · rfl
    · simpa using hnew b hb
  have hgo : (!(d.plat.chair && d.live && (d.position c).isSome) || (match d.plat.stored with | some b => decide (d.station c ≤ b.station) | none => false)) =
      false := by simp only [hchair, hlive, hpos, hstored, Bool.and_self, Bool.not_true, Bool.or_self]
  unfold beaconCompose
  simp only [hlapsed, Bool.false_eq_true, if_false]
  rw [if_neg (by rw [Bool.not_eq_true]; exact hgo)]
  rcases hp : d.plat.proposal with _ | p
  · simp only [composedBeacon, hp]; rfl
  · simp only [composedBeacon, hp]; rfl

theorem laterBeacon_some {old : Option Beacon} {b : Beacon} (h : ∀ x, old = some x → x.station ≤ b.station) : laterBeacon old (some b) = some b := by
  rcases hold : old with _ | x
  · rfl
  · simp only [laterBeacon, h x hold, if_true]

theorem store_plat (d : Dev) (b : Beacon) :
    (d.store b).plat = { d.plat with stored := laterBeacon d.plat.stored (some b), term := max d.plat.term b.term } := by
  simp only [Dev.store, count_plat]

/-- What a proposal has the chair announce (R141, R370). -/
theorem announced_starts {p : Proposal} {old : PlatGen} (c : Clock) (hold : d.newest = some old) (hns : 0 < p.result.timing.stationNs) :
    d.station c + 2 ≤ (announced c d p).fromStation ∧ p.reqFrom ≤ (announced c d p).fromStation ∧
      ((announced c d p).timing.stationNs < old.timing.stationNs →
        (announced c d p).fromStation * old.timing.stationNs % (announced c d p).timing.stationNs = 0) := by
  have hfrom : (announced c d p).fromStation = announceFrom old.timing.stationNs p.result.timing.stationNs p.reqFrom (d.station c) := by
    simp only [announced, hold, Option.map_some, Option.getD_some]
  have hle := le_announceFrom old.timing.stationNs p.reqFrom (d.station c) hns
  rw [hfrom]
  exact ⟨(Nat.le_max_right _ _).trans hle, (Nat.le_max_left _ _).trans hle, announceFrom_boundary _ _⟩

/-! ### Agreement -/

variable {x : Composing} {member : Nat}

/-- What a member has stored, counted with those known to have stored it before. -/
theorem stored_with (hnew : member ∉ x.stored) (hq : member ∈ d.quorumNow c) :
    (if x.stored.contains member || !((d.quorumNow c).contains member) then x.stored else x.stored ++ [member]) = x.stored ++ [member] := by
  simp [hnew, hq]

/-- Below three members the beacon is not agreed (R369). -/
theorem beaconAgreed_counts (hfound : d.plat.founding = none) (hcomp : d.plat.composing = some x) (hchair : d.plat.chair = true)
    (hlen : x.stored.length < 2) (hnew : member ∉ x.stored) (hq : member ∈ d.quorumNow c) :
    beaconAgreed member x.beacon.term x.beacon.station c d =
      { d with plat := { d.plat with composing := some { x with stored := x.stored ++ [member] } } } := by
  have hfew : (x.stored ++ [member]).length < 3 := by rw [List.length_append, List.length_singleton]; omega
  simp only [beaconAgreed, hfound, hcomp, hchair, Option.filter_some, decide_true, Bool.and_self, if_true, stored_with hnew hq, hfew]

/-- With the third member it is agreed: the chair sends it on and holds it (R369, R370). -/
theorem beaconAgreed_agrees {pos : Nat} {d1 : Dev} (hfound : d.plat.founding = none) (hcomp : d.plat.composing = some x) (hchair : d.plat.chair = true)
    (hlen : x.stored.length = 2) (hnew : member ∉ x.stored) (hq : member ∈ d.quorumNow c) (hpos : d.position c = some pos)
    (hd1 : d1 = { d with plat := { d.plat with composing := none, spaces := d.plat.spaces ++ (d.plat.proposal.map (·.codebooks)).getD [] } }) :
    beaconAgreed member x.beacon.term x.beacon.station c d = (d1.sendAll clsControl
      (((d.quorumNow c).filter fun n => n != d.plat.nodeId) ++ (d1.relayTargets c pos).filter fun n => !((d.quorumNow c).contains n))
      (.beacon x.beacon)).hold c x.beacon := by
  have hthree : ¬ (x.stored ++ [member]).length < 3 := by rw [List.length_append, List.length_singleton]; omega
  subst hd1
  simp only [beaconAgreed, hfound, hcomp, hchair, Option.filter_some, decide_true, Bool.and_self, if_true, if_false, stored_with hnew hq, hthree, hpos,
    Option.getD_some]

/-! ### A beacon's receipt -/

variable {b : Beacon}

/-- The beacon given is no later than the one held. -/
def heldAlready (d : Dev) (b : Beacon) : Bool := match d.plat.beacon with | some x => decide (b.station ≤ x.station) | none => false

theorem heldAlready_false (h : ∀ x, d.plat.beacon = some x → x.station < b.station) : heldAlready d b = false := by
  unfold heldAlready
  split
  next x hx => simpa using h x hx
  · rfl

theorem heldAlready_true {x : Beacon} (hx : d.plat.beacon = some x) (hle : b.station ≤ x.station) : heldAlready d b = true := by
  simp only [heldAlready, hx, hle, decide_true]

/-- An agreed beacon no later than the one held changes nothing. -/
theorem beaconReceipt_held (c : Clock) (hlive : d.live = true) (hgens : d.plat.gens ≠ []) (hheld : heldAlready d b = true) :
    beaconReceipt b true c d = d := by
  have hdomain : d.plat.gens.isEmpty = false := by simpa using hgens
  simp only [beaconReceipt, hlive, hdomain, Bool.not_true, Bool.or_self, Bool.false_eq_true, if_false, if_true]
  exact if_pos hheld

/-- A member stores an agreed beacon and relays it; another node does neither (R370). -/
def relayed (c : Clock) (d : Dev) (b : Beacon) : Dev :=
  match d.position c with
  | some p => (d.store b).sendAll clsControl (d.relayTargets c p) (.beacon b)
  | none => d

theorem relayed_none (b : Beacon) (hpos : d.position c = none) : relayed c d b = d := by simp only [relayed, hpos]

theorem relayed_some {p : Nat} (b : Beacon) (hpos : d.position c = some p) :
    relayed c d b = (d.store b).sendAll clsControl (d.relayTargets c p) (.beacon b) := by
  simp only [relayed, hpos]

/-- An agreed beacon that comes to a node with a domain (R370). -/
theorem beaconReceipt_agreed (c : Clock) (hlive : d.live = true) (hgens : d.plat.gens ≠ []) (hchair : d.plat.chair = false)
    (hnew : ∀ x, d.plat.beacon = some x → x.station < b.station) : beaconReceipt b true c d = (relayed c d b).hold c b := by
  have hdomain : d.plat.gens.isEmpty = false := by simpa using hgens
  simp only [beaconReceipt, hlive, hdomain, hchair, Bool.not_true, Bool.or_self, Bool.false_and, Bool.false_eq_true, if_false, if_true]
  exact if_neg (by rw [Bool.not_eq_true]; exact heldAlready_false hnew)

/-- A beacon of the chair that comes to a member for it to store (R369). -/
theorem beaconReceipt_stores (hlive : d.live = true) (hgens : d.plat.gens ≠ []) (hpos : (d.position c).isSome = true) (hterm : d.plat.term ≤ b.term)
    (hnew : ∀ x, d.plat.stored = some x → x.station < b.station) (hchair : d.plat.chair = false) :
    beaconReceipt b false c d = (d.store b).send clsControl b.chair (.stored b.term b.station) := by
  have hdomain : d.plat.gens.isEmpty = false := by simpa using hgens
  have hstored : (match d.plat.stored with | some x => decide (b.station ≤ x.station) | none => false) = false := by
    rcases hx : d.plat.stored with _ | x
    · rfl
    · simpa using hnew x hx
  have hmember : (d.position c).isNone = false := by simpa [← Option.not_isSome] using hpos
  have hgo : ((d.position c).isNone || b.term < d.plat.term || (match d.plat.stored with | some x => decide (b.station ≤ x.station) | none => false)) =
      false := by simp only [hmember, Nat.not_lt.mpr hterm, hstored, decide_false, Bool.or_self]
  simp only [beaconReceipt, hlive, hdomain, hchair, Bool.not_true, Bool.or_self, Bool.false_eq_true, if_false]
  exact if_neg (by rw [Bool.not_eq_true]; exact hgo)

/-! ### Elections -/

/-- A member that offers itself under the next term and votes for itself (R369). -/
def candidate (c : Clock) (d : Dev) : Dev :=
  { d with plat := { d.plat with term := d.plat.term + 1, candTerm := some (d.plat.term + 1), votes := [d.plat.nodeId],
                                 voted := NMap.put d.plat.voted (d.plat.term + 1) d.plat.nodeId, heard := d.station c } }

theorem chairCandidacy_eq {p : Nat} (hlive : d.live = true) (hpos : d.position c = some p) (hchair : d.plat.chair = false) (hvalid : c.valid = true)
    (hfound : d.plat.founding = none) : chairCandidacy c d = if d.silence c < 2 + p then d else
      (candidate c d).sendAll clsControl ((d.quorumNow c).filter fun n => n != d.plat.nodeId)
        (.candidacy (d.plat.term + 1) ((d.plat.stored.map (·.station)).getD 0)) := by
  have hguard : (!d.live || d.plat.chair || !c.valid || decide (d.silence c < 2 + p) || d.plat.founding.isSome) = decide (d.silence c < 2 + p) := by
    simp only [hlive, hchair, hvalid, hfound, Option.isSome_none, Bool.not_true, Bool.false_or, Bool.or_false]
  simp only [chairCandidacy, hpos]
  rw [hguard]
  simp only [decide_eq_true_eq]
  rfl

variable {cand term station : Nat}

/-- No vote goes to a second candidate of a term, under a past term, or to a candidate whose beacon is older (R369). -/
theorem voteRequest_refused (c : Clock) (cand : Nat)
    (h : (NMap.get? d.plat.voted term).isSome = true ∨ term < d.plat.term ∨ station < (d.plat.stored.map (·.station)).getD 0) :
    voteRequest cand term station c d = d := by
  refine if_pos ?_
  rcases h with h | h | h
  · simp only [h, Bool.or_true, Bool.true_or]
  · simp only [h, decide_true, Bool.or_true, Bool.true_or]
  · simp only [h, decide_true, Bool.or_true]

/-- A member that has voted for a candidate of a term (R369). -/
def votedFor (d : Dev) (cand term : Nat) : Dev :=
  { d with plat := { d.plat with term := max d.plat.term term, voted := NMap.put d.plat.voted term cand, candTerm := d.plat.candTerm.filter fun x => x ≥ term } }

theorem voteRequest_granted (hlive : d.live = true) (hpos : (d.position c).isSome = true) (hcand : cand ∈ d.quorumNow c) (hterm : d.plat.term ≤ term)
    (hvoted : NMap.get? d.plat.voted term = none) (hstation : (d.plat.stored.map (·.station)).getD 0 ≤ station) (hchair : d.plat.chair = false) :
    voteRequest cand term station c d = (votedFor d cand term).send clsControl cand (.vote term) := by
  have hmember : (d.position c).isNone = false := by simpa [← Option.not_isSome] using hpos
  have hin : (d.quorumNow c).contains cand = true := by simpa using hcand
  have hgo : (!d.live || (d.position c).isNone || !((d.quorumNow c).contains cand) || decide (term < d.plat.term) ||
      (NMap.get? d.plat.voted term).isSome || decide (station < (d.plat.stored.map (·.station)).getD 0)) = false := by
    simp only [hlive, hmember, hin, hvoted, Nat.not_lt.mpr hterm, Nat.not_lt.mpr hstation, Option.isSome_none, decide_false, Bool.not_true, Bool.or_self]
  have hstays : ¬ (d.plat.chair && decide (d.plat.term < term)) = true := by rw [hchair, Bool.false_and]; exact Bool.false_ne_true
  unfold voteRequest
  rw [if_neg (by rw [hgo]; exact Bool.false_ne_true), if_neg hstays]
  rfl

/-- A member's vote for this candidate, with the beacon it has stored (R369). -/
theorem voteGrant_counts {bo : Option Beacon} (hcand : d.plat.candTerm = some term) (hq : member ∈ d.quorumNow c) (hnew : member ∉ d.plat.votes)
    (hlen : d.plat.votes.length < 2) : voteGrant member term bo c d =
      { d with plat := { d.plat with votes := d.plat.votes ++ [member], stored := laterBeacon d.plat.stored bo } } := by
  have hgo : (d.plat.candTerm != some term || !((d.quorumNow c).contains member) || d.plat.votes.contains member) = false := by simp [hcand, hq, hnew]
  have hfew : (d.plat.votes ++ [member]).length < 3 := by rw [List.length_append, List.length_singleton]; omega
  simp only [voteGrant, hgo, hfew, Bool.false_eq_true, if_false, if_true]

/-- The candidate that the third vote makes chair (R369). -/
def elected (c : Clock) (d : Dev) (term : Nat) (bo : Option Beacon) : Dev :=
  { d with plat := { d.plat with chair := true, candTerm := none, votes := [], stored := laterBeacon d.plat.stored bo, term := term,
                                 heard := d.station c, composing := none } }

/-- The third vote elects the candidate (R369). -/
theorem voteGrant_third {bo : Option Beacon} (hcand : d.plat.candTerm = some term) (hq : member ∈ d.quorumNow c) (hnew : member ∉ d.plat.votes)
    (hlen : d.plat.votes.length = 2) : voteGrant member term bo c d =
      match (elected c d term bo).plat.stored with
      | some x => (elected c d term bo).adoptBeacon c x
      | none => elected c d term bo := by
  have hgo : (d.plat.candTerm != some term || !((d.quorumNow c).contains member) || d.plat.votes.contains member) = false := by simp [hcand, hq, hnew]
  have hthree : ¬ (d.plat.votes ++ [member]).length < 3 := by rw [List.length_append, List.length_singleton]; omega
  simp only [voteGrant, hgo, hthree, Bool.false_eq_true, if_false] <;> rfl

theorem voteGrant_elects {bo : Option Beacon} (hcand : d.plat.candTerm = some term) (hq : member ∈ d.quorumNow c) (hnew : member ∉ d.plat.votes)
    (hlen : d.plat.votes.length = 2) (hstored : d.plat.stored = none) (hbo : bo = none) : voteGrant member term bo c d = elected c d term bo := by
  have hnone : (elected c d term bo).plat.stored = none := by simp only [elected, hstored, hbo, laterBeacon]
  rw [voteGrant_third hcand hq hnew hlen]
  simp only [hnone]

/-- It adopts the most recent beacon that the voters stored (R370). -/
theorem voteGrant_adopts {bo : Option Beacon} {x : Beacon} (hcand : d.plat.candTerm = some term) (hq : member ∈ d.quorumNow c)
    (hnew : member ∉ d.plat.votes) (hlen : d.plat.votes.length = 2) (hx : laterBeacon d.plat.stored bo = some x) :
    voteGrant member term bo c d = (elected c d term bo).adoptBeacon c x := by
  have hsome : (elected c d term bo).plat.stored = some x := hx
  rw [voteGrant_third hcand hq hnew hlen]
  simp only [hsome]

/-! ### The statement's parts -/

theorem exec_beaconCompose (hv : v = s.tick t) (hchair : v.dev.plat.chair = true) (hlive : v.dev.live = true) (hpos : (v.dev.position v.clk).isSome = true)
    (hlapsed : v.dev.chairLapsed v.clk = false) (hnew : ∀ b, v.dev.plat.stored = some b → b.station < v.dev.station v.clk) :
    ∃ v' b, exec (.beaconCompose t) s = .next v' ∧ v'.dev.plat.composing = some ⟨b, [v.dev.plat.nodeId]⟩ ∧ v'.dev.plat.stored = some b ∧
      b.station = v.dev.station v.clk ∧ b.term = v.dev.plat.term ∧ b.chair = v.dev.plat.nodeId ∧
      (∀ n ∈ v.dev.quorumNow v.clk, n ≠ v.dev.plat.nodeId → (n, .storeBeacon b) ∈ v'.dev.sent) ∧
      (∀ x, v.dev.adopted = some x → x.announced <+: b.announced ∧ x.outcomes <+: b.outcomes) ∧
      (∀ p old, v.dev.plat.proposal = some p → v.dev.newest = some old → 0 < p.result.timing.stationNs →
        ∃ g, b.announced = (v.dev.adopted.map (·.announced)).getD [] ++ [g] ∧ g = { p.result with term := v.dev.plat.term, fromStation := g.fromStation } ∧
          b.station + 2 ≤ g.fromStation ∧ p.reqFrom ≤ g.fromStation ∧
          (g.timing.stationNs < old.timing.stationNs → g.fromStation * old.timing.stationNs % g.timing.stationNs = 0)) := by
  refine ⟨_, composedBeacon v.clk v.dev, exec_onDev rfl rfl hv (beaconCompose_sends hchair hlive hpos hlapsed hnew), ?_, ?_, rfl, rfl, rfl,
    fun n hn hne => ?_, fun x hx => ?_, fun p old hp hold hns => ?_⟩
  · simp only [sendAll_plat, composing]
  · simp only [sendAll_plat, composing, store_plat]
    exact laterBeacon_some fun x hx => (hnew x hx).le
  · exact mem_sendAll (List.mem_filter.mpr ⟨hn, by simpa using hne⟩) _ _ _
  · simp only [composedBeacon, hx, Option.map_some, Option.getD_some]
    exact ⟨List.prefix_append _ _, List.prefix_append _ _⟩
  · obtain ⟨hafter, hasked, hboundary⟩ := announced_starts v.clk hold hns
    refine ⟨announced v.clk v.dev p, ?_, rfl, hafter, hasked, hboundary⟩
    simp only [composedBeacon, hp, Option.map_some, Option.toList_some]

theorem exec_chairCandidacy {p : Nat} (hv : v = s.tick t) (hlive : v.dev.live = true) (hpos : v.dev.position v.clk = some p)
    (hchair : v.dev.plat.chair = false) (hvalid : v.clk.valid = true) (hfound : v.dev.plat.founding = none) (hsilent : 2 + p ≤ v.dev.silence v.clk) :
    ∃ v', exec (.chairCandidacy t) s = .next v' ∧ v'.dev.plat.term = v.dev.plat.term + 1 ∧ v'.dev.plat.candTerm = some (v.dev.plat.term + 1) ∧
      v'.dev.plat.votes = [v.dev.plat.nodeId] ∧ NMap.get? v'.dev.plat.voted (v.dev.plat.term + 1) = some v.dev.plat.nodeId ∧ v'.dev.plat.chair = false ∧
      ∀ n ∈ v.dev.quorumNow v.clk, n ≠ v.dev.plat.nodeId → (n, .candidacy (v.dev.plat.term + 1) ((v.dev.plat.stored.map (·.station)).getD 0)) ∈ v'.dev.sent := by
  have hdev := (chairCandidacy_eq hlive hpos hchair hvalid hfound).trans (if_neg (Nat.not_lt.mpr hsilent))
  refine ⟨_, exec_onDev rfl rfl hv hdev, ?_, ?_, ?_, ?_, ?_, fun n hn hne => mem_sendAll (List.mem_filter.mpr ⟨hn, by simpa using hne⟩) _ _ _⟩
  · simp only [sendAll_plat, candidate]
  · simp only [sendAll_plat, candidate]
  · simp only [sendAll_plat, candidate]
  · simp only [sendAll_plat, candidate, get?_put_same]
  · simp only [sendAll_plat, candidate, hchair]

theorem exec_voteRequest (hv : v = s.tick t) (hnode : cand < 4096) (hlive : v.dev.live = true) (hpos : (v.dev.position v.clk).isSome = true)
    (hcand : cand ∈ v.dev.quorumNow v.clk) (hterm : v.dev.plat.term ≤ term) (hvoted : NMap.get? v.dev.plat.voted term = none)
    (hstation : (v.dev.plat.stored.map (·.station)).getD 0 ≤ station) (hchair : v.dev.plat.chair = false) :
    ∃ v', exec (.voteRequest t cand term station) s = .next v' ∧ NMap.get? v'.dev.plat.voted term = some cand ∧ v'.dev.plat.term = term ∧
      v'.dev.sent = (v.dev.send clsControl cand (.vote term)).sent ∧ (∀ x, x ≠ term → NMap.get? v'.dev.plat.voted x = NMap.get? v.dev.plat.voted x) := by
  have hdev := voteRequest_granted hlive hpos hcand hterm hvoted hstation hchair
  refine ⟨_, exec_onDev rfl (decide_eq_true hnode) hv hdev, ?_, ?_, ?_, fun x hx => ?_⟩
  · simp only [send_plat, votedFor, get?_put_same]
  · simp only [send_plat, votedFor, max_eq_right hterm]
  · simp only [send_sent]; rfl
  · simp only [send_plat, votedFor, get?_put_other _ hx]

end Chair

/-! ### The statement -/

/-- Settles O44. It holds: the hypotheses of each part pass the guards of the one event it speaks of, and a generation's start is the proposal's station or the second one on, rounded up to a boundary of both grids. -/
theorem beaconsAndElections : Obligations.BeaconsAndElections := by
  refine ⟨⟨?_, ?_, ?_, ?_⟩, ?_, ?_, ?_⟩
  · exact fun s v t hv hchair hlive hpos hlapsed hnew => exec_beaconCompose hv hchair hlive hpos hlapsed hnew
  · exact fun s v t member x hv hnode hfound hcomp hchair hlen hnew hq =>
      exec_onDev rfl (decide_eq_true hnode) hv (beaconAgreed_counts hfound hcomp hchair hlen hnew hq)
  · exact fun s v t member pos x d hv hnode hfound hcomp hchair hlen hnew hq hpos hd =>
      exec_onDev rfl (decide_eq_true hnode) hv (beaconAgreed_agrees hfound hcomp hchair hlen hnew hq hpos hd)
  · refine fun s v t b hv hlive hgens => ⟨fun hpos hterm hnew hchair => ?_, fun hpos hchair hnew => ?_, fun p hpos hchair hnew => ?_, fun x hx hle => ?_⟩
    · exact exec_onDev rfl rfl hv (beaconReceipt_stores hlive hgens hpos hterm hnew hchair)
    · exact exec_onDev rfl rfl hv (by rw [beaconReceipt_agreed v.clk hlive hgens hchair hnew, relayed_none b hpos])
    · exact exec_onDev rfl rfl hv (by rw [beaconReceipt_agreed v.clk hlive hgens hchair hnew, relayed_some b hpos])
    · exact exec_idle rfl rfl hv (beaconReceipt_held v.clk hlive hgens (heldAlready_true hx hle))
  · refine fun s v t p hv hlive hpos hchair hvalid hfound => ⟨fun hsilent => ?_, exec_chairCandidacy hv hlive hpos hchair hvalid hfound⟩
    exact exec_idle rfl rfl hv ((chairCandidacy_eq hlive hpos hchair hvalid hfound).trans (if_pos hsilent))
  · refine fun s v t cand term station hv hnode => ⟨fun h => exec_idle rfl (decide_eq_true hnode) hv (voteRequest_refused v.clk cand h), ?_⟩
    exact fun hlive hpos hcand hterm hvoted hstation hchair => exec_voteRequest hv hnode hlive hpos hcand hterm hvoted hstation hchair
  · refine fun s v t member term b hv hnode hcand hq hnew => ⟨fun hlen => ?_, fun d hlen hd => ?_⟩
    · exact exec_onDev rfl (decide_eq_true hnode) hv (voteGrant_counts hcand hq hnew hlen)
    · subst hd
      exact ⟨fun hstored hb => exec_onDev rfl (decide_eq_true hnode) hv (voteGrant_elects hcand hq hnew hlen hstored hb),
        fun x hx => exec_onDev rfl (decide_eq_true hnode) hv (voteGrant_adopts hcand hq hnew hlen hx)⟩

end Sys2Proof.Proofs

/-! SUPPORT. Updates at the lead and the answers to them: what deletions make of a copy, the one branch that each answer takes, and how far the statement about them depends on the size of a tombstone set, which the model leaves open. -/

namespace Sys2Proof.Proofs

open Sys2Proof Sys2Proof.Machine Sys2Proof.Laws

section Deletions
variable {c : Clock} {d : Dev} {parcel : Nat} {l k : Leaf}

/-! ### What freeing a region leaves -/

theorem vupdN_map {α β : Type} {n : Nat} {g : α → β} {f : α → α} (h : ∀ x, g (f x) = g x) (v : Vector α n) (i : Nat) : (vupdN v i f).map g = v.map g := by
  unfold vupdN
  split
  next hi =>
    rw [Vector.map_set, h]
    ext j hj
    rw [Vector.getElem_set]
    split
    next hij => subst hij; simp
    · rfl
  · rfl

/-- The stacks that serve. -/
def servingOf (d : Dev) : Vector Bool 20 := d.mem.stk.map Stack.serving

theorem serves_of_servingOf {d e : Dev} (h : servingOf d = servingOf e) : d.serves = e.serves := by
  have hserves (x : Dev) (s : Nat) : x.serves s = ((servingOf x).toList[s]?).getD false := by
    simp only [Dev.serves, servingOf, Vector.toList_map, List.getElem?_map]
    cases x.mem.stk.toList[s]? <;> rfl
  funext s
  rw [hserves, hserves, h]

theorem foldl_vupdN_serving {α : Type} {f : α → Stack → Stack} {ix : α → Nat} (h : ∀ a x, (f a x).serving = x.serving) (xs : List α) (v : Vector Stack 20) :
    (xs.foldl (fun v a => vupdN v (ix a) (f a)) v).map Stack.serving = v.map Stack.serving :=
  foldl_keeps (Vector.map Stack.serving) (fun v a => vupdN_map (h a) v (ix a)) xs v

/-- Freeing a region changes no stack's state. -/
theorem free_servingOf (d : Dev) (id : Nat) : servingOf (d.free id) = servingOf d := by
  unfold Dev.free
  split
  · rfl
  · simp only [servingOf]
    refine (foldl_vupdN_serving ?_ _ _).trans (foldl_vupdN_serving ?_ _ _)
    · exact fun _ _ => rfl
    · exact fun _ _ => rfl

theorem free_chain (d : Dev) (id : Nat) : (d.free id).chain = d.chain := by unfold Dev.free; split <;> rfl

theorem regions_dropUnneeded (d : Dev) (parcel : Nat) (ws : List OwnRegion) (k : Leaf) : k.regions (dropUnneeded d parcel ws) = k.regions d :=
  regions_congr (serves_of_servingOf (foldl_keeps servingOf (fun b (e : Nat × Region) => free_servingOf b e.1) _ _))
    (plat_of_copiesAndPlat (dropUnneeded_copiesAndPlat d parcel ws)) (foldl_keeps Dev.chain (fun b (e : Nat × Region) => free_chain b e.1) _ _) k

/-! ### Regions within others -/

/-- Every region of the first is one of the second, which needs no fewer frames of it. -/
def RegionsWithin (ws ws' : List OwnRegion) : Prop := ∀ w ∈ ws, ∃ w' ∈ ws', w'.id = w.id ∧ w.frames ≤ w'.frames

theorem RegionsHold.within {ws ws' : List OwnRegion} (h : RegionsHold d ws') (hin : RegionsWithin ws ws') : RegionsHold d ws := by
  intro w hw
  obtain ⟨w', hw', hid, hle⟩ := hin w hw
  obtain ⟨r, hr, hr'⟩ := h w' hw'
  exact ⟨r, hid ▸ hr, hle.trans hr'⟩

/-- The regions of a copy that holds tombstones: the ten of its set, and others that the set does not bear on (R157, R265). -/
theorem regions_tombs (d : Dev) (l : Leaf) : ∃ before after, ∀ ts : List Tomb, ts ≠ [] → ({ l with tombs := ts } : Leaf).regions d =
    before ++ ((List.range 10).map fun k => ⟨tombRegion l.parcel k, .mirror, diePair k, framesOf (Config.tombBytes ts.length), 1, 2⟩) ++ after := by
  refine ⟨({ l with tombs := [], rowDir := [], cfg := none } : Leaf).regions d, ({ l with tombs := [], lists := [] } : Leaf).regions d, fun ts hts => ?_⟩
  have hfull : ts.isEmpty = false := by simpa using hts
  simp [Leaf.regions, hfull] <;> rfl

/-- Other tombstones take the same regions, and as many frames of them if the set is no larger. -/
theorem regions_tombs_match {ts ts' : List Tomb} (d : Dev) (l : Leaf) (hts : ts ≠ []) (hts' : ts' ≠ []) :
    ∀ w ∈ ({ l with tombs := ts } : Leaf).regions d, ∃ w' ∈ ({ l with tombs := ts' } : Leaf).regions d, w'.id = w.id ∧
      (framesOf (Config.tombBytes ts.length) ≤ framesOf (Config.tombBytes ts'.length) → w.frames ≤ w'.frames) := by
  obtain ⟨before, after, h⟩ := regions_tombs d l
  rw [h ts hts, h ts' hts']
  intro w hw
  rcases List.mem_append.mp hw with hw | hw
  · rcases List.mem_append.mp hw with hw | hw
    · exact ⟨w, by simp [hw], rfl, fun _ => Nat.le_refl _⟩
    · obtain ⟨k, hk, rfl⟩ := List.mem_map.mp hw
      exact ⟨_, List.mem_append_left _ (List.mem_append_right _ (List.mem_map.mpr ⟨k, hk, rfl⟩)), rfl, id⟩
  · exact ⟨w, by simp [hw], rfl, fun _ => Nat.le_refl _⟩

theorem regions_tombs_within {ts ts' : List Tomb} (d : Dev) (l : Leaf) (hts : ts ≠ []) (hts' : ts' ≠ [])
    (hle : framesOf (Config.tombBytes ts.length) ≤ framesOf (Config.tombBytes ts'.length)) :
    RegionsWithin (({ l with tombs := ts } : Leaf).regions d) (({ l with tombs := ts' } : Leaf).regions d) := fun w hw => by
  obtain ⟨w', hw', hid, hframes⟩ := regions_tombs_match d l hts hts' w hw
  exact ⟨w', hw', hid, hframes hle⟩

/-! ### Tombstone records in a row -/

/-- The record that brings a tombstone to a copy (R146, R152). -/
def tombRec (key : CmdKey) (x : Tomb) : UpdRec := ⟨x.seq, x.t, .tomb x.id, key⟩

@[simp] theorem keepRec_mem (d : Dev) (parcel : Nat) (key : CmdKey) : (d.keepRec parcel key).mem = d.mem := by unfold Dev.keepRec; split <;> rfl
@[simp] theorem keepRec_chain (d : Dev) (parcel : Nat) (key : CmdKey) : (d.keepRec parcel key).chain = d.chain := by unfold Dev.keepRec; split <;> rfl

/-- A copy that its regions hold with one tombstone more keeps, when that comes, the regions that some more of them take. -/
theorem fits_applyRec_tomb {key : CmdKey} {x : Tomb} {ts : List Tomb} (c : Clock) (hl : d.leaf parcel = some l) (hts : ts ≠ [])
    (hone : d.fits { l with tombs := l.tombs ++ [x] }) (h : d.fits { l with tombs := ts }) :
    (d.applyRec c parcel (tombRec key x)).fits { l with tombs := ts } := by
  obtain ⟨d1, hrec, hl1, hplat, hmem, hchain⟩ := applyRec_tomb (c := c) (r := tombRec key x) hl rfl
  have hone1 : d1.fits (withTombRec l (tombRec key x) x.id) := fits_congr hmem.symm hplat.symm hchain.symm rfl hone
  have hall1 : RegionsHold d1 (({ l with tombs := ts } : Leaf).regions d1) := fits_iff.mp (fits_congr hmem.symm hplat.symm hchain.symm rfl h)
  have hids := fun w hw => (regions_tombs_match d1 l hts (List.append_ne_nil_of_right_ne_nil l.tombs (List.cons_ne_nil x [])) w hw).imp
    fun _ hw' => (⟨hw'.1, hw'.2.1⟩ : _ ∧ _)
  have hsync : (d1.syncLeaf c parcel).fits { l with tombs := ts } := by
    rw [syncLeaf_of_fits c hl1 hone1, fits_iff, regions_dropUnneeded]
    exact hall1.dropUnneeded hids parcel
  rw [hrec]
  exact fits_congr (by simp) (by simp) (by simp) rfl hsync

/-- What the tombstones of a list make of a copy, whatever DRAM they take. -/
theorem leaf_applyRecs_tombs (c : Clock) (key : CmdKey) (ts : List Tomb) (hl : d.leaf parcel = some l) :
    ∃ k loc, ((ts.map (tombRec key)).foldl (fun (x : Dev) r => x.applyRec c parcel r) d).leaf parcel =
        some { l with applied := k, recs := l.recs ++ ts.map (tombRec key), tombs := l.tombs ++ ts, loc := loc } ∧
      (Monotone Config.tombBytes → d.fits { l with tombs := l.tombs ++ ts } → loc = l.loc) := by
  induction ts generalizing d l with
  | nil => exact ⟨l.applied, l.loc, by simpa using hl, fun _ _ => rfl⟩
  | cons x ts ih =>
    obtain ⟨loc1, hl1, hkeep1⟩ := leaf_applyRec_tomb (r := tombRec key x) c hl rfl
    obtain ⟨k, loc, hleaf, hkeep⟩ := ih hl1
    refine ⟨k, loc, ?_, fun hmono hfits => ?_⟩
    · simpa [withTombRec, tombRec] using hleaf
    · have hle : framesOf (Config.tombBytes (l.tombs ++ [x]).length) ≤ framesOf (Config.tombBytes (l.tombs ++ x :: ts).length) :=
        ceilDiv_mono (hmono (by simp)) _
      have hone : d.fits { l with tombs := l.tombs ++ [x] } := (fits_iff.mp hfits).within (regions_tombs_within d l (by simp) (by simp) hle)
      have hrest := fits_applyRec_tomb (key := key) c hl (by simp) hone hfits
      rw [hkeep hmono (fits_congr rfl rfl rfl ?_ hrest)]
      · exact hkeep1 hone
      · simp [withTombRec, tombRec, Leaf.regions]; rfl

end Deletions

/-! ### A deletion at the lead -/

section Lead
variable {s v : State} {t : Nat} {c : Clock} {d : Dev} {l : Leaf} {b : Beacon} {u : UpdCmd}

/-- What the statement asks of a deletion that its lead takes in: led here, intake open, the station's beacon there, and no check of R149 but that of the room refuses it. -/
structure Deletes (c : Clock) (d : Dev) (l : Leaf) (b : Beacon) (u : UpdCmd) : Prop where
  carries : d.carries = true
  copy : d.leaf u.parcel = some l
  leads : d.leadAt u.parcel (d.commitNow c) = some d.plat.nodeId
  open_ : l.intakeHeld = false
  beacon : d.plat.beacon = some b
  current : d.station c ≤ b.station
  kind : u.kind = .delete
  good : d.itemsBad l u = false
  first : d.findRec (.leaf u.parcel) u.key = none
  time : d.holdsTime c = true
  intake : d.noIntake l = false
  limits : d.overLimits l u = false

/-- The tombstones that a deletion brings (R146, R152). -/
def newTombs (c : Clock) (d : Dev) (l : Leaf) (u : UpdCmd) : List Tomb := u.items.zipIdx.map fun e => ⟨e.1.id, d.commitNow c, l.nextSeq + e.2⟩

theorem takeItem_tombRec (n : Nat) (l : Leaf) (key : CmdKey) (x : Tomb) : l.takeItem n (tombRec key x) = { l with tombs := l.tombs ++ [x] } := rfl

theorem foldl_takeItem_tombs (n : Nat) (key : CmdKey) (ts : List Tomb) (l : Leaf) :
    (ts.map (tombRec key)).foldl (fun (y : Leaf) r => y.takeItem n r) l = { l with tombs := l.tombs ++ ts } := by
  induction ts generalizing l with
  | nil => simp
  | cons x ts ih =>
    rw [List.map_cons, List.foldl_cons, takeItem_tombRec, ih]
    simp

/-- A lead whose intake is open, with the station's beacon, runs the command (R371, R379). -/
theorem updateIntake_leads (h : Deletes c d l b u) : updateIntake u c d = d.intakeItems c l u := by
  obtain ⟨hcarries, hl, hlead, hopen, hbeacon, hcurrent, hkind, -⟩ := h
  have hheard : decide (d.station c ≤ b.station) = true := decide_eq_true hcurrent
  simp only [updateIntake, hcarries, if_true, Dev.intake, hl, hlead, Option.filter_some, decide_true, hopen, hbeacon, ge_iff_le, hheard, Bool.not_true,
    Bool.and_false, Bool.false_and, Bool.or_self, Bool.false_eq_true, if_false, Dev.intakeAt, hkind]

theorem records_delete {sp : Space} {x : LeafCfg} (hkind : u.kind = .delete) :
    (u.items.zipIdx.map fun e => (⟨l.nextSeq + e.2, d.commitNow c, updOp u.kind sp l x e.1 (l.nextSeq + e.2) (d.commitNow c), u.key⟩ : UpdRec)) =
      (newTombs c d l u).map (tombRec u.key) := by
  simp only [newTombs, List.map_map, hkind, updOp]
  rfl

/-- A deletion is taken in if there is room for its tombstones, and else answered ST_BUSY (R149, R284). -/
theorem updateIntake_delete (h : Deletes c d l b u) : updateIntake u c d =
    if d.roomFor (({ l with tombs := l.tombs ++ newTombs c d l u } : Leaf).regions d) then
      (d.commitOps c u.parcel ((newTombs c d l u).map (tombRec u.key))).addWait u.parcel
        ⟨u.entry, u.ref, u.key, .delete, d.commitNow c, u.items.length, u.items.length, false⟩
    else (d.answer c u stBusy).count 22 0 1 := by
  rw [updateIntake_leads h]
  obtain ⟨-, hl, -, -, -, -, hkind, hgood, hfirst, htime, hintake, hlimits⟩ := h
  have hreplace (n : Nat) : d.replaceBusy l u n = false := by simp [Dev.replaceBusy, hkind]
  obtain ⟨sp, hsp⟩ : ∃ sp, d.spaceOf l = some sp := by
    rcases hsp : d.spaceOf l with _ | sp
    · simp [Dev.itemsBad, hsp] at hgood
    · exact ⟨sp, rfl⟩
  obtain ⟨x, hx⟩ : ∃ x, l.cfg = some x := by
    rcases hx : l.cfg with _ | x
    · simp [Dev.itemsBad, hx] at hgood
    · exact ⟨x, rfl⟩
  simp only [Dev.intakeItems, hgood, leaf_parcel hl, hfirst, htime, hintake, hlimits, hreplace, hsp, hx, records_delete hkind, foldl_takeItem_tombs]
  simp only [hkind, kindAdds, reduceCtorEq, decide_false, Bool.or_self, bne_self_eq_false, Bool.false_and, Bool.not_true, Bool.false_eq_true, if_false,
    Nat.lt_irrefl, Bool.not_eq_true', ← Bool.not_eq_true, ite_not]

theorem exec_updateIntake_delete (hv : v = s.tick t) (h : Deletes v.clk v.dev l b u)
    (hroom : v.dev.roomFor (({ l with tombs := l.tombs ++ newTombs v.clk v.dev l u } : Leaf).regions v.dev) = true) :
    ∃ v' l', exec (.updateIntake t u) s = .next v' ∧ v'.dev.leaf u.parcel = some l' ∧ l'.lists = l.lists ∧ l'.nextSeq = l.nextSeq + u.items.length ∧
      l'.tombs = l.tombs ++ newTombs v.clk v.dev l u ∧
      l'.waits = l.waits ++ [⟨u.entry, u.ref, u.key, .delete, v.dev.commitNow v.clk, u.items.length, u.items.length, false⟩] ∧
      (Monotone Config.tombBytes → v.dev.fits { l with tombs := l.tombs ++ newTombs v.clk v.dev l u } → l'.loc = l.loc) := by
  obtain ⟨k, loc, hleaf, hkeep⟩ := leaf_applyRecs_tombs v.clk u.key (newTombs v.clk v.dev l u) h.copy
  have hdev := (updateIntake_delete h).trans (if_pos hroom)
  have hnext := leaf_updLeaf_some (f := fun x : Leaf => { x with nextSeq := x.nextSeq + ((newTombs v.clk v.dev l u).map (tombRec u.key)).length }) hleaf fun _ hx => hx
  have hwaits := leaf_updLeaf_some (d := v.dev.commitOps v.clk u.parcel ((newTombs v.clk v.dev l u).map (tombRec u.key)))
    (f := fun x : Leaf => { x with waits := x.waits ++ [⟨u.entry, u.ref, u.key, .delete, v.dev.commitNow v.clk, u.items.length, u.items.length, false⟩] })
    ((leaf_congr (sendAll_leaves _ _ _ _) _).trans hnext) fun _ hx => hx
  exact ⟨_, _, exec_onDev rfl rfl hv hdev, hwaits, rfl, by simp [newTombs], rfl, rfl, hkeep⟩

/-- A node that does not lead sends the command on once, and then says that its plat is stale (R383). -/
theorem updateIntake_forwards {n : Nat} (hcarries : d.carries = true) (hlead : d.leadAt u.parcel (d.commitNow c) = some n) (hn : n ≠ d.plat.nodeId) :
    updateIntake u c d = if u.forwarded then (d.send clsControl u.entry (.updateStale u.key)).count 102 0 1
      else (d.send clsUpdate n (.update { u with forwarded := true })).count 103 0 1 := by
  have hnone : ((d.leaf u.parcel).filter fun _ => decide (some n = some d.plat.nodeId)) = none := by simp [hn]
  simp only [updateIntake, hcarries, if_true, Dev.intake, hlead, hnone, hn, decide_false, Bool.or_false, Dev.answerStale]

/-! ### Answers to what this node sent on -/

/-- A copy that has applied a ROWS operation is waited for no more (R255). -/
theorem rowsApplied_left {node other : Nat} {key : CmdKey} {w : RowsWait} (hne : node ≠ other) (hleaves : d.leaves = [l]) (hwait : l.rowsWait = [w])
    (hkey : w.key = key) (hleft : w.left = [node, other]) :
    rowsApplied key node c d = { d with leaves := [{ l with rowsWait := [{ w with left := [other] }] }] } := by
  have hfilter : ([node, other].filter fun n => n != node) = [other] := by simp [hne.symm]
  simp [rowsApplied, Dev.rowsDone, hleaves, hwait, hkey, hleft, hfilter, Dev.updLeaf, updIf]

theorem defaultNPReport_kept {parcel np : Nat} (hlow : 1 ≤ np) (hhigh : np ≤ 4096) :
    defaultNPReport parcel np c d = { d with adm := { d.adm with np := NMap.put d.adm.np parcel np } } := by
  simp only [defaultNPReport, hlow, hhigh, decide_true, Bool.and_self, if_true]

/-- The command kept for the answers, with one stale answer more (R383). -/
theorem staleOnce_counts {f : Forwarded} (hfor : d.plat.forwarded = [f]) (hcmd : f.cmd = some u) :
    d.staleOnce f.key = some ({ f with stale := f.stale + 1 }, { d with plat := { d.plat with forwarded := [{ f with stale := f.stale + 1 }] } }) := by
  simp [Dev.staleOnce, hfor, hcmd, updIf]

/-- The third stale answer ends the command (R383). -/
theorem stalePlatUpdateAnswer_ends {f : Forwarded} (hfor : d.plat.forwarded = [f]) (hcmd : f.cmd = some u) (hstale : 2 ≤ f.stale) :
    stalePlatUpdateAnswer f.key c d = ({ d with plat := { d.plat with forwarded := [] } } : Dev).refuse f.ref stStalePlat := by
  have hthree : f.stale + 1 ≥ 3 := by omega
  simp only [stalePlatUpdateAnswer, staleOnce_counts hfor hcmd, hthree, if_true, Dev.dropForwarded]
  simp

/-- Before that the plat is fetched anew and the command goes to the lead that this node knows (R383). -/
theorem stalePlatUpdateAnswer_routes {f : Forwarded} {g : PlatGen} {m n : Nat} (hfor : d.plat.forwarded = [f]) (hcmd : f.cmd = some u) (hstale : f.stale < 2)
    (hnewest : d.newest = some g) (hlead : g.lead u.parcel = some n) (hn : n ≠ d.plat.nodeId) (hkind : u.kind ≠ .load)
    (hm : (g.quorum.filter fun x => x != d.plat.nodeId).head? = some m) :
    stalePlatUpdateAnswer f.key c d =
      (({ d with plat := { d.plat with forwarded := [{ f with stale := f.stale + 1 }] } } : Dev).send clsControl m (.fetchGen (g.gen + 1))).send
        clsUpdate n (.update u) := by
  have hfew : ¬ f.stale + 1 ≥ 3 := by omega
  have hroute (e : Dev) (hgens : e.plat.gens = d.plat.gens) (hnode : e.plat.nodeId = d.plat.nodeId) : e.route c u = e.send clsUpdate n (.update u) := by
    have hnew : e.newest = some g := by simpa only [Dev.newest, hgens] using hnewest
    simp only [Dev.route, hnew, Option.bind_some, hlead, hnode, hn, hkind, if_false]
  simp only [stalePlatUpdateAnswer, staleOnce_counts hfor hcmd, hfew, if_false, hnewest, Option.map_some, Option.getD_some, hm, hcmd]
  exact hroute _ (by rw [send_plat]) (by rw [send_plat])

end Lead

/-! ### The statement -/

/-- O30 holds if a larger tombstone set takes no fewer bytes. The model leaves the size of the set open (log 21), and the DRAM of a copy follows each tombstone of a deletion by itself: were the set for fewer of them larger, the copy could be FAILED on the way to a number that its regions hold. -/
theorem updatesAndAnswers_of_monotone (hsize : Monotone Config.tombBytes) : Obligations.UpdatesAndAnswers := by
  refine ⟨fun s v t u hv hcarries => ⟨fun l b ts hl hlead hopen hbeacon hcurrent hkind hgood hfirst htime hintake hlimits hts => ?_, fun n hlead hn => ?_⟩,
    ?_, ?_, ?_⟩
  · have h : Deletes v.clk v.dev l b u := ⟨hcarries, hl, hlead, hopen, hbeacon, hcurrent, hkind, hgood, hfirst, htime, hintake, hlimits⟩
    subst hts
    refine ⟨fun hroom => ?_, fun hroom => ?_⟩
    · obtain ⟨v', l', hnext, hleaf, hlists, hseq, htombs, hwaits, hkeep⟩ := exec_updateIntake_delete hv h hroom
      exact ⟨v', l', hnext, hleaf, hlists, hseq, htombs, hwaits, hkeep hsize⟩
    · exact exec_onDev rfl rfl hv ((updateIntake_delete h).trans (if_neg (by rw [Bool.not_eq_true]; exact hroom)))
  · exact exec_onDev rfl rfl hv (updateIntake_forwards hcarries hlead hn)
  · exact fun s v t node other l key w hv hnode hne hleaves hwait hkey hleft =>
      exec_onDev rfl (decide_eq_true hnode) hv (rowsApplied_left hne hleaves hwait hkey hleft)
  · exact fun s v t parcel np hv hlow hhigh => exec_onDev rfl rfl hv (defaultNPReport_kept hlow hhigh)
  · refine fun s v t f u hv hfor hcmd => ⟨fun hstale => ?_, fun g m n hstale hnewest hlead hn hkind hm => ?_⟩
    · exact exec_onDev rfl rfl hv (stalePlatUpdateAnswer_ends hfor hcmd hstale)
    · exact exec_onDev rfl rfl hv (stalePlatUpdateAnswer_routes hfor hcmd hstale hnewest hlead hn hkind hm)

end Sys2Proof.Proofs

/-! SUPPORT. Readers of the chain engine: how a gather or a row asked by another node becomes one, and which branch each step of a reader's walk takes. -/

namespace Sys2Proof.Proofs

open Sys2Proof Sys2Proof.Machine Sys2Proof.Laws

/-! ### Readers by their number -/

theorem reader?_id {d : Dev} {id : Nat} {r : Reader} (h : d.reader? id = some r) : r.id = id := by
  simpa using List.find?_some h

/-! ### chain.gather -/

section Gather
variable {c : Clock} {d d1 : Dev} {cmd : Cmd} {g : PlatGen} {kind : RowKind} {facts : List LeafFact}

/-- Expert fields of a basic command are taken as zero (R425). -/
theorem e_basic (hbasic : cmd.expert = false) (off n : Nat) : cmd.e off n = 0 := by simp [Cmd.e, hbasic]

theorem gatherBench_basic (hbasic : cmd.expert = false) : d.gatherBench c cmd = d.station c := by
  simp [Dev.gatherBench, e_basic hbasic, bitAt]

theorem gatherDeadline_basic (hbasic : cmd.expert = false) : d.gatherDeadline c cmd = d.deadlineOf c cmd := by
  simp [Dev.gatherDeadline, e_basic hbasic, bitAt]

theorem gatherGen_basic (hbasic : cmd.expert = false) : d.gatherGen c cmd = d.genNow c := by
  simp only [Dev.gatherGen, gatherBench_basic hbasic, Dev.genNow]

/-- The reader of a basic gather of rows that leaves keep, in the generation in force. -/
def basicReader (facts : List LeafFact) (c : Clock) (d : Dev) (cmd : Cmd) (g : PlatGen) (kind : RowKind) : Reader :=
  { Reader.new 0 (.gather cmd.ref) kind (sortNat (resolved g (cmd.f 0x44 4))) g.gen (d.station c) (d.gatherKeys cmd) with
    rMax := d.gatherRMax c facts cmd, limit := 4096, deadline := d.deadlineOf c cmd, tenant := cmd.tenant }

/-- A basic gather that the gate lets in becomes its reader (R182 to R184). -/
theorem chainGatherRun_basic (hkind : rowKindOf (cmd.f 0x40 1) = some kind) (hrow : kind ≠ .embed) (hbasic : cmd.expert = false) (hg : d.genNow c = some g)
    (hgate : d.gate c cmd (cmd.f 0x50 4) 1 (d.deadlineOf c cmd ≤ c.now) = .inr d1) :
    chainGatherRun facts c d cmd = d1.addReader (basicReader facts c d cmd g kind) := by
  simp [chainGatherRun, gatherDeadline_basic hbasic, gatherGen_basic hbasic, gatherBench_basic hbasic, e_basic hbasic, bitAt, hgate, hkind, hrow, hg,
    basicReader, Reader.new]

end Gather

/-! ### Rows asked by other nodes -/

section Remote
variable {c : Clock} {d : Dev} {q : RemoteReq}

theorem remoteReadRequest_embed {m : Model} (hcarries : d.carries = true) (hkind : q.kind = .embed)
    (hm : (d.mdl.models.find? fun x => x.id = q.parcel && (x.embed?).isSome) = some m) :
    remoteReadRequest q c d = d.addReader (Reader.new 0 (.remote q) .embed [m.uid] q.gen q.bench [q.id]) := by
  simp only [remoteReadRequest, hcarries, Bool.not_true, Bool.false_eq_true, if_false, hkind, if_true, hm]

theorem remoteReadRequest_serves (hcarries : d.carries = true) (hkind : q.kind ≠ .embed) (hroute : d.routeWork q.gen q.bench q.parcel q.rank q.fwd = .serve) :
    remoteReadRequest q c d = d.addReader (Reader.new 0 (.remote q) q.kind [q.parcel] q.gen q.bench [q.id]) := by
  simp only [remoteReadRequest, hcarries, Bool.not_true, Bool.false_eq_true, if_false, hkind, hroute]

theorem remoteReadRequest_waits (hcarries : d.carries = true) (hkind : q.kind ≠ .embed) (hroute : d.routeWork q.gen q.bench q.parcel q.rank q.fwd = .wait) :
    remoteReadRequest q c d = ({ d with plat := { d.plat with waitReads := d.plat.waitReads ++ [q] } } : Dev).wantGen q.gen := by
  simp only [remoteReadRequest, hcarries, Bool.not_true, Bool.false_eq_true, if_false, hkind, hroute]

end Remote

/-! ### A step of the walk -/

section Walk
variable {c : Clock} {d : Dev} {id key : Nat} {r : Reader}

/-- A gather past its DEADLINE ends with what it has written (R186). -/
theorem chainReadIssue_late {ref : Ref} (hr : d.reader? id = some r) (hopen : r.ended = false) (hkind : r.kind = .gather ref) (hlate : r.deadline ≤ c.now) :
    chainReadIssue id c d = d.gatherEnd c r ref stDeadline false := by
  have hdue : r.due c = true := by simp [Reader.due, hkind, hlate]
  simp only [chainReadIssue, hr, hopen, hdue, Bool.false_eq_true, if_false, if_true, Dev.gatherLate, hkind]

/-- When no slot waits for its read, the walk takes its next key (R173). -/
theorem chainReadIssue_walks (hr : d.reader? id = some r) (hopen : r.ended = false) (hdue : r.due c = false)
    (hnone : (r.window.find? fun x => x.row.isNone && (d.slotReads id x.no).isEmpty) = none) : chainReadIssue id c d = d.walkKey c r := by
  have hwaiting : (r.window.filter fun x => x.row.isNone && (d.slotReads id x.no).isEmpty) = [] :=
    List.filter_eq_nil_iff.mpr (List.find?_eq_none.mp hnone)
  simp only [chainReadIssue, hr, hopen, hdue, Bool.false_eq_true, if_false, hwaiting, Dev.tryWaiting]

variable (hkey : r.keys[r.pos]? = some key) (hitem : key ≠ Config.noItem)
include hkey hitem

/-- A key that stands in the window joins its slot (R178). -/
theorem walkKey_joins {x : WSlot} (hslot : (r.window.find? fun y => y.key = key) = some x) :
    d.walkKey c r = (d.updReader r.id fun y => { (y.updSlot x.no fun z => { z with occ := z.occ ++ [y.pos] }) with pos := y.pos + 1 }).count 27 0 1 := by
  simp only [Dev.walkKey, hkey, hitem, decide_false, Bool.false_and, hslot]
  split
  · contradiction
  · rfl

/-- The slot that a new key takes. -/
def newSlot (r : Reader) (no key : Nat) : WSlot := ⟨no, key, r.leaves, [], none, [r.pos], 0⟩

/-- The reader once its next key has taken a slot. -/
def withNewSlot (r : Reader) (no key : Nat) : Reader :=
  { r with pos := r.pos + 1, inflight := r.inflight + 1, window := (r.window.filter fun y => y.no != no) ++ [newSlot r no key] }

/-- A new key takes a free slot and its read is issued while fewer than the limit are in flight (R173, R174). -/
theorem walkKey_issues {no : Nat} (hnew : (r.window.find? fun y => y.key = key) = none) (hfew : r.inflight < r.limit) (hfree : r.freeSlot = some no) :
    d.walkKey c r = (d.updReader r.id fun _ => withNewSlot r no key).launch c (withNewSlot r no key) (newSlot r no key) true := by
  simp only [Dev.walkKey, hkey, hitem, decide_false, Bool.false_and, hnew, Nat.not_le.mpr hfew, if_false, hfree]
  split
  · contradiction
  · rfl

/-- At the limit a new key waits (R173). -/
theorem walkKey_full (hnew : (r.window.find? fun y => y.key = key) = none) (hfull : r.limit ≤ r.inflight) : d.walkKey c r = d := by
  simp only [Dev.walkKey, hkey, hitem, decide_false, Bool.false_and, hnew, hfull, if_true]
  split
  · contradiction
  · rfl

end Walk

/-! ### The statement -/

/-- Settles O34. It holds: a gather past its checks and the gate, a row asked for and a step of a walk each take the one branch that the hypotheses leave. -/
theorem gathersAndReaders : Obligations.GathersAndReaders := by
  refine ⟨⟨?_, fun s v t q hv hcarries => ⟨fun m hkind hm => ?_, fun hkind hroute => ?_, fun hkind hroute => ?_⟩⟩, fun s v t id r hv hr hopen => ⟨?_, ?_⟩⟩
  · intro s v k cmd facts r d1 g kind hv ha hready hareas hbad hkind hrow hbasic hg hgate
    subst hready
    have hrun := exec_slot_areas (i := .chainGather k facts) (areas := gatherAreas) rfl rfl hv ha (fun _ => rfl) hareas rfl hbad
    rw [hrun, chainGatherRun_basic hkind hrow hbasic ((ready_genNow v cmd v.clk).trans hg) hgate]
    simp only [basicReader, Reader.new, Dev.station, ready_plat]
  · exact exec_onDev rfl rfl hv (remoteReadRequest_embed hcarries hkind hm)
  · exact exec_onDev rfl rfl hv (remoteReadRequest_serves hcarries hkind hroute)
  · exact exec_onDev rfl rfl hv (remoteReadRequest_waits hcarries hkind hroute)
  · intro ref hkind hlate
    exact exec_onDev rfl rfl hv (chainReadIssue_late hr hopen hkind hlate)
  · intro key hdue hnone hkey hitem
    have hwalk := chainReadIssue_walks hr hopen hdue hnone
    have hid := reader?_id hr
    refine ⟨fun x hslot => ?_, fun no hnew hfew hfree => ?_, fun hnew hfull => ?_⟩
    · exact exec_onDev rfl rfl hv (hid ▸ hwalk.trans (walkKey_joins hkey hitem hslot))
    · exact exec_onDev rfl rfl hv (hid ▸ hwalk.trans (walkKey_issues hkey hitem hnew hfew hfree))
    · exact exec_idle rfl rfl hv (hwalk.trans (walkKey_full hkey hitem hnew hfull))

end Sys2Proof.Proofs

/-! SUPPORT. Reads that complete and rows that are delivered: what a row of this node's own copy gives its slot, and what a delivery writes of it into a gather's result area. -/

namespace Sys2Proof.Proofs

open Sys2Proof Sys2Proof.Machine Sys2Proof.Laws

@[simp] theorem count_zero (d : Dev) (k i : Nat) : d.count k i 0 = d := if_pos rfl

section Reads
variable {c : Clock} {d : Dev} {tag : Nat} {x : Read} {r : Reader}
variable (hx : (d.chain.reads.find? fun y => y.tag = tag) = some x) (hr : d.reader? x.reader = some r)
include hx hr

/-- A read that serves nobody any more only gives its tag back (R174). -/
theorem chainReadComplete_dead {o : ReadOutcome} (hdead : x.live = false) : chainReadComplete tag o c d = d.dropRead tag x.reader := by
  simp only [chainReadComplete, hx, hr, hdead, Bool.not_false, Bool.true_or, if_true]

/-- A live read of a stack that is neither tested nor reset completes from this node's own copy. -/
theorem chainReadComplete_dram {o : ReadOutcome} {st : Nat} (hlive : x.live = true) (hopen : r.ended = false) (hdue : r.due c = false) (hsrc : x.src = .dram st)
    (hbar : d.stackBarred st = false) : chainReadComplete tag o c d = d.completeLocal c r x o := by
  simp only [chainReadComplete, hx, hr, hlive, hopen, hdue, hsrc, hbar, Bool.not_true, Bool.or_self, Bool.false_eq_true, if_false]

end Reads

section Delivery
variable {c : Clock} {d : Dev} {r : Reader}

/-- A clean read of a stack gives its slot the row as the leaf or the model holds it, and its tag back (R177). -/
theorem completeLocal_dram_ok {x : Read} {st : Nat} (hsrc : x.src = .dram st) (hgood : d.sourceBad c r x = false) :
    d.completeLocal c r x .ok = (d.slotDone r x.slot (d.localRow r x.key).1 (d.localRow r x.key).2).dropRead x.tag r.id := by
  simp only [Dev.completeLocal, hgood, Bool.false_eq_true, if_false, Dev.gotRow, hsrc]

/-- A clean row of a gather is padded to R_max and put 64 bytes from the next, then its status byte 0 is written (R184, R185). -/
theorem putRow_clean {ref : Ref} {cmd : Cmd} {pos : Nat} {bytes : List Byte} (hcmd : d.cmd? ref = some cmd) :
    d.putRow r ref pos 0 bytes = (d.result cmd (ceil64 r.keys.length + pos * ceil64 r.rMax) (padTo r.rMax bytes)).result cmd pos [0] := by
  simp only [Dev.putRow, hcmd, if_true]
  rfl

/-- The reader once a lane has delivered the row of a slot at a place with a status. -/
def afterDelivery (r : Reader) (no pos status : Nat) : Reader :=
  { (r.updSlot no fun y => { y with occ := y.occ.filter fun p => p != pos, lastUse := r.delivered + 1 }) with
    statuses := NMap.put r.statuses pos status, delivered := r.delivered + 1 }

/-- A lane delivers a clean row to a gather (R185). -/
theorem rowDelivery_gather {id pos : Nat} {x : WSlot} {ref : Ref} {cmd : Cmd} {bytes : List Byte} (hr : d.reader? id = some r) (hkind : r.kind = .gather ref)
    (hdue : r.due c = false) (hslot : (r.window.find? fun y => y.occ.contains pos) = some x) (hrow : x.row = some (0, bytes)) (hcmd : d.cmd? ref = some cmd) :
    rowDelivery id pos c d =
      (((((d.updReader id fun _ => afterDelivery r x.no pos 0).count 28 (x.no % Config.lanes) 1).result cmd (ceil64 r.keys.length + pos * ceil64 r.rMax)
        (padTo r.rMax bytes)).result cmd pos [0]).gatherStep c (afterDelivery r x.no pos 0) ref) := by
  have hput (e : Dev) (he : e.cmds = d.cmds) := putRow_clean (r := afterDelivery r x.no pos 0) (pos := pos) (bytes := bytes) ((cmd?_congr he ref).trans hcmd)
  simp only [rowDelivery, hr, hdue, Bool.false_eq_true, if_false, hslot, hrow, hkind, zero_ne_one, decide_false, boolNat, count_zero]
  exact congrArg (fun e : Dev => e.gatherStep c (afterDelivery r x.no pos 0) ref) (hput _ (by simp))

end Delivery

/-! ### The statement -/

/-- Settles O35. It holds: each completion takes the branch that the read's state and source leave, and a delivery changes no command before it writes. -/
theorem readsCompleteAndDeliver : Obligations.ReadsCompleteAndDeliver := by
  refine ⟨fun s v t tag x r hv hx hr => ⟨fun st hlive hopen hdue hsrc hbar hgood => ?_, fun o hdead => ?_⟩, ?_⟩
  · exact exec_onDev rfl rfl hv ((chainReadComplete_dram hx hr hlive hopen hdue hsrc hbar).trans (completeLocal_dram_ok hsrc hgood))
  · exact exec_onDev rfl rfl hv (chainReadComplete_dead hx hr hdead)
  · intro s v t id pos r x ref cmd bytes hv hr hkind hdue hslot hrow hcmd
    exact exec_onDev rfl rfl hv (rowDelivery_gather hr hkind hdue hslot hrow hcmd)

end Sys2Proof.Proofs

/-! SUPPORT. Monuments: what a command makes of a row without a monument and of a move, and the one branch that a fill, a switch and the freeing of a place take. -/

namespace Sys2Proof.Proofs

open Sys2Proof Sys2Proof.Machine Sys2Proof.Laws

/-! ### Monuments and their rows -/

/-- A row's own place does not depend on the commands that run. -/
theorem homeStack_cmds (d : Dev) (x : Cmds) (k : RowKey) : ({ d with cmds := x } : Dev).homeStack k = d.homeStack k := rfl

theorem ready_homeStack (v : State) (cmd : Cmd) (k : RowKey) : (v.ready cmd).homeStack k = (v.dev.takeCmd cmd).homeStack k := by
  rw [ready_eq]
  exact homeStack_cmds _ _ _

theorem ready_monument? (v : State) (cmd : Cmd) (k : RowKey) : (v.ready cmd).monument? k = v.dev.monument? k := by
  simp only [Dev.monument?, ready_chain]

theorem ready_pinned (v : State) (cmd : Cmd) (k : RowKey) : (v.ready cmd).pinned k = v.dev.pinned k := by
  unfold Dev.pinned Dev.leaf
  rw [ready_leaves]

theorem ready_heldBit (v : State) (cmd : Cmd) (block unit : Nat) : (v.ready cmd).heldBit block unit = v.dev.heldBit block unit := by
  simp only [Dev.heldBit, ready_pwr]

theorem ready_serves (v : State) (cmd : Cmd) (s : Nat) : (v.ready cmd).serves s = v.dev.serves s := by
  simp only [Dev.serves, ready_mem]

/-- The monument of a row that has none stands behind the others. -/
theorem putMonument_new {d : Dev} {m : Monument} (h : d.monument? m.row = none) :
    d.putMonument m = { d with chain := { d.chain with monuments := d.chain.monuments ++ [m] } } := by
  have hothers : (d.chain.monuments.filter fun x => x.row != m.row) = d.chain.monuments :=
    List.filter_eq_self.mpr fun x hx => by simpa using List.find?_eq_none.mp h x hx
  simp only [Dev.putMonument, hothers]

/-! ### Stacks of a list -/

theorem stackOf_val {n : Nat} {s : StackNo} (h : stackOf n = some s) : s.val = n := by
  unfold stackOf at h
  split at h
  · cases h; rfl
  · cases h

theorem stackOf_self (s : StackNo) : stackOf s.val = some s := by simp [stackOf, s.isLt]

theorem distinct_iff_nodup {α : Type} [DecidableEq α] (xs : List α) : distinct xs = true ↔ xs.Nodup := by
  induction xs with
  | nil => simp [distinct]
  | cons x xs ih => simp [distinct, ih]

/-- Stacks named by different numbers differ. -/
theorem nodup_stacks {ns : List Nat} (h : ns.Nodup) : (ns.filterMap stackOf).Nodup :=
  h.filterMap fun _ _ _ ha hb => (stackOf_val ha).symm.trans (stackOf_val hb)

/-! ### A first monument -/

section First
variable {c : Clock} {d : Dev} {cmd : Cmd}

/-- A copy that is to be filled. -/
def fillingCopy (s : StackNo) : MonCopy := ⟨s, .filling, 0, false⟩

/-- The copies from the n-th on of a row's first monument on a list of stacks: the row's own place, which is live, and the others, which are to be filled (R194). -/
def newCopies (pinned : Bool) (n : Nat) (ss : List StackNo) : List MonCopy :=
  (ss.zipIdx n).map fun e => if e.2 = 0 ∧ pinned = true then ⟨e.1, .live, 0, true⟩ else fillingCopy e.1

theorem newCopies_cons (pinned : Bool) (n : Nat) (s : StackNo) (ss : List StackNo) :
    newCopies pinned n (s :: ss) = (if n = 0 ∧ pinned = true then ⟨s, .live, 0, true⟩ else fillingCopy s) :: newCopies pinned (n + 1) ss := rfl

/-- Copies behind the first, and all copies of a row that is not stored in DRAM, are to be filled. -/
theorem newCopies_filling {pinned : Bool} {n : Nat} (ss : List StackNo) (h : ¬(n = 0 ∧ pinned = true)) : newCopies pinned n ss = ss.map fillingCopy := by
  induction ss generalizing n with
  | nil => rfl
  | cons s ss ih => rw [newCopies_cons, if_neg h, ih (fun h => n.succ_ne_zero h.1), List.map_cons]

theorem keepCopy_other {s t : StackNo} {station : Nat} {u : CopyUse} {since : Nat} {home : Bool} (h : s ≠ t) :
    keepCopy [⟨s, u, since, home⟩] station t = fillingCopy t := by
  simp [keepCopy, fillingCopy, h]

/-- A row's first copies, brought to a list that begins with its own place where it has one, are the list's copies, and none of them leaves. -/
theorem firstCopies_kept {k : RowKey} {ss : List StackNo} (station : Nat) (hnodup : ss.Nodup) (hhead : d.pinned k = true → ss.head? = some (d.homeStack k)) :
    ss.map (keepCopy (d.firstCopies k) station) ++ ((d.firstCopies k).filter fun x => !(ss.contains x.stack)).filterMap (leaveCopy station) =
      newCopies (d.pinned k) 0 ss := by
  rcases hpin : d.pinned k with _ | _
  · have hempty : d.firstCopies k = [] := by simp [Dev.firstCopies, hpin]
    rw [hempty, newCopies_filling ss (by simp)]
    exact List.append_nil _
  · have hhome : d.firstCopies k = [⟨d.homeStack k, .live, 0, true⟩] := by simp [Dev.firstCopies, hpin]
    obtain ⟨ss', rfl⟩ := List.head?_eq_some_iff.mp (hhead hpin)
    obtain ⟨hout, -⟩ := List.nodup_cons.mp hnodup
    have hothers : ss'.map (keepCopy [⟨d.homeStack k, .live, 0, true⟩] station) = ss'.map fillingCopy :=
      List.map_congr_left fun s hs => keepCopy_other fun h => hout (h ▸ hs)
    rw [hhome, newCopies_cons, newCopies_filling ss' (by simp), List.map_cons, hothers]
    simp [keepCopy]

/-- A list of stacks that passes the checks names no stack twice and begins with the place of a row in DRAM (R194). -/
theorem monStacks_good (hbad : chainMonumentSetBad c d cmd = false) (hnone : d.monument? cmd.monRow = none) :
    (cmd.monStacks.filterMap stackOf).Nodup ∧
      (d.pinned cmd.monRow = true → (cmd.monStacks.filterMap stackOf).head? = some (d.homeStack cmd.monRow)) := by
  simp only [chainMonumentSetBad, Bool.or_eq_false_iff, Bool.not_eq_false'] at hbad
  obtain ⟨⟨⟨⟨-, -⟩, hdistinct⟩, -⟩, hfirst⟩ := hbad
  refine ⟨nodup_stacks ((distinct_iff_nodup _).mp hdistinct), fun hpin => ?_⟩
  simp only [Dev.copy0Stack, hnone, Option.bind_none, hpin, if_true, decide_eq_false_iff_not, not_not] at hfirst
  obtain ⟨ns, hns⟩ := List.head?_eq_some_iff.mp hfirst
  rw [hns, List.filterMap_cons_some (stackOf_self _), List.head?_cons]

/-- chain.monument_set makes a monument of a row that has none, while fewer rows than the limit have more than one copy and there is room for it (R194). -/
theorem chainMonumentSetRun_first {d1 : Dev} {ss : List StackNo} (hss : ss = cmd.monStacks.filterMap stackOf) (hnone : d.monument? cmd.monRow = none)
    (hnodup : ss.Nodup) (hhead : d.pinned cmd.monRow = true → ss.head? = some (d.homeStack cmd.monRow))
    (hfew : ss.length ≤ 1 ∨ (d.chain.monuments.filter fun m => 1 < m.copies.length && m.row != cmd.monRow).length < Config.maxMonuments)
    (hd1 : d1 = { d with chain := { d.chain with monuments := d.chain.monuments ++ [⟨cmd.monRow, newCopies (d.pinned cmd.monRow) 0 ss, none⟩] } })
    (hroom : d1.monRoom cmd.monRow = true) :
    chainMonumentSetRun c d cmd = (d1.syncRow c cmd.monRow).endCmd c cmd.ref stOk 0 0 [] := by
  have hput : d.putMonument ⟨cmd.monRow, newCopies (d.pinned cmd.monRow) 0 ss, none⟩ = d1 := (putMonument_new hnone).trans hd1.symm
  have hfree : (decide (1 < ss.length) &&
      decide (Config.maxMonuments ≤ (d.chain.monuments.filter fun m => 1 < m.copies.length && m.row != cmd.monRow).length)) = false := by
    rw [← Bool.decide_and, decide_eq_false_iff_not]
    omega
  simp only [chainMonumentSetRun, ← hss, hnone, Option.getD_none, firstCopies_kept (d.station c) hnodup hhead, hput, hfree, hroom, Option.isSome_none, Bool.not_true,
    Bool.or_self, Bool.false_eq_true, if_false]

end First

/-! ### A move -/

section Moves
variable {c : Clock} {d : Dev} {cmd : Cmd} {m : Monument}

/-- The move that a command asks for. -/
def newMove (cmd : Cmd) (dest : StackNo) (home : Bool) : MonMove := ⟨cmd.f 0x50 1, dest, cmd.f 0x58 8, false, .dual, cmd.ref, home⟩

/-- chain.monument_move of a live copy between stacks that serve and are not held has it read in both places (R196, R463). -/
theorem chainMonumentMoveRun_begins {d1 : Dev} {dest : StackNo} {x : MonCopy} (hm : d.monument? cmd.monRow = some m) (hidle : m.move = none)
    (hx : m.copies[cmd.f 0x50 1]? = some x) (hlive : x.use = .live) (hdest : cmd.f 0x51 1 = dest.val) (hsrc : d.heldBit 1 x.stack.val = false)
    (hheld : d.heldBit 1 dest.val = false) (hserves : d.serves dest.val = true) (hd1 : d1 = d.putMonument { m with move := some (newMove cmd dest x.home) })
    (hroom : d1.monRoom cmd.monRow = true) : chainMonumentMoveRun c d cmd = d1.syncRow c cmd.monRow := by
  subst hd1
  have hstack : stackOf (cmd.f 0x51 1) = some dest := hdest ▸ stackOf_self dest
  simp only [newMove] at hroom ⊢
  simp [chainMonumentMoveRun, Dev.movedCopies, hm, hstack, hx, hidle, hsrc, hheld, hlive, hserves, hroom]

end Moves

/-! ### Fills, switches and frees -/

section Stations
variable {c : Clock} {d : Dev} {row : RowKey} {m : Monument} {mv : MonMove} {x : MonCopy}

/-- A change of the only monument there is. -/
theorem updMonument_only {f : Monument → Monument} (hm : d.chain.monuments = [m]) (hrow : m.row = row) :
    d.updMonument row f = { d with chain := { d.chain with monuments := [f m] } } := by
  simp [Dev.updMonument, hm, updIf, hrow]

/-- An added copy that is filled may be read from the next station on (R194). -/
theorem monumentFillComplete_added {copy : Nat} (hm : d.chain.monuments = [m]) (hrow : m.row = row) (hx : m.copies[copy]? = some x) (huse : x.use = .filling) :
    monumentFillComplete row copy c d =
      { d with chain := { d.chain with monuments := [{ m with copies := m.copies.set copy { x with use := .ready, since := d.station c } }] } } := by
  simp only [monumentFillComplete, updMonument_only hm hrow, hx, huse, if_true]

/-- A moved copy that is filled before station W may switch; from W on it is too late (R196). -/
theorem monumentFillComplete_moved {copy : Nat} (hm : d.chain.monuments = [m]) (hrow : m.row = row) (hx : m.copies[copy]? = some x) (huse : x.use = .live)
    (hmove : m.move = some mv) (hcopy : mv.copy = copy) (hphase : mv.phase = .dual) :
    monumentFillComplete row copy c d =
      { d with chain := { d.chain with monuments := [{ m with move := some (if d.station c < mv.w then { mv with filled := true } else mv) }] } } := by
  have hne : ¬(CopyUse.live = CopyUse.filling) := by decide
  simp only [monumentFillComplete, updMonument_only hm hrow, hx, huse, hne, if_false, hmove, Option.map_some, hcopy, hphase, decide_true, Bool.true_and,
    decide_eq_true_eq]

theorem monumentSwitch_early (hm : d.monument? row = some m) (hmove : m.move = some mv) (hw : d.station c < mv.w) : monumentSwitch row c d = d := by
  simp only [monumentSwitch, hm, hmove, hw, decide_true, Bool.or_true, if_true]

/-- At station W a move whose fill is complete flips its descriptor while datum time is valid (R196, R367). -/
theorem monumentSwitch_flips (hm : d.monument? row = some m) (hmove : m.move = some mv) (hx : m.copies[mv.copy]? = some x) (hphase : mv.phase = .dual)
    (hw : mv.w ≤ d.station c) (hfilled : mv.filled = true) (htime : d.holdsTime c = true) :
    monumentSwitch row c d = (d.updMonument row fun y => { y with copies := y.copies.set mv.copy { x with stack := mv.dest, home := false },
                                                                  move := some { mv with dest := x.stack, phase := .flipped, home := x.home } }).count 36 0 1 := by
  simp [monumentSwitch, hm, hmove, hx, hphase, Nat.not_lt.mpr hw, hfilled, htime]

/-- A move that may not flip at station W is abandoned (R196). -/
theorem monumentSwitch_abandons (hm : d.monument? row = some m) (hmove : m.move = some mv) (hphase : mv.phase = .dual) (hw : mv.w ≤ d.station c)
    (h : mv.filled = false ∨ d.holdsTime c = false) : monumentSwitch row c d = d.abandonMove c row mv := by
  have hstop : (!mv.filled || !(d.holdsTime c)) = true := by simpa using h
  simp [monumentSwitch, hm, hmove, hphase, Nat.not_lt.mpr hw, hstop]

/-- From station W + 1 on the old place is freed and the command ends (R196). -/
theorem monumentFree_frees (hm : d.monument? row = some m) (hmove : m.move = some mv) (hphase : mv.phase = .flipped) (hw : mv.w + 1 ≤ d.station c)
    (htime : c.valid = true) :
    monumentFree row c d = ((d.updMonument row fun y => { y with move := none }).syncRow c row).endCmd c mv.ref stOk 0 0 [] := by
  simp only [monumentFree, hm, hmove, Option.bind_some, hphase, hw, htime, decide_true, Bool.and_self, if_true]

end Stations

/-! ### The statement -/

/-- Settles O36. It holds: the checks of chain.monument_set put a row's own place first in the list, and each later event takes the one branch that the move's phase, the fill and the station leave. -/
theorem monuments : Obligations.Monuments := by
  refine ⟨?_, ?_, ?_, ?_⟩
  · intro s v k cmd ss d hv ha hbad hnone hss hfew hd hroom
    obtain ⟨hnodup, hhead⟩ := monStacks_good hbad hnone
    rw [exec_slot (i := .chainMonumentSet k) rfl rfl hv ha rfl hbad,
      chainMonumentSetRun_first hss ((ready_monument? v cmd _).trans hnone) (hss ▸ hnodup) ?_ ?_ ?_ hroom]
    · rw [ready_pinned, ready_homeStack, hss]
      exact hhead
    · rwa [ready_chain]
    · rwa [ready_pinned, ready_chain]
  · intro s v k cmd m dest x d hv ha hbad hm hidle hx hlive hdest hsrc hheld hserves hd hroom
    rw [exec_slot (i := .chainMonumentMove k) rfl rfl hv ha rfl hbad, chainMonumentMoveRun_begins ((ready_monument? v cmd _).trans hm) hidle hx hlive hdest
      ((ready_heldBit v cmd 1 _).trans hsrc) ((ready_heldBit v cmd 1 _).trans hheld) ((ready_serves v cmd _).trans hserves) hd hroom]
  · intro s v t copy row m x hv hm hrow hx
    refine ⟨fun huse => exec_onDev rfl rfl hv (monumentFillComplete_added hm hrow hx huse), fun mv huse hmove hcopy hphase => ⟨fun hw => ?_, fun hw => ?_⟩⟩
    · exact exec_onDev rfl rfl hv ((monumentFillComplete_moved hm hrow hx huse hmove hcopy hphase).trans (by rw [if_pos hw]))
    · exact exec_idle rfl rfl hv ((monumentFillComplete_moved hm hrow hx huse hmove hcopy hphase).trans (by rw [if_neg (Nat.not_lt.mpr hw), ← hmove, ← hm]))
  · intro s v t row m mv x hv hm hmove hx
    refine ⟨fun hphase hw => ⟨fun hfilled htime => ?_, fun hstop => ?_⟩, fun _ hw => ?_, fun hphase hw htime => ?_⟩
    · exact exec_onDev rfl rfl hv (monumentSwitch_flips hm hmove hx hphase hw hfilled htime)
    · exact exec_onDev rfl rfl hv (monumentSwitch_abandons hm hmove hphase hw hstop)
    · exact exec_idle rfl rfl hv (monumentSwitch_early hm hmove hw)
    · exact exec_onDev rfl rfl hv (monumentFree_frees hm hmove hphase hw htime)

end Sys2Proof.Proofs

/-! SUPPORT. The hot-row cache: what chain.cache_load leaves pending, and what a refresh loads of a set: rows of the set that this node has, no more bytes of them on a die than the cache has there. -/

namespace Sys2Proof.Proofs

open Sys2Proof Sys2Proof.Machine Sys2Proof.Laws

/-! ### chain.cache_load -/

section Load
variable {c : Clock} {d d1 : Dev} {cmd : Cmd}

/-- The cache with the size and the period that a command gives, and its set pending. -/
def loadedCache (d : Dev) (cmd : Cmd) : HotCache :=
  { d.chain.cache with mib := cmd.f 0x40 1, refresh := cmd.f 0x44 4, pend := some ((d.setEntries cmd).map setEntry, cmd.ref) }

/-- The command of a set that is replaced before it is taken up has ended (log 36). -/
theorem chainCacheLoadRun_eq (hnone : d.chain.cache.pend = none → d1 = d)
    (hsome : ∀ p, d.chain.cache.pend = some p → d1 = d.endCmd c p.2 stDeadline 0 0 []) :
    chainCacheLoadRun c d cmd = { d1 with chain := { d.chain with cache := loadedCache d cmd } } := by
  rcases hpend : d.chain.cache.pend with _ | p
  · rw [hnone hpend]
    simp only [chainCacheLoadRun, hpend, loadedCache]
  · rw [hsome p hpend]
    simp only [chainCacheLoadRun, hpend, loadedCache, endCmd_chain]

end Load

/-! ### Rows loaded -/

section Fill
variable {c : Clock} {d : Dev} {set : List RowKey} {f : CacheFill}

theorem natSum_append (xs ys : List Nat) : natSum (xs ++ ys) = natSum xs + natSum ys := by
  simp only [natSum_eq_sum, List.sum_append]

/-- Bytes that rows take of a die's cache. -/
def cachedBytes (c : Clock) (d : Dev) (rows : List CachedRow) (die : Nat) : Nat :=
  natSum ((rows.filter fun x => x.die = die).map fun x => ((d.cacheSize c x.row).map (·.1)).getD 0)

theorem cachedBytes_append (rows : List CachedRow) {k : RowKey} {n die : Nat} (hsize : d.cacheSize c k = some (n, die)) (other : Nat) :
    cachedBytes c d (rows ++ [⟨k, die, true⟩]) other = cachedBytes c d rows other + if die = other then n else 0 := by
  simp only [cachedBytes, List.filter_append, List.map_append, natSum_append]
  by_cases h : die = other <;> simp [h, hsize, natSum]

/-- What a fill keeps: its rows are of the set and have their size and die on this node, and it counts the bytes of each die, which its cache has room for. -/
structure FillOk (c : Clock) (d : Dev) (set : List RowKey) (f : CacheFill) : Prop where
  rows : ∀ x ∈ f.rows, x.row ∈ set ∧ x.valid = true ∧ ∃ n, d.cacheSize c x.row = some (n, x.die)
  used : ∀ die, cachedBytes c d f.rows die = NMap.getD f.used die 0
  room : ∀ die, NMap.getD f.used die 0 ≤ 1048576 * d.chain.cache.mib

theorem fillOk_empty : FillOk c d set ⟨[], [], []⟩ :=
  ⟨fun _ h => absurd h List.not_mem_nil, fun _ => rfl, fun _ => Nat.zero_le _⟩

/-- Rows that did not fit take nothing. -/
theorem FillOk.withUnfit (h : FillOk c d set f) (unfit : NMap Nat) : FillOk c d set { f with unfit := unfit } := ⟨h.rows, h.used, h.room⟩

/-- A row of the set that fits joins the rows of its die. -/
theorem FillOk.load (h : FillOk c d set f) {k : RowKey} {n die : Nat} (hk : k ∈ set) (hsize : d.cacheSize c k = some (n, die))
    (hfits : NMap.getD f.used die 0 + n ≤ 1048576 * d.chain.cache.mib) :
    FillOk c d set { f with rows := f.rows ++ [⟨k, die, true⟩], used := NMap.put f.used die (NMap.getD f.used die 0 + n) } where
  rows x hx := by
    rcases List.mem_append.mp hx with hold | hnew
    · exact h.rows x hold
    · rw [List.mem_singleton.mp hnew]
      exact ⟨hk, rfl, n, hsize⟩
  used other := by
    rw [cachedBytes_append f.rows hsize, h.used]
    by_cases hdie : other = die
    · simp [hdie]
    · simp [getD_put_other _ _ hdie, Ne.symm hdie]
  room other := by
    by_cases hdie : other = die
    · simpa [hdie] using hfits
    · simpa [getD_put_other _ _ hdie] using h.room other

/-- Each row of the set is loaded, left out or passed over (R197). -/
theorem FillOk.cacheRow (h : FillOk c d set f) {k : RowKey} (hk : k ∈ set) : FillOk c d set (d.cacheRow c f k) := by
  unfold Dev.cacheRow
  split
  · exact h
  · split
    · exact h
    · next v hsize =>
      split
      · next hfits => exact h.load hk hsize hfits
      · exact h.withUnfit _

theorem FillOk.foldl {ks : List RowKey} (h : FillOk c d set f) (hks : ∀ k ∈ ks, k ∈ set) : FillOk c d set (ks.foldl (d.cacheRow c) f) :=
  List.foldlRecOn ks (d.cacheRow c) h fun _ hf k hk => hf.cacheRow (hks k hk)

end Fill

/-! ### A refresh -/

section Refresh
variable {c : Clock} {d : Dev}

/-- What a refresh loads of a set: first the rows that stand in the cache and are valid there, then the others. -/
def refreshFill (c : Clock) (d : Dev) (set : List RowKey) : CacheFill :=
  let valid := d.chain.cache.rows.filter fun x => x.valid && set.contains x.row && (match d.cacheSize c x.row with | some v => v.2 = x.die | none => false)
  set.foldl (d.cacheRow c) { (set.filter fun k => valid.any fun x => x.row = k).foldl (d.cacheRow c) ⟨[], [], []⟩ with unfit := [] }

theorem refreshFill_ok (set : List RowKey) : FillOk c d set (refreshFill c d set) :=
  ((fillOk_empty.foldl fun _ hk => List.mem_of_mem_filter hk).withUnfit []).foldl fun _ hk => hk

/-- The device once a set is taken up. -/
def refreshed (c : Clock) (d : Dev) (set : List RowKey) : Dev :=
  { d with chain := { d.chain with cache :=
    { d.chain.cache with set := set, pend := none, rows := (refreshFill c d set).rows, last := some (d.station c) } } }

/-- Rows that did not fit are counted by die (R200). -/
def countUnfit (d : Dev) (unfit : NMap Nat) : Dev := unfit.foldl (fun (x : Dev) e => x.count 40 e.1 e.2) d

@[simp] theorem countUnfit_chain (d : Dev) (unfit : NMap Nat) : (countUnfit d unfit).chain = d.chain :=
  foldl_keeps (fun x : Dev => x.chain) (fun b (e : Nat × Nat) => count_chain b 40 e.1 e.2) unfit d

@[simp] theorem countUnfit_cmds (d : Dev) (unfit : NMap Nat) : (countUnfit d unfit).cmds = d.cmds :=
  foldl_keeps (fun x : Dev => x.cmds) (fun b (e : Nat × Nat) => count_cmds b 40 e.1 e.2) unfit d

@[simp] theorem countUnfit_ports (d : Dev) (unfit : NMap Nat) : (countUnfit d unfit).ports = d.ports :=
  foldl_keeps (fun x : Dev => x.ports) (fun b (e : Nat × Nat) => count_ports b 40 e.1 e.2) unfit d

/-- At any other station a refresh does nothing (R198). -/
theorem hotRowCacheRefresh_notDue (hocc : occurring d.plat.gens (d.station c / d.chain.cache.refresh * d.chain.cache.refresh) ≠ d.station c) :
    hotRowCacheRefresh c d = d := by
  simp only [hotRowCacheRefresh, bne_iff_ne.mpr hocc, Bool.or_true, Bool.true_or, if_true]

variable (hlive : d.live = true) (hocc : occurring d.plat.gens (d.station c / d.chain.cache.refresh * d.chain.cache.refresh) = d.station c)
  (hlast : d.chain.cache.last ≠ some (d.station c))
include hlive hocc hlast

/-- Without a pending set the cache is loaded anew with the set it has. -/
theorem hotRowCacheRefresh_same (hpend : d.chain.cache.pend = none) : hotRowCacheRefresh c d = refreshed c d d.chain.cache.set := by
  simp only [hotRowCacheRefresh, hlive, hocc, hlast, hpend, Bool.not_true, bne_self_eq_false, decide_false, Bool.or_self, Bool.false_eq_true, if_false]
  rfl

/-- A pending set is taken up and its command ends with the number of rows that did not fit (R198). -/
theorem hotRowCacheRefresh_takes {p : List RowKey × Ref} (hpend : d.chain.cache.pend = some p) :
    hotRowCacheRefresh c d =
      (countUnfit (refreshed c d p.1) (refreshFill c d p.1).unfit).endCmd c p.2 stOk 0 (natSum ((refreshFill c d p.1).unfit.map (·.2))) [] := by
  simp only [hotRowCacheRefresh, hlive, hocc, hlast, hpend, Bool.not_true, bne_self_eq_false, decide_false, Bool.or_self, Bool.false_eq_true, if_false]
  rfl

end Refresh

/-! ### The statement -/

/-- Settles O37. It holds: every row that a refresh loads is counted on its die and fits there, and a pending set changes nothing else before its command ends. -/
theorem hotRowCache : Obligations.HotRowCache := by
  refine ⟨?_, fun s v t hv hlive => ⟨fun hocc => exec_idle rfl rfl hv (hotRowCacheRefresh_notDue hocc), fun hocc hlast => ?_⟩⟩
  · intro s v k cmd d hv ha hareas hbad hnone hsome
    have hrun := exec_slot_areas (i := .chainCacheLoad k) (areas := cacheLoadAreas) rfl rfl hv ha (fun _ => rfl) hareas rfl hbad
    rw [hrun, chainCacheLoadRun_eq (d1 := d) (by rwa [ready_chain]) (by rwa [ready_chain]), loadedCache, ready_chain]
  · rcases hpend : v.dev.chain.cache.pend with _ | p
    · have hok := refreshFill_ok (c := v.clk) (d := v.dev) v.dev.chain.cache.set
      refine ⟨_, _, exec_onDev rfl rfl hv (hotRowCacheRefresh_same hlive hocc hlast hpend), fun _ => ?_, fun p h => absurd h.symm (Option.some_ne_none p), hok.rows,
        fun die => (hok.used die).trans_le (hok.room die)⟩
      rw [refreshed, ← hpend]
    · have hok := refreshFill_ok (c := v.clk) (d := v.dev) p.1
      refine ⟨_, (refreshFill v.clk v.dev p.1).rows, exec_onDev rfl rfl hv (hotRowCacheRefresh_takes hlive hocc hlast hpend),
        fun h => absurd h (Option.some_ne_none p), fun p' h => ?_, ?_, fun die => (hok.used die).trans_le (hok.room die)⟩
      · obtain rfl := Option.some.inj h
        refine ⟨?_, countUnfit (refreshed v.clk v.dev p.1) (refreshFill v.clk v.dev p.1).unfit, _, countUnfit_cmds _ _, countUnfit_ports _ _, rfl⟩
        simp only [endCmd_chain, countUnfit_chain, refreshed]
      · simp only [endCmd_chain, countUnfit_chain]
        exact hok.rows

end Sys2Proof.Proofs

/-! SUPPORT. Models as they come and go: what model.load makes of a new image and of LEN 0, what is left once a retired model is freed, and the run that model.run queues. -/

namespace Sys2Proof.Proofs

open Sys2Proof Sys2Proof.Machine Sys2Proof.Laws

/-! ### Commands whose areas depend on the device -/

/-- A command whose areas the record made for it does not change: they must be the port's own and under no fence (R292, R311). -/
theorem exec_slot_ownAreas {i : Instr} {op : Nat} {row : Cmd → Bool} {bad : Clock → Dev → Cmd → Bool} {areas : Dev → Cmd → List (Nat × Nat)}
    {run : Clock → Dev → Cmd → Dev} {k : Take} {s v : State} {cmd : Cmd}
    (hi : exec i s = happens i k.t (·.onDev (runSlot op row bad areas run k)) s) (hwf : i.wf = true) (hv : v = s.tick k.t) (ha : Accepted k op v cmd)
    (hsame : areas (v.ready cmd) cmd = areas (v.dev.takeCmd cmd) cmd) (hareas : AreasOk v cmd (areas (v.dev.takeCmd cmd) cmd)) (hrow : row cmd = true)
    (hbad : bad v.clk (v.dev.takeCmd cmd) cmd = false) :
    exec i s = .next (v.ran cmd (run v.clk (v.ready cmd) cmd)) := by
  have hrun : runSlot op row bad areas run k v.clk v.dev = (run v.clk (v.ready cmd) cmd).showRunning cmd.ref :=
    runSlot_accepted ha hrow hbad (fun a h => (hareas a h).1) (fun a h => (hareas a (hsame ▸ h)).2)
  exact exec_onDev hi hwf hv hrun

theorem ready_modelLoadAreas (v : State) (cmd : Cmd) : modelLoadAreas (v.ready cmd) cmd = modelLoadAreas (v.dev.takeCmd cmd) cmd := by
  simp only [modelLoadAreas, ready_plat]; rfl

theorem ready_modelId? (v : State) (cmd : Cmd) (id : Nat) : (v.ready cmd).modelId? id = v.dev.modelId? id := by
  simp only [Dev.modelId?, ready_mdl]

theorem ready_modelRunAreas (v : State) (cmd : Cmd) : modelRunAreas (v.ready cmd) cmd = modelRunAreas (v.dev.takeCmd cmd) cmd := by
  simp only [modelRunAreas, ready_modelId?]; rfl

theorem exec_modelLoad {s v : State} {k : Take} {cmd : Cmd} {held : Option (List Byte)} (hv : v = s.tick k.t) (ha : Accepted k 0x0600 v cmd)
    (hareas : AreasOk v cmd (modelLoadAreas (v.dev.takeCmd cmd) cmd)) (hbad : modelLoadBad held v.clk (v.dev.takeCmd cmd) cmd = false) :
    exec (.modelLoad k held) s = .next (v.ran cmd (modelLoadRun held v.clk (v.ready cmd) cmd)) :=
  exec_slot_ownAreas (areas := modelLoadAreas) rfl rfl hv ha (ready_modelLoadAreas v cmd) hareas rfl hbad

/-! ### A new image -/

section Load
variable {c : Clock} {d : Dev} {cmd : Cmd} {held : Option (List Byte)} {m : Model}

/-- The extents of a model's stores on flash are made and written (R215). -/
def writeStores (d : Dev) (m : Model) : Dev :=
  let d2 := if m.flashLen = 0 then d else d.writeImage (weightKey m.uid) m.flashLen (m.tier = .flash)
  if m.flashEmbed = 0 then d2 else d2.writeImage (embedKey m.uid) m.flashEmbed false

/-- A model joins those that are loading, and the next one has another number. -/
def joinLoading (d : Dev) (r : Ref) (m : Model) : Dev :=
  { d with mdl := { d.mdl with nextUid := m.uid + 1, loading := d.mdl.loading ++ [(r, m)] } }

/-- The MODEL_IDs taken, by models loaded or loading (R217). -/
def modelIds (d : Dev) : List Nat := (d.mdl.models.map (·.id) ++ d.mdl.loading.map fun x => x.2.id).dedup

/-- Once an image has windows, a MODEL_ID and flash, the frames of its stores decide (R215, R220, R284). -/
theorem modelLoadRun_image (c : Clock) (hlen : cmd.f 0x50 8 ≠ 0) (hnew : d.newModel cmd held = some m)
    (hwin : d.windows (cmd.f 0x40 1) + m.windowMib ≤ Config.windowMib)
    (hids : (modelIds d).contains (cmd.f 0x40 1) = true ∨ (modelIds d).length < Config.maxModels)
    (hflash : m.flashLen + m.flashEmbed ≠ 0 → d.flash.readOnly = false ∧ d.flash.format = none ∧ d.imageRoom m = true) :
    modelLoadRun held c d cmd =
      (d.pinModel m).elim (d.refuse cmd.ref stBusy) fun d1 => (joinLoading (writeStores d1 m) cmd.ref m).ackModels c := by
  have hroom : (decide (Config.windowMib < d.windows (cmd.f 0x40 1) + m.windowMib) ||
      (!((modelIds d).contains (cmd.f 0x40 1)) && decide (Config.maxModels ≤ (modelIds d).length))) = false := by
    rw [decide_eq_false (Nat.not_lt.mpr hwin), Bool.false_or]
    rcases hids with hid | hfree
    · rw [hid]; rfl
    · rw [decide_eq_false (Nat.not_le.mpr hfree), Bool.and_false]
  have hstores : (m.flashLen + m.flashEmbed != 0 && d.flash.readOnly) = false ∧
      (!(m.flashLen + m.flashEmbed != 0 && (d.flash.format.isSome || !(d.imageRoom m)))) = true := by
    by_cases hnone : m.flashLen + m.flashEmbed = 0
    · simp [hnone]
    · simp [hflash hnone]
  obtain ⟨hwritable, hextents⟩ := hstores
  unfold modelIds at hroom
  simp only [modelLoadRun, hlen, hnew, hroom, hwritable, hextents, if_false, Bool.false_eq_true]
  cases d.pinModel m <;> rfl

/-! ### An unload -/

/-- An unload passes the command's own checks whatever the model. -/
theorem modelLoadBad_unload (held : Option (List Byte)) (c : Clock) (d : Dev) (hlen : cmd.f 0x50 8 = 0) (hid : cmd.f 0x40 1 ≤ 63) :
    modelLoadBad held c d cmd = false := by
  simp only [modelLoadBad, hlen, if_true, Bool.or_false, decide_eq_false_iff_not, gt_iff_lt, Nat.not_lt, hid]

theorem modelLoadAreas_unload (d : Dev) (hlen : cmd.f 0x50 8 = 0) : modelLoadAreas d cmd = [] := by
  simp only [modelLoadAreas, hlen, decide_true, Bool.true_or, if_true]

theorem exec_modelUnload {s v : State} {k : Take} (hv : v = s.tick k.t) (ha : Accepted k 0x0600 v cmd) (hlen : cmd.f 0x50 8 = 0) (hid : cmd.f 0x40 1 ≤ 63) :
    exec (.modelLoad k held) s = .next (v.ran cmd (modelLoadRun held v.clk (v.ready cmd) cmd)) :=
  exec_modelLoad hv ha (modelLoadAreas_unload _ hlen ▸ fun _ h => absurd h List.not_mem_nil) (modelLoadBad_unload held _ _ hlen hid)

theorem modelLoadRun_unknown (c : Clock) (hlen : cmd.f 0x50 8 = 0) (hm : d.modelId? (cmd.f 0x40 1) = none) :
    modelLoadRun held c d cmd = d.endCmd c cmd.ref stOk 0 0 [] := by
  simp only [modelLoadRun, hlen, hm, if_true]

/-- The model leaves for new runs, and the command waits for its last one (R217). -/
theorem modelLoadRun_unloads (c : Clock) (hlen : cmd.f 0x50 8 = 0) (hm : d.modelId? (cmd.f 0x40 1) = some m) :
    modelLoadRun held c d cmd = { d with mdl := { d.mdl with
      models := d.mdl.models.filter fun x => x.id != cmd.f 0x40 1, olds := d.mdl.olds ++ d.mdl.models.filter fun x => x.id = cmd.f 0x40 1,
      unloads := d.mdl.unloads ++ [(m.uid, cmd.ref)] } } := by
  simp only [modelLoadRun, hlen, hm, if_true]
  rfl

end Load

/-! ### A retired model is freed -/

theorem get?_del_same {α : Type} (m : NMap α) (k : Nat) : NMap.get? (NMap.del m k) k = none := by
  induction m with
  | nil => rfl
  | cons e m ih =>
    unfold NMap.del at ih ⊢
    by_cases hk : e.1 = k
    · simp [hk, ih]
    · simp [NMap.get?, hk, ih]

/-- A key that is not there stays away when another is deleted. -/
theorem get?_del_none {α : Type} {m : NMap α} {j : Nat} (k : Nat) (h : NMap.get? m j = none) : NMap.get? (NMap.del m k) j = none := by
  by_cases hj : j = k
  · rw [hj, get?_del_same]
  · rw [get?_del_other hj, h]

theorem free_region_same (d : Dev) (id : Nat) : NMap.get? (d.free id).mem.regions id = none := by
  unfold Dev.free
  split
  next h => exact h
  · exact get?_del_same _ _

theorem free_region_none {d : Dev} {j : Nat} (id : Nat) (h : NMap.get? d.mem.regions j = none) : NMap.get? (d.free id).mem.regions j = none := by
  unfold Dev.free
  split
  · exact h
  · exact get?_del_none _ h

@[simp] theorem free_mdl (d : Dev) (id : Nat) : (d.free id).mdl = d.mdl := by unfold Dev.free; split <;> rfl
@[simp] theorem freeExtents_mdl (d : Dev) (owner : Nat) : (d.freeExtents owner).mdl = d.mdl := rfl
@[simp] theorem freeExtents_mem (d : Dev) (owner : Nat) : (d.freeExtents owner).mem = d.mem := rfl

/-- A model's regions and extents given back. -/
def freeStores (d : Dev) (uid : Nat) : Dev := (((d.free (modelRegion uid)).free (embedRegion uid)).freeExtents (weightKey uid)).freeExtents (embedKey uid)

@[simp] theorem freeStores_mdl (d : Dev) (uid : Nat) : (freeStores d uid).mdl = d.mdl := by
  simp only [freeStores, freeExtents_mdl, free_mdl]

theorem freeStores_regions (d : Dev) (uid : Nat) :
    NMap.get? (freeStores d uid).mem.regions (modelRegion uid) = none ∧ NMap.get? (freeStores d uid).mem.regions (embedRegion uid) = none := by
  simp only [freeStores, freeExtents_mem]
  exact ⟨free_region_none _ (free_region_same d _), free_region_same _ _⟩

/-- The device once a retired model has left its stores, the pool and the models. -/
def modelFreed (d : Dev) (uid : Nat) : Dev :=
  { freeStores d uid with
    mem := { (freeStores d uid).mem with pool := (freeStores d uid).mem.pool.filter fun f => !([weightKey uid, embedKey uid].contains f.key) },
    mdl := { (freeStores d uid).mdl with
      olds := (freeStores d uid).mdl.olds.filter fun x => x.uid != uid, unloads := (freeStores d uid).mdl.unloads.filter fun x => x.1 != uid } }

/-- Without runs and readers a retired model goes; no unload waits for it (R217). -/
theorem modelImageFree_frees {d : Dev} {uid : Nat} {m : Model} (c : Clock) (hold : (d.mdl.olds.find? fun x => x.uid = uid) = some m)
    (hruns : d.mdl.hasRuns uid = false) (hreaders : d.chain.readers = []) (hunloads : d.mdl.unloads = []) :
    modelImageFree uid c d = modelFreed d uid := by
  have huid : m.uid = uid := by simpa using List.find?_some hold
  simp only [modelImageFree, hold, hruns, hreaders, hunloads, huid, List.any_nil, Bool.or_self, Bool.false_eq_true, if_false, List.filter_nil, List.foldl_nil]
  rfl

theorem modelFreed_olds (d : Dev) (uid : Nat) : ∀ x ∈ (modelFreed d uid).mdl.olds, x.uid ≠ uid := by
  intro x hx
  exact bne_iff_ne.mp (List.mem_filter.mp hx).2

theorem modelFreed_pool (d : Dev) (uid : Nat) : ∀ f ∈ (modelFreed d uid).mem.pool, f.key ≠ weightKey uid ∧ f.key ≠ embedKey uid := by
  intro f hf
  have hkeys := (List.mem_filter.mp hf).2
  simpa only [List.contains_cons, List.contains_nil, Bool.or_false, Bool.not_or, Bool.and_eq_true, Bool.not_eq_true', beq_eq_false_iff_ne] using hkeys

/-! ### model.run -/

/-- A run that the gate lets in is queued with its rows (R218, R234). -/
theorem modelRunRun_queues {c : Clock} {d d1 : Dev} {cmd : Cmd} {m : Model} (hps : d.pwr.ps = 0) (hhold : vgetD d.pwr.hold 0 0 = 0)
    (hm : d.modelId? (cmd.f 0x40 1) = some m)
    (hgate : d.gate c cmd (64 * cmd.f 0x44 4) (cmd.f 0x44 4) (cmd.deadline != 0 && cmd.deadline ≤ c.now) = .inr d1) :
    modelRunRun c d cmd = (d1.noteAreas cmd.ref (modelRunAreas d cmd)).addRun m
      ⟨m.uid, some cmd.ref, none, (d.runRows m cmd).map fun r => r.map (BitVec.ofNat 32), [], d.deadlineOf c cmd⟩ := by
  have hrunning : (d.pwr.ps != 0 || vgetD d.pwr.hold 0 0 != 0) = false := by rw [hps, hhold]; rfl
  simp only [modelRunRun, hrunning, hgate, hm, Bool.false_eq_true, if_false]

/-! ### The statement -/

/-- Settles O38. It holds: the frames of its stores decide what an image that passes the checks comes to, and an unload, a freed model and a queued run each change their own lists. -/
theorem modelLoadsAndRuns : Obligations.ModelLoadsAndRuns := by
  refine ⟨⟨?_, ?_, ?_⟩, ?_⟩
  · intro s v k cmd held m r hv ha hr hareas hbad hlen hnew hwin hids hflash
    subst hr
    have hrun := modelLoadRun_image v.clk hlen hnew hwin (by rwa [modelIds, ready_mdl]) (by rwa [ready_flash])
    rw [exec_modelLoad hv ha hareas hbad, hrun]
    exact ⟨fun d1 hpin => by rw [hpin]; rfl, fun hpin => by rw [hpin]; rfl⟩
  · intro s v k cmd held hv ha hlen hid
    rw [exec_modelUnload hv ha hlen hid]
    refine ⟨fun hm => ?_, fun m hm => ?_⟩
    · rw [modelLoadRun_unknown v.clk hlen (by rwa [ready_modelId?])]
    · rw [modelLoadRun_unloads v.clk hlen (by rwa [ready_modelId?]), ready_mdl]
  · intro s v t uid m hv hold hruns hreaders hunloads
    refine ⟨_, exec_onDev rfl rfl hv (modelImageFree_frees v.clk hold hruns hreaders hunloads), modelFreed_olds _ _, ?_,
      (freeStores_regions _ _).1, (freeStores_regions _ _).2, modelFreed_pool _ _⟩
    simp only [modelFreed, freeStores_mdl]
  · intro s v k cmd m r d1 hv ha hr hareas hbad hps hhold hm hgate
    subst hr
    rw [exec_slot_ownAreas (areas := modelRunAreas) rfl rfl hv ha (ready_modelRunAreas v cmd) hareas rfl hbad,
      modelRunRun_queues (by rwa [ready_pwr]) (by rwa [ready_pwr]) (by rwa [ready_modelId?]) hgate]
    rfl

end Sys2Proof.Proofs

/-! SUPPORT. The end of a command: it writes nothing into a partition but its own result area, and the command is gone. -/

namespace Sys2Proof.Proofs

open Sys2Proof Sys2Proof.Machine Sys2Proof.Laws

/-! ### What a command's end leaves of the partitions -/

/-- A port's partition: its bytes and its poisoned lines. -/
def partOf (d : Dev) (p : Port) : Mem × List Nat := ((d.port p).mem, (d.port p).poison)

theorem partOf_congr {d e : Dev} (h : d.ports = e.ports) (q : Port) : partOf d q = partOf e q := by
  simp only [partOf, Dev.port, h]

theorem partOf_updPort {d : Dev} {p q : Port} {g : HostPort → HostPort} (h : ∀ x, (g x).mem = x.mem ∧ (g x).poison = x.poison) :
    partOf (d.updPort p g) q = partOf d q := by
  unfold partOf
  by_cases hq : q = p
  · rw [hq, port_updPort_same, (h _).1, (h _).2]
  · rw [port_updPort_other g hq]

theorem partOf_setSlotWord (d : Dev) (p : Port) (n : SlotNo) (off x : Nat) (q : Port) : partOf (d.setSlotWord p n off x) q = partOf d q :=
  partOf_updPort fun _ => ⟨rfl, rfl⟩

@[simp] theorem partOf_writeWords (d : Dev) (cmd : Cmd) (status progress flags orig n : Nat) (q : Port) :
    partOf (d.writeWords cmd status progress flags orig n) q = partOf d q := by
  unfold Dev.writeWords
  split
  · rfl
  · rw [partOf_setSlotWord, partOf_setSlotWord]

@[simp] theorem partOf_putEnd (d : Dev) (cmd : Cmd) (status flags orig n : Nat) (q : Port) :
    partOf (d.putEnd cmd status flags orig n) q = partOf d q := by
  refine Eq.trans ?_ (partOf_writeWords d cmd status 0 (flags ||| 1) orig n q)
  unfold Dev.putEnd
  simp only []
  split
  · rfl
  · exact partOf_updPort fun _ => ⟨rfl, rfl⟩

/-- A replayed outcome without a result head writes no result area (R400). -/
theorem partOf_putReplayed {e : Ended} (h : e.head = []) (d : Dev) (cmd : Cmd) (q : Port) : partOf (d.putReplayed cmd e) q = partOf d q := by
  unfold Dev.putReplayed
  rw [partOf_congr (count_ports _ _ _ _), partOf_putEnd, h, List.isEmpty_nil, Bool.or_true, Bool.true_or, if_pos rfl]

theorem partOf_endCmd (d : Dev) (c : Clock) (r : Ref) (status flags n : Nat) (q : Port) : partOf (d.endCmd c r status flags n []) q = partOf d q := by
  unfold Dev.endCmd
  split
  · rfl
  · simp only []
    split
    · exact (foldl_keeps (fun x => partOf x q) (fun x w => partOf_putReplayed rfl x w q) _ _).trans (partOf_putEnd _ _ _ _ _ _ q)
    · exact partOf_putEnd _ _ _ _ _ _ q

/-! ### A command that has ended -/

/-- A command that does not run is not there after the end of another. -/
theorem cmd?_filter_none {d : Dev} {r : Ref} (p : Cmd → Bool) (h : d.cmd? r = none) : (d.cmds.running.filter p).find? (fun x => x.ref = r) = none :=
  List.find?_eq_none.mpr fun x hx => List.find?_eq_none.mp h x (List.mem_of_mem_filter hx)

theorem putEnd_cmd?_none {d : Dev} {r : Ref} (cmd : Cmd) (status flags orig n : Nat) (h : d.cmd? r = none) :
    (d.putEnd cmd status flags orig n).cmd? r = none := by
  rw [Dev.cmd?, putEnd_running]
  exact cmd?_filter_none _ h

theorem putReplayed_cmd?_none {d : Dev} {r : Ref} (cmd : Cmd) (e : Ended) (h : d.cmd? r = none) : (d.putReplayed cmd e).cmd? r = none := by
  unfold Dev.putReplayed
  simp only []
  rw [cmd?_congr (count_cmds _ _ _ _)]
  refine putEnd_cmd?_none cmd _ _ _ _ ?_
  split <;> exact h

/-- A command that ends is gone, with the copies of it that waited (R46, R400). -/
theorem endCmd_cmd?_same (d : Dev) (c : Clock) (r : Ref) (status flags n : Nat) (head : List Byte) : (d.endCmd c r status flags n head).cmd? r = none := by
  unfold Dev.endCmd
  split
  next hnone => exact hnone
  next cmd hcmd =>
    have href : cmd.ref = r := by simpa using List.find?_some hcmd
    have hend : (d.putEnd cmd status flags 0 n).cmd? r = none := by
      rw [Dev.cmd?, putEnd_running, List.find?_eq_none, href]
      intro x hx
      simpa using (List.mem_filter.mp hx).2
    simp only []
    split
    · exact foldl_inv (fun x : Dev => x.cmd? r = none) (fun x w hx => putReplayed_cmd?_none w _ hx) _ _ hend
    · exact hend

end Sys2Proof.Proofs

/-! SUPPORT. Near-bank units: what bank.op makes of its target, and the step of a command's last line in a partition, from the line's bytes to the command's result area. -/

namespace Sys2Proof.Proofs

open Sys2Proof Sys2Proof.Machine Sys2Proof.Laws

/-! ### bank.op -/

section Commands
variable {s v : State} {k : Take} {c : Clock} {d : Dev} {cmd : Cmd}

theorem exec_bankOp (hv : v = s.tick k.t) (ha : Accepted k 0x0700 v cmd) (hareas : AreasOk v cmd (bankAreas v.dev cmd))
    (hbad : bankOpBad v.clk (v.dev.takeCmd cmd) cmd = false) : exec (.bankOp k) s = .next (v.ran cmd (bankOpRun v.clk (v.ready cmd) cmd)) :=
  exec_slot_areas (areas := bankAreas) rfl rfl hv ha (fun _ => rfl) hareas rfl hbad

/-- In PS2 only ROWS count as updates that are turned away (R165, R259). -/
theorem exec_bankOp_turned (hv : v = s.tick k.t) (ht : TurnedAway k 0x0700 v cmd) (hareas : AreasOk v cmd (bankAreas v.dev cmd))
    (hbad : bankOpBad v.clk (v.dev.takeCmd cmd) cmd = false) :
    exec (.bankOp k) s = .next { v with dev := ((v.ready cmd).refuse cmd.ref stBusy).count 22 0 (if cmd.f 0x40 1 = 1 then 1 else 0) } := by
  have ⟨_, hop, _⟩ := ht
  have hupd : boolNat cmd.isUpdate = if cmd.f 0x40 1 = 1 then 1 else 0 := by simp [Cmd.isUpdate, hop, boolNat]
  have hrun : bankOp k v.clk v.dev = ((v.ready cmd).refuse cmd.ref stBusy).count 22 0 (boolNat cmd.isUpdate) :=
    runSlot_turned (areas := bankAreas) ht rfl hbad fun a h => (hareas a h).1
  exact exec_onDev rfl rfl hv (hupd ▸ hrun)

/-- An extent on stacks that none is held of becomes a job (R238, R250, R463). -/
theorem bankOpRun_extent {x : Nat × Region} (hps : d.pwr.ps < 2) (hrows : (cmd.nbOp 0 0x800).rows = false)
    (hregion : d.nbRegion (cmd.nbOp 0 0x800) cmd.ref.port = some x)
    (hheld : ∀ l ∈ extentLines (cmd.nbOp 0 0x800) x.2, d.heldBit 1 l.stack = false) :
    bankOpRun c d cmd = d.startNb c ⟨0, some cmd.ref, none, cmd.nbOp 0 0x800, cmd.ref.port.val, 0, [], extentLines (cmd.nbOp 0 0x800) x.2,
      (extentLines (cmd.nbOp 0 0x800) x.2).length, 0, [], false, false⟩ := by
  have hps' : ¬ 2 ≤ d.pwr.ps := BitVec.not_le.mpr hps
  have hfree : ((extentLines (cmd.nbOp 0 0x800) x.2).any fun l => d.heldBit 1 l.stack) = false := by simpa using hheld
  simp only [bankOpRun, bankOpExtent, hrows, hregion, ge_iff_le, hps', hfree, decide_false, Bool.or_self, Bool.false_eq_true, if_false]

/-- Rows go to the leaf's lead (R255). -/
theorem bankOpRun_rows (hps : d.pwr.ps < 2) (hrows : (cmd.nbOp 0 0x800).rows = true) :
    bankOpRun c d cmd = d.submit c { d.updCmd .rows cmd (cmd.nbOp 0 0x800).parcel ((List.range (cmd.nbOp 0 0x800).nIdx).map fun i =>
      (⟨d.partReadN cmd.ref.port ((cmd.nbOp 0 0x800).indexAddr + 8 * i) 8, Attr.zero, [], [], 0⟩ : UpdItem)) with nb := some (cmd.nbOp 0 0x800) } := by
  have hps' : ¬ 2 ≤ d.pwr.ps := BitVec.not_le.mpr hps
  simp only [bankOpRun, hrows, ge_iff_le, hps', if_false, if_true, List.map_map]
  rfl

end Commands

/-! ### The lines of a partition -/

/-- A result line has the 64 bytes of its operand, whatever the element type (R240, R244). -/
theorem nbLine_length (p : NbOp) (x : List Byte) (u : Option (List Byte)) : (nbLine p x u).length = 64 := by
  have hsize : nbSize p.ty * (64 / nbSize p.ty) = 64 := by
    unfold nbSize
    split
    · rfl
    · split <;> rfl
  simp only [nbLine, List.length_flatten, List.map_map, Function.comp_def, leBytes_length, List.map_const', List.length_range, List.sum_replicate,
    smul_eq_mul]
  rwa [Nat.mul_comm]

section Lines
variable {c : Clock} {d : Dev} {j : NbJob} {port : Port}

/-- The poisoned lines of a partition stand at its port. -/
theorem poisonOf_partRegion (d : Dev) (port : Port) : d.poisonOf (partRegion port) = (d.port port).poison := by
  have hfind : ((List.finRange 4).find? fun p => partRegion p = partRegion port) = some port := by revert port; decide
  rw [Dev.poisonOf, hfind]

/-- Only an uncorrectable error keeps an operand line from its unit; the partitions and the commands stay (R252, R253). -/
theorem operand_served {e : LineErr} (st region a : Nat) (he : e ≠ .uncorrectable) :
    ∃ d' : Dev, d.operand c st region a e = (true, d') ∧ d'.ports = d.ports ∧ d'.cmds = d.cmds := by
  cases e with
  | clean => exact ⟨d, rfl, rfl, rfl⟩
  | corrected => exact ⟨d.count 56 st 1, rfl, count_ports _ _ _ _, count_cmds _ _ _ _⟩
  | uncorrectable => exact absurd rfl he

/-- The result that a line of a partition takes without U: none where the line is poisoned (R245, R252). -/
def plainResult (d : Dev) (op : NbOp) (port : Port) (line : Nat) : Option (List Byte) :=
  if (d.port port).poison.contains line then none else some (nbLine op (d.partRead port (64 * line) 64) none)

/-- The step of a partition's line without U writes its result. -/
theorem stepExtent_partition {r : Region} {l : NbLine} {e u : LineErr} (st : Nat) (hregion : j.op.region = 0) (hu : j.op.u = 0)
    (hport : j.port = port.val) (hr : NMap.get? d.mem.regions (partRegion port) = some r) (he : e ≠ .uncorrectable) :
    ∃ d' : Dev, (d.stepExtent c st j l e u).2 = d'.setLine j.op port (64 * l.line) (plainResult d j.op port l.line) ∧ d'.ports = d.ports ∧ d'.cmds = d.cmds := by
  obtain ⟨d', hoperand, hports, hcmds⟩ := operand_served (c := c) (d := d) st (partRegion port) (64 * l.line) he
  refine ⟨d', ?_, hports, hcmds⟩
  have hpo : portOf j.port = port := by simp [portOf, hport]
  have hplace : d.nbRegion j.op port = some (partRegion port, r) := by simp only [Dev.nbRegion, hregion, if_true, hr, Option.map_some]
  have hline : d.lineOf j.op port (64 * l.line) = (d.partRead port (64 * l.line) 64, (d.port port).poison.contains l.line) := by
    simp [Dev.lineOf, hregion, poisonOf_partRegion]
  simp only [Dev.stepExtent, hplace, hpo, hu, OfNat.zero_ne_ofNat, zero_ne_one, nbBroadcast, hoperand, hline, if_false, Option.map_none, Bool.not_true, Bool.or_false, Bool.false_or]
  rfl

theorem partOf_setLine_same {op : NbOp} (hregion : op.region = 0) (a : Nat) (bs : Option (List Byte)) :
    partOf (d.setLine op port a bs) port = putLine (d.port port).mem (d.port port).poison a bs := by
  simp only [Dev.setLine, hregion, if_true, partOf, port_updPort_same]

theorem partOf_setLine_other {op : NbOp} {q : Port} (hregion : op.region = 0) (hq : q ≠ port) (a : Nat) (bs : Option (List Byte)) :
    partOf (d.setLine op port a bs) q = partOf d q := by
  simp only [Dev.setLine, hregion, if_true, partOf, port_updPort_other _ hq]

@[simp] theorem setLine_cmds (d : Dev) (op : NbOp) (a : Nat) (bs : Option (List Byte)) : (d.setLine op port a bs).cmds = d.cmds := by
  unfold Dev.setLine
  split <;> rfl

end Lines

/-- A line written whole reads as its bytes, and every other byte as before. -/
theorem rd_putLine_some {m : Mem} {poison : List Nat} {bs : List Byte} (hw : Mem.wf m = true) (hlen : bs.length = 64) (line a : Nat) :
    Mem.rd (putLine m poison (64 * line) (some bs)).1 a = if 64 * line ≤ a ∧ a < 64 * line + 64 then bs.getD (a - 64 * line) 0 else Mem.rd m a := by
  simp only [putLine]
  split
  next h =>
    obtain ⟨i, rfl⟩ := Nat.exists_eq_add_of_le h.1
    have hi : i < bs.length := by omega
    rw [rd_wrs_in hw hi, Nat.add_sub_cancel_left, List.getD_eq_getElem _ _ hi]
  next h => exact rd_wrs_other (by omega)

/-- A line that takes its plain result is as poisoned afterwards as it was, and is written only where it was not poisoned (R245, R252). -/
theorem putLine_plainResult {d : Dev} {op : NbOp} {port : Port} {line : Nat} (hw : Mem.wf (d.port port).mem = true) :
    let x := putLine (d.port port).mem (d.port port).poison (64 * line) (plainResult d op port line)
    (∀ a, Mem.rd x.1 a = if (d.port port).poison.contains line = false ∧ 64 * line ≤ a ∧ a < 64 * line + 64 then
        (nbLine op (d.partRead port (64 * line) 64) none).getD (a - 64 * line) 0 else Mem.rd (d.port port).mem a) ∧
      x.2 = (d.port port).poison := by
  have hdiv : 64 * line / 64 = line := by omega
  rcases hbad : (d.port port).poison.contains line with _ | _
  · have hout : ∀ y ∈ (d.port port).poison, (y != line) = true := fun y hy => bne_iff_ne.mpr fun h => by simp [← h, hy] at hbad
    simp only [plainResult, hbad, Bool.false_eq_true, if_false, true_and]
    refine ⟨rd_putLine_some hw (nbLine_length _ _ _) line, ?_⟩
    simp only [putLine, hdiv]
    exact List.filter_eq_self.mpr hout
  · simp only [plainResult, hbad, if_true, putLine, hdiv]
    simp

/-! ### The end of a job -/

section Jobs
variable {c : Clock} {d : Dev} {j : NbJob} {ref : Ref} {cmd : Cmd}

/-- What a job leaves in its command's result area (R254). -/
def jobResult (j : NbJob) (cmd : Cmd) : List Byte := leBytes 8 j.poison.length ++ ((j.poison.take ((cmd.resultLen - 8) / 8)).map (leBytes 8)).flatten

theorem jobResult_length (h : 8 ≤ cmd.resultLen) : (jobResult j cmd).length ≤ cmd.resultLen := by
  simp only [jobResult, List.length_append, leBytes_length, List.length_flatten, List.map_map, Function.comp_def, List.map_const', List.length_take,
    List.sum_replicate, smul_eq_mul]
  omega

/-- The device once a job and its tasks have left. -/
def withoutJob (d : Dev) (j : NbJob) : Dev :=
  { d with nb := { d.nb with
      jobs := d.nb.jobs.filter fun x => x.id != j.id, queues := d.nb.queues.map fun (q : List NbTask) => q.filter fun t => t.job != j.id,
      held := d.nb.held.map fun (q : List NbTask) => q.filter fun t => t.job != j.id } }

/-- A job of a command of this node ends that command (R254). -/
theorem finishJob_ends (href : j.ref = some ref) (hcmd : d.cmd? ref = some cmd) :
    d.finishJob c j = ((withoutJob d j).result cmd 0 (jobResult j cmd)).endCmd c ref
      (if j.stopped then stDeadline else if !j.poison.isEmpty then stPoison else stOk) 0 j.done [] := by
  have hcmd' : (withoutJob d j).cmd? ref = some cmd := hcmd
  unfold withoutJob at hcmd'
  simp only [Dev.finishJob, href, hcmd']
  rfl

theorem finishJob_cmd?_none (href : j.ref = some ref) (hcmd : d.cmd? ref = some cmd) : (d.finishJob c j).cmd? ref = none := by
  rw [finishJob_ends href hcmd, endCmd_cmd?_same]

/-- A job's end leaves the partitions what its command's result makes of them. -/
theorem partOf_finishJob (href : j.ref = some ref) (hcmd : d.cmd? ref = some cmd) (q : Port) :
    partOf (d.finishJob c j) q = partOf (d.result cmd 0 (jobResult j cmd)) q := by
  rw [finishJob_ends href hcmd, partOf_endCmd]
  refine partOf_congr ?_ q
  unfold Dev.result
  split <;> rfl

theorem partOf_result_other {off : Nat} {bs : List Byte} {q : Port} (hq : q ≠ cmd.ref.port) : partOf (d.result cmd off bs) q = partOf d q := by
  unfold Dev.result
  split
  · rfl
  · simp only [partOf, Dev.partWrite, port_updPort_other _ hq]

/-- Bytes and lines outside the result area of a command stay as they are. -/
theorem result_outside {bs : List Byte} (hlen : bs.length ≤ cmd.resultLen) :
    (∀ a, a < cmd.resultAddr ∨ cmd.resultAddr + cmd.resultLen ≤ a →
        Mem.rd (partOf (d.result cmd 0 bs) cmd.ref.port).1 a = Mem.rd (partOf d cmd.ref.port).1 a) ∧
      (∀ l, 64 * l + 64 ≤ cmd.resultAddr ∨ cmd.resultAddr + cmd.resultLen ≤ 64 * l →
        (l ∈ (partOf (d.result cmd 0 bs) cmd.ref.port).2 ↔ l ∈ (partOf d cmd.ref.port).2)) := by
  unfold Dev.result
  split
  · exact ⟨fun _ _ => rfl, fun _ _ => Iff.rfl⟩
  · simp only [partOf, Dev.partWrite, port_updPort_same, Nat.add_zero]
    refine ⟨fun a h => rd_wrs_other (by omega), fun l h => ?_⟩
    have hkept : (!(decide (cmd.resultAddr ≤ l * 64) && decide (l * 64 + 64 ≤ cmd.resultAddr + bs.length))) = true := by
      simp only [Bool.not_eq_true', Bool.and_eq_false_iff, decide_eq_false_iff_not]
      omega
    rw [unpoison, List.mem_filter, hkept, and_iff_left rfl]

end Jobs

/-! ### A line step -/

section Steps
variable {c : Clock} {d : Dev} {j : NbJob}

/-- A task moves between the stacks' queues and easements only. -/
theorem moveTask_eq (d : Dev) (st : StackNo) (t : NbTask) (j : NbJob) : d.moveTask st t j = { d with nb := (d.moveTask st t j).nb } := by
  unfold Dev.moveTask
  simp only []
  split
  · split
    · rfl
    · split <;> rfl
  · split
    · rfl
    · split <;> rfl

@[simp] theorem moveTask_ports (d : Dev) (st : StackNo) (t : NbTask) (j : NbJob) : (d.moveTask st t j).ports = d.ports := by rw [moveTask_eq]
@[simp] theorem moveTask_cmds (d : Dev) (st : StackNo) (t : NbTask) (j : NbJob) : (d.moveTask st t j).cmds = d.cmds := by rw [moveTask_eq]

/-- The stack's one easement is held by the unit of an extent's last line, in the partition of the command's port, before DEADLINE and without U. -/
structure LastLine (c : Clock) (d : Dev) (st : StackNo) (unit line : Nat) (task : NbTask) (j : NbJob) (cmd : Cmd) : Prop where
  held : d.nb.held[st] = [task]
  ofUnit : task.unit = unit
  job : d.job? task.job = some j
  early : j.late c = false
  extent : j.op.rows = false
  unfenced : j.op.fenced = false
  plain : j.op.u = 0
  inPartition : j.op.region = 0
  atPort : j.port = cmd.ref.port.val
  ofCmd : j.ref = some cmd.ref
  running : d.cmd? cmd.ref = some cmd
  area : 8 ≤ cmd.resultLen
  todo : j.todo = [⟨st.val, unit, 0, 0, line⟩]
  partition : ∃ r, NMap.get? d.mem.regions (partRegion cmd.ref.port) = some r

variable {st : StackNo} {unit line : Nat} {task : NbTask} {cmd : Cmd}

/-- With its last line stepped a job ends (R244, R254). -/
theorem lineStep_finishes (e u : LineErr) (h : LastLine c d st unit line task j cmd) :
    ∃ (x : Dev) (k : NbJob), lineStep st unit e u c d = x.finishJob c k ∧ k.ref = some cmd.ref ∧
      x.ports = (d.stepExtent c st.val j ⟨st.val, unit, 0, 0, line⟩ e u).2.ports ∧
      x.cmds = (d.stepExtent c st.val j ⟨st.val, unit, 0, 0, line⟩ e u).2.cmds := by
  have hfind : (d.nb.held[st].find? fun t => t.unit = unit) = some task := by simp [h.held, h.ofUnit]
  have hnext : j.nextLine st.val unit = some ⟨st.val, unit, 0, 0, line⟩ := by simp [NbJob.nextLine, h.unfenced, h.todo]
  have hleft : (j.todo.filter fun y => y != ⟨st.val, unit, 0, 0, line⟩) = [] := by simp [h.todo]
  simp only [lineStep, hfind, h.job, h.early, hnext, h.extent, hleft, Bool.false_eq_true, if_false, List.isEmpty_nil, if_true]
  refine ⟨_, _, rfl, h.ofCmd, ?_, ?_⟩
  · simp only [moveTask_ports, count_ports, fresh_ports]
  · simp only [moveTask_cmds, count_cmds, fresh_cmds]

/-- What the step leaves: the command gone, the other partitions as they were, and in its own the line's plain result with the command's result area written after it. -/
theorem lineStep_last {e : LineErr} (u : LineErr) (he : e ≠ .uncorrectable) (h : LastLine c d st unit line task j cmd) :
    (lineStep st unit e u c d).cmd? cmd.ref = none ∧ (∀ q, q ≠ cmd.ref.port → partOf (lineStep st unit e u c d) q = partOf d q) ∧
      ∃ (x : Dev) (k : NbJob), partOf (lineStep st unit e u c d) cmd.ref.port = partOf (x.result cmd 0 (jobResult k cmd)) cmd.ref.port ∧
        partOf x cmd.ref.port =
          putLine (d.port cmd.ref.port).mem (d.port cmd.ref.port).poison (64 * line) (plainResult d j.op cmd.ref.port line) := by
  obtain ⟨r, hr⟩ := h.partition
  obtain ⟨x, k, hstep, href, hports, hcmds⟩ := lineStep_finishes e u h
  obtain ⟨d', hset, hports', hcmds'⟩ := stepExtent_partition (c := c) (l := ⟨st.val, unit, 0, 0, line⟩) (u := u) st.val h.inPartition h.plain h.atPort hr he
  rw [hset] at hports hcmds
  have hcmd : x.cmd? cmd.ref = some cmd := by rw [cmd?_congr (hcmds.trans ((setLine_cmds _ _ _ _).trans hcmds')), h.running]
  have hend := partOf_finishJob (c := c) href hcmd
  have hplace : d'.port cmd.ref.port = d.port cmd.ref.port := by rw [Dev.port, hports']; rfl
  refine ⟨?_, fun q hq => ?_, x, k, ?_, ?_⟩
  · rw [hstep, finishJob_cmd?_none href hcmd]
  · rw [hstep, hend, partOf_result_other hq, partOf_congr hports, partOf_setLine_other h.inPartition hq, partOf_congr hports']
  · rw [hstep, hend]
  · rw [partOf_congr hports, partOf_setLine_same h.inPartition, hplace]

end Steps

/-! ### The statement -/

/-- Settles O40. It holds: the queued forms are the branches of bank.op, and the last line's step writes its plain result, after which the job's end writes its command's result area. -/
theorem bankOps : Obligations.BankOps := by
  refine ⟨⟨?_, ?_⟩, ?_⟩
  · intro s v k cmd hv ht hareas hbad _
    exact exec_bankOp_turned hv ht hareas hbad
  · intro s v k cmd r p hv ha hr hp hareas hbad hps
    subst hr hp
    rw [exec_bankOp hv ha hareas hbad]
    refine ⟨fun x hrows hregion hheld => ?_, fun hrows => ?_⟩
    · rw [bankOpRun_extent (by rwa [ready_pwr]) hrows hregion hheld]
    · rw [bankOpRun_rows (by rwa [ready_pwr]) hrows]
  · intro s v t st unit line e task j r port ref cmd hv hunits hheld hunit hj hlate hrows hfenced hu hregion hport href hcmd hcport hlen htodo hr he hw bad bytes
    subst hcport
    obtain rfl : cmd.ref = ref := by simpa using List.find?_some hcmd
    have hlast : LastLine v.clk v.dev st unit line task j cmd :=
      ⟨hheld, hunit, hj, hlate, hrows, hfenced, hu, hregion, hport, href, hcmd, hlen, htodo, r, hr⟩
    obtain ⟨hgone, hothers, x, k, hend, hpart⟩ := lineStep_last .clean he hlast
    obtain ⟨hbytes, hpoison⟩ := putLine_plainResult (op := j.op) (line := line) hw
    obtain ⟨hrd, hlines⟩ := result_outside (d := x) (jobResult_length (j := k) hlen)
    have hwf : (Instr.lineStep t st unit e .clean).wf = true := decide_eq_true hunits
    refine ⟨_, exec_onDev rfl hwf hv rfl, hgone, fun q hq => congrArg Prod.fst (hothers q hq), fun a ha => ?_, fun l hl => ?_⟩
    · calc Mem.rd (partOf (lineStep st unit e .clean v.clk v.dev) cmd.ref.port).1 a = Mem.rd (partOf x cmd.ref.port).1 a := by rw [hend, hrd a ha]
        _ = _ := by rw [hpart, hbytes a]
    · calc l ∈ (partOf (lineStep st unit e .clean v.clk v.dev) cmd.ref.port).2 ↔ l ∈ (partOf x cmd.ref.port).2 := by rw [hend, hlines l hl]
        _ ↔ _ := by rw [hpart, hpoison]

end Sys2Proof.Proofs

/-! SUPPORT. Easements: the task that a free one goes to, and what a station's start makes of the settings that wait for it. -/

namespace Sys2Proof.Proofs

open Sys2Proof Sys2Proof.Machine Sys2Proof.Laws

/-! ### A grant -/

section Grants
variable {c : Clock} {d : Dev} {st : StackNo}

theorem easementGrant_full (h : d.easeLimit st.val ≤ d.nb.held[st].length) : easementGrant st c d = d := by
  simp only [easementGrant, ge_iff_le, h, decide_true, Bool.true_or, if_true]

/-- A queued task may start: its unit holds no easement, and its command waits for no earlier one (R247, R250, R255). -/
def mayStart (d : Dev) (st : StackNo) (t : NbTask) : Bool :=
  !(d.nb.held[st].any fun h => h.unit = t.unit) && (match d.job? t.job with | some j => !(d.nbBlocked j) | none => false)

theorem mayStart_waits {t : NbTask} (h : (∃ x ∈ d.nb.held[st], x.unit = t.unit) ∨ ∀ j, d.job? t.job = some j → d.nbBlocked j = true) :
    mayStart d st t = false := by
  rcases h with hunit | hturn
  · have hany : (d.nb.held[st].any fun x => x.unit = t.unit) = true := List.any_eq_true.mpr (by simpa using hunit)
    rw [mayStart, hany]
    rfl
  · rcases hj : d.job? t.job with _ | j
    · simp only [mayStart, hj, Bool.and_false]
    · simp only [mayStart, hj, hturn j hj, Bool.not_true, Bool.and_false]

theorem mayStart_starts {t : NbTask} {j : NbJob} (hunit : ∀ x ∈ d.nb.held[st], x.unit ≠ t.unit) (hj : d.job? t.job = some j)
    (hturn : d.nbBlocked j = false) : mayStart d st t = true := by
  have hany : (d.nb.held[st].any fun x => x.unit = t.unit) = false := List.any_eq_false.mpr (by simpa using hunit)
  simp only [mayStart, hany, hj, hturn, Bool.not_false, Bool.and_self]

theorem findIdx?_first {α : Type} {p : α → Bool} {pre rest : List α} {x : α} (hpre : ∀ y ∈ pre, p y = false) (hx : p x = true) :
    (pre ++ x :: rest).findIdx? p = some pre.length := by
  have hnone : pre.findIdx? p = none := List.findIdx?_eq_none_iff.mpr hpre
  rw [List.findIdx?_append, hnone, List.findIdx?_cons, hx]
  simp

/-- The easement goes to the first queued task that may start, which leaves the queue (R250). -/
theorem easementGrant_first {task : NbTask} {pre rest : List NbTask} (hfree : d.nb.held[st].length < d.easeLimit st.val) (hpf : d.flash.pf = .idle)
    (hqueue : d.nb.queues[st] = pre ++ task :: rest) (hpre : ∀ x ∈ pre, mayStart d st x = false) (htask : mayStart d st task = true) :
    easementGrant st c d = { d with nb := { d.nb with
      queues := d.nb.queues.set st.val (pre ++ rest), held := d.nb.held.set st.val (d.nb.held[st] ++ [{ task with steps := 0 }]) } } := by
  have hopen : (decide (d.easeLimit st.val ≤ d.nb.held[st].length) || d.flash.pf != .idle) = false := by
    rw [decide_eq_false (Nat.not_le.mpr hfree), hpf]
    rfl
  have hfirst : d.nb.queues[st].findIdx? (mayStart d st) = some pre.length := hqueue ▸ findIdx?_first hpre htask
  have hget : d.nb.queues[st][pre.length]? = some task := by rw [hqueue]; simp
  have herase : d.nb.queues[st].eraseIdx pre.length = pre ++ rest := by rw [hqueue]; simp [List.eraseIdx_append_of_length_le]
  simp only [easementGrant, ge_iff_le, hopen, Bool.false_eq_true, if_false]
  split
  next hnone => exact absurd (hnone.symm.trans hfirst) nofun
  next i hi =>
    obtain rfl : i = pre.length := Option.some.inj (hi.symm.trans hfirst)
    simp only [hget, vupd, herase]

end Grants

/-! ### Releases -/

section Releases
variable {d : Dev}

@[simp] theorem releaseOver_easeLimit (d : Dev) (s i : Nat) : (d.releaseOver s).easeLimit i = d.easeLimit i := rfl

/-- A release leaves a stack what its limit allows, and touches no other stack (R250). -/
theorem releaseOver_held (d : Dev) (s : Nat) (i : StackNo) :
    (d.releaseOver s).nb.held[i] = if s = i.val then d.nb.held[i].take (d.easeLimit s) else d.nb.held[i] := by
  unfold Dev.releaseOver vupdN
  by_cases hs : s < 20
  · simp [hs, Vector.getElem_set]
    split <;> simp_all
  · have hne : s ≠ i.val := fun h => hs (h ▸ i.isLt)
    simp [hs, hne]

theorem releaseAll_keeps {α : Type} (g : Dev → α) (h : ∀ (d : Dev) (s : Nat), g (d.releaseOver s) = g d) (d : Dev) :
    g (d.releaseAll false) = g d :=
  foldl_keeps g h _ d

/-- Once a stack's release has run it holds no more than its limit. -/
theorem foldl_releaseOver_within {i : StackNo} {ss : List Nat} (h : i.val ∈ ss ∨ d.nb.held[i].length ≤ d.easeLimit i.val) :
    (ss.foldl Dev.releaseOver d).nb.held[i].length ≤ d.easeLimit i.val := by
  induction ss generalizing d with
  | nil => exact h.resolve_left List.not_mem_nil
  | cons s ss ih =>
    refine ih (d := d.releaseOver s) ?_
    rw [releaseOver_easeLimit, releaseOver_held]
    by_cases hs : s = i.val
    · right
      rw [if_pos hs, hs]
      exact List.length_take_le _ _
    · rw [if_neg hs]
      exact h.imp_left fun hin => (List.mem_cons.mp hin).resolve_left (Ne.symm hs)

theorem releaseAll_within (d : Dev) (i : StackNo) : (d.releaseAll false).nb.held[i].length ≤ (d.releaseAll false).easeLimit i.val := by
  rw [releaseAll_keeps (fun x => x.easeLimit i.val) fun _ _ => rfl]
  exact foldl_releaseOver_within (.inl (List.mem_range.mpr i.isLt))

end Releases

/-! ### Settings -/

section Settings
variable {c : Clock} {d : Dev} {ref : Ref} {cmd : Cmd} {mask : BitVec 20} {cap slice : Nat}

/-- A setting installed: its limit on the stacks of its mask, and its slice (R251). -/
def withEase (d : Dev) (mask : BitVec 20) (cap slice : Nat) : Dev :=
  { d with nb := { d.nb with caps := Vector.ofFn fun (s : Fin 20) => if mask.getLsbD s.val then cap else d.nb.caps[s], slice := slice } }

theorem easementCfgApply_waits (hpend : d.nb.pend = [(ref, mask, cap, slice)]) (hcmd : d.cmd? ref = some cmd)
    (hearly : d.station c ≤ stationOf d.plat.gens cmd.takenAt) : easementCfgApply c d = d := by
  have hdue : d.easeDue c = [] := by simp [Dev.easeDue, hpend, hcmd, hearly]
  simp only [easementCfgApply, hdue, List.isEmpty_nil, if_true]

/-- The one setting that waits, installed, and its command ended. -/
def easeInstalled (c : Clock) (d : Dev) (ref : Ref) (mask : BitVec 20) (cap slice : Nat) : Dev :=
  let e := (withEase d mask cap slice).endCmd c ref stOk 0 0 []
  { e with nb := { e.nb with pend := [] } }

/-- In the next station the one setting that waits is installed and the stacks release what is over their limits (R250, R251). -/
theorem easementCfgApply_installs (hpend : d.nb.pend = [(ref, mask, cap, slice)]) (hcmd : d.cmd? ref = some cmd)
    (hlater : stationOf d.plat.gens cmd.takenAt < d.station c) :
    easementCfgApply c d = (easeInstalled c d ref mask cap slice).releaseAll false := by
  have hdue : d.easeDue c = [(ref, mask, cap, slice)] := by simp [Dev.easeDue, hpend, hcmd, hlater]
  let e := (withEase d mask cap slice).endCmd c ref stOk 0 0 []
  have hleft : (e.nb.pend.filter fun x => !([(ref, mask, cap, slice)].contains x)) = [] := by
    simp only [e, endCmd_nb, withEase, hpend, List.filter_cons, List.filter_nil, List.contains_cons, beq_self_eq_true, Bool.true_or, Bool.not_true,
      Bool.false_eq_true, if_false]
  simp only [easementCfgApply, Dev.applyEase, hdue, List.isEmpty_cons, Bool.false_eq_true, if_false]
  exact congrArg (fun p => ({ e with nb := { e.nb with pend := p } } : Dev).releaseAll false) hleft

end Settings

/-! ### The statement -/

theorem exec_bankEasementCfg {s v : State} {k : Take} {cmd : Cmd} (hv : v = s.tick k.t) (ha : Accepted k 0x0701 v cmd)
    (hbad : bankEasementCfgBad v.clk (v.dev.takeCmd cmd) cmd = false) :
    exec (.bankEasementCfg k) s = .next (v.ran cmd (bankEasementCfgRun v.clk (v.ready cmd) cmd)) :=
  exec_slot rfl rfl hv ha rfl hbad

/-- Settles O41. It holds: the grant takes the first task that may start, and at a station's start the setting is installed before every stack releases what is over its limit. -/
theorem easements : Obligations.Easements := by
  refine ⟨fun s v t st hv => ⟨fun hfull => ?_, ?_⟩, ?_, ?_⟩
  · exact exec_idle rfl rfl hv (easementGrant_full hfull)
  · intro task pre rest j hfree hpf hqueue hpre hunit hj hturn
    exact exec_onDev rfl rfl hv (easementGrant_first hfree hpf hqueue (fun x hx => mayStart_waits (hpre x hx)) (mayStart_starts hunit hj hturn))
  · intro s v k cmd hv ha hmask hcap1 hcap2 hslice1 hslice2
    have hbad : bankEasementCfgBad v.clk (v.dev.takeCmd cmd) cmd = false := by
      simpa [bankEasementCfgBad, inRange, hcap1, hcap2, hslice1, hslice2] using hmask
    rw [exec_bankEasementCfg hv ha hbad, bankEasementCfgRun, ready_nb]
  · intro s v t ref cmd mask cap slice hv hpend hcmd
    refine ⟨fun hearly => exec_idle rfl rfl hv (easementCfgApply_waits hpend hcmd hearly), fun hlater => ?_⟩
    let e := easeInstalled v.clk v.dev ref mask cap slice
    have hnb : e.nb = { (withEase v.dev mask cap slice).nb with pend := [] } := by simp only [e, easeInstalled, endCmd_nb]
    refine ⟨_, exec_onDev rfl rfl hv (easementCfgApply_installs hpend hcmd hlater), ?_, ?_, ?_, fun i => ⟨?_, releaseAll_within e i⟩⟩
    · exact (releaseAll_keeps (·.nb.pend) (fun _ _ => rfl) e).trans (congrArg (·.pend) hnb)
    · exact (releaseAll_keeps (·.nb.slice) (fun _ _ => rfl) e).trans (congrArg (·.slice) hnb)
    · exact (cmd?_congr (releaseAll_keeps (·.cmds) (fun _ _ => rfl) e) ref).trans (endCmd_cmd?_same _ _ _ _ _ _ _)
    · have hcaps := (releaseAll_keeps (·.nb.caps) (fun _ _ => rfl) e).trans (congrArg (·.caps) hnb)
      simp only [e] at hcaps
      simp only [hcaps, withEase, Fin.getElem_fin, Vector.getElem_ofFn]

end Sys2Proof.Proofs

/-! SUPPORT. Frames and stacks that go out of use: what the loss of content leaves of memory's frames, what a retired frame and a failed stack change, and the statement about stack errors. -/

namespace Sys2Proof.Proofs

open Sys2Proof Sys2Proof.Machine Sys2Proof.Laws

/-! ### What the loss of content leaves -/

/-- The frames of memory: the state and the count of retired frames of each stack, the retired frames, the errors noted of frames, and the pool. -/
structure FrameState where
  health : Vector (StackState × Nat) 20
  retired : List (Nat × Nat)
  errs : List (Nat × Nat × Nat)
  pool : List PoolFrame

def stackHealth (k : Stack) : StackState × Nat := (k.state, k.retired)

def frameState (d : Dev) : FrameState := ⟨d.mem.stk.map stackHealth, d.mem.retired, d.mem.errs, d.mem.pool⟩

theorem frameState_congr {d e : Dev} (h : d.mem = e.mem) : frameState d = frameState e := by simp only [frameState, h]

theorem retired_of_frameState {d e : Dev} (h : frameState d = frameState e) : d.mem.retired = e.mem.retired := congrArg FrameState.retired h
theorem errs_of_frameState {d e : Dev} (h : frameState d = frameState e) : d.mem.errs = e.mem.errs := congrArg FrameState.errs h
theorem pool_of_frameState {d e : Dev} (h : frameState d = frameState e) : d.mem.pool = e.mem.pool := congrArg FrameState.pool h

theorem stack_of_frameState {d e : Dev} (h : frameState d = frameState e) (i : StackNo) :
    d.mem.stk[i].state = e.mem.stk[i].state ∧ d.mem.stk[i].retired = e.mem.stk[i].retired := by
  have hi := congrArg (fun x : FrameState => x.health[i]) h
  simpa only [frameState, Fin.getElem_fin, Vector.getElem_map, stackHealth, Prod.mk.injEq] using hi

@[simp] theorem count_frameState (d : Dev) (k i n : Nat) : frameState (d.count k i n) = frameState d := frameState_congr (count_mem d k i n)

@[simp] theorem endCmd_frameState (d : Dev) (c : Clock) (r : Ref) (status flags n : Nat) (head : List Byte) :
    frameState (d.endCmd c r status flags n head) = frameState d := frameState_congr (endCmd_mem d c r status flags n head)

@[simp] theorem putRegion_frameState (d : Dev) (id : Nat) (r : Region) : frameState (d.putRegion id r) = frameState d := rfl

@[simp] theorem poisonLines_frameState (d : Dev) (id : Nat) (lines : List Nat) : frameState (d.poisonLines id lines) = frameState d := by
  unfold Dev.poisonLines
  split
  · rfl
  · split <;> rfl

@[simp] theorem damage_frameState (d : Dev) (c : Clock) (id : Nat) (frames : List Nat) (line : Nat) : frameState (d.damage c id frames line) = frameState d := by
  unfold Dev.damage
  split
  · rfl
  split
  · rfl
  · exact (poisonLines_frameState _ _ _).trans (count_frameState _ _ _ _)

/-- SPARE that a rebuild takes of a stack counts neither as retired nor as a change of its state. -/
theorem spare_frameState (d : Dev) (s : Nat) (b : List Rebuild) :
    frameState { d with mem := { d.mem with stk := vupdN d.mem.stk s fun k => { k with spare := k.spare - 1 }, rebuild := b } } = frameState d :=
  congrArg (fun v => FrameState.mk v d.mem.retired d.mem.errs d.mem.pool)
    (vupdN_map (g := stackHealth) (f := fun k => { k with spare := k.spare - 1 }) (fun _ => rfl) d.mem.stk s)

@[simp] theorem startRebuild_frameState (d : Dev) (id u member : Nat) : frameState (d.startRebuild id u member) = frameState d := by
  unfold Dev.startRebuild
  split
  · rfl
  next r _ =>
    split
    · rfl
    next s _ => exact spare_frameState d s (d.mem.rebuild ++ [⟨r.cls, id, u, member, s, d.mem.spareFrame s, 0⟩])

@[simp] theorem placeRebuilt_frameState (d : Dev) (b : Rebuild) : frameState (d.placeRebuilt b) = frameState d := rfl

@[simp] theorem loseMember_frameState (d : Dev) (c : Clock) (id u member : Nat) : frameState (d.loseMember c id u member) = frameState d := by
  unfold Dev.loseMember
  split
  · rfl
  split
  · rfl
  simp only
  split
  · simp
  · split <;> simp

@[simp] theorem retarget_frameState (d : Dev) (b : Rebuild) : frameState (d.retarget b) = frameState d := by
  unfold Dev.retarget
  split
  · rfl
  · split
    · exact spare_frameState d _ _
    · rfl

theorem failCopy_keeps {α : Type} (g : Dev → α) (hleaf : ∀ (d : Dev) (p : Nat) (f : Leaf → Leaf), g (d.updLeaf p f) = g d)
    (hlog : ∀ (d : Dev) (c : Clock) (p : Nat), g (d.logErr c 2 0 0 2 0 p 1 0) = g d) (d : Dev) (c : Clock) (parcel : Nat) : g (d.failCopy c parcel) = g d := by
  unfold Dev.failCopy
  split
  · rfl
  split
  · rfl
  · exact (hlog _ _ _).trans (hleaf _ _ _)

@[simp] theorem failLostCopies_mem (d : Dev) (c : Clock) : (d.failLostCopies c).mem = d.mem :=
  foldl_keeps (fun x : Dev => x.mem) (fun x (l : Leaf) => failCopy_keeps (·.mem) (fun _ _ _ => rfl) (fun _ _ _ => rfl) x c l.parcel) _ d

@[simp] theorem failLostCopies_nb (d : Dev) (c : Clock) : (d.failLostCopies c).nb = d.nb :=
  foldl_keeps (fun x : Dev => x.nb) (fun x (l : Leaf) => failCopy_keeps (·.nb) (fun _ _ _ => rfl) (fun _ _ _ => rfl) x c l.parcel) _ d

/-! ### A frame retires -/

/-- A frame out of use: it is listed and counted, and the pool has it no more (R272). -/
def withRetired (d : Dev) (s frame : Nat) (pool : Bool) : Dev :=
  { d with mem := { d.mem with retired := d.mem.retired ++ [(s, frame)], stk := vupdN d.mem.stk s fun k => k.retireOne pool,
                               pool := d.mem.pool.filter fun f => f.no != s * Config.allFrames + frame } }

theorem withRetired_stack (d : Dev) (st : StackNo) (frame : Nat) (pool : Bool) :
    (withRetired d st.val frame pool).mem.stk[st].retired = d.mem.stk[st].retired + 1 := by
  simp [withRetired, vupdN, Stack.retireOne]

theorem withRetired_pool {d : Dev} {s frame : Nat} {pool : Bool} {f : PoolFrame} (h : f ∈ (withRetired d s frame pool).mem.pool) :
    f.no ≠ s * Config.allFrames + frame := by
  simpa using (List.mem_filter.mp h).2

theorem retireFrame_again {d : Dev} {s frame : Nat} (h : (s, frame) ∈ d.mem.retired) (c : Clock) : d.retireFrame c s frame = d := by
  simp [Dev.retireFrame, h]

theorem retireFrame_frameState {d : Dev} {s frame : Nat} (h : (s, frame) ∉ d.mem.retired) (c : Clock) :
    ∃ pool, frameState (d.retireFrame c s frame) = frameState (withRetired d s frame pool) := by
  refine ⟨(d.holders s frame).isEmpty && decide (frame < Config.stackFrames), ?_⟩
  have hnew : d.mem.retired.contains (s, frame) = false := by simpa using h
  unfold Dev.retireFrame
  simp only [hnew, Bool.false_eq_true, if_false]
  refine (foldl_keeps frameState (fun x b => retarget_frameState x b) _ _).trans ?_
  refine (foldl_keeps frameState (fun x h => loseMember_frameState x c _ _ _) _ _).trans ?_
  exact count_frameState _ _ _ _

@[simp] theorem retireFrame_errs (d : Dev) (c : Clock) (s frame : Nat) : (d.retireFrame c s frame).mem.errs = d.mem.errs := by
  by_cases h : (s, frame) ∈ d.mem.retired
  · rw [retireFrame_again h]
  · obtain ⟨pool, hstate⟩ := retireFrame_frameState h c
    exact (errs_of_frameState hstate).trans rfl

theorem mem_retired_retireFrame (d : Dev) (c : Clock) (s frame : Nat) (x : Nat × Nat) :
    x ∈ (d.retireFrame c s frame).mem.retired ↔ x ∈ d.mem.retired ∨ x = (s, frame) := by
  by_cases h : (s, frame) ∈ d.mem.retired
  · rw [retireFrame_again h]
    exact ⟨.inl, fun hx => hx.elim id fun he => he ▸ h⟩
  · obtain ⟨pool, hstate⟩ := retireFrame_frameState h c
    rw [retired_of_frameState hstate]
    simp [withRetired]

/-- Frames retired one after another are all listed. -/
theorem mem_retired_foldl_retireFrame (c : Clock) (s : Nat) (fs : List Nat) (d : Dev) (x : Nat × Nat) :
    x ∈ (fs.foldl (fun (y : Dev) f => y.retireFrame c s f) d).mem.retired ↔ x ∈ d.mem.retired ∨ ∃ f ∈ fs, x = (s, f) := by
  induction fs generalizing d with
  | nil => simp
  | cons f fs ih => rw [List.foldl_cons, ih, mem_retired_retireFrame, List.exists_mem_cons_iff, or_assoc]

/-! ### A stack fails -/

/-- A stack out of use: all its frames count as retired and the pool has none of them (R273). -/
def withFailed (d : Dev) (s : Nat) : Dev :=
  { d with mem := { d.mem with stk := vupdN d.mem.stk s fun k => { k with state := .failed, retired := Config.allFrames },
                               pool := d.mem.pool.filter fun f => f.no / Config.allFrames != s } }

theorem withFailed_same (d : Dev) (st : StackNo) :
    (withFailed d st.val).mem.stk[st].state = .failed ∧ (withFailed d st.val).mem.stk[st].retired = Config.allFrames := by
  simp [withFailed, vupdN]

theorem withFailed_other (d : Dev) {st i : StackNo} (h : i ≠ st) : (withFailed d st.val).mem.stk[i] = d.mem.stk[i] := by
  have hne : st.val ≠ i.val := fun he => h (Fin.ext he.symm)
  simp [withFailed, vupdN, hne]

theorem withFailed_pool {d : Dev} {s : Nat} {f : PoolFrame} (h : f ∈ (withFailed d s).mem.pool) : f.no / Config.allFrames ≠ s := by
  simpa using (List.mem_filter.mp h).2

/-- The near-bank units without a stack: its tasks are gone and its untouched lines are no job's any more (R277). -/
def nbWithout (n : NearBank) (s : Nat) : NearBank :=
  { n with queues := vupdN n.queues s fun _ => [], held := vupdN n.held s fun _ => [], jobs := n.jobs.map fun j => j.dropStack s }

theorem nbWithout_stack (n : NearBank) (st : StackNo) : (nbWithout n st.val).queues[st] = [] ∧ (nbWithout n st.val).held[st] = [] := by
  simp [nbWithout, vupdN]

theorem nbWithout_todo {n : NearBank} {s : Nat} {j : NbJob} {l : NbLine} (hj : j ∈ (nbWithout n s).jobs) (hl : l ∈ j.todo) : l.stack ≠ s := by
  obtain ⟨i, -, rfl⟩ := List.mem_map.mp hj
  simpa using (List.mem_filter.mp hl).2

theorem stk_toList (d : Dev) (st : StackNo) : d.mem.stk.toList[st.val]? = some d.mem.stk[st] := by
  rw [Vector.getElem?_toList]
  exact Vector.getElem?_eq_getElem st.isLt

/-- What a stack's failure makes of memory's frames and of the near-bank units. -/
theorem failStack_effect {d : Dev} {st : StackNo} (h : d.mem.stk[st].state ≠ .failed) (c : Clock) :
    frameState (d.failStack c st.val) = frameState (withFailed d st.val) ∧ ∃ n : NearBank, (d.failStack c st.val).nb = nbWithout n st.val := by
  unfold Dev.failStack
  simp only [stk_toList, h, if_false]
  refine ⟨(frameState_congr (failLostCopies_mem _ _)).trans ?_, _, failLostCopies_nb _ _⟩
  refine (foldl_keeps frameState (fun x v => (count_frameState _ _ _ _).trans (endCmd_frameState x c _ _ _ _ _)) _ _).trans ?_
  refine (foldl_keeps frameState (fun x h => loseMember_frameState x c _ _ _) _ _).trans ?_
  refine (foldl_keeps frameState (fun x h => loseMember_frameState x c _ _ _) _ _).trans ?_
  exact foldl_keeps frameState (fun x b => retarget_frameState x b) _ _

theorem failStack_again {d : Dev} {st : StackNo} (h : d.mem.stk[st].state = .failed) (c : Clock) : d.failStack c st.val = d := by
  unfold Dev.failStack
  simp only [stk_toList, h, if_true]

/-- A stack's failure notes no error and retires no frame by its own number. -/
theorem failStack_lists (d : Dev) (c : Clock) (st : StackNo) :
    (d.failStack c st.val).mem.retired = d.mem.retired ∧ (d.failStack c st.val).mem.errs = d.mem.errs := by
  by_cases h : d.mem.stk[st].state = .failed
  · rw [failStack_again h]
    exact ⟨rfl, rfl⟩
  · obtain ⟨hstate, -⟩ := failStack_effect h c
    exact ⟨(retired_of_frameState hstate).trans rfl, (errs_of_frameState hstate).trans rfl⟩

theorem checkStack_lists (d : Dev) (c : Clock) (st : StackNo) :
    (d.checkStack c st.val).mem.retired = d.mem.retired ∧ (d.checkStack c st.val).mem.errs = d.mem.errs := by
  unfold Dev.checkStack
  simp only [stk_toList]
  split
  · exact failStack_lists d c st
  · exact ⟨rfl, rfl⟩

/-- One eighth of the frames may be retired before the stack fails (R273). -/
theorem checkStack_within {d : Dev} {st : StackNo} (h : d.mem.stk[st].retired ≤ Config.allFrames / 8) (c : Clock) : d.checkStack c st.val = d := by
  unfold Dev.checkStack
  simp only [stk_toList, Nat.not_lt.mpr h, decide_false, Bool.and_false, Bool.false_eq_true, if_false]

/-! ### Errors of a frame -/

/-- An error of the frame within the last 24 h is noted (R272). -/
def errorNear (d : Dev) (c : Clock) (s frame : Nat) : Bool := d.mem.errs.any fun e => e.1 = s && e.2.1 = frame && c.now < e.2.2 + dayNs

theorem errorNear_true {d : Dev} {c : Clock} {s frame x : Nat} (h : (s, frame, x) ∈ d.mem.errs) (hday : c.now < x + dayNs) :
    errorNear d c s frame = true :=
  List.any_eq_true.mpr ⟨_, h, by simpa only [decide_true, Bool.true_and, decide_eq_true_eq] using hday⟩

theorem errorNear_false {d : Dev} {c : Clock} {s frame : Nat} (h : ∀ e ∈ d.mem.errs, e.1 = s → e.2.1 = frame → e.2.2 + dayNs ≤ c.now) :
    errorNear d c s frame = false := by
  refine List.any_eq_false.mpr fun e he hnear => ?_
  simp only [Bool.and_eq_true, decide_eq_true_eq] at hnear
  obtain ⟨⟨hs, hframe⟩, hday⟩ := hnear
  exact absurd hday (Nat.not_lt.mpr (h e he hs hframe))

/-- A frame's error, noted and counted. -/
def withError (d : Dev) (c : Clock) (s frame : Nat) : Dev :=
  ({ d with mem := { d.mem with errs := (s, frame, c.now) :: (d.mem.errs.filter fun e => c.now < e.2.2 + dayNs) } } : Dev).count 59 s 1

theorem withError_mem (d : Dev) (c : Clock) (s frame : Nat) :
    (withError d c s frame).mem = { d.mem with errs := (s, frame, c.now) :: (d.mem.errs.filter fun e => c.now < e.2.2 + dayNs) } := count_mem _ _ _ _

/-- The second error within 24 h retires the frame, the first is noted alone (R272). -/
theorem frameError_eq (d : Dev) (c : Clock) (s frame : Nat) : d.frameError c s frame =
    if errorNear d c s frame then (((withError d c s frame).retireFrame c s frame).checkStack c s).failLostCopies c else withError d c s frame := rfl

theorem frameError_errs (d : Dev) (c : Clock) (st : StackNo) (frame : Nat) : (st.val, frame, c.now) ∈ (d.frameError c st.val frame).mem.errs := by
  rw [frameError_eq]
  split
  · rw [failLostCopies_mem, (checkStack_lists _ _ _).2, retireFrame_errs, withError_mem]
    exact List.mem_cons_self
  · rw [withError_mem]
    exact List.mem_cons_self

theorem frameError_first {d : Dev} {c : Clock} {s frame : Nat} (h : errorNear d c s frame = false) :
    (d.frameError c s frame).mem.retired = d.mem.retired := by
  rw [frameError_eq, h, if_neg Bool.false_ne_true, withError_mem]

/-- The frame of a second error goes, and the stack with it only when more than an eighth of its frames are gone (R272, R273). -/
theorem frameError_second {d : Dev} {c : Clock} {st : StackNo} {frame : Nat} (hnear : errorNear d c st.val frame = true)
    (hnew : (st.val, frame) ∉ d.mem.retired) (hroom : d.mem.stk[st].retired < Config.allFrames / 8) :
    ∃ pool, frameState (d.frameError c st.val frame) = frameState (withRetired (withError d c st.val frame) st.val frame pool) := by
  have hmem := withError_mem d c st.val frame
  have hnew' : (st.val, frame) ∉ (withError d c st.val frame).mem.retired := by rw [hmem]; exact hnew
  obtain ⟨pool, hstate⟩ := retireFrame_frameState hnew' c
  refine ⟨pool, ?_⟩
  have hcount : ((withError d c st.val frame).retireFrame c st.val frame).mem.stk[st].retired = d.mem.stk[st].retired + 1 := by
    rw [(stack_of_frameState hstate st).2, withRetired_stack, hmem]
  rw [frameError_eq, hnear, if_pos rfl, checkStack_within (by omega), frameState_congr (failLostCopies_mem _ _), hstate]

/-! ### Scrub -/

/-- A stack once the scrub has passed lines of it (R270). -/
def scrubbed (c : Clock) (d : Dev) (st : StackNo) (lines : List (Nat × LineErr)) : Dev :=
  let e := lines.foldl (Dev.scrubLine c st.val) d
  { e with mem := { e.mem with stk := vupd e.mem.stk st fun k =>
    { k with scrubAt := (lines.foldl (fun m l => max m (l.1 + 1)) k.scrubAt) % (64 * Config.allFrames) } } }

theorem scrub_serving {d : Dev} {st : StackNo} (h : d.mem.stk[st].serving = true) (c : Clock) (pass : ScrubPass) :
    scrub st pass c d = (pass.dead.foldl (fun (x : Dev) b => x.bankFails c st.val b.val) (scrubbed c d st pass.lines)).sweepJobs c := by
  simp only [scrub, h, Bool.not_true, Bool.false_eq_true, if_false, scrubbed]

theorem scrub_line {d : Dev} {st : StackNo} (h : d.mem.stk[st].serving = true) (c : Clock) (l : Nat × LineErr) :
    scrub st ⟨[l], []⟩ c d = (scrubbed c d st [l]).sweepJobs c := by rw [scrub_serving h, List.foldl_nil]

/-- What an uncorrectable line makes of its frame's content moves no frame (R271). -/
theorem scrubBad_frameState (d : Dev) (c : Clock) (s frame k : Nat) :
    ∃ e : Dev, frameState e = frameState d ∧ d.scrubBad c s frame k = e.frameError c s frame := by
  refine ⟨_, foldl_keeps frameState (fun x h => ?_) _ d, rfl⟩
  simp only
  split
  · rfl
  split
  · exact count_frameState _ _ _ _
  split
  · exact count_frameState _ _ _ _
  · exact (poisonLines_frameState _ _ _).trans (count_frameState _ _ _ _)

theorem scrubBad_errs (d : Dev) (c : Clock) (st : StackNo) (frame k : Nat) : (st.val, frame, c.now) ∈ (d.scrubBad c st.val frame k).mem.errs := by
  obtain ⟨e, -, hbad⟩ := scrubBad_frameState d c st.val frame k
  rw [hbad]
  exact frameError_errs e c st frame

theorem scrubBad_first {d : Dev} {c : Clock} {s frame : Nat} (h : errorNear d c s frame = false) (k : Nat) :
    (d.scrubBad c s frame k).mem.retired = d.mem.retired := by
  obtain ⟨e, hstate, hbad⟩ := scrubBad_frameState d c s frame k
  have hfar : errorNear e c s frame = false := by rw [errorNear, errs_of_frameState hstate]; exact h
  rw [hbad, frameError_first hfar, retired_of_frameState hstate]

/-- Every frame under a bank that is reported failed is retired (R272). -/
theorem bankFails_retires (d : Dev) (c : Clock) (st : StackNo) {bank f : Nat} (hf : f ∈ framesOfBank bank) :
    (st.val, f) ∈ (d.bankFails c st.val bank).mem.retired := by
  unfold Dev.bankFails
  rw [failLostCopies_mem, (checkStack_lists _ _ _).1]
  exact (mem_retired_foldl_retireFrame c st.val (framesOfBank bank) d _).mpr (.inr ⟨f, hf, rfl⟩)

theorem scrub_bank {d : Dev} {st : StackNo} (h : d.mem.stk[st].serving = true) (c : Clock) (b : Fin 512) :
    scrub st ⟨[], [b]⟩ c d = ((scrubbed c d st []).bankFails c st.val b.val).sweepJobs c := by
  rw [scrub_serving h, List.foldl_cons, List.foldl_nil]

/-! ### The statement -/

/-- Settles O18. It holds: no step that follows the loss of a frame or a stack moves a frame by itself, so that the lists, the counts and the pool are those that the loss leaves. -/
theorem stackErrors : Obligations.StackErrors := by
  refine ⟨⟨fun s v t st hv => ⟨fun hserves => ?_, fun hidle => ?_⟩, ?_⟩, ?_, ?_⟩
  · exact exec_onDev rfl rfl hv (by simp only [stackLinkLoss, hserves, if_true])
  · exact exec_idle rfl rfl hv (by simp only [stackLinkLoss, hidle, Bool.false_eq_true, if_false])
  · intro d e c st hup he
    subst he
    obtain ⟨hstate, n, hnb⟩ := failStack_effect hup c
    obtain ⟨hfailed, hall⟩ := stack_of_frameState hstate st
    obtain ⟨hqueue, hheld⟩ := nbWithout_stack n st
    refine ⟨hfailed.trans (withFailed_same d st).1, hall.trans (withFailed_same d st).2, fun f hf => ?_, hnb ▸ hqueue, hnb ▸ hheld,
      fun j hj l hl => nbWithout_todo (hnb ▸ hj) hl, fun i hi => ?_⟩
    · exact withFailed_pool (pool_of_frameState hstate ▸ hf)
    · rw [← withFailed_other d hi]
      exact stack_of_frameState hstate i
  · intro s v t st line b hv hserves
    refine ⟨exec_onDev rfl rfl hv (scrub_line hserves _ _), exec_onDev rfl rfl hv (scrub_line hserves _ _), ?_, ?_⟩
    · exact ⟨v.dev.scrubBad v.clk st.val (line / 64) (line % 64), exec_onDev rfl rfl hv (scrub_line hserves _ _), scrubBad_errs _ _ _ _ _,
        fun hfar => scrubBad_first (errorNear_false hfar) _⟩
    · exact ⟨_, exec_onDev rfl rfl hv (scrub_bank hserves v.clk b), fun f hf => bankFails_retires _ v.clk st hf⟩
  · intro d c st frame x _ herr hday hnew hroom
    obtain ⟨pool, hstate⟩ := frameError_second (errorNear_true herr hday) hnew hroom
    refine ⟨?_, ?_, fun f hf => ?_⟩
    · rw [retired_of_frameState hstate]
      exact List.mem_append_right _ List.mem_cons_self
    · rw [(stack_of_frameState hstate st).2, withRetired_stack, withError_mem]
    · exact withRetired_pool (pool_of_frameState hstate ▸ hf)

end Sys2Proof.Proofs

/-! SUPPORT. A host's requests to its own partition: what each makes of the bytes and the poison there and answers, and the statement about them. -/

namespace Sys2Proof.Proofs

open Sys2Proof Sys2Proof.Machine Sys2Proof.Laws

/-! ### Charges and answers -/

@[simp] theorem chargePort_ports (d : Dev) (p : Port) (op : MemOp) : (d.chargePort p op).ports = d.ports := by
  unfold Dev.chargePort
  split
  · rfl
  · show (if op.isRead then d.count 69 p.val 64 else d.count 70 p.val 64).ports = d.ports
    split <;> exact count_ports _ _ _ _

@[simp] theorem chargePort_com (d : Dev) (p : Port) (op : MemOp) : (d.chargePort p op).com = d.com := by
  unfold Dev.chargePort
  split
  · rfl
  · show (if op.isRead then d.count 69 p.val 64 else d.count 70 p.val 64).com = d.com
    split <;> exact count_com _ _ _ _

/-- A request in its port's queue, charged (R294, R295). -/
def entered (d : Dev) (p : Port) (op : MemOp) : Dev := (d.chargePort p op).enterQueue p

theorem entered_com (d : Dev) (p : Port) (op : MemOp) : (entered d p op).com = d.com := chargePort_com d p op

theorem port_chargePort (d : Dev) (p q : Port) (op : MemOp) : (d.chargePort p op).port q = d.port q := by
  simp only [Dev.port, chargePort_ports]

theorem entered_port_other (d : Dev) {p q : Port} (op : MemOp) (h : q ≠ p) : (entered d p op).port q = d.port q := by
  rw [entered, Dev.enterQueue, port_updPort_other _ h, port_chargePort]

theorem entered_port_same (d : Dev) (p : Port) (op : MemOp) : (entered d p op).port p = { d.port p with queue := (d.port p).queue + 1 } := by
  rw [entered, Dev.enterQueue, port_updPort_same, port_chargePort]

section Respond
variable (d : Dev) (p : Port) (op : MemOp) (poison : Bool) (bs : List Byte)

theorem respond_com : (d.respond p op poison bs).com = d.com := by
  unfold Dev.respond
  simp only [updPort_com]
  split
  · exact count_com _ _ _ _
  · rfl

theorem respond_port_other {q : Port} (h : q ≠ p) : (d.respond p op poison bs).port q = d.port q := by
  unfold Dev.respond
  simp only [port_updPort_other _ h]
  split
  · simp only [Dev.port, count_ports]
  · rfl

/-- An answer leaves the partition as it is, and a read's data and poison mark are what it gives (R296). -/
theorem respond_port_same : ((d.respond p op poison bs).port p).mem = (d.port p).mem ∧ ((d.respond p op poison bs).port p).poison = (d.port p).poison ∧
    ((d.respond p op poison bs).port p).memResp = if op.isRead then some (poison, bs) else none := by
  unfold Dev.respond
  simp only [port_updPort_same, and_true]
  split <;> simp only [Dev.port, count_ports, and_self]

end Respond

/-! ### A line of a partition -/

/-- A line written whole is a line no longer poisoned, and no other line is (R271). -/
theorem unpoison_line {dpa : Nat} (h : dpa % 64 = 0) (poison : List Nat) : unpoison poison dpa 64 = poison.filter fun l => l != dpa / 64 := by
  refine List.filter_congr fun l _ => ?_
  rw [Bool.eq_iff_iff]
  simp only [Bool.not_eq_true', Bool.and_eq_false_iff, decide_eq_false_iff_not, bne_iff_ne]
  omega

theorem mergeLine_length (old new : List Byte) (mask : BitVec 64) : (mergeLine old new mask).length = 64 := by simp [mergeLine]

theorem mergeLine_getD (old new : List Byte) (mask : BitVec 64) {i : Nat} (h : i < 64) :
    (mergeLine old new mask).getD i 0 = if mask.getLsbD i then new.getD i 0 else old.getD i 0 := by
  simp [mergeLine, nthD, h]

theorem rds_getD (m : Mem) (a : Nat) {n i : Nat} (h : i < n) : (Mem.rds m a n).getD i 0 = Mem.rd m (a + i) := by
  simp [Mem.rds, h]

/-- A byte after a line was written. -/
theorem rd_wrs_line {m : Mem} (hw : Mem.wf m = true) (dpa : Nat) {bs : List Byte} (h : bs.length = 64) (a : Nat) :
    Mem.rd (Mem.wrs m dpa bs) a = if dpa ≤ a ∧ a < dpa + 64 then bs.getD (a - dpa) 0 else Mem.rd m a := by
  split
  next hin =>
    have hlt : a - dpa < bs.length := by omega
    have hread := rd_wrs_in (a := dpa) hw hlt
    rw [Nat.add_sub_cancel' hin.1] at hread
    rw [hread, List.getD_eq_getElem _ _ hlt]
  next hout => exact rd_wrs_other (by omega)

/-- A byte after a line was written under a mask (R288). -/
theorem rd_wrs_mergeLine {m : Mem} (hw : Mem.wf m = true) (dpa : Nat) (data : List Byte) (mask : BitVec 64) (a : Nat) :
    Mem.rd (Mem.wrs m dpa (mergeLine (Mem.rds m dpa 64) data mask)) a =
      if dpa ≤ a ∧ a < dpa + 64 ∧ mask.getLsbD (a - dpa) = true then data.getD (a - dpa) 0 else Mem.rd m a := by
  rw [rd_wrs_line hw dpa (mergeLine_length _ _ _)]
  by_cases hin : dpa ≤ a ∧ a < dpa + 64
  · have hlt : a - dpa < 64 := by omega
    rw [if_pos hin, mergeLine_getD _ _ _ hlt, rds_getD _ _ hlt, Nat.add_sub_cancel' hin.1]
    simp only [hin, true_and]
  · rw [if_neg hin, if_neg fun h => hin ⟨h.1, h.2.1⟩]

/-! ### A request -/

section Access
variable {c : Clock} {d : Dev} {p : Port} {op : MemOp} {dpa : Nat} {data : List Byte} {mask : BitVec 64}

/-- What a request stores in the partition. -/
def partStored (d : Dev) (p : Port) (op : MemOp) (dpa : Nat) (data : List Byte) (mask : BitVec 64) : Dev :=
  match op with
  | .memWr => d.partWrite p dpa data
  | .memWrPtl => d.updPort p fun h => { h with mem := Mem.wrs h.mem dpa (mergeLine (Mem.rds h.mem dpa 64) data mask) }
  | _ => d

/-- The poison mark and the data that a request to a clean line is answered with (R271). -/
def partAnswer (h : HostPort) (op : MemOp) (dpa : Nat) : Bool × List Byte :=
  if op.isRead then (if h.poison.contains (dpa / 64) then (true, zeroLine) else (false, Mem.rds h.mem dpa 64)) else (false, [])

theorem partAccess_clean : d.partAccess c p op dpa data mask .clean =
    (partStored d p op dpa data mask).respond p op (partAnswer (d.port p) op dpa).1 (partAnswer (d.port p) op dpa).2 := by
  cases op with
  | memWr => rfl
  | memWrPtl => rfl
  | memInv => rfl
  | memRd | memRdData =>
    cases h : (d.port p).poison.contains (dpa / 64) <;>
      simp only [Dev.partAccess, partStored, partAnswer, MemOp.isRead, Dev.partRead, h, reduceCtorEq, decide_true, decide_false, Bool.or_true, Bool.true_or,
        Bool.false_eq_true, if_true, if_false]

theorem partStored_com : (partStored d p op dpa data mask).com = d.com := by cases op <;> rfl

theorem partStored_port_other {q : Port} (h : q ≠ p) : (partStored d p op dpa data mask).port q = d.port q := by
  cases op with
  | memWr | memWrPtl => exact port_updPort_other _ h
  | memInv | memRd | memRdData => rfl

/-- MemWr stores its 64 bytes, MemWrPtl those of its mask, and no other byte changes (R288). -/
theorem partStored_rd (hw : Mem.wf (d.port p).mem = true) (hlen : data.length = if op.isWrite then 64 else 0) (a : Nat) :
    Mem.rd ((partStored d p op dpa data mask).port p).mem a =
      if dpa ≤ a ∧ a < dpa + 64 ∧ (op = .memWr ∨ (op = .memWrPtl ∧ mask.getLsbD (a - dpa) = true)) then data.getD (a - dpa) 0 else Mem.rd (d.port p).mem a := by
  cases op with
  | memWr =>
    simp only [partStored, Dev.partWrite, port_updPort_same, rd_wrs_line hw dpa (by simpa [MemOp.isWrite] using hlen), true_or, and_true]
  | memWrPtl => simp only [partStored, port_updPort_same, rd_wrs_mergeLine hw, reduceCtorEq, false_or, true_and]
  | memInv | memRd | memRdData => simp [partStored]

theorem partStored_poison (hal : dpa % 64 = 0) (hlen : data.length = if op.isWrite then 64 else 0) :
    ((partStored d p op dpa data mask).port p).poison = if op = .memWr then (d.port p).poison.filter fun l => l != dpa / 64 else (d.port p).poison := by
  cases op with
  | memWr =>
    have h64 : data.length = 64 := by simpa [MemOp.isWrite] using hlen
    simp only [partStored, Dev.partWrite, port_updPort_same, h64, unpoison_line hal, if_true]
  | memWrPtl => simp [partStored]
  | memInv | memRd | memRdData => rfl

/-- A request that no shaper, queue, mode, fence or echo window keeps from its partition reaches it (R288, R294, R295). -/
theorem hostMemAccess_part {e : LineErr} (hon : d.portOn p = true) (hphase : d.start.phase = .service) (hps : d.pwr.ps ≠ 2) (hfences : (d.port p).fences = [])
    (hecho : (d.port p).echo = none) (hpeak : (d.shaper (3 + p.val)).peakPasses 64 = true) (hqueue : (d.port p).queue < Config.portQueue) (hin : dpa < d.partLen p) :
    hostMemAccess p op dpa data mask e c d = (entered d p op).partAccess c p op dpa data mask e := by
  have hfull : (!(d.shaper (3 + p.val)).peakPasses 64 || decide (Config.portQueue ≤ (d.port p).queue)) = false := by
    rw [hpeak, decide_eq_false (Nat.not_le.mpr hqueue)]
    rfl
  have hmode : (decide (d.start.phase = .backsight) || decide (d.pwr.ps = 2)) = false := by
    rw [hphase, decide_eq_false hps]
    rfl
  have hlen : (entered d p op).partLen p = d.partLen p := by simp only [Dev.partLen, entered_port_same]
  simp only [hostMemAccess, hon, hfull, hmode, hfences, hecho, List.find?_nil, Bool.not_true, Bool.false_eq_true, if_false]
  exact if_pos (hlen.symm ▸ hin)

end Access

theorem hostMemAccess_wf {op : MemOp} {dpa : Nat} {data : List Byte} (hal : dpa % 64 = 0) (hend : dpa < Config.dpaEnd)
    (hlen : data.length = if op.isWrite then 64 else 0) : memAccessOk op dpa data = true := by
  cases op with
  | memWr | memWrPtl => simpa [memAccessOk, hal, hend, MemOp.isWrite] using hlen
  | memInv | memRd | memRdData => simpa [memAccessOk, hal, hend, MemOp.isWrite] using hlen

/-! ### The statement -/

/-- Settles O14. It holds: such a request is one access to a clean line of the port's partition, which stores first and answers then. -/
theorem partitionAccess : Obligations.PartitionAccess := by
  intro s v t p op dpa data mask hv hon hphase hps hfences hecho hpeak hqueue hal hin hend hw hlen
  have hmem : ((entered v.dev p op).port p).mem = (v.dev.port p).mem := by rw [entered_port_same]
  have hpoison : ((entered v.dev p op).port p).poison = (v.dev.port p).poison := by rw [entered_port_same]
  have hrun := (hostMemAccess_part (c := v.clk) (op := op) (data := data) (mask := mask) (e := .clean) hon hphase hps hfences hecho hpeak hqueue hin).trans partAccess_clean
  obtain ⟨hmem', hpoison', hresp⟩ := respond_port_same (partStored (entered v.dev p op) p op dpa data mask) p op
    (partAnswer ((entered v.dev p op).port p) op dpa).1 (partAnswer ((entered v.dev p op).port p) op dpa).2
  have hkept := hpoison'.trans (partStored_poison hal hlen)
  refine ⟨_, exec_onDev rfl (hostMemAccess_wf hal hend hlen) hv hrun, fun q hq => ?_, ?_, fun a => ?_, fun hop => ?_, fun hop => ?_, fun hop => ?_⟩
  · rw [respond_port_other _ _ _ _ _ hq, partStored_port_other hq, entered_port_other _ _ hq]
  · rw [respond_com, partStored_com, entered_com]
  · rw [hmem', partStored_rd (hmem ▸ hw) hlen, hmem]
  · rw [hkept, if_pos hop, hpoison]
  · rw [hkept, if_neg hop, hpoison]
  · have hread : op.isRead = true := by rcases hop with rfl | rfl <;> rfl
    rw [hresp, hread, if_pos rfl, partAnswer, hread, if_pos rfl, hmem, hpoison]
    simp only [List.contains_iff_mem]

end Sys2Proof.Proofs

/-! SUPPORT. Tier regions: which branch mem.tier_alloc and mem.tier_free take, and the statement about them. -/

namespace Sys2Proof.Proofs

open Sys2Proof Sys2Proof.Machine Sys2Proof.Laws

/-! ### mem.tier_alloc -/

/-- A new tier region's command: the next region ID is counted on, the region's is returned (R264). -/
def tierAllocated (c : Clock) (d : Dev) (cmd : Cmd) (id : Nat) : Dev :=
  (({ d with mem := { d.mem with nextRegion := id + 1 } } : Dev).result cmd 0 (leBytes 8 id)).endCmd c cmd.ref stOk 0 0 []

section Alloc
variable {c : Clock} {d : Dev} {cmd : Cmd} {tier : Tier} {p : Protect} {mask : BitVec 20} {n ext : Nat}

/-- A region with its home on flash has extents and no frames (R284, R323). -/
def flashHome (d : Dev) (id n ext : Nat) (tier : Tier) (p : Protect) (mask : BitVec 20) : Dev :=
  ({ d with mem := { d.mem with regions := NMap.put d.mem.regions id ⟨4096 * n, tier, p, mask, 6, [], [], [], [], .protectedSt, [], []⟩ } } : Dev).addExtents ext (regionKey id)

variable (htier : tierOf (cmd.f 0x40 1) = some tier) (hprot : protectOf (cmd.f 0x41 1) = some p) (hmask : mask = BitVec.ofNat 20 (cmd.f 0x44 4))
  (hn : n = framesOf (cmd.f 0x48 8)) (hext : ext = ceilDiv (cmd.f 0x48 8) Config.extentBytes)
include htier hprot hmask hn

/-- A region of TIER_PIN takes frames if they can be had (R264, R284). -/
theorem memTierAllocRun_pin (hpin : tier = .pin) : memTierAllocRun c d cmd =
    if d.canAlloc p mask n then tierAllocated c (d.alloc d.mem.nextRegion p mask n .pin 6) cmd d.mem.nextRegion else d.refuse cmd.ref stBusy := by
  subst hpin hmask hn
  simp only [memTierAllocRun, htier, hprot, Option.getD_some]
  rfl

include hext

/-- A region with its home on flash takes extents if they can be had (R323, R339). -/
theorem memTierAllocRun_flash (hpin : tier ≠ .pin) (hwrite : d.flash.readOnly = false) : memTierAllocRun c d cmd =
    if d.flash.format.isSome || d.extentRoom < ext then d.refuse cmd.ref stBusy
    else tierAllocated c (flashHome d d.mem.nextRegion n ext tier p mask) cmd d.mem.nextRegion := by
  subst hmask hn hext
  simp only [memTierAllocRun, htier, hprot, Option.getD_some]
  cases tier with
  | pin => exact absurd rfl hpin
  | cache => simp only [hwrite, Bool.false_eq_true, if_false]; rfl
  | flash => simp only [hwrite, Bool.false_eq_true, if_false]; rfl

end Alloc

theorem exec_memTierAlloc {s v : State} {k : Take} {cmd : Cmd} (hv : v = s.tick k.t) (ha : Accepted k 0x0803 v cmd)
    (hbad : memTierAllocBad v.clk (v.dev.takeCmd cmd) cmd = false) :
    exec (.memTierAlloc k) s = .next (v.ran cmd (memTierAllocRun v.clk (v.ready cmd) cmd)) := exec_slot rfl rfl hv ha rfl hbad

theorem ready_extentRoom (v : State) (cmd : Cmd) : (v.ready cmd).extentRoom = v.dev.extentRoom := by
  simp only [Dev.extentRoom, ready_flash]

/-! ### mem.tier_free -/

theorem ready_tierRegion (v : State) (cmd : Cmd) (id : Nat) : (v.ready cmd).tierRegion id = v.dev.tierRegion id := by
  simp only [Dev.tierRegion, ready_mem]

theorem ready_freeWaits (v : State) (cmd : Cmd) (id : Nat) : (v.ready cmd).freeWaits id = v.dev.freeWaits id := by
  simp only [Dev.freeWaits, ready_mem, ready_flash]

theorem memTierFreeBad_false {c : Clock} {d : Dev} {cmd : Cmd} {x : Region} (hregion : d.tierRegion (cmd.f 0x40 8) = some x)
    (hnew : ∀ y ∈ d.mem.freeing, y.1 ≠ cmd.f 0x40 8) : memTierFreeBad c d cmd = false := by
  have hany : (d.mem.freeing.any fun y => y.1 = cmd.f 0x40 8) = false := List.any_eq_false.mpr fun y hy => by simpa using hnew y hy
  simp only [memTierFreeBad, hregion, hany, Option.isNone_some, Bool.or_self]

theorem exec_memTierFree {s v : State} {k : Take} {cmd : Cmd} {x : Region} (hv : v = s.tick k.t) (ha : Accepted k 0x0804 v cmd)
    (hregion : v.dev.tierRegion (cmd.f 0x40 8) = some x) (hnew : ∀ y ∈ v.dev.mem.freeing, y.1 ≠ cmd.f 0x40 8) :
    exec (.memTierFree k) s = .next (v.ran cmd (memTierFreeRun v.clk (v.ready cmd) cmd)) :=
  exec_slot rfl rfl hv ha rfl (memTierFreeBad_false (d := v.dev.takeCmd cmd) hregion hnew)

/-- Frames of the region have still to be written back: flash can be written and one of them is dirty (R283, R284, R339). -/
theorem freeWaits_iff (d : Dev) (id : Nat) :
    d.freeWaits id = true ↔ d.flash.readOnly = false ∧ ∃ f ∈ d.mem.pool, f.key = regionKey id ∧ (f.dirty = true ∨ f.writing = true) := by
  simp [Dev.freeWaits]

theorem freeWaits_false {d : Dev} {id : Nat}
    (h : d.flash.readOnly = true ∨ ∀ f ∈ d.mem.pool, f.key = regionKey id → f.dirty = false ∧ f.writing = false) : d.freeWaits id = false := by
  refine Bool.eq_false_iff.mpr fun hwaits => ?_
  obtain ⟨hwrite, f, hf, hkey, hdirty⟩ := (freeWaits_iff d id).mp hwaits
  rcases h with hro | hclean
  · rw [hro] at hwrite
    exact Bool.noConfusion hwrite
  · obtain ⟨hd, hw⟩ := hclean f hf hkey
    simp [hd, hw] at hdirty

section Free
variable {c : Clock} {d : Dev} {cmd : Cmd} {x : Region} (hregion : d.tierRegion (cmd.f 0x40 8) = some x)
include hregion

theorem memTierFreeRun_frees (h : x.tier = .pin ∨ d.freeWaits (cmd.f 0x40 8) = false) : memTierFreeRun c d cmd = d.finishFree c (cmd.f 0x40 8) cmd.ref := by
  rcases h with h | h <;> simp [memTierFreeRun, hregion, h]

theorem memTierFreeRun_waits (hpin : x.tier ≠ .pin) (h : d.freeWaits (cmd.f 0x40 8) = true) :
    memTierFreeRun c d cmd = { d with mem := { d.mem with freeing := d.mem.freeing ++ [(cmd.f 0x40 8, cmd.ref)] } } := by
  simp [memTierFreeRun, hregion, h, hpin]

end Free

/-! ### The statement -/

/-- Settles O17. It holds: the region's home and the room for it decide what mem.tier_alloc does, and its home and its dirty frames what mem.tier_free does. -/
theorem tierAllocAndFree : Obligations.TierAllocAndFree := by
  constructor
  · intro s v k cmd id n ext tier p mask r hv ha hr hbad hid hn hmask htier hprot hext
    have hnext : r.mem.nextRegion = id := by rw [hr, ready_mem, hid]
    have hflash : r.flash = v.dev.flash := by rw [hr, ready_flash]
    have hextents : r.extentRoom = v.dev.extentRoom := by rw [hr, ready_extentRoom]
    rw [exec_memTierAlloc hv ha hbad, ← hr]
    refine ⟨fun hpin hroom => ?_, fun hpin hroom => ?_, fun hpin hwrite hformat hroom => ?_, fun hpin hwrite hroom => ?_⟩
    · rw [memTierAllocRun_pin htier hprot hmask hn hpin, if_pos hroom, hnext]
      rfl
    · rw [memTierAllocRun_pin htier hprot hmask hn hpin, if_neg (by rw [hroom]; decide)]
    · have hfits : (r.flash.format.isSome || decide (r.extentRoom < ext)) = false := by
        rw [hflash, hformat, hextents, decide_eq_false (Nat.not_lt.mpr hroom)]
        rfl
      rw [memTierAllocRun_flash htier hprot hmask hn hext hpin (hflash ▸ hwrite), hfits, hnext]
      exact ⟨_, rfl, rfl⟩
    · have hfull : (r.flash.format.isSome || decide (r.extentRoom < ext)) = true := by
        rw [hextents, decide_eq_true hroom, Bool.or_true]
      rw [memTierAllocRun_flash htier hprot hmask hn hext hpin (hflash ▸ hwrite), hfull, if_pos rfl]
  · intro s v k cmd id x r d hv ha hr hid hregion hnew hd
    have hready : r.tierRegion id = some x := by rw [hr, ready_tierRegion, hregion]
    have hwaits : r.freeWaits id = v.dev.freeWaits id := by rw [hr, ready_freeWaits]
    rw [hid] at hready hwaits hregion hnew
    rw [exec_memTierFree hv ha hregion hnew, ← hr]
    refine ⟨fun h => ?_, fun hpin hwrite hdirty => ?_⟩
    · have hgoes : x.tier = .pin ∨ r.freeWaits (cmd.f 0x40 8) = false := h.imp_right fun hclean => by
        rw [hwaits, ← hid]
        exact freeWaits_false hclean
      rw [memTierFreeRun_frees hready hgoes, ← hid, hd]
      rfl
    · have hdirty' : r.freeWaits (cmd.f 0x40 8) = true := by
        rw [hwaits, ← hid]
        exact (freeWaits_iff _ _).mpr ⟨hwrite, hdirty⟩
      rw [memTierFreeRun_waits hready hpin hdirty', ← hid]

end Sys2Proof.Proofs

/-! SUPPORT. Rebuilds and pool fills: what a line of the rebuild that goes next does, and the two ways a fill ends; and the statement about them. -/

namespace Sys2Proof.Proofs

open Sys2Proof Sys2Proof.Machine Sys2Proof.Laws

/-! ### A line of a rebuild -/

/-- A rebuilt member is bad no more and lies where it was rebuilt (R274). -/
def rebuiltAt (b : Rebuild) (r : Region) : Region :=
  { r with bad := r.bad.filter fun x => x != (b.frame, b.member),
           moved := ⟨b.frame, b.member, b.dest, b.destFrame⟩ :: r.moved.filter fun x => !(x.unit = b.frame && x.member = b.member) }

section Lines
variable {c : Clock} {d : Dev} {b : Rebuild} {r : Region}

/-- The rebuild goes on: its destination takes new work, or it has begun (R463). -/
theorem rebuildLine_runs (h : d.heldBit 1 b.dest = false ∨ b.line ≠ 0) : (d.heldBit 1 b.dest && decide (b.line = 0)) = false := by
  simpa only [Bool.and_eq_false_iff, decide_eq_false_iff_not] using h

variable (hnext : d.nextRebuild = some b) (hregion : NMap.get? d.mem.regions b.region = some r)
include hnext

theorem rebuildLine_held (hheld : d.heldBit 1 b.dest = true) (hline : b.line = 0) (ok : Bool) : rebuildLine ok c d = d := by
  simp only [rebuildLine, hnext, hheld, hline, decide_true, Bool.and_self, if_true]

include hregion

theorem rebuildLine_line (hruns : d.heldBit 1 b.dest = false ∨ b.line ≠ 0) (hline : b.line + 1 < 64) :
    rebuildLine true c d = { d.count 62 0 64 with mem := { d.mem with rebuild := updIf (fun x => x = b) (fun x => { x with line := x.line + 1 }) d.mem.rebuild } } := by
  simp only [rebuildLine, hnext, hregion, rebuildLine_runs hruns, hline, Bool.false_eq_true, if_false, if_true, count_mem]

/-- The last line of a frame: the member lies at its new place, and the region settles (R273, R274). -/
theorem rebuildLine_last (hruns : d.heldBit 1 b.dest = false ∨ b.line ≠ 0) (hline : 64 ≤ b.line + 1) :
    rebuildLine true c d = { d.count 62 0 64 with mem := { d.mem with
      regions := NMap.upd (NMap.upd d.mem.regions b.region (rebuiltAt b)) b.region fun x => x.settle ((d.mem.rebuild.filter fun x => x != b).any fun x => x.region = b.region),
      rebuild := d.mem.rebuild.filter fun x => x != b } } := by
  simp only [rebuildLine, hnext, hregion, rebuildLine_runs hruns, Nat.not_lt.mpr hline, Bool.false_eq_true, if_false, if_true, Dev.placeRebuilt, count_mem]
  rfl

end Lines

/-- A region of which one member alone was bad is PROTECTED once that member has been rebuilt (R273). -/
theorem settle_rebuiltAt {b : Rebuild} {r : Region} (hprot : r.prot = .rebuilding) (hbad : r.bad = [(b.frame, b.member)]) :
    (rebuiltAt b r).settle false = { r with bad := [], prot := .protectedSt,
                                            moved := ⟨b.frame, b.member, b.dest, b.destFrame⟩ :: r.moved.filter fun x => !(x.unit = b.frame && x.member = b.member) } := by
  simp [Region.settle, rebuiltAt, hprot, hbad]

/-- No rebuild of the region is left once its only one is done. -/
theorem rebuilds_left {d : Dev} {b : Rebuild} (honly : ∀ x ∈ d.mem.rebuild, x.region = b.region → x = b) :
    ((d.mem.rebuild.filter fun x => x != b).any fun x => x.region = b.region) = false := by
  refine List.any_eq_false.mpr fun x hx hregion => ?_
  obtain ⟨hin, hne⟩ := List.mem_filter.mp hx
  simp only [bne_iff_ne, decide_eq_true_eq] at hne hregion
  exact hne (honly x hin hregion)

/-! ### Fills -/

section Fills
variable {c : Clock} {d : Dev} {key page : Nat}

/-- A write waits for the page that a fill brings (R283). -/
def fillWrites (d : Dev) (key page : Nat) : Bool := d.mem.pool.any fun f => f.key = key && f.page = page && f.writing

variable (hfill : (key, page) ∈ d.mem.fills)
include hfill

theorem poolFillComplete_done (h : fillWrites d key page = true ∨ d.pageBad key page = false) :
    poolFillComplete key page c d = if fillWrites d key page = true then (d.fillDone c key page).writeBack key page else d.fillDone c key page := by
  have hgood : (d.pageBad key page && !(fillWrites d key page)) = false := by
    rcases h with h | h <;> simp [h]
  rw [fillWrites] at hgood ⊢
  simp only [poolFillComplete, List.contains_iff_mem.mpr hfill, hgood, Bool.false_eq_true, if_false, if_true]

theorem poolFillComplete_fails (hw : fillWrites d key page = false) (hbad : d.pageBad key page = true) :
    poolFillComplete key page c d = d.fillFails c key page := by
  rw [fillWrites] at hw
  simp only [poolFillComplete, List.contains_iff_mem.mpr hfill, hw, hbad, Bool.not_false, Bool.and_self, if_true]

end Fills

/-! ### The statement -/

/-- Settles O19. It holds: a line of a rebuild and the end of a fill each take the one branch that the hold, the line, the write that waits and the page leave. -/
theorem rebuildAndPool : Obligations.RebuildAndPool := by
  refine ⟨fun s v t b r hv hnext hregion => ⟨fun hheld hline => ?_, fun hruns hline => ?_, fun hruns hline hprot honly hbad => ?_⟩,
    fun s v t key page w d hv hfill hw => ⟨fun h hd => ?_, fun hnone hbad => ?_⟩⟩
  · exact exec_idle rfl rfl hv (rebuildLine_held hnext hheld hline true)
  · exact exec_onDev rfl rfl hv (rebuildLine_line hnext hregion hruns hline)
  · refine ⟨_, exec_onDev rfl rfl hv (rebuildLine_last hnext hregion hruns hline), fun i hi => ?_, ?_⟩
    · rw [get?_upd, if_neg hi, get?_upd, if_neg hi]
    · rw [get?_upd, if_pos rfl, get?_upd, if_pos rfl, hregion, rebuilds_left honly]
      exact congrArg some (settle_rebuiltAt hprot hbad)
  · subst hw hd
    exact exec_onDev rfl rfl hv (poolFillComplete_done hfill h)
  · exact exec_onDev rfl rfl hv (poolFillComplete_fails hfill (hw.symm.trans hnone) hbad)

end Sys2Proof.Proofs

/-! SUPPORT. A host port's CXL mailbox and its two HDM decoders: what each answers, and the statement about them. -/

namespace Sys2Proof.Proofs

open Sys2Proof Sys2Proof.Machine Sys2Proof.Laws

section Answers
variable {d : Dev} {p : Port}

/-- A mailbox opcode that is supported leaves its response under its own number (R410). -/
theorem mailbox_on (hon : d.portOn p = true) (opcode len : Nat) : d.mailbox p opcode len =
    d.updPort p fun h => { h with mbox := some ⟨opcode, false, (List.range len).map (Config.mailboxByte opcode)⟩ } := if_pos hon

theorem mailboxUnsupported_on {op : Nat} (hon : d.portOn p = true) (hop : op ∉ mailboxOpcodes) (c : Clock) :
    mailboxUnsupported p op c d = d.updPort p fun h => { h with mbox := some ⟨op, true, []⟩ } := by
  have hnone : mailboxOpcodes.contains op = false := by simpa using hop
  simp only [mailboxUnsupported, hon, hnone, Bool.not_false, Bool.and_self, if_true]

theorem commitResult_eq {ok : Bool} {P : Prop} [Decidable P] (h : ok = true ↔ P) : commitResult ok = if P then 1 else 2 := by
  simp only [commitResult, h]

/-- Decoder 0 commits for the partition alone, from DPA 0 (R289). -/
theorem hdmDecoderCommit_partition (hon : d.portOn p = true) (base size ways : Nat) (c : Clock) : hdmDecoderCommit p 0 base size ways c d =
    d.updPort p fun h => { h with dec0 := if base = 0 ∧ size = h.part.gib * 2 ^ 30 ∧ ways = 1 then 1 else 2 } := by
  have hok (h : HostPort) : (decide (base = 0) && decide (size = h.part.gib * gib) && decide (ways = 1)) = true ↔
      base = 0 ∧ size = h.part.gib * gib ∧ ways = 1 := by
    simp only [Bool.and_eq_true, decide_eq_true_eq, and_assoc]
  exact (if_pos hon).trans (updPort_congr (congrArg (fun x => { d.port p with dec0 := x }) (commitResult_eq (hok _))))

/-- Decoder 1 commits for the commons range alone, while the BI decoder is enabled (R289). -/
theorem hdmDecoderCommit_commons (hon : d.portOn p = true) (base size ways : Nat) (c : Clock) : hdmDecoderCommit p 1 base size ways c d =
    d.updPort p fun h => { h with dec1 := if base = 0x8000000000 ∧ size = 0x4000000000 ∧ ways = 1 ∧ h.biEnabled = true then 1 else 2 } := by
  have hok (h : HostPort) : (decide (base = Config.dpaCommons) && decide (size = Config.dpaCommonsEnd - Config.dpaCommons) && decide (ways = 1) && h.biEnabled) = true ↔
      base = Config.dpaCommons ∧ size = Config.dpaCommonsEnd - Config.dpaCommons ∧ ways = 1 ∧ h.biEnabled = true := by
    simp only [Bool.and_eq_true, decide_eq_true_eq, and_assoc]
  exact (if_pos hon).trans (updPort_congr (congrArg (fun x => { d.port p with dec1 := x }) (commitResult_eq (hok _))))

end Answers

/-! ### The statement -/

/-- Settles O16. It holds: each row is one change of its port, and the two opcode lists are the same. -/
theorem mailboxAndDecoders : Obligations.MailboxAndDecoders := by
  intro s v t p hv hon
  refine ⟨?_, ?_, fun off len => ?_, ?_, fun op hop => ?_, fun base size ways => ?_, fun base size ways => ?_⟩
  · exact exec_onDev rfl rfl hv (mailbox_on hon 0x4000 0x45)
  · exact exec_onDev rfl rfl hv (mailbox_on hon 0x0400 28)
  · exact exec_onDev rfl rfl hv (if_pos hon)
  · exact exec_onDev rfl rfl hv (mailbox_on hon 0x4200 18)
  · exact exec_onDev rfl rfl hv (mailboxUnsupported_on hon hop v.clk)
  · exact exec_onDev rfl rfl hv (hdmDecoderCommit_partition hon base size ways v.clk)
  · exact exec_onDev rfl rfl hv (hdmDecoderCommit_commons hon base size ways v.clk)

end Sys2Proof.Proofs

/-! SUPPORT. Partition settings: the four answers of mem.partition_set, what a link-up makes of a port's pending settings, and the statement about both. -/

namespace Sys2Proof.Proofs

open Sys2Proof Sys2Proof.Machine Sys2Proof.Laws

/-- A number below 4 names its port. -/
theorem port_of_val {n : Nat} {p : Port} (h : n = p.val) : ∃ hlt : n < 4, (⟨n, hlt⟩ : Port) = p := ⟨h ▸ p.isLt, Fin.ext h⟩

/-! ### New settings -/

section Settings
variable {c : Clock} {d : Dev} {cmd : Cmd} {p : Port} {x : PartCfg}

theorem exec_partition {s v : State} {k : Take} (hv : v = s.tick k.t) (ha : Accepted k 0x0800 v cmd) (hop : cmd.f 0x40 1 = 0)
    (hbad : partitionBad v.clk (v.dev.takeCmd cmd) cmd = false) : exec (.partition k) s = .next (v.ran cmd (partitionRun v.clk (v.ready cmd) cmd)) :=
  exec_slot rfl rfl hv ha (by simp [partitionRow, hop]) hbad

variable (hp : cmd.f 0x41 1 = p.val) (hx : x = cmd.partCfg)
include hp hx

/-- Settings equal to those in use withdraw what was pending (R291). -/
theorem partitionRun_withdraws (hsame : x = (d.port p).part) : partitionRun c d cmd =
    ((d.free (pendRegion p)).updPort p fun h => { h with pend := none }).endCmd c cmd.ref stOk 0 0 [] := by
  subst hx
  obtain ⟨hlt, hport⟩ := port_of_val hp
  simp only [partitionRun, hlt, hport, hsame, dif_pos, if_pos, Dev.dropPending]

/-- Other settings wait with the frames they ask for, which a size of 0 does not, or find no room (R291). -/
theorem partitionRun_waits (hother : x ≠ (d.port p).part) : partitionRun c d cmd =
    if x.gib ≠ 0 ∧ (d.free (pendRegion p)).canAlloc x.protect x.mask x.frames = false then d.refuse cmd.ref stBusy
    else ((if x.gib = 0 then d.free (pendRegion p) else (d.free (pendRegion p)).alloc (pendRegion p) x.protect x.mask x.frames .pin 5).updPort p
      fun h => { h with pend := some x }).endCmd c cmd.ref stOk 0 0 [] := by
  subst hx
  obtain ⟨hlt, hport⟩ := port_of_val hp
  simp only [partitionRun, hlt, hport, hother, dif_pos, if_false, Bool.and_eq_true, bne_iff_ne, Bool.not_eq_true']

end Settings

/-! ### Link-up -/

@[simp] theorem free_ports (d : Dev) (id : Nat) : (d.free id).ports = d.ports := by unfold Dev.free; split <;> rfl

/-- The regions once a port's reserved frames, if it has any, are its partition's (R291). -/
def reservedTaken (m : NMap Region) (p : Port) : NMap Region :=
  match NMap.get? m (pendRegion p) with
  | none => m
  | some r => NMap.put (NMap.del m (pendRegion p)) (partRegion p) r

theorem pendRegion_ne_partRegion (p : Port) : pendRegion p ≠ partRegion p := by simp only [pendRegion, partRegion]; omega

theorem reservedTaken_regions {m : NMap Region} {p : Port} {r : Region} (h : NMap.get? m (pendRegion p) = some r) :
    NMap.get? (reservedTaken m p) (partRegion p) = some r ∧ NMap.get? (reservedTaken m p) (pendRegion p) = none := by
  simp only [reservedTaken, h]
  exact ⟨get?_put_same _ _ _, (get?_put_other _ (pendRegion_ne_partRegion p)).trans (get?_del_same _ _)⟩

section LinkUp
variable {d : Dev} {p : Port} {x : PartCfg}

/-- A port whose pending settings take effect: a zero-filled partition without fences, beside the fences on commons windows (R291, R312). -/
def withPartition (x : PartCfg) (h : HostPort) : HostPort :=
  { h with part := x, pend := none, mem := [], poison := [], fences := h.fences.filter fun f => Config.dpaCommons ≤ f.dpa }

theorem applyPending_none (h : (d.port p).pend = none) : d.applyPending p = d := by simp only [Dev.applyPending, h]

theorem applyPending_some (h : (d.port p).pend = some x) : d.applyPending p =
    ({ d.free (partRegion p) with mem := { (d.free (partRegion p)).mem with regions := reservedTaken (d.free (partRegion p)).mem.regions p } } : Dev).updPort p
      (withPartition x) := by
  simp only [Dev.applyPending, h]
  rfl

theorem port_applyPending_other {q : Port} (h : q ≠ p) : (d.applyPending p).port q = d.port q := by
  cases hpend : (d.port p).pend with
  | none => rw [applyPending_none hpend]
  | some x =>
    rw [applyPending_some hpend, port_updPort_other _ h]
    simp only [Dev.port, free_ports]

theorem port_applyPending_same (h : (d.port p).pend = some x) : (d.applyPending p).port p = withPartition x (d.port p) := by
  rw [applyPending_some h, port_updPort_same]
  simp only [Dev.port, free_ports]

/-- A link comes up in service while nothing holds its port (R491, R520). -/
theorem hostLinkUp_up (hservice : d.service = true) (hlost : d.brd.lost = []) (hoff : (d.port p).off = false) (hdown : (d.port p).linkUp = false)
    (hloops : d.tst.loops = []) (c : Clock) : hostLinkUp p c d = d.linkUp p := by
  simp [hostLinkUp, hservice, hlost, hoff, hdown, Tests.loopHolds, hloops]

end LinkUp

/-! ### The statement -/

/-- Settles O10. It holds: the settings in use, the size and the room decide the command, and pending settings decide the link-up. -/
theorem partitionSettings : Obligations.PartitionSettings := by
  constructor
  · intro s v k cmd p x hv ha hop hp hx hbad
    rw [exec_partition hv ha hop hbad]
    refine ⟨fun hother hsize hroom => ?_, fun hother hsize hroom => ?_, fun hother hsize => ?_, fun hsame => ?_⟩
    · have hne : x.gib ≠ 0 := by omega
      rw [partitionRun_waits hp hx hother, if_neg (by simp [hroom]), if_neg hne]
    · have hne : x.gib ≠ 0 := by omega
      rw [partitionRun_waits hp hx hother, if_pos ⟨hne, hroom⟩]
    · rw [partitionRun_waits hp hx hother, if_neg (by simp [hsize]), if_pos hsize]
    · rw [partitionRun_withdraws hp hx hsame]
  · intro s v t p hv hservice hlost hoff hdown hloops
    refine ⟨_, exec_onDev rfl rfl hv (hostLinkUp_up hservice hlost hoff hdown hloops v.clk), fun q hq => ?_, fun hpend => ?_, fun x hpend => ⟨?_, fun r hr => ?_⟩⟩
    · rw [Dev.linkUp, port_updPort_other _ hq, port_applyPending_other hq]
    · rw [Dev.linkUp, applyPending_none hpend, port_updPort_same]
      exact ⟨rfl, rfl⟩
    · rw [Dev.linkUp, port_updPort_same, port_applyPending_same hpend]
      rfl
    · rw [Dev.linkUp, updPort_mem, applyPending_some hpend, updPort_mem]
      exact reservedTaken_regions hr

end Sys2Proof.Proofs

/-! SUPPORT. The event log of a port, and a host's access that no partition and no readable commons line answers: what it returns, counts and logs, and the statement about it. -/

namespace Sys2Proof.Proofs

open Sys2Proof Sys2Proof.Machine Sys2Proof.Laws

/-! ### The event log -/

section Events
variable (d : Dev) (c : Clock) {p : Port} (type owner n dpa fenceT slot : Nat)

/-- A record joins a log that has room for it (R313). -/
theorem logEvent_events (hroom : (d.port p).events.length < Config.eventLogSize) : ((d.logEvent c p type owner n dpa fenceT slot).port p).events =
    (d.port p).events ++ [⟨type, (d.port p).eventsLost, owner, n, dpa, c.now, fenceT, slot⟩] := by
  simp only [Dev.logEvent, port_updPort_same, Nat.not_le.mpr hroom, if_false]

theorem logEvent_port_other {q : Port} (h : q ≠ p) : (d.logEvent c p type owner n dpa fenceT slot).port q = d.port q := port_updPort_other _ h

/-- A record changes its port's log, marks and vectors alone. -/
theorem logEvent_keeps {α : Type} {g : HostPort → α} (hg : ∀ h events lost vectors, g { h with events := events, eventsLost := lost, vectors := vectors } = g h)
    (q : Port) : g ((d.logEvent c p type owner n dpa fenceT slot).port q) = g (d.port q) := by
  by_cases hq : q = p
  · subst hq
    rw [Dev.logEvent, port_updPort_same]
    split
    · exact hg _ _ _ _
    · exact hg _ _ _ _
  · rw [logEvent_port_other _ _ _ _ _ _ _ _ hq]

end Events

/-! ### An access without an answer -/

section Unmapped
variable {c : Clock} {d : Dev} {p : Port} {op : MemOp} {dpa : Nat} {data : List Byte} {mask : BitVec 64} {e : LineErr}

theorem comAccess_noSlot (h : d.com? ((dpa - Config.dpaCommons) / Config.comWindow) = none) : d.comAccess c p op dpa data mask e = d.unmapped c p op dpa := by
  simp only [Dev.comAccess, h]

/-- An offset in a slot's window that lies neither in the header page nor in a buffer (R297, R298). -/
def offBuffers (x : ComState) (off : Nat) : Prop :=
  4096 ≤ off ∧ ¬(Config.bufA ≤ off ∧ off < Config.bufA + x.len) ∧ ¬(Config.bufB ≤ off ∧ off < Config.bufB + x.len)

theorem comAccess_unreadable {x : ComState} {off : Nat} (hx : d.com? ((dpa - Config.dpaCommons) / Config.comWindow) = some x)
    (hoff : off = (dpa - Config.dpaCommons) % Config.comWindow) (h : x.readMask.getLsbD p.val = false ∨ offBuffers x off) :
    d.comAccess c p op dpa data mask e = d.unmapped c p op dpa := by
  unfold Dev.comAccess
  simp only [hx, ← hoff]
  refine if_pos ?_
  rcases h with h | ⟨hpage, hA, hB⟩
  · simp only [h, Bool.not_false, Bool.true_or]
  · have hA' := (Bool.decide_and _ _).symm.trans (decide_eq_false hA)
    have hB' := (Bool.decide_and _ _).symm.trans (decide_eq_false hB)
    simp only [decide_eq_false (Nat.not_lt.mpr hpage), hA', hB', Bool.or_self, Bool.not_false, Bool.or_true]

/-- No commons line that the port may read lies at the address (R290). -/
def nothingReadable (d : Dev) (p : Port) (dpa : Nat) : Prop :=
  dpa < Config.dpaCommons ∨ Config.dpaCommonsEnd ≤ dpa ∨ d.com? ((dpa - Config.dpaCommons) / Config.comWindow) = none ∨
    ∃ x, d.com? ((dpa - Config.dpaCommons) / Config.comWindow) = some x ∧
      (x.readMask.getLsbD p.val = false ∨ offBuffers x ((dpa - Config.dpaCommons) % Config.comWindow))

/-- What neither the partition nor a readable commons line holds is unmapped (R290). -/
theorem plain_unmapped (hpart : d.partLen p ≤ dpa) (hno : nothingReadable d p dpa) : d.plain c p op dpa data mask e = d.unmapped c p op dpa := by
  rw [Dev.plain, if_neg (Nat.not_lt.mpr hpart)]
  split
  next hin =>
    simp only [Bool.and_eq_true, decide_eq_true_eq] at hin
    rcases hno with hlow | hhigh | hnone | ⟨x, hx, hclosed⟩
    · omega
    · omega
    · exact comAccess_noSlot hnone
    · exact comAccess_unreadable hx rfl hclosed
  next => rfl

/-- A request that no shaper, queue, mode, fence or echo window stops is served from where its address lies (R288, R294, R295). -/
theorem hostMemAccess_plain (hon : d.portOn p = true) (hphase : d.start.phase = .service) (hps : d.pwr.ps ≠ 2) (hfences : (d.port p).fences = [])
    (hecho : (d.port p).echo = none) (hpeak : (d.shaper (3 + p.val)).peakPasses 64 = true) (hqueue : (d.port p).queue < Config.portQueue) :
    hostMemAccess p op dpa data mask e c d = (entered d p op).plain c p op dpa data mask e := by
  have hfull : (!(d.shaper (3 + p.val)).peakPasses 64 || decide (Config.portQueue ≤ (d.port p).queue)) = false := by
    rw [hpeak, decide_eq_false (Nat.not_le.mpr hqueue)]
    rfl
  have hmode : (decide (d.start.phase = .backsight) || decide (d.pwr.ps = 2)) = false := by
    rw [hphase, decide_eq_false hps]
    rfl
  simp only [hostMemAccess, hon, hfull, hmode, hfences, hecho, List.find?_nil, Bool.not_true, Bool.false_eq_true, if_false]
  rfl

end Unmapped

/-! ### What it leaves -/

section Effects
variable (c : Clock) (d : Dev) (p : Port) (op : MemOp) (dpa : Nat)

theorem respond_mem (poison : Bool) (bs : List Byte) (q : Port) : ((d.respond p op poison bs).port q).mem = (d.port q).mem := by
  by_cases hq : q = p
  · exact hq ▸ (respond_port_same d p op poison bs).1
  · rw [respond_port_other _ _ _ _ _ hq]

theorem respond_events (poison : Bool) (bs : List Byte) : ((d.respond p op poison bs).port p).events = (d.port p).events := by
  simp only [Dev.respond, port_updPort_same]
  split
  · simp only [Dev.port, count_ports]
  · rfl

/-- An answer counts nothing but poisoned reads. -/
theorem respond_cnt (poison : Bool) (bs : List Byte) {j : Nat} (hj : j ≠ 128 * 75 + p.val) :
    NMap.getD (d.respond p op poison bs).cnt j 0 = NMap.getD d.cnt j 0 := by
  simp only [Dev.respond, updPort_cnt]
  split
  · rw [cnt_count, if_neg hj]
  · rfl

/-- The charge counts bytes read and written. -/
theorem entered_cnt {j : Nat} (hread : j ≠ 128 * 69 + p.val) (hwrite : j ≠ 128 * 70 + p.val) : NMap.getD (entered d p op).cnt j 0 = NMap.getD d.cnt j 0 := by
  unfold entered Dev.enterQueue Dev.chargePort
  rw [updPort_cnt]
  split
  · rfl
  · show NMap.getD (if op.isRead then d.count 69 p.val 64 else d.count 70 p.val 64).cnt j 0 = _
    split
    · rw [cnt_count, if_neg hread]
    · rw [cnt_count, if_neg hwrite]

theorem entered_port_mem (q : Port) : ((entered d p op).port q).mem = (d.port q).mem := by
  by_cases hq : q = p
  · rw [hq, entered_port_same]
  · rw [entered_port_other _ _ hq]

theorem unmapped_com : (d.unmapped c p op dpa).com = d.com := by
  rw [Dev.unmapped, respond_com, logEvent_com, count_com]

theorem unmapped_mem (q : Port) : ((d.unmapped c p op dpa).port q).mem = (d.port q).mem := by
  rw [Dev.unmapped, respond_mem, logEvent_keeps (g := HostPort.mem) _ _ _ _ _ _ _ _ (fun _ _ _ _ => rfl)]
  simp only [Dev.port, count_ports]

theorem unmapped_memResp (h : op.isRead = true) : ((d.unmapped c p op dpa).port p).memResp = some (true, zeroLine) := by
  rw [Dev.unmapped, (respond_port_same _ p op true zeroLine).2.2, if_pos h]

/-- The access is counted once for its port (R290). -/
theorem unmapped_cnt : NMap.getD (d.unmapped c p op dpa).cnt (128 * 72 + p.val) 0 = NMap.getD d.cnt (128 * 72 + p.val) 0 + 1 := by
  rw [Dev.unmapped, respond_cnt _ _ _ _ _ (by omega), logEvent_cnt, cnt_count, if_pos rfl]
  rfl

theorem unmapped_events (hroom : (d.port p).events.length < Config.eventLogSize) : ∃ slot, ((d.unmapped c p op dpa).port p).events =
    (d.port p).events ++ [⟨1, (d.port p).eventsLost, p.val, 1, dpa, c.now, 0, slot⟩] := by
  have hport : (d.count 72 p.val 1).port p = d.port p := by simp only [Dev.port, count_ports]
  refine ⟨if Config.dpaCommons ≤ dpa && dpa < Config.dpaCommonsEnd then (dpa - Config.dpaCommons) / Config.comWindow else 0xFFFF, ?_⟩
  rw [Dev.unmapped, respond_events, logEvent_events _ _ _ _ _ _ _ _ (hport ▸ hroom), hport]

end Effects

/-! ### The statement -/

/-- Settles O15. It holds: such a request is charged, finds nothing at its address, and is counted, logged and answered in the same step. -/
theorem unmappedAccess : Obligations.UnmappedAccess := by
  intro s v t p op dpa data mask e hv hon hphase hps hfences hecho hpeak hqueue hal hend hlen hpart _ hno hroom
  have hpart' : (entered v.dev p op).partLen p ≤ dpa := by simpa only [Dev.partLen, entered_port_same] using hpart
  have hno' : nothingReadable (entered v.dev p op) p dpa := by
    simp only [nothingReadable, Dev.com?, entered_com]
    exact hno
  have hrun : hostMemAccess p op dpa data mask e v.clk v.dev = (entered v.dev p op).unmapped v.clk p op dpa :=
    (hostMemAccess_plain hon hphase hps hfences hecho hpeak hqueue).trans (plain_unmapped hpart' hno')
  have hevents : ((entered v.dev p op).port p).events = (v.dev.port p).events := by rw [entered_port_same]
  obtain ⟨slot, hlogged⟩ := unmapped_events v.clk (entered v.dev p op) p op dpa (hevents ▸ hroom)
  refine ⟨_, _, exec_onDev rfl (hostMemAccess_wf hal hend hlen) hv hrun, fun hread => ?_, fun q => ?_, ?_, ?_, hlogged.trans (by rw [hevents]), rfl, rfl, rfl, rfl, rfl⟩
  · exact unmapped_memResp v.clk _ p op dpa hread
  · rw [unmapped_mem, entered_port_mem]
  · rw [unmapped_com, entered_com]
  · rw [unmapped_cnt, entered_cnt _ _ _ (by omega) (by omega)]

end Sys2Proof.Proofs

/-! SUPPORT. Snoops of commons lines while none of the slot is awaited: which lines a recall awaits, and what an operation on a slot does when it awaits none. -/

namespace Sys2Proof.Proofs

open Sys2Proof Sys2Proof.Machine Sys2Proof.Laws

theorem ready_com? (v : State) (cmd : Cmd) (slot : Nat) : (v.ready cmd).com? slot = v.dev.com? slot := by simp only [Dev.com?, ready_com]

section Recall
variable {d : Dev} {slot : Nat} {f : Port → Nat → Bool}

theorem snoop_slots (d : Dev) (ls : List ComLine) : (d.snoop ls).2.com.slots = d.com.slots := by simp only [Dev.snoop, count_com]

theorem snoop_none (d : Dev) : d.snoop [] = ([], d) := by
  simp only [Dev.snoop, List.filterMap_nil, List.length_nil, count_zero, List.contains_nil, Bool.not_false, List.filter_true]

/-- Lines without write ownership are back-invalidated and nothing is awaited of them (R302). -/
theorem snoop_shared (d : Dev) {ls : List ComLine} (h : ∀ l ∈ ls, l.own = false) : (d.snoop ls).1 = [] :=
  List.filterMap_eq_nil_iff.mpr fun l hl => by simp [h l hl]

variable (hidle : ∀ w ∈ d.com.waits, w.slot ≠ slot)
include hidle

theorem comBusy_idle : d.comBusy slot = false :=
  List.any_eq_false.mpr fun w hw => by simp [hidle w hw]

theorem awaited_idle : d.awaited slot f = [] := by
  have hnone : (d.com.waits.filter fun w => w.slot = slot) = [] := List.filter_eq_nil_iff.mpr fun w hw => by simpa using hidle w hw
  simp only [Dev.awaited, hnone, List.map_nil, List.flatten_nil, List.filter_nil, List.dedup_nil]

/-- With no line of the slot owned, a recall awaits nothing (R302, R304). -/
theorem recall_shared (hshared : ∀ l ∈ d.com.held, l.slot = slot → l.own = false) : (d.recall slot f).1 = [] := by
  have hls : ∀ l ∈ d.com.held.filter (fun l => l.slot = slot && f l.port l.line), l.own = false := fun l hl => by
    obtain ⟨hin, hl⟩ := List.mem_filter.mp hl
    exact hshared l hin (by simpa using (Bool.and_eq_true_iff.mp hl).1)
  simp only [Dev.recall, awaited_idle hidle, snoop_shared d hls, List.append_nil, List.dedup_nil]

/-- With none of the lines held, a recall changes nothing. -/
theorem recall_unheld (hunheld : ∀ l ∈ d.com.held, l.slot = slot → f l.port l.line = false) : d.recall slot f = ([], d) := by
  have hnone : (d.com.held.filter fun l => l.slot = slot && f l.port l.line) = [] := List.filter_eq_nil_iff.mpr fun l hl hmatch => by
    obtain ⟨hslot, hf⟩ := Bool.and_eq_true_iff.mp hmatch
    exact Bool.false_ne_true ((hunheld l hl (by simpa using hslot)).symm.trans hf)
  simp only [Dev.recall, awaited_idle hidle, hnone, snoop_none, List.append_nil, List.dedup_nil]

end Recall

/-- What awaits no snoop goes on at once. -/
theorem comWait_nil (d : Dev) (c : Clock) (slot : Nat) (why : ComWhy) : d.comWait c slot [] why = d.comGoOn c slot why := rfl

theorem updCom_com? (d : Dev) (slot : Nat) (f : ComState → ComState) : (d.updCom slot f).com? slot = (d.com? slot).map f := by
  simp only [Dev.com?, Dev.updCom, get?_upd, if_true]

/-- A slot's header changes with its slot state. -/
theorem setHeader_com? (d : Dev) (slot : Nat) (f : ComState → ComState) : (d.setHeader slot f).com? slot = (d.com? slot).map f := by
  rw [Dev.setHeader, updCom_com?, Dev.snoopOthers, Dev.com?, snoop_slots, Dev.com?]

end Sys2Proof.Proofs

/-! SUPPORT. Commons slots made and dropped: the new slot beside the others, the drop of a slot that nobody leases or holds, port by port, and the statement about both. -/

namespace Sys2Proof.Proofs

open Sys2Proof Sys2Proof.Machine Sys2Proof.Laws

/-! ### A new slot -/

@[simp] theorem evictFor_com (d : Dev) (s : Nat) : (d.evictFor s).com = d.com := by
  unfold Dev.evictFor
  split
  · rfl
  · exact count_com _ _ _ _

@[simp] theorem alloc_com (d : Dev) (id : Nat) (p : Protect) (mask : BitVec 20) (n : Nat) (tier : Tier) (cls : Nat) :
    (d.alloc id p mask n tier cls).com = d.com := by
  unfold Dev.alloc Dev.allocBy Dev.grow
  split
  · rfl
  · exact foldl_keeps (fun x : Dev => x.com) (fun x s => evictFor_com x s) _ _

section Create
variable {c : Clock} {d : Dev} {cmd : Cmd}

/-- The slot of a COMMONS_CREATE: empty buffers, version 0 in A, no lease (R297). -/
def createdSlot (cmd : Cmd) : ComState :=
  { len := cmd.f 0x4C 4 * 1048576, readMask := BitVec.ofNat 4 (cmd.f 0x43 1), writeMask := BitVec.ofNat 4 (cmd.f 0x44 1), protect := cmd.partCfg.protect,
    mask := cmd.partCfg.mask, leaseNs := cmd.f 0x50 8, version := 0, curB := false, leasePort := none, leaseGen := 0, epochA := 0, epochB := 0, flipNs := 0,
    leaseEnd := 0, memA := [], memB := [], poisonA := [], poisonB := [], refill := none, done := [] }

/-- The device with the frames of both buffers of a new slot. -/
def withBuffers (d : Dev) (cmd : Cmd) : Dev :=
  (d.alloc (comRegion (cmd.f 0x41 1) false) cmd.partCfg.protect cmd.partCfg.mask (framesOf (cmd.f 0x4C 4 * 1048576)) .pin 5).alloc
    (comRegion (cmd.f 0x41 1) true) cmd.partCfg.protect cmd.partCfg.mask (framesOf (cmd.f 0x4C 4 * 1048576)) .pin 5

theorem withBuffers_com : (withBuffers d cmd).com = d.com := by rw [withBuffers, alloc_com, alloc_com]

/-- The device with a new slot. -/
def withSlot (d : Dev) (cmd : Cmd) : Dev :=
  { withBuffers d cmd with com := { d.com with slots := NMap.put d.com.slots (cmd.f 0x41 1) (createdSlot cmd) } }

theorem commonsCreateRun_creates (hroom : d.canAlloc cmd.partCfg.protect cmd.partCfg.mask (2 * framesOf (cmd.f 0x4C 4 * 1048576)) = true) :
    commonsCreateRun c d cmd = (withSlot d cmd).endCmd c cmd.ref stOk 0 0 [] := by
  rw [withSlot, ← withBuffers_com (d := d) (cmd := cmd)]
  simp only [commonsCreateRun, hroom, Bool.not_true, Bool.false_eq_true, if_false]
  rfl

theorem exec_commonsCreate {s v : State} {k : Take} (hv : v = s.tick k.t) (ha : Accepted k 0x0800 v cmd) (hop : cmd.f 0x40 1 = 1)
    (hbad : commonsCreateBad v.clk (v.dev.takeCmd cmd) cmd = false) :
    exec (.commonsCreate k) s = .next (v.ran cmd (commonsCreateRun v.clk (v.ready cmd) cmd)) :=
  exec_slot rfl rfl hv ha (by simp [commonsCreateRow, hop]) hbad

end Create

/-! ### Port by port -/

section EachPort
variable {F : Dev → Port → Dev} (hother : ∀ y q p, p ≠ q → (F y q).port p = y.port p)
include hother

/-- Changes of other ports leave a port as it is. -/
theorem foldl_port_other {p : Port} (l : List Port) (h : p ∉ l) (d : Dev) : (l.foldl F d).port p = d.port p := by
  induction l generalizing d with
  | nil => rfl
  | cons q l ih =>
    obtain ⟨hq, hl⟩ := not_or.mp (mt List.mem_cons.mpr h)
    rw [List.foldl_cons, ih hl, hother d q p hq]

/-- One change of each port of a list relates a port of it before and after as its own change does. -/
theorem foldl_port_mem {R : Port → HostPort → HostPort → Prop} (hsame : ∀ y q, R q (y.port q) ((F y q).port q)) {p : Port} (l : List Port) (hl : l.Nodup)
    (h : p ∈ l) (d : Dev) : R p (d.port p) ((l.foldl F d).port p) := by
  induction l generalizing d with
  | nil => exact absurd h List.not_mem_nil
  | cons q l ih =>
    obtain ⟨hnew, hl⟩ := List.nodup_cons.mp hl
    rw [List.foldl_cons]
    by_cases hq : p = q
    · subst hq
      rw [foldl_port_other hother l hnew]
      exact hsame d p
    · have hrest := ih hl (List.mem_of_ne_of_mem hq h) (F d q)
      rwa [hother d q p hq] at hrest

theorem eachPort {R : Port → HostPort → HostPort → Prop} (hsame : ∀ y q, R q (y.port q) ((F y q).port q)) (d : Dev) (p : Port) :
    R p (d.port p) (((List.finRange 4).foldl F d).port p) :=
  foldl_port_mem hother hsame _ (List.nodup_finRange 4) (List.mem_finRange p) d

end EachPort

/-! ### A slot is dropped -/

section Drop
variable {c : Clock} {d : Dev} {cmd : Cmd} {slot tf : Nat}

/-- The fence that a drop records on each port (R297, R310). -/
def windowFence (slot tf : Nat) : Fence := ⟨comBase slot, Config.comWindow, tf, none, none, 0, 0⟩

/-- Every port is fenced from the window. -/
def windowFenced (d : Dev) (slot tf : Nat) : Dev :=
  (List.finRange 4).foldl (fun (y : Dev) p => y.updPort p fun h => { h with fences := h.fences ++ [windowFence slot tf] }) d

theorem windowFenced_port (p : Port) : (windowFenced d slot tf).port p = { d.port p with fences := (d.port p).fences ++ [windowFence slot tf] } :=
  eachPort (R := fun _ h h' => h' = { h with fences := h.fences ++ [windowFence slot tf] }) (fun _ _ _ hp => port_updPort_other _ hp)
    (fun y q => port_updPort_same y q _) d p

theorem windowFenced_com : (windowFenced d slot tf).com = d.com := by
  refine foldl_keeps (fun x : Dev => x.com) (fun y p => ?_) _ d
  exact updPort_com y p _

/-- Every port is told that the window is gone, and the drop's own fences go. -/
def windowRevoked (d : Dev) (c : Clock) (slot tf : Nat) : Dev :=
  (List.finRange 4).foldl (fun (y : Dev) p =>
    (y.updPort p fun h => { h with fences := h.fences.eraseP (dropFence slot tf) }).logEvent c p 3 p.val 1 (comBase slot) tf slot) d

theorem windowRevoked_com : (windowRevoked d c slot tf).com = d.com := by
  refine foldl_keeps (fun x : Dev => x.com) (fun y p => ?_) _ d
  rw [logEvent_com, updPort_com]

theorem windowRevoked_port (p : Port) : ((windowRevoked d c slot tf).port p).fences = (d.port p).fences.eraseP (dropFence slot tf) ∧
    ((d.port p).events.length < Config.eventLogSize →
      ((windowRevoked d c slot tf).port p).events = (d.port p).events ++ [⟨3, (d.port p).eventsLost, p.val, 1, comBase slot, c.now, tf, slot⟩]) := by
  refine eachPort (R := fun p h h' => h'.fences = h.fences.eraseP (dropFence slot tf) ∧ (h.events.length < Config.eventLogSize →
    h'.events = h.events ++ [⟨3, h.eventsLost, p.val, 1, comBase slot, c.now, tf, slot⟩])) (fun y q p hp => ?_) (fun y q => ⟨?_, fun hroom => ?_⟩) d p
  · rw [logEvent_port_other _ _ _ _ _ _ _ _ hp, port_updPort_other _ hp]
  · rw [logEvent_keeps (g := HostPort.fences) _ _ _ _ _ _ _ _ (fun _ _ _ _ => rfl), port_updPort_same]
  · rw [logEvent_events _ _ _ _ _ _ _ _ (by rw [port_updPort_same]; exact hroom), port_updPort_same]

theorem dropSlot_ports : (d.dropSlot slot).ports = d.ports := by simp only [Dev.dropSlot, free_ports]

theorem free_com (d : Dev) (id : Nat) : (d.free id).com = d.com := by unfold Dev.free; split <;> rfl

theorem dropSlot_com : (d.dropSlot slot).com = { d.com with slots := NMap.del d.com.slots slot } := by simp only [Dev.dropSlot, free_com]

/-- Neither buffer of a dropped slot has frames. -/
theorem dropSlot_regions (b : Bool) : NMap.get? (d.dropSlot slot).mem.regions (comRegion slot b) = none := by
  cases b with
  | false => exact free_region_none _ (free_region_same _ _)
  | true => exact free_region_same _ _

/-- The device once a slot that nobody leases or holds has been dropped (R297, R310). -/
def withoutSlot (d : Dev) (c : Clock) (slot : Nat) : Dev := (windowRevoked (windowFenced d slot c.now) c slot c.now).dropSlot slot

theorem dropCommons_unheld {x : ComState} (hx : d.com? (cmd.f 0x41 1) = some x) (hlease : x.leasePort = none)
    (hidle : ∀ w ∈ d.com.waits, w.slot ≠ cmd.f 0x41 1) (hunheld : ∀ l ∈ d.com.held, l.slot ≠ cmd.f 0x41 1) :
    d.dropCommons c cmd = (withoutSlot d c (cmd.f 0x41 1)).endCmd c cmd.ref stOk 0 0 [] := by
  have hrecall : (windowFenced d (cmd.f 0x41 1) c.now).recall (cmd.f 0x41 1) (fun _ _ => true) = ([], windowFenced d (cmd.f 0x41 1) c.now) :=
    recall_unheld (by rwa [windowFenced_com]) fun l hl hslot => absurd hslot (hunheld l (by rwa [windowFenced_com] at hl))
  simp only [windowFenced, windowFence] at hrecall
  simp only [Dev.dropCommons, hx, hlease, hrecall]
  rfl

theorem withoutSlot_com : (withoutSlot d c slot).com = { d.com with slots := NMap.del d.com.slots slot } := by
  rw [withoutSlot, dropSlot_com, windowRevoked_com, windowFenced_com]

/-- The drop's own fence goes again, those that stood before it stay, and its port is told. -/
theorem withoutSlot_port {p : Port} (hroom : (d.port p).events.length < Config.eventLogSize) (hold : ∀ f ∈ (d.port p).fences, f.tf ≠ c.now) :
    ((withoutSlot d c slot).port p).fences = (d.port p).fences ∧ ((withoutSlot d c slot).port p).events =
      (d.port p).events ++ [⟨3, (d.port p).eventsLost, p.val, 1, comBase slot, c.now, c.now, slot⟩] := by
  have hport : (withoutSlot d c slot).port p = (windowRevoked (windowFenced d slot c.now) c slot c.now).port p := by
    simp only [withoutSlot, Dev.port, dropSlot_ports]
  obtain ⟨hfences, hevents⟩ := windowRevoked_port (d := windowFenced d slot c.now) (c := c) (slot := slot) (tf := c.now) p
  rw [windowFenced_port] at hfences hevents
  have hkept : ∀ f ∈ (d.port p).fences, ¬(dropFence slot c.now f = true) := fun f hf => by simp [dropFence, hold f hf]
  rw [hport, hfences]
  refine ⟨?_, hevents hroom⟩
  simp [List.eraseP_append_right _ hkept, dropFence, windowFence]

theorem exec_commonsDrop {s v : State} {k : Take} {x : ComState} (hv : v = s.tick k.t) (ha : Accepted k 0x0800 v cmd) (hop : cmd.f 0x40 1 = 2)
    (hslot : cmd.f 0x41 1 ≤ 63) (hx : v.dev.com? (cmd.f 0x41 1) = some x) (hidle : ∀ w ∈ v.dev.com.waits, w.slot ≠ cmd.f 0x41 1) :
    exec (.commonsDrop k) s = .next (v.ran cmd ((v.ready cmd).dropCommons v.clk cmd)) := by
  have hbad : commonsDropBad v.clk (v.dev.takeCmd cmd) cmd = false := by
    have hx' : (v.dev.takeCmd cmd).com? (cmd.f 0x41 1) = some x := hx
    simp only [commonsDropBad, hx', Option.isNone_some, decide_eq_false (Nat.not_lt.mpr hslot), Bool.or_self]
  have hfree : (v.ready cmd).comBusy (cmd.f 0x41 1) = false := comBusy_idle (by rwa [ready_com])
  have hrun : commonsDropRun v.clk (v.ready cmd) cmd = (v.ready cmd).dropCommons v.clk cmd := by
    simp only [commonsDropRun, hfree, Bool.false_eq_true, if_false]
  rw [← hrun]
  exact exec_slot rfl rfl hv ha (by simp [commonsDropRow, hop]) hbad

end Drop

/-! ### Ports over a take -/

section Take
variable {α : Type} {g : HostPort → α} (hg : ∀ h order lastSeq slots, g { h with order := order, lastSeq := lastSeq, slots := slots } = g h)
include hg

/-- A take changes its port's order, last SEQ and slots alone. -/
theorem takeCmd_port_keeps (d : Dev) (cmd : Cmd) (p : Port) : g ((d.takeCmd cmd).port p) = g (d.port p) := by
  show g ((d.updPort cmd.ref.port _).port p) = g (d.port p)
  by_cases hp : p = cmd.ref.port
  · rw [hp, port_updPort_same]
    exact hg _ _ _ _
  · rw [port_updPort_other _ hp]

theorem ready_port_keeps (v : State) (cmd : Cmd) (p : Port) : g ((v.ready cmd).port p) = g (v.dev.port p) := by
  rw [← takeCmd_port_keeps hg v.dev cmd p, Dev.port, ready_ports, Dev.port]

end Take

/-! ### The statement -/

/-- Settles O11. It holds: a drop with nothing to recall goes on at once and takes back what it recorded on each port but the record of it. -/
theorem commonsCreateAndDrop : Obligations.CommonsCreateAndDrop := by
  constructor
  · intro s v k cmd x len hv ha hop hx hlen hbad hroom
    subst hx hlen
    rw [exec_commonsCreate hv ha hop hbad, commonsCreateRun_creates hroom]
    exact ⟨withSlot (v.ready cmd) cmd, createdSlot cmd, rfl, get?_put_same _ _ _, rfl, rfl, rfl, rfl, rfl, rfl, rfl, rfl, rfl, rfl, rfl, rfl, rfl⟩
  · intro s v k cmd slot x hv ha hop hslot hle hx hlease hunheld hidle hports
    subst hslot
    rw [exec_commonsDrop hv ha hop hle hx hidle,
      dropCommons_unheld ((ready_com? v cmd _).trans hx) hlease (by rwa [ready_com]) (by rwa [ready_com])]
    have hcom : (withoutSlot (v.ready cmd) v.clk (cmd.f 0x41 1)).com = { v.dev.com with slots := NMap.del v.dev.com.slots (cmd.f 0x41 1) } := by
      rw [withoutSlot_com, ready_com]
    refine ⟨_, rfl, ?_, fun b => dropSlot_regions b, fun j hj => ?_, ?_, fun p => ?_⟩
    · rw [Dev.com?, hcom, get?_del_same]
    · rw [Dev.com?, hcom, get?_del_other hj, Dev.com?]
    · rw [hcom]
    · obtain ⟨hroom, hold⟩ := hports p
      have hfences := ready_port_keeps (g := HostPort.fences) (fun _ _ _ _ => rfl) v cmd p
      have hevents := ready_port_keeps (g := HostPort.events) (fun _ _ _ _ => rfl) v cmd p
      obtain ⟨hkept, htold⟩ := withoutSlot_port (d := v.ready cmd) (c := v.clk) (slot := cmd.f 0x41 1) (p := p) (hevents ▸ hroom) (hfences ▸ hold)
      exact ⟨hkept.trans hfences, _, htold.trans (by rw [hevents]), rfl, rfl, rfl, rfl, rfl, rfl, rfl⟩

end Sys2Proof.Proofs

/-! SUPPORT. mem.revoke: a REVOKE that no command and no commons line stands against, the FENCE_SET that ends it, RESTORE, and the statement about them. -/

namespace Sys2Proof.Proofs

open Sys2Proof Sys2Proof.Machine Sys2Proof.Laws

/-- No commons window holds an extent that begins below the commons. -/
theorem slotOfExtent_below {dpa : Nat} (h : dpa < Config.dpaCommons) (len : Nat) : slotOfExtent dpa len = none := by
  simp only [slotOfExtent, decide_eq_false (Nat.not_le.mpr h), Bool.false_and, Bool.false_eq_true, if_false]

section Revoke
variable {c : Clock} {d : Dev} {cmd : Cmd} {p : Port} {dpa len : Nat}

/-! ### REVOKE -/

/-- The device with a new fence on a port (R310, step 1). -/
def withFence (d : Dev) (c : Clock) (p : Port) (dpa len : Nat) : Dev :=
  d.updPort p fun h => { h with fences := h.fences ++ [⟨dpa, len, c.now, none, none, 0, 0⟩] }

/-- The commands that a take leaves running: those that ran, and the one taken. -/
theorem ready_running (v : State) (cmd : Cmd) : (v.ready cmd).cmds.running = v.dev.cmds.running ++ [cmd] := by
  have hroom : ∀ d : Dev, ((d.roomForRec v.clk.now).getD d).cmds.running = d.cmds.running := fun d => by
    unfold Dev.roomForRec
    split
    · rfl
    · split <;> rfl
  unfold State.ready
  split
  · exact hroom (v.dev.takeCmd cmd)
  · rfl

theorem takeCmd_partLen (d : Dev) (cmd : Cmd) (p : Port) : (d.takeCmd cmd).partLen p = d.partLen p := by
  simp only [Dev.partLen, takeCmd_port_keeps (g := HostPort.part) (fun _ _ _ _ => rfl)]

theorem takeCmd_areaIn (d : Dev) (cmd : Cmd) : (d.takeCmd cmd).areaIn p dpa len = d.areaIn p dpa len := by
  rw [Dev.areaIn, Dev.areaIn, takeCmd_partLen]

variable (hp : cmd.f 0x40 1 = p.val) (hdpa : dpa = cmd.f 0x48 8) (hlen : len = cmd.f 0x50 8)
include hp hdpa hlen

/-- A REVOKE of whole pages of the target's partition or of one commons window stands the command's own checks (R310). -/
theorem revokeBad_false (hop : cmd.f 0x41 1 = 0) (hpage : dpa % 4096 = 0) (hpages : len % 4096 = 0) (hpos : 0 < len)
    (hin : d.areaIn p dpa len = true ∨ (slotOfExtent dpa len).isSome = true) : revokeBad c d cmd = false := by
  obtain ⟨hlt, hport⟩ := port_of_val hp
  have hwhere : (!(d.areaIn p dpa len) && (slotOfExtent dpa len).isNone) = false := by
    rcases hin with h | h
    · rw [h]; rfl
    · rw [← Option.not_isSome, h, Bool.not_true, Bool.and_false]
  simp [revokeBad, ← hdpa, ← hlen, hop, hpage, hpages, Nat.ne_of_gt hpos, hlt, hport, hwhere]

variable (hroom : (d.port p).fences.length < Config.maxFences)
include hroom

/-- Outside the commons, a REVOKE whose extent no running command meets only waits for FENCE_SET (R310). -/
theorem revokeRun_partition (hslot : slotOfExtent dpa len = none)
    (hclear : ∀ y ∈ d.cmds.running, y.ref.port = p → y.ref ≠ cmd.ref → y.meets dpa len = false) :
    revokeRun c d cmd = (withFence d c p dpa len).awaitLines ⟨64, [], .revoke cmd.ref p dpa len c.now⟩ := by
  obtain ⟨hlt, hport⟩ := port_of_val hp
  have hhit : (d.cmds.running.filter fun x => x.ref.port = p && x.ref != cmd.ref && x.meets dpa len) = [] := by
    refine List.filter_eq_nil_iff.mpr fun y hy hmeets => ?_
    simp only [Bool.and_eq_true, decide_eq_true_eq, bne_iff_ne] at hmeets
    obtain ⟨⟨htarget, hother⟩, hmeets⟩ := hmeets
    exact Bool.false_ne_true ((hclear y hy htarget hother).symm.trans hmeets)
  simp only [revokeRun, ← hdpa, ← hlen, hlt, dif_pos, hport, Nat.not_le.mpr hroom, if_false, hslot, updPort_cmds, hhit, List.foldl_nil, comWait_nil]
  rfl

/-- In a commons window, a REVOKE of a port that neither holds a line nor leases the slot only waits for FENCE_SET (R310). -/
theorem revokeRun_commons {slot : Nat} (hslot : slotOfExtent dpa len = some slot) (hlease : (d.com? slot).bind (·.leasePort) ≠ some p)
    (hidle : ∀ w ∈ d.com.waits, w.slot ≠ slot) (hunheld : ∀ l ∈ d.com.held, l.slot = slot → l.port ≠ p) :
    revokeRun c d cmd = (withFence d c p dpa len).awaitLines ⟨slot, [], .revoke cmd.ref p dpa len c.now⟩ := by
  obtain ⟨hlt, hport⟩ := port_of_val hp
  have hrecall (g : Nat → Bool) : (withFence d c p dpa len).recall slot (fun o line => o = p && g line) =
      ([], withFence d c p dpa len) :=
    recall_unheld hidle fun l hl hs => by rw [decide_eq_false (hunheld l hl hs), Bool.false_and]
  have hlease' : ¬(((withFence d c p dpa len).com? slot).bind (·.leasePort) = some p) := hlease
  simp only [withFence] at hrecall hlease'
  simp only [revokeRun, ← hdpa, ← hlen, hlt, dif_pos, hport, Nat.not_le.mpr hroom, if_false, hslot, hrecall, hlease', decide_false, Bool.false_and, Bool.false_eq_true, comWait_nil]
  rfl

end Revoke

/-! ### FENCE_SET and RESTORE -/

/-- The one wait of a REVOKE whose requests are done ends (R310, steps 4 and 5). -/
theorem fenceSet_ends {c : Clock} {d : Dev} {p : Port} {r : Ref} {slot dpa len tf : Nat} (hwaits : d.com.waits = [⟨slot, [], .revoke r p dpa len tf⟩]) :
    fenceSet p dpa c d =
      (({ d with com := { d.com with waits := [] } } : Dev).logEvent c p 3 p.val 1 dpa tf (if slot < 64 then slot else 0xFFFF)).endCmd c r stOk 0 0 [] := by
  have hopen (lo n : Nat) : d.openReads slot p lo n = false := by simp [Dev.openReads, hwaits]
  simp [fenceSet, hwaits, hopen]

theorem restoreRun_removes {c : Clock} {d : Dev} {cmd : Cmd} {p : Port} (hp : cmd.f 0x40 1 = p.val) : restoreRun c d cmd =
    (d.updPort p fun h => { h with fences := h.fences.filter fun f =>
      !(cmd.f 0x48 8 ≤ f.dpa && f.dpa + f.len ≤ cmd.f 0x48 8 + cmd.f 0x50 8) }).endCmd c cmd.ref stOk 0 0 [] := by
  obtain ⟨hlt, hport⟩ := port_of_val hp
  simp only [restoreRun, hlt, dif_pos, hport]

section Commands
variable {s v : State} {k : Take} {cmd : Cmd} (hv : v = s.tick k.t) (ha : Accepted k 0x0802 v cmd)
include hv ha

theorem exec_revoke (hop : cmd.f 0x41 1 = 0) (hbad : revokeBad v.clk (v.dev.takeCmd cmd) cmd = false) :
    exec (.revoke k) s = .next (v.ran cmd (revokeRun v.clk (v.ready cmd) cmd)) :=
  exec_slot rfl rfl hv ha (by simp [revokeRow, hop]) hbad

theorem exec_restore (hop : cmd.f 0x41 1 = 1) (hbad : revokeBad v.clk (v.dev.takeCmd cmd) cmd = false) :
    exec (.restore k) s = .next (v.ran cmd (restoreRun v.clk (v.ready cmd) cmd)) :=
  exec_slot rfl rfl hv ha (by simp [restoreRow, hop]) hbad

end Commands

/-! ### The statement -/

/-- Settles O13. It holds: with nothing to end and nothing to recall, a REVOKE is its fence and a wait for the requests accepted before it. -/
theorem revokeAndRestore : Obligations.RevokeAndRestore := by
  refine ⟨?_, ?_, ?_⟩
  · intro s v k cmd p dpa len d hv ha hop hp hdpa hlen hpage hpages hpos hroom hd
    have hroom' : ((v.ready cmd).port p).fences.length < Config.maxFences := by
      rwa [ready_port_keeps (g := HostPort.fences) (fun _ _ _ _ => rfl)]
    have hruns (hin : (v.dev.takeCmd cmd).areaIn p dpa len = true ∨ (slotOfExtent dpa len).isSome = true) :=
      exec_revoke hv ha hop (revokeBad_false hp hdpa hlen hop hpage hpages hpos hin)
    refine ⟨fun hin hlow hclear => ?_, fun slot hslot hlease hidle hunheld => ?_⟩
    · have harea : (v.dev.takeCmd cmd).areaIn p dpa len = true := (takeCmd_areaIn _ _).trans (decide_eq_true hin)
      have hclear' : ∀ y ∈ (v.ready cmd).cmds.running, y.ref.port = p → y.ref ≠ cmd.ref → y.meets dpa len = false := fun y hy htarget hother => by
        rw [ready_running, List.mem_append, List.mem_singleton] at hy
        rcases hy with hy | rfl
        · exact hclear y hy htarget
        · exact absurd rfl hother
      rw [hruns (.inl harea), revokeRun_partition hp hdpa hlen hroom' (slotOfExtent_below hlow len) hclear', hd]
      rfl
    · rw [hruns (.inr (by rw [hslot]; rfl)), revokeRun_commons hp hdpa hlen hroom' hslot (by rwa [ready_com?]) (by rwa [ready_com]) (by rwa [ready_com]), hd]
      rfl
  · intro s v t p r slot dpa len tf hv hwaits
    exact exec_onDev rfl rfl hv (fenceSet_ends hwaits)
  · intro s v k cmd p hv ha hop hp hbad
    rw [exec_restore hv ha hop hbad, restoreRun_removes hp]

end Sys2Proof.Proofs

/-! SUPPORT. Leases of a commons slot while no snoop of it is awaited: mem.publish, expiry, the refill and a snoop's answer, and the statement about them. -/

namespace Sys2Proof.Proofs

open Sys2Proof Sys2Proof.Machine Sys2Proof.Laws

/-! ### The end of a lease -/

section Ends
variable {c : Clock} {d : Dev} {slot : Nat} {x : ComState}

/-- The device once a slot has no holder. -/
def leaseCleared (d : Dev) (slot : Nat) : Dev := d.setHeader slot fun y => { y with leasePort := none }

/-- The device once the lines of a lease's holder have been recalled. -/
def holderRecalled (d : Dev) (slot : Nat) (q : Port) : Dev := (d.recall slot fun o _ => o = q).2

theorem endLease_free (hx : d.com? slot = some x) (hfree : x.leasePort = none) (released : Bool) (why : ComWhy) :
    d.endLease c slot released why = d.comGoOn c slot why := by
  simp only [Dev.endLease, hx, Option.bind_some, hfree, comWait_nil]

/-- A lease that ends while nothing of the slot is owned or awaited ends at once, with a record unless it is released (R302, R313). -/
theorem endLease_held {q : Port} (hx : d.com? slot = some x) (hheld : x.leasePort = some q) (hidle : ∀ w ∈ d.com.waits, w.slot ≠ slot)
    (hshared : ∀ l ∈ d.com.held, l.slot = slot → l.own = false) (released : Bool) (why : ComWhy) :
    d.endLease c slot released why =
      (if released then holderRecalled d slot q else (holderRecalled d slot q).logLease c q slot).comGoOn c slot why := by
  simp only [Dev.endLease, hx, Option.bind_some, hheld, recall_shared hidle hshared, comWait_nil]
  rfl

/-- A new lease (R303): the next generation, its end, and the refill from line 0 unless the draft is kept. -/
def leased (x : ComState) (now : Nat) (p : Port) (keep : Bool) : ComState :=
  { x with leaseGen := x.leaseGen + 1, leasePort := some p, leaseEnd := if x.leaseNs = 0 then 0 else now + x.leaseNs,
           refill := if keep = true then x.refill else some 0, done := if keep = true then x.done else [] }

theorem grantLease_leases (hx : d.com? slot = some x) (c : Clock) (r : Ref) (p : Port) (keep : Bool) :
    ∃ e : Dev, d.grantLease c r slot p keep = e.endPublish c r slot stOk ∧ e.com? slot = some (leased x c.now p keep) :=
  ⟨_, rfl, by rw [setHeader_com?, hx]; rfl⟩

/-! ### PUBLISH -/

theorem flip_poisoned (hx : d.com? slot = some x) (hbad : x.bad x.draftB ≠ []) (c : Clock) (r : Ref) :
    d.flip c r slot = d.endPublish c r slot stPoison := by
  simp only [Dev.flip, hx, List.isEmpty_eq_false_iff.mpr hbad, Bool.not_false, if_true]

/-- The draft is published: the next version, in the other buffer, whose refill begins (R304, steps 3 and 4). -/
def flipped (x : ComState) (now : Nat) : ComState :=
  { x with version := x.version + 1, curB := !x.curB, flipNs := now, epochA := if x.curB then x.epochA else x.epochA + 1,
           epochB := if x.curB then x.epochB + 1 else x.epochB, refill := some 0, done := [] }

theorem flip_flips (hx : d.com? slot = some x) (hgood : x.bad x.draftB = []) (c : Clock) (r : Ref) :
    ∃ e : Dev, d.flip c r slot = e.endPublish c r slot stOk ∧ e.com? slot = some (flipped x c.now) := by
  refine ⟨(d.setHeader slot fun y => flipped y c.now).count 77 0 1, ?_, ?_⟩
  · simp only [Dev.flip, hx, hgood, List.isEmpty_nil, Bool.not_true, Bool.false_eq_true, if_false]
    rfl
  · rw [Dev.com?, count_com, ← Dev.com?, setHeader_com?, hx]
    rfl

theorem publishStep_shared {p : Port} (hx : d.com? slot = some x) (hidle : ∀ w ∈ d.com.waits, w.slot ≠ slot)
    (hshared : ∀ l ∈ d.com.held, l.slot = slot → l.own = false) (c : Clock) (r : Ref) :
    d.publishStep c r slot p = (d.recall slot fun o line => o = p && x.inDraft line).2.flip c r slot := by
  simp only [Dev.publishStep, hx, recall_shared hidle hshared, List.isEmpty_nil, if_true]

end Ends

/-! ### The operations of mem.publish -/

section Operations
variable {c : Clock} {d : Dev} {cmd : Cmd} {x : ComState} (hx : d.com? (cmd.f 0x40 1) = some x) (hauth : x.writeMask.getLsbD cmd.ref.port.val = true)
include hx hauth

/-- ACQUIRE of a lease that nobody holds or that has expired, and BREAK of any, end the old lease first (R301, R302). -/
theorem publishOp_takes (hop : (cmd.f 0x41 1 = 0 ∧ (x.leasePort = none ∨ x.expired c.now = true)) ∨ cmd.f 0x41 1 = 4) :
    d.publishOp c cmd = d.endLease c (cmd.f 0x40 1) false (.acquire cmd.ref cmd.ref.port (cmd.e 0x42 1 = 1)) := by
  rcases hop with ⟨hop, hfree⟩ | hop
  · have hopen : (x.leasePort.isSome && !(x.expired c.now)) = false := by
      rcases hfree with h | h <;> simp [h]
    simp only [Dev.publishOp, hx, hauth, hop, hopen, Bool.not_true, Bool.false_eq_true, if_false]
  · simp only [Dev.publishOp, hx, hauth, hop, Bool.not_true, Bool.false_eq_true, if_false]

variable (hheld : x.leasePort = some cmd.ref.port) (hlive : x.expired c.now = false) (hgen : cmd.f 0x48 8 = x.leaseGen)
include hheld hlive hgen

theorem publishOp_renew (hop : cmd.f 0x41 1 = 1) : d.publishOp c cmd =
    (d.setHeader (cmd.f 0x40 1) fun y => { y with leaseEnd := if y.leaseNs = 0 then 0 else c.now + y.leaseNs }).endPublish c cmd.ref (cmd.f 0x40 1) stOk := by
  simp only [Dev.publishOp, hx, hauth, hop, hheld, hlive, hgen, decide_true, Bool.not_true, Bool.not_false, Bool.and_self, Bool.false_eq_true, if_false, if_true]

theorem publishOp_publish (hop : cmd.f 0x41 1 = 2) : d.publishOp c cmd = d.publishStep c cmd.ref (cmd.f 0x40 1) cmd.ref.port := by
  simp only [Dev.publishOp, hx, hauth, hop, hheld, hlive, hgen, decide_true, Bool.not_true, Bool.not_false, Bool.and_self, Bool.false_eq_true, if_false, if_true]

theorem publishOp_release (hop : cmd.f 0x41 1 = 3) : d.publishOp c cmd = d.endLease c (cmd.f 0x40 1) true (.release cmd.ref) := by
  simp only [Dev.publishOp, hx, hauth, hop, hheld, hlive, hgen, decide_true, Bool.not_true, Bool.not_false, Bool.and_self, Bool.false_eq_true, if_false, if_true]

end Operations

section Publish
variable {i : Instr} {op : Nat} {s v : State} {k : Take} {cmd : Cmd} {x : ComState}

/-- A mem.publish on a slot that awaits no snoop, past the checks that all operations share (R301, R304). -/
structure IdlePublish (k : Take) (v : State) (cmd : Cmd) (x : ComState) : Prop where
  accepted : Accepted k 0x0801 v cmd
  slot : cmd.f 0x40 1 ≤ 63
  result : 16 ≤ cmd.resultLen
  keep : cmd.e 0x42 1 ≤ 1
  com : v.dev.com? (cmd.f 0x40 1) = some x
  idle : ∀ w ∈ v.dev.com.waits, w.slot ≠ cmd.f 0x40 1

/-- Such an operation runs at once; BREAK has the expert form alone (R301, R304). -/
theorem exec_publishOp (h : IdlePublish k v cmd x) (hv : v = s.tick k.t)
    (hi : exec i s = happens i k.t (·.onDev (runSlot 0x0801 (publishRow op) publishBad noAreas publishRun k)) s) (hwf : i.wf = true)
    (hop : cmd.f 0x41 1 = op) (hform : op < 4 ∨ op = 4 ∧ cmd.expert = true) :
    exec i s = .next (v.ran cmd ((v.ready cmd).publishOp v.clk cmd)) := by
  obtain ⟨ha, hslot, hlen, hkeep, hx, hidle⟩ := h
  have hbad : publishBad v.clk (v.dev.takeCmd cmd) cmd = false := by
    have hx' : (v.dev.takeCmd cmd).com? (cmd.f 0x40 1) = some x := hx
    have hexp : (decide (op = 4) && !cmd.expert) = false := by
      rcases hform with h | ⟨-, h⟩
      · rw [decide_eq_false (by omega), Bool.false_and]
      · rw [h, Bool.not_true, Bool.and_false]
    have hop4 : op ≤ 4 := by omega
    simp only [publishBad, hx', hop, hexp, Option.isNone_some, decide_eq_false (Nat.not_lt.mpr hslot), decide_eq_false (Nat.not_lt.mpr hop4),
      decide_eq_false (Nat.not_lt.mpr hlen), decide_eq_false (Nat.not_lt.mpr hkeep), Bool.or_self]
  have hfree : (v.ready cmd).comBusy (cmd.f 0x40 1) = false := comBusy_idle (by rwa [ready_com])
  have hrun : publishRun v.clk (v.ready cmd) cmd = (v.ready cmd).publishOp v.clk cmd := by
    simp only [publishRun, hfree, Bool.false_eq_true, if_false]
  rw [← hrun]
  exact exec_slot hi hwf hv ha (by simp [publishRow, hop]) hbad

end Publish

/-! ### Expiry, refill and answers -/

section Timers
variable {c : Clock} {d : Dev} {n : ComSlot} {x : ComState}

theorem leaseExpiry_ends {p : Port} (hx : d.com? n.val = some x) (hheld : x.leasePort = some p) (hlate : x.expired c.now = true)
    (hidle : ∀ w ∈ d.com.waits, w.slot ≠ n.val) (hshared : ∀ l ∈ d.com.held, l.slot = n.val → l.own = false) :
    leaseExpiry n c d = leaseCleared ((holderRecalled d n.val p).logLease c p n.val) n.val := by
  have hends := endLease_held (c := c) hx hheld hidle hshared false .leaseEnd
  simp only [leaseExpiry, hx, hheld, hlate, comBusy_idle hidle, Option.isSome_some, Bool.not_false, Bool.and_self, if_true, hends]
  rfl

/-- A slot once the refill has copied its next line (R305). -/
def refilled (line : Nat) (x : ComState) : ComState :=
  let y := if x.done.contains line then x else x.copyLine line
  if line + 1 ≥ x.len / 64 then { y with refill := none, done := [] }
  else { y with refill := some (line + 1), done := y.done.filter fun l => l != line }

theorem commonsRefill_copies {line : Nat} (hx : d.com? n.val = some x) (hnext : x.refill = some line) (hin : line < x.len / 64) (hnew : line ∉ x.done) :
    commonsRefill n line c d = (d.snoopOthers n.val (bufLine x.draftB + line) none).updCom n.val (refilled line) := by
  have hnew' : x.done.contains line = false := by simpa using hnew
  simp only [commonsRefill, hx, hnext, bne_self_eq_false, decide_eq_false (Nat.not_le.mpr hin), ge_iff_le, Bool.or_self, Bool.false_eq_true, if_false, hnew']
  rfl

theorem setBuf_buf (x : ComState) (b b' : Bool) (m : Mem) (ps : List Nat) : (x.setBuf b m ps).buf b' = if b' = b then m else x.buf b' := by
  cases b <;> cases b' <;> rfl

theorem setBuf_bad (x : ComState) (b b' : Bool) (m : Mem) (ps : List Nat) : (x.setBuf b m ps).bad b' = if b' = b then ps else x.bad b' := by
  cases b <;> cases b' <;> rfl

theorem curB_ne_draftB (x : ComState) : x.curB ≠ x.draftB := by simp [ComState.draftB]

/-- The draft takes the published line's bytes and its poison mark; the published buffer stays (R305). -/
theorem copyLine_buf (x : ComState) (line : Nat) (b : Bool) : (x.copyLine line).buf b =
    if b = x.draftB then Mem.wrs (x.buf x.draftB) (64 * line) (Mem.rds (x.buf x.curB) (64 * line) 64) else x.buf b := by
  simp only [ComState.copyLine, ComState.writeLine]
  split
  · rw [setBuf_buf, setBuf_buf, setBuf_buf, if_pos rfl]
    split <;> rfl
  · exact setBuf_buf _ _ _ _ _

theorem copyLine_bad (x : ComState) (line : Nat) (b : Bool) : (x.copyLine line).bad b =
    if b = x.draftB then (if line ∈ x.bad x.curB then line :: (x.bad x.draftB).filter (fun l => l != line) else (x.bad x.draftB).filter fun l => l != line)
    else x.bad b := by
  simp only [ComState.copyLine, ComState.writeLine, List.contains_iff_mem]
  split
  · rw [setBuf_bad, setBuf_bad, setBuf_bad, if_pos rfl]
    split <;> rfl
  · exact setBuf_bad _ _ _ _ _

theorem refilled_buf {line : Nat} (hnew : line ∉ x.done) (b : Bool) : (refilled line x).buf b = (x.copyLine line).buf b := by
  have hnew' : x.done.contains line = false := by simpa using hnew
  simp only [refilled, hnew', Bool.false_eq_true, if_false]
  split <;> rfl

theorem refilled_bad {line : Nat} (hnew : line ∉ x.done) (b : Bool) : (refilled line x).bad b = (x.copyLine line).bad b := by
  have hnew' : x.done.contains line = false := by simpa using hnew
  simp only [refilled, hnew', Bool.false_eq_true, if_false]
  split <;> rfl

theorem refilled_refill (x : ComState) (line : Nat) : (refilled line x).refill = if line + 1 < x.len / 64 then some (line + 1) else none := by
  simp only [refilled, ge_iff_le]
  split
  next hend => exact (if_neg (Nat.not_lt.mpr hend)).symm
  next hmore => exact (if_pos (Nat.lt_of_not_le hmore)).symm

theorem refilled_draft_rd {line : Nat} (hnew : line ∉ x.done) (hw : Mem.wf (x.buf x.draftB) = true) (a : Nat) : Mem.rd ((refilled line x).buf x.draftB) a =
    Mem.rd (if 64 * line ≤ a ∧ a < 64 * line + 64 then x.buf x.curB else x.buf x.draftB) a := by
  rw [refilled_buf hnew, copyLine_buf, if_pos rfl, rd_wrs_line hw _ (rds_length _ _ _)]
  split
  next hin => rw [rds_getD _ _ (by omega), Nat.add_sub_cancel' hin.1]
  next => rfl

theorem refilled_draft_bad {line : Nat} (hnew : line ∉ x.done) : line ∈ (refilled line x).bad x.draftB ↔ line ∈ x.bad x.curB := by
  rw [refilled_bad hnew, copyLine_bad, if_pos rfl]
  split
  next hbad => simp [hbad]
  next hgood => simp [hgood]

/-- The slot with the bytes that an answer brings (R302, R304). -/
def withAnswer (d : Dev) (slot line : Nat) (data : Option (List Byte)) : Dev :=
  match data with
  | none => d
  | some bs => d.updCom slot fun y => y.writeBack line bs

/-- An answer with more of them awaited only takes its line from the wait (R304). -/
theorem bisnpResponse_partial {p : Port} {line : Nat} {data : Option (List Byte)} {w : ComWait} (hwaits : d.com.waits = [w]) (hslot : w.slot = n.val)
    (hline : (p, line) ∈ w.lines) (hmore : ∃ y ∈ w.lines, y ≠ (p, line)) (hqueue : d.com.queue = []) :
    bisnpResponse p n line data c d = { withAnswer d n.val line data with
      com := { (withAnswer d n.val line data).com with waits := [{ w with lines := w.lines.filter fun y => y != (p, line) }] } } := by
  have hopen : (w.lines.filter fun y => y != (p, line)).isEmpty = false := by
    obtain ⟨y, hy, hne⟩ := hmore
    exact List.isEmpty_eq_false_iff.mpr (List.ne_nil_of_mem (List.mem_filter.mpr ⟨hy, by simpa using hne⟩))
  cases data with
  | none | some => simp [bisnpResponse, hwaits, hslot, hline, hopen, withAnswer, Dev.comQueue, hqueue, Dev.updCom]

end Timers

/-! ### The statement -/

/-- Settles O12. It holds: with nothing owned of the slot and no snoop of it awaited, a recall awaits nothing and each operation goes on at once. -/
theorem leases : Obligations.Leases := by
  refine ⟨⟨?_, ?_⟩, ?_, ⟨?_, ?_⟩, ?_⟩
  · intro s v k cmd slot keep x hv ha hslot hle hlen hexpert hkeep hx hidle hauth hshared
    subst hslot hkeep
    have hruns : IdlePublish k v cmd x := ⟨ha, hle, hlen, hexpert, hx, hidle⟩
    have hx' := (ready_com? v cmd _).trans hx
    have htakes := publishOp_takes (c := v.clk) hx' hauth
    refine ⟨fun hfree d hd => ?_, fun q d hheld hd => ?_⟩
    · have hends := (endLease_free (c := v.clk) hx' hfree false (.acquire cmd.ref cmd.ref.port (cmd.e 0x42 1 = 1))).trans hd.symm
      refine ⟨fun hop => ?_, fun hop hform => ?_⟩
      · rw [exec_publishOp hruns hv rfl rfl hop (.inl (by decide)), htakes (.inl ⟨hop, .inl hfree⟩), hends]
      · rw [exec_publishOp hruns hv rfl rfl hop (.inr ⟨rfl, hform⟩), htakes (.inr hop), hends]
    · have hends := (endLease_held (c := v.clk) hx' hheld (by rwa [ready_com]) (by rwa [ready_com]) false
        (.acquire cmd.ref cmd.ref.port (cmd.e 0x42 1 = 1))).trans hd.symm
      refine ⟨fun hop hlate => ?_, fun hop hform => ?_⟩
      · rw [exec_publishOp hruns hv rfl rfl hop (.inl (by decide)), htakes (.inl ⟨hop, .inr hlate⟩), hends]
      · rw [exec_publishOp hruns hv rfl rfl hop (.inr ⟨rfl, hform⟩), htakes (.inr hop), hends]
  · exact fun d c r slot p keep x hx => grantLease_leases hx c r p keep
  · intro s v k cmd slot x hv ha hslot hle hlen hexpert hx hidle hauth hheld hlive hgen hshared
    subst hslot
    have hruns : IdlePublish k v cmd x := ⟨ha, hle, hlen, hexpert, hx, hidle⟩
    have hx' := (ready_com? v cmd _).trans hx
    have hidle' : ∀ w ∈ (v.ready cmd).com.waits, w.slot ≠ cmd.f 0x40 1 := by rwa [ready_com]
    have hshared' : ∀ l ∈ (v.ready cmd).com.held, l.slot = cmd.f 0x40 1 → l.own = false := by rwa [ready_com]
    refine ⟨fun hop => ?_, fun hop => ?_, fun hop => ?_, fun hbad d hd => flip_poisoned hd hbad v.clk cmd.ref, fun hgood d hd => flip_flips hd hgood v.clk cmd.ref⟩
    · rw [exec_publishOp hruns hv rfl rfl hop (.inl (by decide)), publishOp_renew hx' hauth hheld hlive hgen hop]
    · rw [exec_publishOp hruns hv rfl rfl hop (.inl (by decide)), publishOp_release hx' hauth hheld hlive hgen hop,
        endLease_held hx' hheld hidle' hshared']
      rfl
    · rw [exec_publishOp hruns hv rfl rfl hop (.inl (by decide)), publishOp_publish hx' hauth hheld hlive hgen hop,
        publishStep_shared hx' hidle' hshared']
  · intro s v t c x p hv hx hheld hlate hidle hshared
    exact exec_onDev rfl rfl hv (leaseExpiry_ends hx hheld hlate hidle hshared)
  · intro s v t c x line hv hx hnext hin hnew hwA hwB
    have hw : Mem.wf (x.buf x.draftB) = true := by
      unfold ComState.buf
      split
      · exact hwB
      · exact hwA
    refine ⟨refilled line, _, exec_onDev rfl rfl hv (commonsRefill_copies hx hnext hin hnew), rfl, refilled_refill x line, ?_, ?_,
      refilled_draft_rd hnew hw, refilled_draft_bad hnew⟩
    · rw [refilled_buf hnew, copyLine_buf, if_neg (curB_ne_draftB x)]
    · rw [refilled_bad hnew, copyLine_bad, if_neg (curB_ne_draftB x)]
  · intro s v t p c line data w x hv hform hwaits hslot hline hmore hqueue hx
    have hwf : (Instr.bisnpResponse t p c line data).wf = true := by
      cases data with
      | none => rfl
      | some bs => exact decide_eq_true (hform bs rfl)
    refine ⟨_, exec_onDev rfl hwf hv (bisnpResponse_partial hwaits hslot hline hmore hqueue), ?_, rfl, ?_, fun bs hbs => ?_⟩
    · cases data <;> rfl
    · cases data <;> rfl
    · subst hbs
      exact ⟨_, (updCom_com? v.dev c.val fun y => y.writeBack line bs).trans (congrArg (Option.map _) hx), rfl⟩

end Sys2Proof.Proofs

/-! SUPPORT. One flash channel among the 32: what a change of it leaves to be read, there and on the others. -/

namespace Sys2Proof.Proofs

open Sys2Proof Sys2Proof.Machine Sys2Proof.Laws

theorem vgetD_fin {α : Type} {n : Nat} (v : Vector α n) (i : Fin n) (x : α) : vgetD v i.val x = v[i] := dif_pos i.isLt

theorem vupdN_fin {α : Type} {n : Nat} (v : Vector α n) (i : Fin n) (f : α → α) : vupdN v i.val f = v.set i.val (f v[i]) := dif_pos i.isLt

section Channels
variable {d e : Dev} {c : Chan} {f g : FChan → FChan}

theorem chan_fin (d : Dev) (c : Chan) : d.chan c.val = d.flash.chans[c] := vgetD_fin _ _ _

theorem chan_congr (h : d.flash = e.flash) (n : Nat) : d.chan n = e.chan n := by simp only [Dev.chan, h]

@[simp] theorem chan_count (d : Dev) (k i n m : Nat) : (d.count k i n).chan m = d.chan m := chan_congr (count_flash d k i n) m

@[simp] theorem chan_journal (d : Dev) (k : Clock) (r : JRec) (n : Nat) : (d.journal k r).chan n = d.chan n := rfl

theorem updChan_fin (d : Dev) (c : Chan) (f : FChan → FChan) :
    d.updChan c.val f = { d with flash := { d.flash with chans := d.flash.chans.set c.val (f (d.chan c.val)) } } := by
  rw [Dev.updChan, vupdN_fin, chan_fin]

@[simp] theorem chan_updChan_same (d : Dev) (c : Chan) (f : FChan → FChan) : (d.updChan c.val f).chan c.val = f (d.chan c.val) := by
  rw [updChan_fin, chan_fin]
  exact Vector.getElem_set_self c.isLt

/-- A change of a channel depends on the function only at that channel. -/
theorem updChan_congr (h : f (d.chan c.val) = g (d.chan c.val)) : d.updChan c.val f = d.updChan c.val g := by
  rw [updChan_fin, updChan_fin, h]

theorem updChan_updChan (d : Dev) (c : Chan) (f g : FChan → FChan) : (d.updChan c.val f).updChan c.val g = d.updChan c.val fun x => g (f x) := by
  rw [updChan_fin, chan_updChan_same, updChan_fin, updChan_fin]
  simp only [Vector.set_set]

end Channels

end Sys2Proof.Proofs

/-! SUPPORT. flash.format, flash.discard and flash.health: which branch each takes once it is accepted, and the statement about them. -/

namespace Sys2Proof.Proofs

open Sys2Proof Sys2Proof.Machine Sys2Proof.Laws

theorem ready_flashInUse (v : State) (cmd : Cmd) : (v.ready cmd).flashInUse = v.dev.flashInUse := by
  simp only [Dev.flashInUse, ready_flash, ready_leaves]

theorem ready_journalTested (v : State) (cmd : Cmd) : (v.ready cmd).journalTested = v.dev.journalTested := by
  simp only [Dev.journalTested, ready_tst]

section Commands
variable {s v : State} {k : Take} {cmd : Cmd} {c : Clock} {d : Dev}

/-! ### flash.format -/

theorem exec_flashFormat (hv : v = s.tick k.t) (ha : Accepted k 0x0900 v cmd) (hflash : v.dev.flash.noFlash = false) :
    exec (.flashFormat k) s = .next (v.ran cmd (flashFormatRun v.clk (v.ready cmd) cmd)) := exec_slot rfl rfl hv ha rfl hflash

/-- A format takes flash that is not in use, by one flash command at a time (R346). -/
def formatBarred (d : Dev) (r : Ref) : Bool := d.flashInUse || d.flash.format.isSome || d.flashCmdBefore r

theorem formatBarred_ready : formatBarred (v.ready cmd) cmd.ref = true ↔
    v.dev.flashInUse = true ∨ v.dev.flash.format ≠ none ∨ (v.ready cmd).flashCmdBefore cmd.ref = true := by
  simp only [formatBarred, ready_flashInUse, ready_flash, Bool.or_eq_true, Option.isSome_iff_ne_none, or_assoc]

theorem formatBarred_ready_false (huse : v.dev.flashInUse = false) (hformat : v.dev.flash.format = none) (hbefore : (v.ready cmd).flashCmdBefore cmd.ref = false) :
    formatBarred (v.ready cmd) cmd.ref = false := by
  simp only [formatBarred, ready_flashInUse, ready_flash, huse, hformat, hbefore, Option.isSome_none, Bool.or_self]

/-- A working channel drops its work and erases every good block (R346). -/
def erasingAll (x : FChan) : FChan :=
  if x.serving then { x with erases := (x.blocks.filter fun b => b.mode != .retired).map (·.no), progs := [], reads := [], jobs := [], queue := [] } else x

theorem erasingAll_serving {x : FChan} (h : x.serving = true) : (erasingAll x).erases = (x.blocks.filter fun b => b.mode != .retired).map (·.no) := by
  rw [erasingAll, if_pos h]

theorem erasingAll_off {x : FChan} (h : x.serving = false) : erasingAll x = x := if_neg (by rw [h]; decide)

/-- The format of a command has begun. -/
def formatting (d : Dev) (r : Ref) : Dev :=
  let chans := d.flash.chans.map erasingAll
  let n := natSum (chans.toList.map fun x => x.erases.length)
  { d with flash := { d.flash with chans := chans, format := some r, formatLeft := n, formatTotal := n, tail := [], inflight := [] } }

theorem formatting_chans (d : Dev) (r : Ref) (i : Chan) : (formatting d r).flash.chans[i] = erasingAll d.flash.chans[i] := Vector.getElem_map _ i.isLt

theorem flashFormatRun_refused (h : formatBarred d cmd.ref = true) : flashFormatRun c d cmd = d.refuse cmd.ref stBusy := if_pos h

theorem flashFormatRun_waits (h : formatBarred d cmd.ref = false) (ht : d.journalTested = true) : flashFormatRun c d cmd = d :=
  (if_neg (by rw [formatBarred] at h; rw [h]; decide)).trans (if_pos ht)

theorem flashFormatRun_starts (h : formatBarred d cmd.ref = false) (ht : d.journalTested = false) : flashFormatRun c d cmd = formatting d cmd.ref :=
  (if_neg (by rw [formatBarred] at h; rw [h]; decide)).trans (if_neg (by rw [ht]; decide))

/-! ### flash.discard -/

theorem exec_flashDiscard (hv : v = s.tick k.t) (ha : Accepted k 0x0901 v cmd) (hbad : flashDiscardBad v.clk (v.dev.takeCmd cmd) cmd = false) :
    exec (.flashDiscard k) s = .next (v.ran cmd (flashDiscardRun v.clk (v.ready cmd) cmd)) := exec_slot rfl rfl hv ha rfl hbad

/-- A unit of 16,384 bytes that lies wholly in the range (R341). -/
theorem mem_wholeUnits {off len u : Nat} (h : u ∈ wholeUnits off len) : off ≤ 16384 * u ∧ 16384 * u + 16384 ≤ off + len := by
  obtain ⟨hin, hend⟩ := List.mem_filter.mp h
  obtain ⟨i, -, hi⟩ := List.mem_map.mp hin
  have hend' := of_decide_eq_true hend
  simp only [Config.flashPage, Machine.ceilDiv] at hi hend'
  omega

/-- The whole units of a discard's range that the free value names (R341; log 27). -/
def discardedUnits (d : Dev) (cmd : Cmd) : List Nat :=
  ((wholeUnits (cmd.f 0x48 8) (cmd.f 0x50 8)).zipIdx.filter fun (x : Nat × Nat) => d.fresh.1.testBit (x.2 + 1)).map (·.1)

theorem discardedUnits_whole {u : Nat} (h : u ∈ discardedUnits d cmd) : u ∈ wholeUnits (cmd.f 0x48 8) (cmd.f 0x50 8) := by
  obtain ⟨x, hx, rfl⟩ := List.mem_map.mp h
  exact List.fst_mem_of_mem_zipIdx (List.mem_filter.mp hx).1

/-- What a discard that runs leaves, but for its own end: in the read-only state all of it (R339, R341). -/
def discarded (d : Dev) (cmd : Cmd) : Dev :=
  if d.flash.readOnly then d
  else d.fresh.2.unmapRange (regionKey (cmd.f 0x40 8)) (cmd.f 0x48 8) (cmd.f 0x50 8) (d.fresh.1.testBit 0) (discardedUnits d cmd)

theorem flashDiscardRun_waits (hformat : d.flash.format = none) (ht : d.journalTested = true) : flashDiscardRun c d cmd = d := by
  simp only [flashDiscardRun, hformat, ht, Option.isSome_none, Bool.false_eq_true, if_false, if_true]

theorem flashDiscardRun_ends (hformat : d.flash.format = none) (ht : d.journalTested = false) :
    flashDiscardRun c d cmd = (discarded d cmd).endCmd c cmd.ref stOk 0 0 [] := by
  simp only [flashDiscardRun, hformat, ht, Option.isSome_none, Bool.false_eq_true, if_false, discarded, discardedUnits]

/-! ### flash.health -/

theorem exec_flashHealth (hv : v = s.tick k.t) (ha : Accepted k 0x0902 v cmd) (hlen : 2112 ≤ cmd.resultLen) :
    exec (.flashHealth k) s = .next (v.ran cmd (flashHealthRun v.clk (v.ready cmd) cmd)) :=
  exec_slot rfl rfl hv ha rfl (decide_eq_false (Nat.not_lt.mpr hlen))

theorem flashHealthRun_waits (ht : d.journalTested = true) : flashHealthRun c d cmd = d := if_pos ht

theorem flashHealthRun_ends (ht : d.journalTested = false) : flashHealthRun c d cmd = (d.result cmd 0 (flashHealthBytes d)).endCmd c cmd.ref stOk 0 32 [] :=
  if_neg (by rw [ht]; decide)

end Commands

/-! ### The statement -/

/-- Settles O20. It holds: whether flash is in use, a format runs and a journal channel is under test decide the one branch that each command takes. -/
theorem flashCommands : Obligations.FlashCommands := by
  refine ⟨fun s v k cmd hv ha hflash huse hformat hbefore ht => ?_, fun s v k cmd hv ha hbad hformat ht => ?_, fun s v k cmd hv ha hlen ht => ?_,
    fun s v k cmd hv ht => ⟨fun ha hflash huse hformat hbefore => ?_, fun ha hbad hformat => ?_, fun ha hlen => ?_⟩, fun s v k cmd hv ha hflash h => ?_⟩
  · have hfree := formatBarred_ready_false huse hformat hbefore
    refine ⟨formatting (v.ready cmd) cmd.ref, ?_, rfl, rfl, rfl, fun c => ?_, rfl, rfl⟩
    · rw [exec_flashFormat hv ha hflash, flashFormatRun_starts hfree ((ready_journalTested v cmd).trans ht)]
    · rw [formatting_chans, ready_flash]
      exact ⟨erasingAll_serving, erasingAll_off⟩
  · refine ⟨discarded (v.ready cmd) cmd, (v.ready cmd).fresh.1.testBit 0, discardedUnits (v.ready cmd) cmd, ?_, fun u hu => mem_wholeUnits (discardedUnits_whole hu), ?_⟩
    · rw [exec_flashDiscard hv ha hbad, flashDiscardRun_ends (by rw [ready_flash, hformat]) ((ready_journalTested v cmd).trans ht)]
    · rw [discarded, ready_flash]
  · rw [exec_flashHealth hv ha hlen, flashHealthRun_ends ((ready_journalTested v cmd).trans ht)]
  · have hfree := formatBarred_ready_false huse hformat hbefore
    rw [exec_flashFormat hv ha hflash, flashFormatRun_waits hfree ((ready_journalTested v cmd).trans ht)]
  · rw [exec_flashDiscard hv ha hbad, flashDiscardRun_waits (by rw [ready_flash, hformat]) ((ready_journalTested v cmd).trans ht)]
  · rw [exec_flashHealth hv ha hlen, flashHealthRun_waits ((ready_journalTested v cmd).trans ht)]
  · rw [exec_flashFormat hv ha hflash, flashFormatRun_refused (formatBarred_ready.mpr h)]

end Sys2Proof.Proofs

/-! SUPPORT. Reads, programs and erases that end: what each leaves of its channel and of the device beside flash and the counters; and the statement about them. -/

namespace Sys2Proof.Proofs

open Sys2Proof Sys2Proof.Machine Sys2Proof.Laws

/-! ### Beside flash and the counters -/

/-- Of the device nothing but flash and the counters has changed. -/
def MediaOnly (d e : Dev) : Prop := e = { d with flash := e.flash, cnt := e.cnt }

section Media
variable {d e : Dev}

theorem MediaOnly.refl (d : Dev) : MediaOnly d d := rfl

theorem MediaOnly.flash (h : MediaOnly d e) (f : Flash) : MediaOnly d { e with flash := f } := by
  rw [MediaOnly] at h
  rw [h, MediaOnly]

theorem MediaOnly.updChan (h : MediaOnly d e) (n : Nat) (f : FChan → FChan) : MediaOnly d (e.updChan n f) := h.flash _

theorem MediaOnly.journal (h : MediaOnly d e) (c : Clock) (r : JRec) : MediaOnly d (e.journal c r) := h.flash _

theorem MediaOnly.count (h : MediaOnly d e) (k i n : Nat) : MediaOnly d (e.count k i n) := by
  unfold Dev.count
  split
  · exact h
  · rw [MediaOnly] at h
    rw [h, MediaOnly]

end Media

/-! ### Sources that wait to be erased, and writes that wait -/

theorem tryErase_noJob {d : Dev} {ch : Nat} (src : Nat) (h : (d.chan ch).jobs = []) : d.tryErase ch src = d := by
  simp only [Dev.tryErase, h, List.any_nil, Bool.false_and, Bool.false_eq_true, if_false]

theorem drainAll_noQueue {d : Dev} {ch : Nat} (h : (d.chan ch).queue = []) : d.drainAll ch = d := by
  rw [Dev.drainAll, h]
  rfl

/-! ### Reads -/

section Reads
variable {c : Clock} {d : Dev} {ch : Chan} {r : FRead} {n : Nat} {soft heavy : Bool} {bad : List (Fin 4)}

@[simp] theorem readBad_reads (x : FChan) (r : FRead) : (x.readBad r).reads = x.reads := by unfold FChan.readBad; split <;> rfl
@[simp] theorem readBad_map (x : FChan) (r : FRead) : (x.readBad r).map = x.map := by unfold FChan.readBad; split <;> rfl
@[simp] theorem readBad_blocks (x : FChan) (r : FRead) : (x.readBad r).blocks = x.blocks := by unfold FChan.readBad; split <;> rfl
@[simp] theorem readBad_jobs (x : FChan) (r : FRead) : (x.readBad r).jobs = x.jobs := by unfold FChan.readBad; split <;> rfl
@[simp] theorem readBad_refresh (x : FChan) (r : FRead) : (x.readBad r).refresh = x.refresh := by unfold FChan.readBad; split <;> rfl

/-- A failing read makes the unit uncorrectable while the page is still the unit's (R322). -/
theorem mem_badUnits_readBad {x : FChan} (h : (NMap.get? x.map r.unit).map (·.block) = some r.block) : r.unit ∈ (x.readBad r).badUnits := by
  unfold FChan.readBad
  by_cases hin : r.unit ∈ x.badUnits
  · simp [hin]
  · simp [h, hin]

/-- A channel after a read but for what its failing codewords do to the unit: a worn block is queued for refresh (R322, R337). -/
def readTaken (x : FChan) (r : FRead) (worn : Bool) (bad : Nat) : FChan :=
  { x with reads := x.reads.filter fun q => q.id != r.id, uncorrectable := x.uncorrectable + bad,
           refresh := if worn && !(x.refresh.contains r.block) then x.refresh ++ [r.block] else x.refresh }

theorem mem_refresh_readTaken (x : FChan) (r : FRead) (bad : Nat) : r.block ∈ (readTaken x r true bad).refresh := by
  by_cases h : r.block ∈ x.refresh <;> simp [readTaken, h]

/-- A channel once a read has ended (R322). -/
def readEnded (x : FChan) (r : FRead) (worn : Bool) (bad : List (Fin 4)) : FChan :=
  if bad.isEmpty then readTaken x r worn bad.length else (readTaken x r worn bad.length).readBad r

theorem readEnded_keeps {α : Type} (g : FChan → α) (h : ∀ x r, g (x.readBad r) = g x) (x : FChan) (r : FRead) (worn : Bool) (bad : List (Fin 4)) :
    g (readEnded x r worn bad) = g (readTaken x r worn bad.length) := by
  unfold readEnded
  split
  · rfl
  · exact h _ _

/-- The device once a read has ended and is counted, before what waits for it goes on (R322). -/
def readCounted (d : Dev) (ch : Chan) (r : FRead) (n : Nat) (soft heavy : Bool) (bad : List (Fin 4)) : Dev :=
  (((d.updChan ch.val fun x => readEnded x r (decide (1 < n) || heavy) bad).count 81 (4 * ch.val + r.cls) 1).count 82 ch.val (n + boolNat soft)).count 83 ch.val bad.length

theorem readCounted_media (d : Dev) (ch : Chan) (r : FRead) (n : Nat) (soft heavy : Bool) (bad : List (Fin 4)) :
    MediaOnly d (readCounted d ch r n soft heavy bad) :=
  ((((MediaOnly.refl d).updChan _ _).count _ _ _).count _ _ _).count _ _ _

theorem readCounted_chan (d : Dev) (ch : Chan) (r : FRead) (n : Nat) (soft heavy : Bool) (bad : List (Fin 4)) :
    (readCounted d ch r n soft heavy bad).chan ch.val = readEnded (d.chan ch.val) r (decide (1 < n) || heavy) bad := by
  simp only [readCounted, chan_count, chan_updChan_same]

theorem readCounted_flash (d : Dev) (ch : Chan) (r : FRead) (n : Nat) (soft heavy : Bool) (bad : List (Fin 4)) :
    (readCounted d ch r n soft heavy bad).flash = { d.flash with chans := d.flash.chans.set ch.val (readEnded (d.chan ch.val) r (decide (1 < n) || heavy) bad) } := by
  simp only [readCounted, count_flash, updChan_fin]

variable (hfind : ((d.chan ch.val).reads.find? fun q => q.id = r.id) = some r)
include hfind

/-- A read that is no traverse's, or ends well (R322). -/
theorem flashReadComplete_plain (hgood : r.cls ≠ 1 ∨ bad = []) :
    flashReadComplete ch r.id n soft heavy bad c d = (readCounted d ch r n soft heavy bad).tryErase ch.val r.block := by
  have htrav : (decide (r.cls = 1) && !bad.isEmpty) = false := by
    rcases hgood with h | h <;> simp [h]
  simp only [flashReadComplete, hfind, htrav, Bool.false_eq_true, if_false]
  rfl

/-- A traverse's read with a failing codeword abandons the traverse (R73). -/
theorem flashReadComplete_abandons {tr : Trav} (hcls : r.cls = 1) (hbad : bad ≠ []) (htr : (d.scan.travs.find? fun x => x.id = r.owner) = some tr) :
    flashReadComplete ch r.id n soft heavy bad c d = ((readCounted d ch r n soft heavy bad).abandonTrav tr).tryErase ch.val r.block := by
  have htrav : (decide (r.cls = 1) && !bad.isEmpty) = true := by simp [hcls, hbad]
  simp only [flashReadComplete, hfind, htrav, if_true, count_scan, updChan_scan, htr]
  rfl

end Reads

theorem find?_read {xs : List FRead} {r : FRead} (h : xs = [r]) : (xs.find? fun q => q.id = r.id) = some r := by simp [h]

/-- A retry count and its soft decode have the form that the row asks (R322). -/
theorem flashReadComplete_wf {t n rd : Nat} {ch : Chan} {soft heavy : Bool} {bad : List (Fin 4)} (hn : n ≤ 8) (hsoft : soft = true → n = 8) :
    (Instr.flashReadComplete t ch rd n soft heavy bad).wf = true := by
  cases soft with
  | false => simp [Instr.wf, hn]
  | true => simp [Instr.wf, hsoft rfl]

/-! ### Programs -/

/-- Who owns a unit of a channel depends on the extents alone (R323). -/
theorem ownerOf_congr {f g : Flash} (h : f.extents = g.extents) (ch unit : Nat) : f.ownerOf ch unit = g.ownerOf ch unit := by
  simp only [Flash.ownerOf, h]

theorem flashProgramComplete_maps {c : Clock} {d : Dev} {ch : Chan} {p : FProg} (hservice : d.service = true) (hpf : d.flash.pf = .idle)
    (hfind : (d.flash.chans[ch].progs.find? fun q => q.wseq = p.wseq) = some p) (hsrc : p.src = none) (howner : (d.flash.ownerOf ch.val p.unit).isSome = true) :
    flashProgramComplete ch p.wseq true c d =
      ((d.updChan ch.val fun x => x.programmed p).count 84 ch.val 1).journal c (.map ch.val p.unit p.block p.page p.wseq p.whole) := by
  rw [← chan_fin] at hfind
  have howner' : (((d.updChan ch.val fun x => x.programmed p).count 84 ch.val 1).flash.ownerOf ch.val p.unit).isSome = true := by
    rw [count_flash, ownerOf_congr (updChan_flash_extents _ _ _), howner]
  simp only [flashProgramComplete, hfind, Flash.held, hpf, hservice, bne_self_eq_false, Bool.not_true, Bool.or_self, Bool.false_eq_true, if_false, hsrc, howner', if_true]

/-! ### Erases -/

section Erases
variable {c : Clock} {d : Dev} {ch : Chan} {b : FBlock}

/-- A channel whose block no longer waits to be erased. -/
def eraseTaken (x : FChan) (no : Nat) : FChan := { x with erases := x.erases.filter fun b => b != no }

theorem noteBuffer_eq (x : FChan) (fx : Bool) : x.noteBuffer fx = { x with bufOver := (x.noteBuffer fx).bufOver } := by
  unfold FChan.noteBuffer
  split
  · rfl
  · split <;> rfl

@[simp] theorem noteBuffer_queue (x : FChan) (fx : Bool) : (x.noteBuffer fx).queue = x.queue := by rw [noteBuffer_eq]
@[simp] theorem noteBuffer_erases (x : FChan) (fx : Bool) : (x.noteBuffer fx).erases = x.erases := by rw [noteBuffer_eq]
@[simp] theorem noteBuffer_blocks (x : FChan) (fx : Bool) : (x.noteBuffer fx).blocks = x.blocks := by rw [noteBuffer_eq]

/-- A channel whose only block, no job's source, has been erased, on a node that is not in the fixed class (R330, R335). -/
def onlyErased (x : FChan) (b : FBlock) : FChan :=
  ({ eraseTaken x b.no with jobs := x.jobs.filter fun j => j.src != b.no,
                            blocks := [{ b with mode := .free, units := [], used := 0, erases := b.erases + 1 }] } : FChan).noteBuffer false

theorem freeBlock_only (c : Clock) (hblocks : (d.chan ch.val).blocks = [b]) (hclass : d.flash.fixedClass = false) :
    (d.updChan ch.val fun x => eraseTaken x b.no).freeBlock c ch.val b.no false =
      ((d.updChan ch.val fun x => onlyErased x b).count 85 ch.val 1).journal c (.erased ch.val b.no) := by
  have hclass' : (d.updChan ch.val fun x => eraseTaken x b.no).flash.fixedClass = false := hclass
  simp only [Dev.freeBlock, hclass', updChan_updChan]
  rw [updChan_congr]
  simp only [hblocks, updIf, onlyErased, eraseTaken, List.map_cons, List.map_nil, decide_true, if_true, Bool.false_and, Bool.false_eq_true, if_false]

/-- An erase that ends well of a channel's only block: no job has it, no format runs and no write waits (R335). -/
theorem flashEraseComplete_only (hservice : d.service = true) (hpf : d.flash.pf = .idle) (hformat : d.flash.format = none) (hclass : d.flash.fixedClass = false)
    (herases : (d.chan ch.val).erases = [b.no]) (hblocks : (d.chan ch.val).blocks = [b]) (hjobs : (d.chan ch.val).jobs = [])
    (hqueue : (d.chan ch.val).queue = []) :
    flashEraseComplete ch b.no true c d = ((d.updChan ch.val fun x => onlyErased x b).count 85 ch.val 1).journal c (.erased ch.val b.no) := by
  have hnow : (d.flash.held || !d.service || !((d.chan ch.val).erases.contains b.no)) = false := by simp [Flash.held, hpf, hservice, herases]
  have hnojob : (((d.updChan ch.val fun x => eraseTaken x b.no).chan ch.val).jobs.find? fun j => j.src = b.no).map (·.kind) = none := by
    rw [chan_updChan_same, eraseTaken, hjobs]
    rfl
  have hfreed : flashEraseComplete ch b.no true c d = ((d.updChan ch.val fun x => eraseTaken x b.no).freeBlock c ch.val b.no false).drainAll ch.val := by
    simp only [eraseTaken] at hnojob ⊢
    simp only [flashEraseComplete, hnow, updChan_flash_format, hformat, Bool.not_true, Bool.false_eq_true, if_false, hnojob]
    rfl
  rw [hfreed, freeBlock_only c hblocks hclass, drainAll_noQueue]
  rw [chan_journal, chan_count, chan_updChan_same, onlyErased, noteBuffer_queue]
  exact hqueue

end Erases

/-! ### The statement -/

/-- Settles O21. It holds: the one read, program or erase that the row names is found, and its end takes the one branch that the hypotheses leave. -/
theorem flashMediaEnds : Obligations.FlashMediaEnds := by
  refine ⟨⟨fun s v t c r n soft heavy bad hv hn hsoft hreads hgood hjobs => ?_, fun s v t c r n soft heavy bad tr hv hn hsoft hreads hcls hbad htr => ?_⟩,
    fun s v t c p hv hservice hpf hfind hsrc howner => ?_, fun s v t c b hv hservice hpf hformat hclass herases hblocks hjobs hqueue => ?_⟩
  · rw [← chan_fin] at *
    have hrun : flashReadComplete c r.id n soft heavy bad v.clk v.dev = readCounted v.dev c r n soft heavy bad := by
      rw [flashReadComplete_plain (find?_read hreads) hgood, tryErase_noJob]
      rw [readCounted_chan, readEnded_keeps (·.jobs) readBad_jobs, readTaken, hjobs]
    refine ⟨_, _, exec_onDev rfl (flashReadComplete_wf hn hsoft) hv hrun, readCounted_flash _ _ _ _ _ _ _, ?_, ?_, ?_, ?_, ?_, ?_, ?_, ?_⟩
    · rw [readEnded_keeps (·.reads) readBad_reads, readTaken, hreads]
      simp
    · rw [readEnded_keeps (·.map) readBad_map, readTaken]
    · rw [readEnded_keeps (·.blocks) readBad_blocks, readTaken]
    · rintro rfl
      rfl
    · intro hbad hpage
      rw [readEnded, if_neg (by simpa using hbad)]
      exact mem_badUnits_readBad hpage
    · intro hworn
      have hworn' : (decide (1 < n) || heavy) = true := by simpa using hworn
      rw [readEnded_keeps (·.refresh) readBad_refresh, hworn']
      exact mem_refresh_readTaken _ _ _
    · intro hfew hlight
      rw [readEnded_keeps (·.refresh) readBad_refresh, readTaken, hlight]
      simp [Nat.not_lt.mpr hfew]
    · exact congrArg (fun d => { v with dev := d }) (readCounted_media v.dev c r n soft heavy bad)
  · rw [← chan_fin] at *
    exact ⟨_, exec_onDev rfl (flashReadComplete_wf hn hsoft) hv (flashReadComplete_abandons (find?_read hreads) hcls hbad htr), readCounted_media _ _ _ _ _ _ _⟩
  · exact exec_onDev rfl rfl hv (flashProgramComplete_maps hservice hpf hfind hsrc howner)
  · rw [← chan_fin] at herases hblocks hjobs hqueue
    have hrun := flashEraseComplete_only (c := v.clk) hservice hpf hformat hclass herases hblocks hjobs hqueue
    set e := ((v.dev.updChan c.val fun x => onlyErased x b).count 85 c.val 1).journal v.clk (.erased c.val b.no) with he
    have hmedia : MediaOnly v.dev e := (((MediaOnly.refl _).updChan _ _).count _ _ _).journal _ _
    have hflash : e.flash = { v.dev.flash with chans := v.dev.flash.chans.set c.val (onlyErased (v.dev.chan c.val) b),
                                               tail := v.dev.flash.tail ++ [(.erased c.val b.no, v.clk.now)] } := by
      simp only [he, Dev.journal, count_flash, updChan_fin]
    refine ⟨{ v with dev := e }, onlyErased (v.dev.chan c.val) b, exec_onDev rfl rfl hv hrun, by rw [hflash], ?_, noteBuffer_blocks _ _, by rw [hflash], ?_⟩
    · rw [onlyErased, noteBuffer_erases, eraseTaken, herases]
      simp
    · have hsame : e.flash = { v.dev.flash with chans := e.flash.chans, tail := e.flash.tail } := by rw [hflash]
      exact congrArg (fun d => { v with dev := d }) (hmedia.trans (congrArg (fun f => { v.dev with flash := f, cnt := e.cnt }) hsame))

end Sys2Proof.Proofs

/-! SUPPORT. What a request for a pool page can change: the pool, its queues, the counters and the page reads under way. -/

namespace Sys2Proof.Proofs

open Sys2Proof Sys2Proof.Machine Sys2Proof.Laws

/-- A part of the device that pool frames, their queues, the counters and new page reads leave alone. -/
structure PoolBlind {α : Type} (g : Dev → α) : Prop where
  pool : ∀ (d : Dev) (pool : List PoolFrame) (fills : List (Nat × Nat)) (waiting : List PoolWait),
    g { d with mem := { d.mem with pool := pool, fills := fills, waiting := waiting } } = g d
  count : ∀ (d : Dev) (k i n : Nat), g (d.count k i n) = g d
  tenant : ∀ (d : Dev) (j t n : Nat), g (d.countTenant j t n) = g d
  read : ∀ (d : Dev) (c unit cls owner : Nat), g (d.issueRead c unit cls owner) = g d

section Pool
variable {α : Type} {g : Dev → α} (h : PoolBlind g)
include h

theorem PoolBlind.takeFrame {d e : Dev} {f : PoolFrame} (he : d.takeFrame f = some e) : g e = g d := by
  unfold Dev.takeFrame at he
  split at he
  · cases he
    exact h.pool d _ _ _
  · split at he
    · cases he
    · cases he
      exact (h.count _ _ _ _).trans (h.pool d _ _ _)

theorem PoolBlind.waitPage (d : Dev) (w : PoolWait) : g (d.waitPage w) = g d := by
  unfold Dev.waitPage
  split
  · rfl
  · exact h.pool d _ _ _

theorem PoolBlind.readUnit (d : Dev) (key idx cls owner : Nat) : g (d.readUnit key idx cls owner) = g d := by
  unfold Dev.readUnit
  split
  · rfl
  · exact h.read _ _ _ _ _

theorem PoolBlind.fillPage (d : Dev) (c : Clock) (w : PoolWait) : g (d.fillPage c w) = g d := by
  unfold Dev.fillPage
  split
  · exact h.pool d _ _ _
  split
  · exact h.waitPage d w
  split
  · exact h.waitPage d w
  next d1 htake =>
    refine (h.tenant _ _ _ _).trans ((h.pool _ _ _ _).trans ?_)
    refine (foldl_keeps g (fun b a => h.readUnit b _ _ _ _) _ _).trans ?_
    refine (foldl_keeps (fun x : Dev × List Nat => g x.1) (fun acc p => ?_) _ _).trans (h.takeFrame htake)
    split
    next y hy => exact h.takeFrame hy
    · rfl

theorem PoolBlind.retryPool (d : Dev) (c : Clock) : g (d.retryPool c) = g d :=
  (foldl_keeps g (fun b w => h.fillPage b c w) _ _).trans (h.pool d _ _ _)

end Pool

/-- Flash but for the page reads under way. -/
def stillFlash (f : Flash) : Flash := { f with chans := f.chans.map fun x => { x with reads := [] }, nextRead := 0 }

theorem stillFlash_reads (f : Flash) (c n : Nat) (reads : FChan → List FRead) :
    stillFlash { f with chans := vupdN f.chans c fun x => { x with reads := reads x }, nextRead := n } = stillFlash f := by
  have hchans : (vupdN f.chans c fun x => { x with reads := reads x }).map (fun x => { x with reads := [] }) = f.chans.map fun x => { x with reads := [] } :=
    vupdN_map (by intro x; rfl) _ _
  simp only [stillFlash, hchans]

theorem issueRead_still (d : Dev) (c unit cls owner : Nat) : stillFlash (d.issueRead c unit cls owner).flash = stillFlash d.flash := by
  unfold Dev.issueRead
  split
  · rfl
  · exact stillFlash_reads d.flash c _ _

theorem still_poolBlind : PoolBlind fun d => stillFlash d.flash :=
  ⟨fun _ _ _ _ => rfl, fun _ _ _ _ => by simp only [count_flash], fun _ _ _ _ => by simp only [countTenant_flash], issueRead_still⟩

theorem leaves_poolBlind : PoolBlind fun d => d.leaves :=
  ⟨fun _ _ _ _ => rfl, count_leaves, countTenant_leaves, fun d c unit cls owner => by unfold Dev.issueRead; split <;> rfl⟩

theorem freeing_poolBlind : PoolBlind fun d => d.mem.freeing :=
  ⟨fun _ _ _ _ => rfl, fun _ _ _ _ => by simp only [count_mem], fun _ _ _ _ => by simp only [countTenant_mem], fun d c unit cls owner => by unfold Dev.issueRead; split <;> rfl⟩

theorem mdl_poolBlind : PoolBlind fun d => d.mdl := ⟨fun _ _ _ _ => rfl, count_mdl, countTenant_mdl, issueRead_mdl⟩

/-- The end of a unit's write leaves all that a request for a page leaves, while no region waits to be freed (R283, R284). -/
theorem PoolBlind.cleanUnit {α : Type} {g : Dev → α} (h : PoolBlind g) (d : Dev) (t : Clock) (c unit : Nat) (hfreeing : d.mem.freeing = []) :
    g (d.cleanUnit t c unit) = g d := by
  unfold Dev.cleanUnit
  split
  · rfl
  split
  · rfl
  next o _ =>
    simp only
    set e := ({ d with mem := { d.mem with pool := _ } } : Dev).count 67 0 _ with he
    have hfreeing' : (e.retryPool t).mem.freeing = [] := by rw [freeing_poolBlind.retryPool, he, count_mem, hfreeing]
    have hsweep : (e.retryPool t).sweepFrees t = e.retryPool t := by rw [Dev.sweepFrees, hfreeing']; rfl
    rw [hsweep, h.retryPool, he, h.count]
    exact h.pool d _ _ _

end Sys2Proof.Proofs

/-! SUPPORT. The journal's tail, what a durable MAP record does, and how a block begins to be emptied; and the statement about them. -/

namespace Sys2Proof.Proofs

open Sys2Proof Sys2Proof.Machine Sys2Proof.Laws

/-! ### The tail -/

/-- The records that fit are the oldest of the tail, in order (R325). -/
theorem tailFit_prefix (room : Nat) (rs : List (JRec × Nat)) : tailFit room rs <+: rs := by
  induction rs generalizing room with
  | nil => exact List.nil_prefix
  | cons r rs ih =>
    unfold tailFit
    split
    · exact List.cons_prefix_cons.mpr ⟨rfl, ih _⟩
    · exact List.nil_prefix

theorem tailFit_append_drop (room : Nat) (rs : List (JRec × Nat)) : tailFit room rs ++ rs.drop (tailFit room rs).length = rs :=
  List.prefix_iff_eq_append.mp (tailFit_prefix room rs)

section Tail
variable {c : Clock} {d : Dev}

/-- The records of a due tail that go out, and flash with them under way (R325). -/
def tailOut (d : Dev) : List JRec := (tailFit d.tailLimit d.flash.tail).map (·.1)
def flashSending (d : Dev) : Flash := { d.flash with tail := d.flash.tail.drop (tailOut d).length, inflight := tailOut d, firstDone := false }

theorem journalTailProgram_flash (hservice : d.service = true) (hnone : d.flash.inflight = []) (hdue : d.tailDue c = true) (hworks : d.journalWorks = true) :
    (journalTailProgram c d).flash = flashSending d := by
  have hgo : (!d.service || !d.flash.inflight.isEmpty || !(d.tailDue c) || !d.journalWorks) = false := by simp [hservice, hnone, hdue, hworks]
  simp only [journalTailProgram, hgo, Bool.false_eq_true, if_false, count_flash]
  rfl

theorem sending_all (d : Dev) : (flashSending d).inflight ++ (flashSending d).tail.map (·.1) = d.flash.tail.map (·.1) := by
  simp only [flashSending, tailOut, List.length_map, ← List.map_append, tailFit_append_drop]

theorem journalDurable_first (hservice : d.service = true) (hsome : d.flash.inflight ≠ []) :
    journalDurable false c d = { d with flash := { d.flash with firstDone := true } } := by
  simp [journalDurable, hservice, hsome]

theorem journalDurable_second (hservice : d.service = true) (hsome : d.flash.inflight ≠ []) (hfirst : d.flash.firstDone = true) :
    journalDurable true c d = d.recsDurable c := by
  simp [journalDurable, hservice, hsome, hfirst]

end Tail

/-! ### A durable MAP record -/

section Units
variable {x : FChan} {now unit : Nat} {m : FMap}

@[simp] theorem touchSeg_map (x : FChan) (now unit : Nat) : (x.touchSeg now unit).map = x.map := by simp only [FChan.touchSeg]; split <;> rfl
@[simp] theorem touchSeg_badUnits (x : FChan) (now unit : Nat) : (x.touchSeg now unit).badUnits = x.badUnits := by simp only [FChan.touchSeg]; split <;> rfl
@[simp] theorem touchSeg_jobs (x : FChan) (now unit : Nat) : (x.touchSeg now unit).jobs = x.jobs := by simp only [FChan.touchSeg]; split <;> rfl

theorem moveUnit_jobs (x : FChan) (now unit : Nat) (m : FMap) (whole : Bool) : (x.moveUnit now unit m whole).jobs = x.jobs := by
  unfold FChan.moveUnit
  split
  · rfl
  · exact touchSeg_jobs _ _ _

variable (hnew : ((NMap.get? x.map unit).map (·.wseq)).getD 0 < m.wseq)
include hnew

/-- The newest page of a unit is the unit's (R328). -/
theorem get?_moveUnit (whole : Bool) : NMap.get? (x.moveUnit now unit m whole).map unit = some m := by
  simp only [FChan.moveUnit, Nat.not_le.mpr hnew, if_false, touchSeg_map, get?_put_same]

/-- A unit written whole on a target that answers can be read again (R322). -/
theorem not_bad_moveUnit (hhere : ∃ b ∈ x.blocks, b.no = m.block) : unit ∉ (x.moveUnit now unit m true).badUnits := by
  have hany : (x.blocks.any fun b => b.no = m.block) = true := by simpa using hhere
  simp [FChan.moveUnit, Nat.not_le.mpr hnew, hany]

end Units

/-- A channel that differs in its reads alone. -/
theorem chan_of_stillFlash {d e : Dev} (h : stillFlash d.flash = stillFlash e.flash) (ch : Chan) :
    ({ d.chan ch.val with reads := [] } : FChan) = { e.chan ch.val with reads := [] } := by
  have hget (f : Flash) : (stillFlash f).chans[ch] = { f.chans[ch] with reads := [] } := Vector.getElem_map _ ch.isLt
  rw [chan_fin, chan_fin, ← hget, ← hget, h]

theorem lateUnit_noJob {d : Dev} {ch : Nat} (c : Clock) (block unit : Nat) (h : (d.chan ch).jobs = []) : d.lateUnit c ch block unit = d := by
  simp only [Dev.lateUnit, h, List.any_nil, Bool.not_false, if_true]

/-- A device whose unit has moved to a new page, with the record of it no longer under way (R326, R328). -/
def unitMoved (d : Dev) (c : Clock) (ch : Chan) (unit : Nat) (m : FMap) : Dev :=
  ({ d with flash := { d.flash with firstDone := false, inflight := [] } } : Dev).updChan ch.val fun x => x.moveUnit c.now unit m true

section Durable
variable {d : Dev} {c : Clock} {ch : Chan} {unit : Nat} {m : FMap} (hfreeing : d.mem.freeing = [])
include hfreeing

/-- Frames of the unit become clean; what that can change of flash is the page reads under way (R283). -/
theorem unitMoved_clean_flash : stillFlash ((unitMoved d c ch unit m).cleanUnit c ch.val unit).flash = stillFlash (unitMoved d c ch unit m).flash :=
  still_poolBlind.cleanUnit _ _ _ _ hfreeing

theorem unitMoved_clean_chan : ({ ((unitMoved d c ch unit m).cleanUnit c ch.val unit).chan ch.val with reads := [] } : FChan) =
    { (d.chan ch.val).moveUnit c.now unit m true with reads := [] } := by
  rw [chan_of_stillFlash (unitMoved_clean_flash hfreeing), unitMoved, chan_updChan_same]
  rfl

/-- A durable MAP record of an owned unit that no job empties (R326, R328). -/
theorem applyJRec_map (howner : (d.flash.ownerOf ch.val unit).isSome = true) (hjobs : (d.chan ch.val).jobs = []) :
    ({ d with flash := { d.flash with firstDone := false, inflight := [] } } : Dev).applyJRec c (.map ch.val unit m.block m.page m.wseq true) =
      (unitMoved d c ch unit m).cleanUnit c ch.val unit := by
  have howner' : (Flash.ownerOf { d.flash with firstDone := false, inflight := [] } ch.val unit).isSome = true := howner
  have hjobs' : (((unitMoved d c ch unit m).cleanUnit c ch.val unit).chan ch.val).jobs = [] :=
    (congrArg FChan.jobs (unitMoved_clean_chan hfreeing)).trans ((moveUnit_jobs _ _ _ _ _).trans hjobs)
  simp only [Dev.applyJRec, howner', if_true]
  exact lateUnit_noJob c _ _ hjobs'

end Durable

/-! ### The journal that is kept -/

theorem mem_of_reclaim {segs : List (Nat × Nat)} {rs : List JRec} {r : JRec} (h : r ∈ reclaim segs rs) : r ∈ rs := by
  induction rs with
  | nil => exact h
  | cons x rs ih =>
    unfold reclaim at h
    split at h
    · exact List.mem_cons_of_mem _ (ih h)
    · exact h

/-- While some segment needs its records, the newest record is not reclaimed (R327). -/
theorem last_mem_reclaim {segs : List (Nat × Nat)} (hsegs : segs ≠ []) (rs : List JRec) (r : JRec) : r ∈ reclaim segs (rs ++ [r]) := by
  induction rs with
  | nil =>
    obtain ⟨k, ks, rfl⟩ := List.exists_cons_of_ne_nil hsegs
    simp [reclaim]
  | cons x rs ih =>
    rw [List.cons_append]
    unfold reclaim
    split
    · exact ih
    · simp

theorem mem_of_keepJournal {f : Flash} {out : List JRec} {r : JRec} (h : r ∈ f.keepJournal out) : r ∈ f.durable ∨ r ∈ out := by
  rw [← List.mem_append]
  simp only [Flash.keepJournal] at h
  split at h
  next hformat =>
    rcases List.mem_cons.mp h with rfl | h
    · simpa using (Bool.and_eq_true_iff.mp hformat).1
    · exact mem_of_reclaim h
  · exact mem_of_reclaim h

theorem last_mem_keepJournal {f : Flash} (hsegs : f.segments ≠ []) (r : JRec) : r ∈ f.keepJournal [r] := by
  simp only [Flash.keepJournal]
  split
  · exact List.mem_cons_of_mem _ (last_mem_reclaim hsegs _ r)
  · exact last_mem_reclaim hsegs _ r

/-- A segment with entries needs the journal (R327). -/
theorem segments_ne_nil {f : Flash} {ch : Chan} {unit : Nat} {m : FMap} (h : NMap.get? f.chans[ch].map unit = some m) : f.segments ≠ [] := by
  have hne : f.chans[ch].map ≠ [] := fun hnil => by rw [hnil] at h; cases h
  obtain ⟨e, es, he⟩ := List.exists_cons_of_ne_nil hne
  have hin : (ch.val, e.1 / 1048576) ∈ f.segments := by
    refine List.mem_flatten.mpr ⟨_, List.mem_map.mpr ⟨ch.val, List.mem_range.mpr ch.isLt, rfl⟩, List.mem_map.mpr ⟨e.1 / 1048576, ?_, rfl⟩⟩
    rw [vgetD_fin, List.mem_dedup, he]
    simp
  exact List.ne_nil_of_mem hin

/-- The journal keeps new durable records (R327). -/
def withDurable (d : Dev) (out : List JRec) : Dev := { d with flash := { d.flash with durable := d.flash.keepJournal out } }

theorem ackModels_none {d : Dev} (c : Clock) (h : d.mdl.loading = []) : d.ackModels c = d := by
  rw [Dev.ackModels, h]
  rfl

/-- One record becomes durable, on a node without copies and without models that load (R326). -/
theorem recsDurable_one {d d1 : Dev} {c : Clock} {r : JRec} (hin : d.flash.inflight = [r])
    (hd1 : ({ d with flash := { d.flash with firstDone := false, inflight := [] } } : Dev).applyJRec c r = d1) (hleaves : d1.leaves = []) (hloading : d1.mdl.loading = []) :
    d.recsDurable c = withDurable d1 [r] := by
  have hone : ({ d with flash := { d.flash with firstDone := false } } : Dev).applyRecs c d.flash.inflight = d1 := by
    rw [hin]
    exact hd1
  have hout : d.recsDurable c = (d1.leaves.foldl (fun (x : Dev) (l : Leaf) => (x.reportLoad c l).ackLoad c l.parcel) (withDurable d1 [r])).ackModels c := by
    rw [← hone, ← hin]
    rfl
  rw [hout, hleaves]
  exact ackModels_none (d := withDurable d1 [r]) c hloading

/-! ### A block that is being emptied -/

theorem updIf_none {α : Type} {p : α → Bool} {f : α → α} {xs : List α} (h : ∀ x ∈ xs, p x = false) : updIf p f xs = xs := by
  refine (List.map_congr_left fun x hx => ?_).trans (List.map_id xs)
  simp [h x hx]

section Jobs
variable {d : Dev} {c : Clock} {ch : Chan} {kind : JobKind} {b : FBlock}

/-- A block without a unit to copy is logged as it begins to be emptied (R335). -/
def emptied (x : FChan) (kind : JobKind) (no : Nat) : FChan :=
  { x with jobs := x.jobs ++ [⟨kind, no, [], [], true, false⟩], refresh := x.refresh.filter fun n => n != no }

theorem startJob_empty (hunits : b.units = []) (hpending : d.flash.pendingIn ch.val b.no = []) (hnew : ∀ j ∈ (d.chan ch.val).jobs, j.src ≠ b.no) :
    d.startJob c ch.val kind b = (d.updChan ch.val fun x => emptied x kind b.no).journal c (.gc ch.val b.no []) := by
  have hother : ∀ j ∈ (d.chan ch.val).jobs, decide (j.src = b.no) = false := fun j hj => decide_eq_false (hnew j hj)
  have hfind : ((d.chan ch.val).jobs.find? fun j => j.src = b.no) = none := List.find?_eq_none.mpr fun j hj => by simpa using hnew j hj
  simp only [Dev.startJob, hunits, hpending, List.append_nil, List.foldl_nil, Dev.logJob, chan_updChan_same, List.find?_append, hfind, Option.none_or]
  simp only [List.find?_cons, decide_true, List.isEmpty_nil, Bool.not_true, Bool.or_self, Bool.false_eq_true, if_false, updChan_updChan]
  rw [updChan_congr]
  simp only [updIf, List.map_append, emptied]
  rw [← updIf, updIf_none hother]
  simp

end Jobs

/-! ### The statement -/

/-- Settles O22. It holds: the records that go out are a prefix of the tail, a MAP record that becomes durable alone moves its unit and stays in the journal for its segment, and a job without a unit is logged as it starts. -/
theorem flashJournal : Obligations.FlashJournal := by
  refine ⟨⟨fun s v t hv hservice hnone hdue hworks => ?_, fun s v t hv hservice hsome => ⟨?_, fun hfirst => ?_⟩,
    fun d c ch unit block page wseq r hr hin hleaves howner hjobs hnew hhere hfreeing hmdl => ?_⟩, fun d c ch kind b hunits hpending hnew => ?_⟩
  · have hflash := journalTailProgram_flash hservice hnone hdue hworks
    refine ⟨_, exec_onDev rfl rfl hv rfl, ?_, ?_, ?_, ?_⟩
    · rw [hflash]
      rfl
    · rw [hflash]
      exact sending_all v.dev
    · rw [hflash]
      rfl
    · rw [hflash]
      rfl
  · exact exec_onDev rfl rfl hv (journalDurable_first hservice hsome)
  · exact exec_onDev rfl rfl hv (journalDurable_second hservice hsome hfirst)
  · subst hr
    intro e
    rw [← chan_fin] at hjobs hnew hhere
    have happly := applyJRec_map (c := c) (m := ⟨block, page, wseq⟩) hfreeing howner hjobs
    have hchan := unitMoved_clean_chan (c := c) (ch := ch) (unit := unit) (m := ⟨block, page, wseq⟩) hfreeing
    have hflash := unitMoved_clean_flash (c := c) (ch := ch) (unit := unit) (m := ⟨block, page, wseq⟩) hfreeing
    set d1 := (unitMoved d c ch unit ⟨block, page, wseq⟩).cleanUnit c ch.val unit with hd1
    have hleaves1 : d1.leaves = [] := (leaves_poolBlind.cleanUnit (unitMoved d c ch unit _) c ch.val unit hfreeing).trans hleaves
    have hmdl1 : d1.mdl.loading = [] := congrArg Models.loading ((mdl_poolBlind.cleanUnit (unitMoved d c ch unit _) c ch.val unit hfreeing).trans hmdl)
    have hmap : NMap.get? d1.flash.chans[ch].map unit = some ⟨block, page, wseq⟩ := by
      rw [← chan_fin]
      exact (congrArg (fun x => NMap.get? x.map unit) hchan).trans (get?_moveUnit hnew true)
    have hdurable : d1.flash.durable = d.flash.durable := (congrArg Flash.durable hflash :)
    have he : e = withDurable d1 [_] := recsDurable_one hin happly hleaves1 hmdl1
    rw [he]
    refine ⟨hmap, ?_, last_mem_keepJournal (segments_ne_nil hmap) _, fun x hx => ?_, (congrArg Flash.inflight hflash :)⟩
    · rw [← chan_fin]
      exact fun hbad => not_bad_moveUnit hnew hhere (congrArg FChan.badUnits hchan ▸ hbad)
    · rcases mem_of_keepJournal hx with h | h
      · exact .inl (hdurable ▸ h)
      · exact .inr (List.mem_singleton.mp h)
  · rw [← chan_fin] at hnew
    intro e
    have he : e = (d.updChan ch.val fun x => emptied x kind b.no).journal c (.gc ch.val b.no []) := startJob_empty hunits hpending hnew
    rw [he, ← chan_fin, ← chan_fin, chan_journal, chan_updChan_same]
    refine ⟨rfl, rfl, ?_⟩
    simp [emptied]

end Sys2Proof.Proofs

/-! SUPPORT. Background work of a channel, extents that move, targets that fail and arbitration periods: the one branch that each takes, and the statement about them. -/

namespace Sys2Proof.Proofs

open Sys2Proof Sys2Proof.Machine Sys2Proof.Laws

/-! ### Background work -/

section Background
variable {k : Clock} {d : Dev} {c : Chan} {b : FBlock}

theorem segmentCheckpoint_writes {seg : Nat} (hserving : (d.chan c.val).serving = true) (hheld : d.chanHeld c.val = false) (hpf : d.flash.pf = .idle)
    (hro : d.flash.readOnly = false) (hseg : ∃ x ∈ (d.chan c.val).dirtySegs, x.1 = seg) :
    segmentCheckpoint c seg k d =
      ((d.updChan c.val fun x => { x with dirtySegs := x.dirtySegs.filter fun y => y.1 != seg }).count 84 c.val 256).journal k (.segment c.val seg) := by
  have hany : ((d.chan c.val).dirtySegs.any fun x => x.1 = seg) = true := by simpa using hseg
  simp only [segmentCheckpoint, hserving, hheld, Flash.held, hpf, hro, hany, bne_self_eq_false, Bool.not_false, Bool.and_self, Bool.not_true, Bool.false_eq_true, if_false]
  rfl

/-- A block queued for refresh goes first (R337). -/
theorem collectionStart_refresh {n : Nat} (hruns : d.backRuns c.val = true) (hrefresh : (d.chan c.val).refresh = [n])
    (hb : ((d.chan c.val).blocks.find? fun x => x.no = n && (x.mode = .dense || x.mode = .oneBit) && !((d.chan c.val).emptying x)) = some b) :
    collectionStart c k d = d.startJob k c.val (refreshKind k.now b) b := by
  simp only [collectionStart, hruns, hrefresh, List.findSome?_cons, hb, Bool.not_true, Bool.false_eq_true, if_false]

/-- With free blocks short, the block that collection picks (R333). -/
theorem collectionStart_collects (hruns : d.backRuns c.val = true) (hrefresh : (d.chan c.val).refresh = [])
    (hshort : (d.chan c.val).freeBlocks < 2 * (d.chan c.val).collectReserve) (hb : (d.chan c.val).collectPick = some b) :
    collectionStart c k d = d.startJob k c.val .collect b := by
  simp only [collectionStart, hruns, hrefresh, List.findSome?_nil, hshort, hb, Bool.not_true, Bool.false_eq_true, if_false, if_true]

/-- One-bit blocks of a channel that hold programs (R331). -/
def usedOneBit (x : FChan) : Nat := (x.blocks.filter fun b => b.mode = .oneBit && b.used > 0).length

theorem fold_starts (hruns : d.backRuns c.val = true)
    (hdue : (d.chan c.val).foreground = false ∨ (d.chan c.val).bufferLimit d.flash.fixedClass < 2 * usedOneBit (d.chan c.val))
    (hb : ((d.chan c.val).blocks.find? fun x => x.mode = .oneBit && x.used > 0 && !((d.chan c.val).emptying x)) = some b) :
    fold c k d = d.startJob k c.val .foldJob b := by
  have hgo : (d.backRuns c.val && (decide (2 * usedOneBit (d.chan c.val) > (d.chan c.val).bufferLimit d.flash.fixedClass) || !(d.chan c.val).foreground)) = true := by
    rcases hdue with h | h <;> simp [hruns, h]
  rw [usedOneBit] at hgo
  simp only [fold, hgo, hb, Bool.not_true, Bool.false_eq_true, if_false]

/-- A block that is read weekly: the time is noted, and a worn one is queued for refresh (R333). -/
def patrolled (x : FChan) (now no : Nat) (heavy : Bool) : FChan :=
  { x with blocks := updIf (fun y => y.no = no) (fun y => { y with patrol := now }) x.blocks, refresh := if heavy then x.refresh ++ [no] else x.refresh }

theorem patrolRead_reads {heavy : Bool} (hreads : d.backReads c.val = true) (hb : ((d.chan c.val).blocks.find? fun x => x.no = b.no) = some b)
    (hmode : b.mode ≠ .retired) (hnew : b.no ∉ (d.chan c.val).refresh) :
    patrolRead c b.no heavy k d = b.units.foldl (fun y u => y.issueRead c.val u 3 0)
      ((d.updChan c.val fun x => patrolled x k.now b.no heavy).count 81 (4 * c.val + 3) (b.used - b.units.length)) := by
  simp only [patrolRead, hb, hreads, hmode, Bool.not_true, decide_false, Bool.or_self, Bool.false_eq_true, if_false]
  rw [updChan_congr]
  simp only [patrolled, List.contains_eq_mem, hnew, decide_false, Bool.not_false, Bool.and_true]

/-! ### Extents -/

theorem extentMigration_moves {e : Nat × Extent} (hruns : d.backRuns c.val = true) (hover : (d.chan c.val).user < (d.chan c.val).alloc)
    (he : d.flash.lastExtent c.val = some e) (hidle : d.flash.migrating e.1 = false) (hroom : Config.extentBytes ≤ (d.chan d.bestChan).room) :
    extentMigration c k d = (d.updChan d.bestChan fun y => { y with alloc := y.alloc + Config.extentBytes }).journal k (.extent e.1 d.bestChan) := by
  have hgo : (!(d.backRuns c.val) || decide ((d.chan c.val).alloc ≤ (d.chan c.val).user)) = false := by simp [hruns, Nat.not_le.mpr hover]
  simp only [extentMigration, hgo, he, hidle, Nat.not_lt.mpr hroom, Bool.false_eq_true, if_false]

end Background

/-! ### Targets -/

section Targets
variable {k : Clock} {d : Dev} {c : Chan} {target : Nat}

@[simp] theorem failHomed_flash (d : Dev) (k : Clock) (ch : Nat) : (d.failHomed k ch).flash = d.flash :=
  foldl_keeps (fun x : Dev => x.flash) (fun x (l : Leaf) => failCopy_keeps (·.flash) (fun _ _ _ => rfl) (fun _ _ _ => rfl) x k l.parcel) _ d

/-- A channel that has lost a target, with no program under way to it (R340). -/
def withoutTarget (x : FChan) (target : Nat) : FChan :=
  let gone := x.blocks.filter fun b => b.target = target
  let isGone := fun (no : Nat) => gone.any fun b => b.no = no
  { x with badUnits := (x.badUnits ++ (gone.map (·.units)).flatten).dedup, blocks := x.blocks.filter fun b => b.target != target, targets := x.targets - 1,
           spares := (x.blocks.filter fun b => b.target != target && b.mode = .spare).length, state := if x.targets - 1 = 0 then .failed else x.state,
           jobs := x.jobs.filter fun j => !(isGone j.src), progs := x.progs.filter fun p => !(isGone p.block),
           erases := x.erases.filter fun no => !(isGone no), refresh := x.refresh.filter fun no => !(isGone no) }

theorem units_bad_withoutTarget {x : FChan} {b : FBlock} {u : Nat} (hb : b ∈ x.blocks) (ht : b.target = target) (hu : u ∈ b.units) :
    u ∈ (withoutTarget x target).badUnits := by
  refine List.mem_dedup.mpr (List.mem_append_right _ (List.mem_flatten.mpr ⟨b.units, List.mem_map.mpr ⟨b, ?_, rfl⟩, hu⟩))
  exact List.mem_filter.mpr ⟨hb, decide_eq_true ht⟩

/-- The loss of a target, recorded (R340, R406). -/
def targetLost (d : Dev) (k : Clock) (c : Chan) (target : Nat) : Dev :=
  (d.updChan c.val fun x => withoutTarget x target).logErr k 2 3 c.val 6 target Config.noParcel 1 0

theorem targetLost_flash (d : Dev) (k : Clock) (c : Chan) (target : Nat) :
    (targetLost d k c target).flash = { d.flash with chans := d.flash.chans.set c.val (withoutTarget (d.chan c.val) target) } := by
  rw [targetLost, logErr_flash, updChan_fin]

/-- The channels that hold the journal (R325). -/
def journalChan (c : Chan) : Bool := c.val = 0 || c.val = 16

/-- What the loss of a channel's last target adds (R320, R340). -/
def channelLost (d : Dev) (k : Clock) (c : Chan) : Dev :=
  let d1 := d.failHomed k c.val
  if journalChan c then { d1 with flash := { d1.flash with readOnly := true } } else d1

theorem channelLost_flash (d : Dev) (k : Clock) (c : Chan) :
    (channelLost d k c).flash = { d.flash with readOnly := journalChan c || d.flash.readOnly } := by
  cases h : journalChan c <;> simp [channelLost, h]

variable {b : FBlock} (hserving : (d.chan c.val).serving = true) (hb : b ∈ (d.chan c.val).blocks) (ht : b.target = target) (hmode : b.mode ≠ .retired)
  (hprogs : (d.chan c.val).progs = []) (hqueue : (d.chan c.val).queue = []) (hformat : d.flash.format = none)
include hserving hb ht hmode hprogs hqueue hformat

/-- A target with a block stops answering while nothing is programmed and no write waits (R340). -/
theorem targetFail_eq : targetFail c target k d =
    if (d.chan c.val).targets - 1 = 0 then channelLost (targetLost d k c target) k c else targetLost d k c target := by
  have hany : ((d.chan c.val).blocks.any fun b => b.target = target && b.mode != .retired) = true :=
    List.any_eq_true.mpr ⟨b, hb, by simp [ht, hmode]⟩
  have hformat1 : (targetLost d k c target).flash.format = none := by rw [targetLost_flash]; exact hformat
  have hformat2 : (channelLost (targetLost d k c target) k c).flash.format = none := by rw [channelLost_flash]; exact hformat1
  by_cases hlast : (d.chan c.val).targets - 1 = 0
  · rw [if_pos hlast]
    simp only [targetFail, hserving, hany, Bool.and_self, Bool.not_true, Bool.false_eq_true, if_false, hprogs, List.filter_nil, List.foldl_nil, hlast, if_true, decide_true, Bool.true_and]
    rw [updChan_congr (g := fun x => withoutTarget x target) (by rw [withoutTarget, hlast, if_pos rfl]), drainAll_noQueue (by rw [chan_updChan_same]; exact hqueue), ← targetLost]
    refine if_neg (c := ((channelLost (targetLost d k c target) k c).flash.format.isSome && _) = true) ?_
    rw [hformat2]
    exact Bool.false_ne_true
  · rw [if_neg hlast]
    simp only [targetFail, hserving, hany, Bool.and_self, Bool.not_true, Bool.false_eq_true, if_false, hprogs, List.filter_nil, List.foldl_nil, hlast, decide_false, Bool.false_and]
    rw [updChan_congr (g := fun x => withoutTarget x target) (by rw [withoutTarget, if_neg hlast]), drainAll_noQueue (by rw [chan_updChan_same]; exact hqueue), ← targetLost, hformat1]
    rfl

end Targets

/-! ### Arbitration periods -/

theorem flashGoOn_idle {d : Dev} (h : ∀ c : Chan, d.flash.chans[c].queue = [] ∧ d.flash.chans[c].jobs = []) : d.flashGoOn = d := by
  have hstep : ∀ x ch, x = d → (((x.chan ch).jobs.map (·.src)).foldl (fun (y : Dev) s => y.tryErase ch s) (x.drainAll ch)) = d := by
    rintro x ch rfl
    have hboth : (x.chan ch).queue = [] ∧ (x.chan ch).jobs = [] := by
      by_cases hch : ch < 32
      · exact (chan_fin x ⟨ch, hch⟩).symm ▸ h ⟨ch, hch⟩
      · simp [Dev.chan, vgetD, hch, FChan.reset]
    rw [hboth.2, drainAll_noQueue hboth.1]
    rfl
  exact foldl_inv (· = d) (fun x ch => hstep x ch) _ d rfl

/-- The weights of a new period (R344, R345). -/
theorem arbitrationPeriod_idle {k : Clock} {d : Dev} (h : ∀ c : Chan, d.flash.chans[c].queue = [] ∧ d.flash.chans[c].jobs = []) :
    arbitrationPeriod k d = { d with flash := { d.flash with active := [4 * weightOf d.flash.wChain, 4 * weightOf d.flash.wTrav, 4 * weightOf d.flash.wStream,
      (4 - d.pwr.bgNotch) * weightOf d.flash.wBack] } } :=
  flashGoOn_idle h

/-! ### The statement -/

/-- Settles O23. It holds: each piece of background work starts on the block or segment that its hypotheses find, a target's loss is one change of its channel, and with nothing queued a new period changes the weights alone. -/
theorem flashBackgroundAndShares : Obligations.FlashBackgroundAndShares := by
  refine ⟨⟨fun s v t c seg hv hserving hheld hpf hro hseg => ?_, fun s v t c b hv hruns => ⟨fun n hrefresh hb => ?_, fun hrefresh hshort hb => ?_⟩,
    fun s v t c b hv hruns hdue hb => ?_, fun s v t c b heavy hv hreads hb hmode hnew => ?_⟩, fun s v t c e hv hruns hover he hidle hroom => ?_,
    fun s v t c target b hv hserving hb ht hmode hprogs hqueue hformat => ?_, fun s v t hv hidle => ?_⟩
  · exact exec_onDev rfl rfl hv (segmentCheckpoint_writes hserving hheld hpf hro hseg)
  · exact exec_onDev rfl rfl hv (collectionStart_refresh hruns hrefresh hb)
  · exact exec_onDev rfl rfl hv (collectionStart_collects hruns hrefresh hshort hb)
  · exact exec_onDev rfl rfl hv (fold_starts hruns hdue hb)
  · exact exec_onDev rfl rfl hv (patrolRead_reads hreads hb hmode hnew)
  · exact exec_onDev rfl rfl hv (extentMigration_moves hruns hover he hidle hroom)
  · rw [← chan_fin] at *
    have hrun := targetFail_eq (k := v.clk) hserving hb ht hmode hprogs hqueue hformat
    refine ⟨fun hlast => ?_, fun hmore => ?_⟩
    · rw [if_pos (by omega)] at hrun
      have hflash : (channelLost (targetLost v.dev v.clk c target) v.clk c).flash = _ := (channelLost_flash _ _ _).trans (by rw [targetLost_flash])
      refine ⟨_, exec_onDev rfl rfl hv hrun, ?_, fun hjournal => ?_⟩
      · rw [hflash]
        simp [withoutTarget, hlast]
      · have hj : journalChan c = true := by simpa [journalChan] using hjournal
        rw [hflash, hj, Bool.true_or]
    · rw [if_neg (by omega)] at hrun
      refine ⟨_, withoutTarget (v.dev.chan c.val) target, exec_onDev rfl rfl hv hrun, targetLost_flash _ _ _ _, rfl, rfl,
        fun x hx hxt u hu => units_bad_withoutTarget hx hxt hu, if_neg (by omega), ?_⟩
      rw [targetLost, logErr_leaves, updChan_leaves]
  · exact exec_onDev rfl rfl hv (arbitrationPeriod_idle hidle)

end Sys2Proof.Proofs

/-! SUPPORT. The power states' fields over a port's reset and the loss of DRAM: one fact for each operation that these run through. -/

namespace Sys2Proof.Proofs

open Sys2Proof Sys2Proof.Machine Sys2Proof.Laws

/-! ### Memory -/

@[simp] theorem free_pwr (d : Dev) (id : Nat) : (d.free id).pwr = d.pwr := by
  unfold Dev.free; split <;> rfl

@[simp] theorem putRegion_pwr (d : Dev) (id : Nat) (r : Region) : (d.putRegion id r).pwr = d.pwr := rfl

@[simp] theorem freeExtents_pwr (d : Dev) (owner : Nat) : (d.freeExtents owner).pwr = d.pwr := rfl

@[simp] theorem poisonLines_pwr (d : Dev) (id : Nat) (lines : List Nat) : (d.poisonLines id lines).pwr = d.pwr := by
  unfold Dev.poisonLines
  split
  · rfl
  · split <;> rfl

@[simp] theorem damage_pwr (d : Dev) (c : Clock) (id : Nat) (frames : List Nat) (line : Nat) : (d.damage c id frames line).pwr = d.pwr := by
  unfold Dev.damage
  split
  · rfl
  · split <;> simp

@[simp] theorem startRebuild_pwr (d : Dev) (id u member : Nat) : (d.startRebuild id u member).pwr = d.pwr := by
  unfold Dev.startRebuild
  split
  · rfl
  · split <;> rfl

@[simp] theorem placeRebuilt_pwr (d : Dev) (b : Rebuild) : (d.placeRebuilt b).pwr = d.pwr := rfl

@[simp] theorem loseMember_pwr (d : Dev) (c : Clock) (id u member : Nat) : (d.loseMember c id u member).pwr = d.pwr := by
  unfold Dev.loseMember
  split
  · rfl
  split
  · rfl
  simp only
  split
  · simp
  · split <;> simp

@[simp] theorem retarget_pwr (d : Dev) (b : Rebuild) : (d.retarget b).pwr = d.pwr := by
  unfold Dev.retarget
  split
  · rfl
  · split <;> rfl

@[simp] theorem retireFrame_pwr (d : Dev) (c : Clock) (s frame : Nat) : (d.retireFrame c s frame).pwr = d.pwr := by
  unfold Dev.retireFrame
  split
  · rfl
  refine (foldl_keeps Dev.pwr (fun x b => retarget_pwr x b) _ _).trans ?_
  refine (foldl_keeps Dev.pwr (fun x h => loseMember_pwr x c _ _ _) _ _).trans ?_
  simp

@[simp] theorem failLostCopies_pwr (d : Dev) (c : Clock) : (d.failLostCopies c).pwr = d.pwr :=
  foldl_keeps Dev.pwr (fun x (l : Leaf) => failCopy_keeps Dev.pwr (fun _ _ _ => rfl) (fun _ _ _ => rfl) x c l.parcel) _ d

@[simp] theorem failStack_pwr (d : Dev) (c : Clock) (s : Nat) : (d.failStack c s).pwr = d.pwr := by
  unfold Dev.failStack
  split
  · rfl
  split
  · rfl
  refine (failLostCopies_pwr _ _).trans ?_
  refine (foldl_keeps Dev.pwr (fun x v => (count_pwr _ _ _ _).trans (endCmd_pwr x c _ _ _ _ _)) _ _).trans ?_
  refine (foldl_keeps Dev.pwr (fun x h => loseMember_pwr x c _ _ _) _ _).trans ?_
  refine (foldl_keeps Dev.pwr (fun x h => loseMember_pwr x c _ _ _) _ _).trans ?_
  exact foldl_keeps Dev.pwr (fun x b => retarget_pwr x b) _ _

@[simp] theorem checkStack_pwr (d : Dev) (c : Clock) (s : Nat) : (d.checkStack c s).pwr = d.pwr := by
  unfold Dev.checkStack
  split
  · rfl
  · split <;> simp

@[simp] theorem frameError_pwr (d : Dev) (c : Clock) (s frame : Nat) : (d.frameError c s frame).pwr = d.pwr := by
  unfold Dev.frameError
  simp only
  split <;> simp

@[simp] theorem lineError_pwr (d : Dev) (c : Clock) (id a : Nat) : (d.lineError c id a).2.pwr = d.pwr := by
  unfold Dev.lineError
  split
  · rfl
  · simp only
    split <;> simp

/-! ### The commons -/

@[simp] theorem snoop_pwr (d : Dev) (ls : List ComLine) : (d.snoop ls).2.pwr = d.pwr := by simp [Dev.snoop]

@[simp] theorem snoopOthers_pwr (d : Dev) (slot line : Nat) (p : Option Port) : (d.snoopOthers slot line p).pwr = d.pwr := snoop_pwr _ _

@[simp] theorem recall_pwr (d : Dev) (slot : Nat) (f : Port → Nat → Bool) : (d.recall slot f).2.pwr = d.pwr := snoop_pwr _ _

@[simp] theorem setHeader_pwr (d : Dev) (slot : Nat) (f : ComState → ComState) : (d.setHeader slot f).pwr = d.pwr := snoopOthers_pwr _ _ _ _

@[simp] theorem evictLine_pwr (d : Dev) : d.evictLine.pwr = d.pwr := by
  unfold Dev.evictLine
  split
  · rfl
  · simp only
    split <;> simp

@[simp] theorem grantLine_pwr (d : Dev) (slot line : Nat) (p : Port) (own : Bool) : (d.grantLine slot line p own).pwr = d.pwr := by
  unfold Dev.grantLine
  simp only [apply_ite Dev.pwr, evictLine_pwr, snoopOthers_pwr, ite_self]

@[simp] theorem respond_pwr (d : Dev) (p : Port) (op : MemOp) (poison : Bool) (bs : List Byte) : (d.respond p op poison bs).pwr = d.pwr := by
  simp only [Dev.respond, updPort_pwr, apply_ite Dev.pwr, count_pwr, ite_self]

@[simp] theorem unmapped_pwr (d : Dev) (c : Clock) (p : Port) (op : MemOp) (dpa : Nat) : (d.unmapped c p op dpa).pwr = d.pwr := by simp [Dev.unmapped]

@[simp] theorem comServe_pwr (d : Dev) (c : Clock) (slot : Nat) (p : Port) (op : MemOp) (line : Nat) (e : LineErr) :
    (d.comServe c slot p op line e).pwr = d.pwr := by
  unfold Dev.comServe
  split
  · simp
  simp only
  split
  · simp
  split
  · simp
  split
  · simp
  · simp
  · split <;> simp

@[simp] theorem endPublish_pwr (d : Dev) (c : Clock) (r : Ref) (slot st : Nat) : (d.endPublish c r slot st).pwr = d.pwr := by
  unfold Dev.endPublish; split <;> simp

@[simp] theorem refusePublish_pwr (d : Dev) (r : Ref) (slot st : Nat) : (d.refusePublish r slot st).pwr = d.pwr := by
  unfold Dev.refusePublish; split <;> simp

@[simp] theorem logLease_pwr (d : Dev) (c : Clock) (p : Port) (slot : Nat) : (d.logLease c p slot).pwr = d.pwr := logEvent_pwr _ _ _ _ _ _ _ _ _

@[simp] theorem grantLease_pwr (d : Dev) (c : Clock) (r : Ref) (slot : Nat) (p : Port) (keep : Bool) : (d.grantLease c r slot p keep).pwr = d.pwr :=
  (endPublish_pwr _ _ _ _ _).trans (setHeader_pwr _ _ _)

@[simp] theorem dropSlot_pwr (d : Dev) (slot : Nat) : (d.dropSlot slot).pwr = d.pwr := by simp [Dev.dropSlot]

@[simp] theorem dropped_pwr (d : Dev) (c : Clock) (r : Ref) (slot tf : Nat) : (d.dropped c r slot tf).pwr = d.pwr := by
  unfold Dev.dropped
  refine (endCmd_pwr _ _ _ _ _ _ _).trans ((dropSlot_pwr _ _).trans ?_)
  exact foldl_keeps Dev.pwr (fun x _ => (logEvent_pwr _ _ _ _ _ _ _ _ _).trans (updPort_pwr x _ _)) _ _

@[simp] theorem flip_pwr (d : Dev) (c : Clock) (r : Ref) (slot : Nat) : (d.flip c r slot).pwr = d.pwr := by
  unfold Dev.flip
  split
  · simp
  · split <;> simp

@[simp] theorem awaitLines_pwr (d : Dev) (w : ComWait) : (d.awaitLines w).pwr = d.pwr := rfl

@[simp] theorem publishStep_pwr (d : Dev) (c : Clock) (r : Ref) (slot : Nat) (p : Port) : (d.publishStep c r slot p).pwr = d.pwr := by
  unfold Dev.publishStep
  split
  · simp
  · simp only
    split <;> simp

@[simp] theorem comGoOn_pwr (d : Dev) (c : Clock) (slot : Nat) (why : ComWhy) : (d.comGoOn c slot why).pwr = d.pwr := by
  cases why <;> simp [Dev.comGoOn]

@[simp] theorem comWait_pwr (d : Dev) (c : Clock) (slot : Nat) (await : List (Port × Nat)) (why : ComWhy) : (d.comWait c slot await why).pwr = d.pwr := by
  unfold Dev.comWait; split <;> simp

@[simp] theorem endLease_pwr (d : Dev) (c : Clock) (slot : Nat) (released : Bool) (why : ComWhy) : (d.endLease c slot released why).pwr = d.pwr := by
  unfold Dev.endLease
  split
  · simp
  · cases released <;> simp

@[simp] theorem publishOp_pwr (d : Dev) (c : Clock) (cmd : Cmd) : (d.publishOp c cmd).pwr = d.pwr := by
  unfold Dev.publishOp
  simp only
  split
  · simp
  split
  · simp
  split
  · split <;> simp
  · split <;> simp
  · split <;> simp
  · split <;> simp
  · simp

@[simp] theorem dropCommons_pwr (d : Dev) (c : Clock) (cmd : Cmd) : (d.dropCommons c cmd).pwr = d.pwr := by
  unfold Dev.dropCommons
  simp only
  split
  · simp
  refine (comWait_pwr _ _ _ _ _).trans ((recall_pwr _ _ _).trans ?_)
  split
  · exact foldl_keeps Dev.pwr (fun x p => updPort_pwr _ _ _) _ _
  · exact (logLease_pwr _ _ _ _).trans (foldl_keeps Dev.pwr (fun x p => updPort_pwr _ _ _) _ _)

@[simp] theorem comQueue_pwr (d : Dev) (c : Clock) (qs : List (Nat × Ref)) : (d.comQueue c qs).pwr = d.pwr := by
  induction qs generalizing d with
  | nil => rfl
  | cons q qs ih =>
    unfold Dev.comQueue
    split
    · exact ih d
    · refine (ih _).trans ?_
      split
      · rfl
      · split <;> simp

@[simp] theorem poisonOwned_pwr (d : Dev) (c : Clock) (p : Port) (slot : Nat) (x : ComState) : (d.poisonOwned c p slot x).pwr = d.pwr := by
  unfold Dev.poisonOwned
  split
  · rfl
  · refine (foldl_keeps Dev.pwr (fun y q => logEvent_pwr _ _ _ _ _ _ _ _ _) _ _).trans ?_
    simp

@[simp] theorem dropWaits_pwr (d : Dev) (c : Clock) (p : Port) : (d.dropWaits c p).pwr = d.pwr :=
  foldl_keeps Dev.pwr (fun x _ => comGoOn_pwr x c _ _) _ _

@[simp] theorem endLeases_pwr (d : Dev) (c : Clock) (p : Port) : (d.endLeases c p).pwr = d.pwr :=
  foldl_keeps Dev.pwr (fun x s => (logLease_pwr _ c p s).trans (setHeader_pwr x s _)) _ _

@[simp] theorem hostDeath_pwr (d : Dev) (c : Clock) (p : Port) : (d.hostDeath c p).pwr = d.pwr := by
  simp only [Dev.hostDeath, comQueue_pwr, endLeases_pwr, dropWaits_pwr, updPort_pwr]
  exact foldl_keeps Dev.pwr (fun x e => poisonOwned_pwr x c p _ _) _ _

/-! ### Near-bank jobs -/

@[simp] theorem putRec_pwr (d : Dev) (place : RecPlace) (k : CmdKey) (e : Option Ended) : (d.putRec place k e).pwr = d.pwr := rfl

@[simp] theorem updateEnd_pwr (d : Dev) (c : Clock) (o : UpdOutcome) : (d.updateEnd c o).pwr = d.pwr := by
  unfold Dev.updateEnd
  split
  · rfl
  split
  · simp
  · split <;> simp

@[simp] theorem outcome_pwr (d : Dev) (c : Clock) (entry : Nat) (o : UpdOutcome) : (d.outcome c entry o).pwr = d.pwr := by
  unfold Dev.outcome; split <;> simp

@[simp] theorem rowsEnd_pwr (d : Dev) (c : Clock) (l : Leaf) (w : RowsWait) : (d.rowsEnd c l w).pwr = d.pwr := by
  unfold Dev.rowsEnd
  refine (updLeaf_pwr _ _ _).trans ?_
  refine (foldl_keeps Dev.pwr (fun x u => outcome_pwr x c _ _) _ _).trans ((outcome_pwr _ _ _ _).trans ?_)
  split <;> rfl

@[simp] theorem rowsDone_pwr (d : Dev) (c : Clock) (key : CmdKey) (node : Nat) : (d.rowsDone c key node).pwr = d.pwr := by
  unfold Dev.rowsDone
  split
  · rfl
  split
  · rfl
  simp only
  split <;> simp

@[simp] theorem finishJob_pwr (d : Dev) (c : Clock) (j : NbJob) : (d.finishJob c j).pwr = d.pwr := by
  unfold Dev.finishJob
  simp only
  split
  · split <;> simp
  split
  · rfl
  split
  · simp
  · split <;> simp

@[simp] theorem cutJob_pwr (d : Dev) (c : Clock) (j : NbJob) : (d.cutJob c j).pwr = d.pwr := finishJob_pwr _ _ _

@[simp] theorem stopNb_pwr (d : Dev) (c : Clock) (r : Ref) : (d.stopNb c r).pwr = d.pwr := by
  unfold Dev.stopNb; split <;> simp

@[simp] theorem stopRows_pwr (d : Dev) (c : Clock) (key : CmdKey) : (d.stopRows c key).pwr = d.pwr :=
  foldl_keeps Dev.pwr (fun x j => cutJob_pwr x c j) _ _

/-! ### A port's reset and the loss of DRAM -/

@[simp] theorem endReader_pwr (d : Dev) (id : Nat) : (d.endReader id).pwr = d.pwr := by
  unfold Dev.endReader Dev.sweepReader
  simp only
  split <;> rfl

@[simp] theorem quit_pwr (d : Dev) (cmd : Cmd) : (d.quit cmd).pwr = d.pwr := by
  unfold Dev.quit; split <;> simp

@[simp] theorem abandonPort_pwr (d : Dev) (c : Clock) (p : Port) : (d.abandonPort c p).pwr = d.pwr := by
  unfold Dev.abandonPort
  refine (foldl_keeps Dev.pwr (fun x k => quit_pwr x k) _ _).trans ?_
  refine (foldl_keeps Dev.pwr (fun x k => stopRows_pwr x c k) _ _).trans ?_
  refine (foldl_keeps Dev.pwr (fun x r => stopNb_pwr x c r) _ _).trans ?_
  exact foldl_keeps Dev.pwr (fun x r => endReader_pwr x r) _ _

@[simp] theorem abandonLeases_pwr (d : Dev) (p : Port) : (d.abandonLeases p).pwr = d.pwr := rfl

@[simp] theorem portReset_pwr (d : Dev) (c : Clock) (p : Port) : (d.portReset c p).pwr = d.pwr := by
  unfold Dev.portReset
  refine (updPort_pwr _ _ _).trans ((foldl_keeps Dev.pwr (fun x k => quit_pwr x k) _ _).trans ?_)
  simp

@[simp] theorem dropModels_pwr (d : Dev) (keep : Model → Bool) : (d.dropModels keep).pwr = d.pwr :=
  foldl_keeps Dev.pwr (f := fun (x : Dev) (m : Model) =>
    (((x.free (modelRegion m.uid)).free (embedRegion m.uid)).freeExtents (weightKey m.uid)).freeExtents (embedKey m.uid)) (fun x m => by simp) _ d

@[simp] theorem loseDram_pwr (d : Dev) (parts commons : Bool) : (d.loseDram parts commons).pwr = d.pwr := dropModels_pwr d Model.onFlash

@[simp] theorem sramOff_pwr (d : Dev) : d.sramOff.pwr = d.pwr := rfl

@[simp] theorem sleep_pwr (d : Dev) (c : Clock) : (d.sleep c).pwr = d.pwr := by
  simp only [Dev.sleep, sramOff_pwr, loseDram_pwr]
  exact foldl_keeps Dev.pwr (fun x p => portReset_pwr x c p) _ _

end Sys2Proof.Proofs

/-! SUPPORT. Power states and the governor: what each request, transition, sample and notch makes of the device, and the statement about them. -/

namespace Sys2Proof.Proofs

open Sys2Proof Sys2Proof.Machine Sys2Proof.Laws

/-- A well-formed command that leaves the datum-time unit as it was. -/
theorem exec_onClk {i : Instr} {t : Nat} {f : Clock → Dev → Clock × Dev} {s v : State} {d : Dev} (hi : exec i s = happens i t (·.onClk f) s)
    (hwf : i.wf = true) (hv : v = s.tick t) (hd : f v.clk v.dev = (v.clk, d)) : exec i s = .next { v with dev := d } := by
  rw [hi, happens_wf _ _ _ _ hwf, ← hv, State.onClk, hd]

/-! ### dev.power_state (R469) -/

section Requests
variable {k : Clock} {d : Dev} {cmd : Cmd}

theorem devPowerStateRun_busy (h : d.pwr.transition.isSome = true) : devPowerStateRun k d cmd = d.refuse cmd.ref stBusy := if_pos h

theorem devPowerStateRun_same (hnone : d.pwr.transition = none) (h : cmd.f 0x40 1 = d.pwr.ps.toNat) :
    devPowerStateRun k d cmd = d.endCmd k cmd.ref stOk 0 0 [] := by
  simp [devPowerStateRun, hnone, h]

/-- A node that keeps a leaf copy may not rest. -/
theorem mayRest_of_leaves (h : d.leaves ≠ []) (r : Ref) : d.mayRest k r = false := by
  simp [Dev.mayRest, h]

theorem devPowerStateRun_held (hnone : d.pwr.transition = none) (hne : cmd.f 0x40 1 ≠ d.pwr.ps.toNat) (h2 : 2 ≤ cmd.f 0x40 1)
    (hrest : d.mayRest k cmd.ref = false) : devPowerStateRun k d cmd = d.refuse cmd.ref stBusy := by
  simp [devPowerStateRun, hnone, hne, h2, hrest]

theorem devPowerStateRun_begins (hnone : d.pwr.transition = none) (hne : cmd.f 0x40 1 ≠ d.pwr.ps.toNat)
    (h : cmd.f 0x40 1 < 2 ∨ d.mayRest k cmd.ref = true) :
    devPowerStateRun k d cmd = { d with pwr := { d.pwr with target := BitVec.ofNat 2 (cmd.f 0x40 1), transition := some cmd.ref } } := by
  have hrests : ¬(2 ≤ cmd.f 0x40 1 ∧ d.mayRest k cmd.ref = false) := by
    rintro ⟨h2, hrest⟩
    rcases h with h | h
    · omega
    · simp [hrest] at h
  simp [devPowerStateRun, hnone, hne, hrests]

end Requests

/-! ### Reaching the state (R470 to R472) -/

/-- The device in the state it asked for; on the way out of PS2 the flash channels have trained again. -/
def powerStateReached (d : Dev) (rates : List Nat) : Dev :=
  let d0 := if d.pwr.ps = 2 ∧ d.pwr.target.toNat < 2 then d.retrainFlash rates else d
  { d0 with pwr := { d0.pwr with ps := d.pwr.target, transition := none } }

section Transitions
variable {k : Clock} {d : Dev} {rates : List Nat} {r : Ref}

theorem psTransitionComplete_waits (hr : d.pwr.transition = some r) (hn : d.pwr.target ≠ 0) (hbusy : d.arraysIdle = false) :
    psTransitionComplete rates k d = (k, d) := by
  have h1 : 1 ≤ d.pwr.target.toNat := Nat.pos_of_ne_zero fun h => hn (BitVec.eq_of_toNat_eq h)
  simp [psTransitionComplete, hr, h1, hbusy]

theorem psTransitionComplete_ps0 (hr : d.pwr.transition = some r) (hn : d.pwr.target = 0) :
    psTransitionComplete rates k d = (k, (powerStateReached d rates).endCmd k r stOk 0 0 []) := by
  simp [psTransitionComplete, powerStateReached, hr, hn]

theorem psTransitionComplete_ps1 (hr : d.pwr.transition = some r) (hn : d.pwr.target = 1) (hidle : d.arraysIdle = true) :
    psTransitionComplete rates k d = (k, ((powerStateReached d rates).failScans.count 120 1 1).endCmd k r stOk 0 0 []) := by
  simp [psTransitionComplete, powerStateReached, hr, hn, hidle]

theorem psTransitionComplete_ps2 (hr : d.pwr.transition = some r) (hn : d.pwr.target = 2) (hidle : d.arraysIdle = true) (hquiet : d.flashQuiet = true) :
    psTransitionComplete rates k d = (k, ((powerStateReached d rates).sramOff.count 120 2 1).endCmd k r stOk 0 0 []) := by
  simp [psTransitionComplete, powerStateReached, hr, hn, hidle, hquiet]

theorem psTransitionComplete_ps3 (hr : d.pwr.transition = some r) (hn : d.pwr.target = 3) (hidle : d.arraysIdle = true) (hquiet : d.flashQuiet = true)
    (hptp : k.ptpPort = none) :
    psTransitionComplete rates k d = (k, (((powerStateReached d rates).count 120 3 1).endCmd k r stOk 0 0 []).sleep k) := by
  simp [psTransitionComplete, powerStateReached, hr, hn, hidle, hquiet, hptp]

end Transitions

/-- Asleep, every host link is down (R472). -/
theorem sleep_linkUp (d : Dev) (c : Clock) (p : Port) : ((d.sleep c).port p).linkUp = false := by
  simp [Dev.sleep, Dev.port, HostPort.afterReset, HostPort.reset]

/-- Asleep, every fabric link is down (R472). -/
theorem sleep_fabric (d : Dev) (c : Clock) (q : FabPort) : (d.sleep c).fab.ports[q].link = .down := by
  simp [Dev.sleep]

/-! ### The governor (R476, R516) -/

/-- Counting keeps the board's readings and the free counter as they are put. -/
theorem count_withBrd (d : Dev) (b : Board) (f k i n : Nat) :
    ({ d with brd := b, freeCtr := f } : Dev).count k i n = { d.count k i n with brd := b, freeCtr := f } := by
  unfold Dev.count
  by_cases h : n = 0
  · simp only [h, if_true]
  · simp only [h, if_false]

/-- What a sample notes of the supply and the control SRAM is free (logs 101, 116); it changes nothing else. -/
theorem senseSupply_eq (d : Dev) : d.senseSupply = { d.count 112 0 (Config.freeValue (d.freeCtr + 2)) with
    brd := { d.brd with vin := Config.freeValue d.freeCtr % 65536, iin := Config.freeValue (d.freeCtr + 1) % 65536 }, freeCtr := d.freeCtr + 3 } :=
  count_withBrd d _ _ 112 0 _

theorem count_cnt_congr {a b : Dev} (h : a.cnt = b.cnt) (k i n : Nat) : (a.count k i n).cnt = (b.count k i n).cnt := by
  unfold Dev.count
  split <;> simp [h]

@[simp] theorem senseSupply_pwr (d : Dev) : d.senseSupply.pwr = d.pwr := by rw [senseSupply_eq]; exact count_pwr _ _ _ _

@[simp] theorem senseSupply_cnt (d : Dev) : d.senseSupply.cnt = (d.count 112 0 (Config.freeValue (d.freeCtr + 2))).cnt := by rw [senseSupply_eq]

@[simp] theorem senseSupply_capW (d : Dev) : d.senseSupply.capW = d.capW := by simp only [Dev.capW, senseSupply_pwr]

/-- CAP_W stays below the fast path's 2,700 W. -/
theorem capW_le (d : Dev) : d.capW ≤ 2400 := by
  unfold Dev.capW
  omega

@[simp] theorem releaseAll_pwr (d : Dev) (governor : Bool) : (d.releaseAll governor).pwr = d.pwr := by
  refine foldl_keeps Dev.pwr (fun x s => ?_) _ _
  cases governor
  · rfl
  · exact count_pwr _ _ _ _

section Governor
variable {k : Clock} {d : Dev} {watts : Nat}

theorem governorSample_within (hlive : d.live = true) (hfirst : d.pwr.samples = []) (hcap : watts ≤ d.capW) :
    governorSample watts k d = { d.count 112 0 (Config.freeValue (d.freeCtr + 2)) with
      pwr := { d.pwr with samples := [watts], powerW := watts, peakW := max d.pwr.peakW watts, overSince := none },
      brd := { d.brd with vin := Config.freeValue d.freeCtr % 65536, iin := Config.freeValue (d.freeCtr + 1) % 65536 }, freeCtr := d.freeCtr + 3 } := by
  have hslow : ¬2700 < watts := by have := capW_le d; omega
  have hunder : ¬d.capW < watts := by omega
  have hkept : [watts].take govWindow = [watts] := rfl
  have haverage : natSum [watts] / [watts].length = watts := by simp [natSum]
  simp only [governorSample, hlive, hslow, hunder, hfirst, hkept, haverage, senseSupply_pwr, senseSupply_capW, Bool.not_true, Bool.false_eq_true, if_false]
  rw [senseSupply_eq]

theorem governorSample_above (hlive : d.live = true) (hover : 2700 < watts) : ∃ e, governorSample watts k d = e ∧ e.pwr.issueNotch = 15 ∧
    e.pwr.easeNotch = d.pwr.easeNotch ∧ e.pwr.samples = (watts :: d.pwr.samples).take 10000 ∧ e.pwr.peakW = max d.pwr.peakW watts ∧
    e.cnt = ((d.count 112 0 (Config.freeValue (d.freeCtr + 2))).count 119 0 1).cnt := by
  refine ⟨_, rfl, ?_⟩
  simp only [governorSample, hlive, hover, Bool.not_true, Bool.false_eq_true, if_false, if_true, count_pwr, senseSupply_pwr]
  exact ⟨trivial, trivial, rfl, trivial, count_cnt_congr (senseSupply_cnt d) 119 0 1⟩

theorem wantsNotch_of (h : d.brd.hot = true ∨ d.capW < d.pwr.powerW + 50) : d.wantsNotch k = true := by
  rcases h with h | h <;> simp [Dev.wantsNotch, h]

theorem governorNotchAdd_none (hcool : d.brd.hot = false) (hroom : d.pwr.powerW + 50 ≤ d.capW) (hover : d.pwr.overSince = none) :
    governorNotchAdd k d = d := by
  simp [governorNotchAdd, Dev.wantsNotch, hcool, hover, Nat.not_lt.mpr hroom]

theorem governorNotchAdd_adds (hlive : d.live = true) (h : d.brd.hot = true ∨ d.capW < d.pwr.powerW + 50) : governorNotchAdd k d = d.addNotch := by
  simp [governorNotchAdd, hlive, wantsNotch_of h]

theorem addNotch_issue (h : d.pwr.issueNotch < 15) : d.addNotch = { d with pwr := { d.pwr with issueNotch := d.pwr.issueNotch + 1 } } := if_pos h

theorem addNotch_ease (hissue : 15 ≤ d.pwr.issueNotch) (h : d.pwr.easeNotch < 8) :
    d.addNotch.pwr = { d.pwr with easeNotch := d.pwr.easeNotch + 1 } := by
  simp [Dev.addNotch, Nat.not_lt.mpr hissue, h]

theorem addNotch_background (hissue : 15 ≤ d.pwr.issueNotch) (hease : 8 ≤ d.pwr.easeNotch) (h : d.pwr.bgNotch < 4) :
    d.addNotch = { d with pwr := { d.pwr with bgNotch := d.pwr.bgNotch + 1 } } := by
  simp [Dev.addNotch, Nat.not_lt.mpr hissue, Nat.not_lt.mpr hease, h]

theorem governorNotchRemove_drops (hlive : d.live = true) (hcool : d.brd.hot = false) (hheld : d.flash.held = false)
    (haverage : d.pwr.powerW + 150 < d.capW) (hlast : d.pwr.samples.headD 0 < d.capW) : governorNotchRemove k d = d.dropNotch := by
  simp only [governorNotchRemove, Dev.sparesNotch, hlive, hcool, hheld, haverage, hlast, decide_true, Bool.not_false, Bool.and_self, if_true]

theorem dropNotch_background (h : 0 < d.pwr.bgNotch) : d.dropNotch = { d with pwr := { d.pwr with bgNotch := d.pwr.bgNotch - 1 } } := if_pos h

theorem dropNotch_ease (hback : d.pwr.bgNotch = 0) (h : 0 < d.pwr.easeNotch) :
    d.dropNotch = { d with pwr := { d.pwr with easeNotch := d.pwr.easeNotch - 1 } } := by
  simp [Dev.dropNotch, hback, h]

theorem dropNotch_issue (hback : d.pwr.bgNotch = 0) (hease : d.pwr.easeNotch = 0) :
    d.dropNotch = { d with pwr := { d.pwr with issueNotch := d.pwr.issueNotch - 1 } } := by
  simp [Dev.dropNotch, hback, hease]

end Governor

/-! ### The statement -/

/-- Settles O55. It holds: each request and each notch is one branch of its function, and neither the resets of the four ports nor the loss of DRAM on the way into PS3 changes the power state. -/
theorem powerStatesAndGovernor : Obligations.PowerStatesAndGovernor := by
  refine ⟨⟨fun s v k cmd hv ha hps => ?_, fun s v t rates r d0 d hv hrates hr hd0 hd => ?_⟩,
    fun s v t hv hlive => ⟨fun watts hfirst hcap => ?_, fun watts hover => ?_, fun hcool hroom hover => ?_, fun hwants => ⟨?_, ?_, ?_⟩,
      fun hcool hheld haverage hlast => ?_⟩⟩
  · have hrun {e : Dev} (he : devPowerStateRun v.clk (v.ready cmd) cmd = e) : exec (.devPowerState k) s = .next (v.ran cmd e) :=
      he ▸ exec_slot rfl rfl hv ha rfl (decide_eq_false (Nat.not_lt.mpr hps))
    refine ⟨fun hbusy => ?_, fun hnone hsame => ?_, fun hnone hne h2 hleaves => ?_, fun hnone hne hbegins => ?_⟩
    · exact hrun (devPowerStateRun_busy (by rwa [ready_pwr]))
    · exact hrun (devPowerStateRun_same (by rwa [ready_pwr]) (by rwa [ready_pwr]))
    · exact hrun (devPowerStateRun_held (by rwa [ready_pwr]) (by rwa [ready_pwr]) h2 (mayRest_of_leaves (by rwa [ready_leaves]) _))
    · refine hrun ((devPowerStateRun_begins (by rwa [ready_pwr]) (by rwa [ready_pwr]) hbegins).trans ?_)
      rw [ready_pwr]
  · have hwf : (Instr.psTransitionComplete ⟨t, rates⟩).wf = true := by
      rcases hrates with rfl | h
      · rfl
      · simp [Instr.wf, h]
    have htarget : d = powerStateReached v.dev rates := by rw [hd, hd0]; rfl
    have hpwr : d.pwr.ps = v.dev.pwr.target ∧ d.pwr.transition = none := by rw [hd]; exact ⟨rfl, rfl⟩
    rw [htarget] at *
    refine ⟨fun hn => ?_, fun hn hidle => ?_, fun hn hidle hquiet => ?_, fun hn hbusy => ?_, fun hn hidle hquiet hptp => ?_⟩
    · exact exec_onClk rfl hwf hv (psTransitionComplete_ps0 hr hn)
    · exact exec_onClk rfl hwf hv (psTransitionComplete_ps1 hr hn hidle)
    · exact exec_onClk rfl hwf hv (psTransitionComplete_ps2 hr hn hidle hquiet)
    · exact exec_onClk rfl hwf hv (psTransitionComplete_waits hr hn hbusy)
    · refine ⟨_, exec_onClk rfl hwf hv (psTransitionComplete_ps3 hr hn hidle hquiet hptp), rfl, ?_, ?_, fun p => sleep_linkUp _ _ p, fun q => sleep_fabric _ _ q⟩
      · simp only [sleep_pwr, endCmd_pwr, count_pwr, hpwr.1, hn]
      · simp only [sleep_pwr, endCmd_pwr, count_pwr, hpwr.2]
  · exact exec_onDev rfl rfl hv (governorSample_within hlive hfirst hcap)
  · obtain ⟨e, he, hparts⟩ := governorSample_above (k := v.clk) hlive hover
    exact ⟨_, exec_onDev rfl rfl hv he, hparts⟩
  · exact exec_idle rfl rfl hv (governorNotchAdd_none hcool hroom hover)
  · exact fun hissue => exec_onDev rfl rfl hv ((governorNotchAdd_adds hlive hwants).trans (addNotch_issue hissue))
  · exact fun hissue hease => ⟨_, exec_onDev rfl rfl hv (governorNotchAdd_adds hlive hwants), addNotch_ease hissue hease⟩
  · exact fun hissue hease hback => exec_onDev rfl rfl hv ((governorNotchAdd_adds hlive hwants).trans (addNotch_background hissue hease hback))
  · have hdrop {e : Dev} (he : v.dev.dropNotch = e) : exec (.governorNotchRemove t) s = .next { v with dev := e } :=
      exec_onDev rfl rfl hv ((governorNotchRemove_drops hlive hcool hheld haverage hlast).trans he)
    exact ⟨fun hback => hdrop (dropNotch_background hback), fun hback hease => hdrop (dropNotch_ease hback hease),
      fun hback hease => hdrop (dropNotch_issue hback hease)⟩

end Sys2Proof.Proofs

/-! SUPPORT. Commands that change the datum-time unit beside the device, and what a port that supplies time no more leaves of it. -/

namespace Sys2Proof.Proofs

open Sys2Proof Sys2Proof.Machine Sys2Proof.Laws

/-- A well-formed command whose effect lies in the datum-time unit and the device. -/
theorem exec_clkDev {i : Instr} {t : Nat} {f : Clock → Dev → Clock × Dev} {s v : State} {c : Clock} {d : Dev} (hi : exec i s = happens i t (·.onClk f) s)
    (hwf : i.wf = true) (hv : v = s.tick t) (hf : f v.clk v.dev = (c, d)) : exec i s = .next { v with clk := c, dev := d } := by
  rw [hi, happens_wf _ _ _ _ hwf, ← hv, State.onClk, hf]

theorem dropPort_eq (c : Clock) (q : FabPort) : c.dropPort q = { c with ptpPort := if c.ptpPort = some q then none else c.ptpPort } := by
  unfold Clock.dropPort
  split <;> rfl

end Sys2Proof.Proofs

/-! SUPPORT. The datum-time unit of a node that changes its domain: it starts anew with the highest value held as it stood, and so refutes the statement that the value at which VALID falls is always kept. -/

namespace Sys2Proof.Proofs

open Sys2Proof Sys2Proof.Machine Sys2Proof.Laws

/-- A node that leaves its domain for another starts its datum-time unit anew, and `hiValid` stays as it was: the value that datum time has reached is not counted in (R363, R365). -/
theorem onDomain_changed {f : Clock → Dev → Dev} {c : Clock} {d : Dev} (hin : d.domain?.isSome = true) (hout : (f c d).domain? ≠ d.domain?) :
    (onDomain f c d).1 = { c with state := .unsync, errBound := 0xFFFFFFFF, valid := false, lockRun := 0, ptpPort := none, pins := false } := by
  simp [onDomain, hin, hout]

/-- A first generation of a domain, without nodes, leaves or spaces. -/
def bareGen (domain : Nat) : PlatGen :=
  { gen := 1, term := 1, fromStation := 0, domain := domain, epochS := 0, ptpDomain := 0, version := Config.verMin, timing := timingDefault, quorum := [],
    nodes := [], spaces := [], leaves := [], groups := [] }

/-- A node in service in domain 1, at datum time 10 with VALID 1, whose plat.join into domain 2 awaits its member's answer; the answer is at the front of the queue. -/
def joiningNode : State :=
  { State.reset with
    pending := [.generationFetched 0 (bareGen 2)]
    clk := { Clock.reset with now := 10, state := .locked, errBound := 8, valid := true }
    dev := { Dev.reset with
      start := { Start.reset with phase := .service }
      plat := { Plat.reset with gens := [bareGen 1], joining := some ⟨⟨0, 0, 0, 0⟩, 2, 0, none⟩ } } }

theorem joiningNode_enters : (generationFetched (bareGen 2) joiningNode.clk joiningNode.dev).domain? = some 2 := by decide

/-- Refutes O49: the answer that takes `joiningNode` into domain 2 drops VALID at datum time 10, and the highest value held stays 0 (`onDomain_changed`); the clock is no reset clock either, for its time runs on. -/
theorem not_datumTimeHolds : ¬ Obligations.DatumTimeHolds := by
  intro h
  have hstep : step joiningNode = .next (({ joiningNode with pending := [] } : State).onClk (onDomain (generationFetched (bareGen 2)))) := rfl
  have hclk := onDomain_changed (f := generationFetched (bareGen 2)) (c := joiningNode.clk) (d := joiningNode.dev) rfl (by rw [joiningNode_enters]; decide)
  obtain ⟨-, -, hfall, -⟩ := h joiningNode _ (fun _ => .inl ⟨rfl, by decide⟩) hstep
  rcases hfall rfl (congrArg Clock.valid hclk) with hreset | ⟨hheld, -⟩
  · exact absurd (hclk.symm.trans hreset) (by decide)
  · exact absurd (hheld.trans_eq (congrArg Clock.hiValid hclk)) (by decide)

end Sys2Proof.Proofs

/-! SUPPORT. Writes of FAB.PORT and the two registers whose reads clear a peak; and the statement about them. -/

namespace Sys2Proof.Proofs

open Sys2Proof Sys2Proof.Machine Sys2Proof.Laws

/-- Through an admin port, a change of ENABLE or MACSEC_EN retrains the link (R384, R541). -/
theorem fabPortWrite_retrains {p : Port} {q : FabPort} {w : W64} {d : Dev} (c : Clock) (hon : d.portOn p = true) (hadm : d.regs.adminPorts.getLsbD p.val = true)
    (hnew : d.fab.ports[q].enable ≠ w.getLsbD 0 ∨ d.fab.ports[q].macsecEn ≠ w.getLsbD 1) :
    fabPortWrite p q w c d =
      (c.dropPort q, { d with fab := { d.fab with ports := d.fab.ports.set q.val (d.fab.ports[q].retrain (w.getLsbD 0) (w.getLsbD 1)) } }) := by
  have hadmin : d.isAdmin p = true := by simp [Dev.isAdmin, hon, hadm]
  have hchange : ¬(decide (d.fab.ports[q].enable = w.getLsbD 0) && decide (d.fab.ports[q].macsecEn = w.getLsbD 1)) = true := by
    simpa only [Bool.and_eq_true, decide_eq_true_eq, not_and_or] using hnew
  exact (if_pos hadmin).trans (if_neg hchange)

theorem peakWRead_clears {p : Port} {v : State} (hon : v.dev.portOn p = true) :
    peakWRead p v.clk v.dev = { v.dev.updPort p (fun h => { h with readData := v.readReg 0x30018 }) with pwr := { v.dev.pwr with peakW := 0 } } := if_pos hon

theorem tjPeakRead_clears {p : Port} {v : State} (hon : v.dev.portOn p = true) :
    tjPeakRead p v.clk v.dev = { v.dev.updPort p (fun h => { h with readData := v.readReg 0x30028 }) with brd := { v.dev.brd with tjPeak := 0 } } := if_pos hon

/-- Settles O8. It holds: the write takes the branch of an admin port that changes a setting, and each read that of a port that is on. -/
theorem fabricPortsAndPeaks : Obligations.FabricPortsAndPeaks := by
  refine ⟨fun s v t p q w hv hon hadm hnew => ?_, fun s v t p hv hon => ⟨?_, ?_⟩⟩
  · exact ⟨_, exec_clkDev rfl rfl hv (fabPortWrite_retrains v.clk hon hadm hnew), rfl, dropPort_eq v.clk q, rfl, rfl⟩
  · exact exec_onDev rfl rfl hv (peakWRead_clears hon)
  · exact exec_onDev rfl rfl hv (tjPeakRead_clears hon)

end Sys2Proof.Proofs

/-! SUPPORT. Fabric links: what makes a port UP, takes it down and secures it; which packet leaves at an egress opportunity; and the statement about them. -/

namespace Sys2Proof.Proofs

open Sys2Proof Sys2Proof.Machine Sys2Proof.Laws

/-! ### Links (R350, R352, R384) -/

section Links
variable {q : FabPort} {d : Dev}

theorem inReset_none (h : d.pwr.blkReset = none) (block unit : Nat) : d.inReset block unit = false := by simp [Dev.inReset, h]

theorem fabricLinkUp_up (c : Clock) (hservice : d.service = true) (henable : d.fab.ports[q].enable = true) (htraining : d.fab.ports[q].link = .training)
    (hloop : d.tst.loopHolds 1 q.val = false) (hlost : d.brd.lost = []) (hreset : d.pwr.blkReset = none) :
    fabricLinkUp q c d = { d with fab := { d.fab with ports := d.fab.ports.set q.val { d.fab.ports[q] with link := .up, lanes := 0xFF, macsecUp := false } } } := by
  have hfree : ¬((!(d.service && d.fab.ports[q].enable && d.fab.ports[q].link != .up && d.fab.ports[q].link != .disabled)) ||
      (d.tst.loopHolds 1 q.val || d.brd.lost.contains (.fb ⟨q.val / 4, by omega⟩) || d.inReset 3 q.val)) = true := by
    simp only [hservice, henable, htraining, hloop, hlost, inReset_none hreset, List.contains_nil]
    decide
  exact if_neg hfree

theorem fabricLinkDown_down (c : Clock) (hup : d.fab.ports[q].link = .up) :
    fabricLinkDown q c d = (c.dropPort q, { d with fab := { d.fab with ports := d.fab.ports.set q.val { d.fab.ports[q] with link := .down, lanes := 0, macsecUp := false } } }) :=
  if_neg (by simp only [hup]; decide)

theorem secureAssociation_secures (c : Clock) (hup : d.fab.ports[q].link = .up) (hsec : d.fab.ports[q].macsecEn = true) (hkey : d.plat.cak.isSome = true) :
    secureAssociation q c d = { d with fab := { d.fab with ports := d.fab.ports.set q.val { d.fab.ports[q] with macsecUp := true } } } :=
  if_pos (by simp only [hsec, hup, hkey, decide_true, Bool.and_self])

/-- Without the key of plat.join no association comes up (R352). -/
theorem secureAssociation_keyless (c : Clock) (hkey : d.plat.cak = none) : secureAssociation q c d = d :=
  if_neg (by simp [hkey])

end Links

/-! ### Egress (R449) -/

section Egress
variable {q : FabPort} {c : Clock} {d : Dev} {r : Ready}

/-- A CONTROL packet goes before all others and needs no tokens. -/
theorem pickClass_control (hready : d.readyOf c q 0 = some r) : d.pickClass c q = some (0, false) := by
  simp [Dev.pickClass, hready]

/-- Without one, a packet of class 1 that both buckets of its shaper pass goes first. -/
theorem pickClass_green (hcontrol : d.readyOf c q 0 = none) (hready : d.readyOf c q 1 = some r) (hpeak : (d.shaper 0).peakPasses r.pkt.size = true)
    (hgreen : (d.shaper 0).greenPasses r.pkt.size = true) : d.pickClass c q = some (1, true) := by
  simp [Dev.pickClass, hcontrol, hready, hpeak, hgreen]

theorem egressOpportunity_silent (hsends : d.portSends q = false) : egressOpportunity q c d = d := if_pos (by simp [hsends])

theorem egressOpportunity_control (hsends : d.portSends q = true) (hready : d.readyOf c q 0 = some r) : egressOpportunity q c d = d.leave c q 0 r := by
  simp [egressOpportunity, hsends, pickClass_control hready, hready, clsFin]

/-- A green packet of class 1 debits its shaper and is counted as green. -/
theorem egressOpportunity_green (hsends : d.portSends q = true) (hcontrol : d.readyOf c q 0 = none) (hready : d.readyOf c q 1 = some r)
    (hpeak : (d.shaper 0).peakPasses r.pkt.size = true) (hgreen : (d.shaper 0).greenPasses r.pkt.size = true) :
    egressOpportunity q c d = Dev.count { d.leave c q 1 r with adm := { (d.leave c q 1 r).adm with shapers := vupdN (d.leave c q 1 r).adm.shapers 0 fun s => s.debit r.pkt.size true } } 113 1 r.pkt.size := by
  simp only [egressOpportunity, hsends, pickClass_green hcontrol hready hpeak hgreen, hready]
  rfl

/-- A packet that leaves is logged as sent, and no shaper changes by it. -/
theorem leave_txLog (cls : Fin 4) : (d.leave c q cls r).fab.txLog = d.fab.txLog ++ [d.packetOut q cls (d.conn r.peer cls) r] := by
  simp only [Dev.leave, count_fab]
  split <;> rfl

theorem leave_adm (cls : Fin 4) : (d.leave c q cls r).adm = d.adm := by
  simp only [Dev.leave, count_adm]
  split <;> rfl

end Egress

/-! ### The statement -/

/-- Settles O46. It holds: each link event takes one branch, and the class that leaves is the first that `Dev.pickClass` looks at. -/
theorem fabricLinksAndEgress : Obligations.FabricLinksAndEgress := by
  refine ⟨fun s v t q f hv hf => ?_, fun s v t q hv => ⟨fun hsends => ?_, fun r hsends hready => ?_, fun r hsends hcontrol hready hpeak hgreen => ?_⟩⟩
  · subst hf
    refine ⟨fun hservice henable htraining hloop hlost hreset => ?_, fun hup => ?_, fun hup hsec => ⟨fun hkey => ?_, fun hkey => ?_⟩⟩
    · exact exec_onDev rfl rfl hv (fabricLinkUp_up v.clk hservice henable htraining hloop hlost hreset)
    · rw [← dropPort_eq]
      exact exec_clkDev rfl rfl hv (fabricLinkDown_down v.clk hup)
    · exact exec_onDev rfl rfl hv (secureAssociation_secures v.clk hup hsec hkey)
    · exact exec_idle rfl rfl hv (secureAssociation_keyless v.clk hkey)
  · exact exec_idle rfl rfl hv (egressOpportunity_silent hsends)
  · exact exec_onDev rfl rfl hv (egressOpportunity_control hsends hready)
  · refine ⟨_, exec_onDev rfl rfl hv (egressOpportunity_green hsends hcontrol hready hpeak hgreen), ?_, ?_, fun j hj => ?_⟩
    · simp [leave_txLog]
    · simp [leave_adm, vupdN]
    · have hne : (0 : Nat) ≠ j.val := fun h => hj (Fin.ext h.symm)
      simp [leave_adm, vupdN, hne]

end Sys2Proof.Proofs

/-! SUPPORT. Measurements, the loss of a source, holdover and the return of VALID: what each makes of the datum-time unit; and the statement about them. -/

namespace Sys2Proof.Proofs

open Sys2Proof Sys2Proof.Machine Sys2Proof.Laws

/-! ### One measured offset (R365) -/

section Measure
variable {c : Clock} {off : Int} {ppb : Nat}

/-- A valid unit keeps VALID while the bound that the offset sets is at most 1,000 ns. -/
theorem lock_keeps (hvalid : c.valid = true) (hoff : off.natAbs ≤ 992) : c.lock off = { c with state := .locked, errBound := off.natAbs + 8, lockRun := 0 } :=
  if_pos (by simp only [hvalid, Bool.true_and, decide_eq_true_eq]; omega)

/-- Beyond, VALID falls and the highest value held is kept (R366). -/
theorem lock_falls (hvalid : c.valid = true) (hoff : 992 < off.natAbs) :
    c.lock off = { c with state := .locked, errBound := off.natAbs + 8, lockRun := 0, valid := false, hiValid := max c.hiValid c.now } := by
  have hbound : ¬(c.valid && decide (off.natAbs + 8 ≤ 1000)) = true := by simp only [hvalid, Bool.true_and, decide_eq_true_eq]; omega
  exact (if_neg hbound).trans (by simp [hvalid])

/-- VALID rises once datum time has passed the highest value held. -/
theorem lock_rises (hvalid : c.valid = false) (hoff : off.natAbs ≤ 992) (hpast : c.hiValid < c.now) :
    c.lock off = { c with state := .locked, errBound := off.natAbs + 8, lockRun := 0, valid := true } := by
  have hbound : off.natAbs + 8 ≤ 1000 := by omega
  simp [Clock.lock, Clock.mayBeValid, hvalid, hbound, hpast]

theorem measure_counts (hstate : c.state = .unsync) (hoff : off.natAbs ≤ 250) (hrun : c.lockRun < 15) :
    c.measure off ppb = { c with lockRun := c.lockRun + 1 } := by
  simp only [Clock.measure, hstate, hoff, if_true, Nat.not_le.mpr hrun, if_false]

theorem measure_locks (hstate : c.state = .unsync) (hoff : off.natAbs ≤ 250) (hrun : 15 ≤ c.lockRun) : c.measure off ppb = c.lock off := by
  simp only [Clock.measure, hstate, hoff, hrun, if_true]

theorem measure_restarts (hstate : c.state = .unsync) (hoff : 250 < off.natAbs) :
    c.measure off ppb = { c with lockRun := 0, now := ((c.now : Int) + off).toNat } := by
  simp only [Clock.measure, hstate, Nat.not_le.mpr hoff, if_false]
  rfl

theorem measure_relocks (hstate : c.state = .locked) (hoff : off.natAbs ≤ 1000) : c.measure off ppb = c.lock off := by
  simp only [Clock.measure, hstate, Nat.not_lt.mpr hoff, if_false]

theorem measure_unlocks (hstate : c.state = .locked) (hoff : 1000 < off.natAbs) :
    c.measure off ppb = { c.unlock with now := ((c.now : Int) + off).toNat } := by
  simp only [Clock.measure, hstate, hoff, if_true]
  rfl

theorem measure_holdover_inside (hstate : c.state = .holdover) (hoff : 1000000000 * off.natAbs ≤ c.holdBound ppb) : c.measure off ppb = c.lock off := by
  simp only [Clock.measure, hstate, hoff, if_true]

theorem measure_holdover_outside (hstate : c.state = .holdover) (hoff : c.holdBound ppb < 1000000000 * off.natAbs) : c.measure off ppb = c := by
  simp only [Clock.measure, hstate, Nat.not_le.mpr hoff, if_false]

/-- The lock is lost with VALID: the highest value held is kept (R366). -/
theorem unlock_valid (hvalid : c.valid = true) :
    c.unlock = { c with state := .unsync, errBound := 0xFFFFFFFF, valid := false, hiValid := max c.hiValid c.now, lockRun := 0 } := by
  simp only [Clock.unlock, hvalid, if_true]

end Measure

/-! ### What follows for the node (R367) -/

section Node
variable {c c1 : Clock} {d : Dev}

theorem chairLapsed_member (hchair : d.plat.chair = false) (c : Clock) : d.chairLapsed c = false := by simp [Dev.chairLapsed, hchair]

theorem onValid_rises (hold : c.valid = false) (hnew : c1.valid = true) : d.onValid c c1 = d.dueFrees c1 := if_pos (by simp [hold, hnew])

/-- Where VALID does not rise, a node that is no chair stays as it was. -/
theorem onValid_member (hchair : d.plat.chair = false) (hnew : c.valid = false → c1.valid = false) : d.onValid c c1 = d := by
  have hrise : ¬(!c.valid && c1.valid) = true := by simpa using hnew
  simp [Dev.onValid, hrise, chairLapsed_member hchair]

theorem ptpMeasurement_measures {q : FabPort} {off : Int} (hruns : d.timeRuns = true) (hptp : d.usesPtp = true) (hepoch : d.epoch?.isSome = true)
    (hpasses : d.fab.ports[q].passes = true) (hmeasure : ({ c with ptpPort := some q, pins := false } : Clock).measure off d.holdPpb = c1) :
    ptpMeasurement q off c d = (c1, d.onValid c c1) := by
  have hserves : (d.timeRuns && d.usesPtp && d.epoch?.isSome && (vgetD d.fab.ports q.val FPort.reset).passes) = true := by
    rw [vgetD_fin, hruns, hptp, hepoch, hpasses]; rfl
  exact (if_pos hserves).trans (by rw [hmeasure])

/-- A good frame in its window measures the edge before it (R364). -/
theorem timeTod_measures {frame : List Byte} {e ep : Nat} (hedge : c.edge = some e) (hepoch : d.epoch? = some ep) (hruns : d.timeRuns = true)
    (hsource : d.regs.source = 1 ∨ (d.regs.source = 2 ∧ c.ptpPort = none)) (hframe : todOk frame = true) (htime : todOnTime c.now e = true)
    (hmeasure : c1 = ({ c with ptpPort := none, pins := true, edge := none } : Clock).measure ((fieldN frame 4 8 : Int) - 1000000000 * ep - e) d.holdPpb) :
    timeTod frame c d = (c1, d.onValid c c1) := by
  have hserves : (d.timeRuns && (d.regs.source = 1 || (d.regs.source = 2 && c.ptpPort.isNone)) && todOk frame && todOnTime c.now e) = true := by
    rw [hruns, hframe, htime]
    simpa using hsource
  simp only [timeTod, hedge, hepoch, hserves, if_true, ← hmeasure]

theorem timeTod_ignores {frame : List Byte} {e : Nat} (hedge : c.edge = some e) (hbad : todOk frame = false ∨ todOnTime c.now e = false) :
    timeTod frame c d = (c, d) := by
  have hdrop (b : Bool) : (b && todOk frame && todOnTime c.now e) = false := by rcases hbad with h | h <;> simp [h]
  unfold timeTod
  split
  · next hedge' _ =>
    cases hedge.symm.trans hedge'
    simp [hdrop]
  · rfl

theorem timeSourceLoss_holds (hstate : c.state = .locked) : timeSourceLoss c d =
    ({ c with ptpPort := none, pins := false, edge := none, lockRun := 0, state := .holdover, holdAt := c.now, holdBase := c.errBound }, d) := by
  simp [timeSourceLoss, hstate]

theorem holdoverExpiry_ends (hchair : d.plat.chair = false) (hstate : c.state = .holdover) (hbound : 1000000000000 < c.holdBound d.holdPpb) :
    holdoverExpiry c d = (c.unlock, d) := by
  simp [holdoverExpiry, Clock.expire, hstate, hbound, chairLapsed_member hchair]

theorem holdoverExpiry_early (hchair : d.plat.chair = false) (hbound : c.holdBound d.holdPpb ≤ 1000000000000) : holdoverExpiry c d = (c, d) := by
  simp [holdoverExpiry, Clock.expire, Nat.not_lt.mpr hbound, chairLapsed_member hchair]

theorem validReturn_returns (hvalid : c.valid = false) (hmay : c.mayBeValid d.holdPpb = true) :
    validReturn c d = ({ c with valid := true }, d.dueFrees { c with valid := true }) := by
  simp [validReturn, hvalid, hmay]

theorem validReturn_waits (hmay : c.mayBeValid d.holdPpb = false) : validReturn c d = (c, d) := by simp [validReturn, hmay]

/-- A locked unit within its bound waits only for datum time to pass the highest value held (R366). -/
theorem mayBeValid_locked {ppb : Nat} (hstate : c.state = .locked) (hbound : c.errBound ≤ 1000) : c.mayBeValid ppb = (c.hiValid < c.now || c.hiValid = 0) := by
  simp [Clock.mayBeValid, hstate, hbound]

end Node

/-! ### The statement -/

/-- Settles O48. It holds: each offset takes the branch of its state and size, and of the node only a rise of VALID changes anything. -/
theorem timeSources : Obligations.TimeSources := by
  refine ⟨fun s v t q off c hv hruns hptp hepoch hpasses hchair hc => ?_, fun s v t hv => ⟨fun hruns hpins => ?_, ?_, fun hstate => ?_, ?_, ?_⟩⟩
  · have hsame : v.clk.state = c.state ∧ v.clk.valid = c.valid ∧ v.clk.lockRun = c.lockRun ∧ v.clk.now = c.now ∧ v.clk.hiValid = c.hiValid ∧
        v.clk.holdBound v.dev.holdPpb = c.holdBound v.dev.holdPpb := by rw [hc]; exact ⟨rfl, rfl, rfl, rfl, rfl, rfl⟩
    obtain ⟨hsstate, hsvalid, hsrun, hsnow, hshi, hsbound⟩ := hsame
    have hexec {c1 : Clock} (hm : c.measure off v.dev.holdPpb = c1) : exec (.ptpMeasurement t q off) s = .next { v with clk := c1, dev := v.dev.onValid v.clk c1 } :=
      exec_clkDev rfl rfl hv (ptpMeasurement_measures hruns hptp hepoch hpasses (hc ▸ hm))
    have hstays {c1 : Clock} (hm : c.measure off v.dev.holdPpb = c1) (hvalid : c.valid = false → c1.valid = false) :
        exec (.ptpMeasurement t q off) s = .next { v with clk := c1 } := by
      rw [hexec hm, onValid_member hchair (hsvalid ▸ hvalid)]
    rw [hsstate, hsvalid, hsrun, hsnow, hshi, hsbound]
    refine ⟨fun hstate hoff hrun => ?_, fun hstate hoff => ?_, fun c1 hstate hoff hrun hvalid hpast hc1 => ?_, fun hstate hvalid hoff => ?_,
      fun hstate hvalid hlo hhi => ?_, fun hstate hvalid hoff => ?_, fun hstate hvalid hin hoff => ?_, fun hstate hout => ?_⟩
    · exact hstays (measure_counts hstate hoff hrun) id
    · exact hstays (measure_restarts hstate hoff) id
    · have hlock := (lock_rises hvalid (by omega : off.natAbs ≤ 992) hpast).trans hc1.symm
      rw [hexec ((measure_locks hstate hoff hrun).trans hlock), onValid_rises (hsvalid.trans hvalid) (by rw [hc1])]
    · rw [hstays ((measure_relocks hstate (by omega)).trans (lock_keeps hvalid hoff)) id, ← hstate]
    · rw [hstays ((measure_relocks hstate hhi).trans (lock_falls hvalid hlo)) fun _ => rfl, ← hstate]
    · exact hstays ((measure_unlocks hstate hoff).trans (by rw [unlock_valid hvalid])) fun _ => rfl
    · exact hstays ((measure_holdover_inside hstate hin).trans (lock_keeps hvalid hoff)) id
    · exact hstays (measure_holdover_outside hstate hout) id
  · exact exec_clkDev rfl rfl hv (by simp [time1pps, hruns, hpins])
  · intro frame e ep c1 hlen hedge hepoch hruns hsource hc1
    have hwf : (Instr.timeTod t frame).wf = true := decide_eq_true hlen
    refine ⟨fun hframe htime => ?_, fun hbad => ?_⟩
    · rw [exec_clkDev rfl hwf hv (timeTod_measures hedge hepoch hruns hsource hframe htime hc1)]
      simp [Dev.onValid]
    · exact exec_clkDev rfl hwf hv (timeTod_ignores hedge hbad)
  · exact exec_clkDev rfl rfl hv (timeSourceLoss_holds hstate)
  · intro hchair hstate hvalid
    refine ⟨fun hbound => ?_, fun hbound => ?_⟩
    · rw [← unlock_valid hvalid]
      exact exec_clkDev rfl rfl hv (holdoverExpiry_ends hchair hstate hbound)
    · exact exec_clkDev rfl rfl hv (holdoverExpiry_early hchair hbound)
  · intro hvalid hstate hbound
    refine ⟨fun c1 hpast hc1 => ?_, fun hnow hhi => ?_⟩
    · subst hc1
      exact exec_clkDev rfl rfl hv (validReturn_returns hvalid (by simp [mayBeValid_locked hstate hbound, hpast]))
    · exact exec_clkDev rfl rfl hv (validReturn_waits (by simp [mayBeValid_locked hstate hbound, hnow, hhi]))

end Sys2Proof.Proofs

/-! SUPPORT. plat.propose, plat.status and the two rows of plat.join once they are accepted: which branch each takes; and the statement about them. -/

namespace Sys2Proof.Proofs

open Sys2Proof Sys2Proof.Machine Sys2Proof.Laws

/-! ### plat.propose (R372, R373) -/

section Propose
variable {cmd : Cmd} {cbs : List Space} {ready : List (Nat × Nat)} {c : Clock} {d : Dev} {os : List PlatOp}

/-- The operations are read from the partition, which a fresh record leaves alone. -/
theorem ready_proposeAreas (v : State) (cmd : Cmd) : proposeAreas (v.ready cmd) cmd = proposeAreas (v.dev.takeCmd cmd) cmd := by
  simp only [proposeAreas, Dev.proposeOps, Dev.partRead, Dev.port, ready_ports]

theorem exec_platPropose {s v : State} {k : Take} (hv : v = s.tick k.t) (ha : Accepted k 0x0B00 v cmd) (hareas : AreasOk v cmd (proposeAreas (v.dev.takeCmd cmd) cmd))
    (hbad : proposeBad cbs v.clk (v.dev.takeCmd cmd) cmd = false) :
    exec (.platPropose k cbs ready) s = .next (v.ran cmd (proposeRun cbs ready v.clk (v.ready cmd) cmd)) :=
  exec_slot_ownAreas (areas := proposeAreas) rfl rfl hv ha (ready_proposeAreas v cmd) hareas rfl hbad

theorem knownChair_chair (h : d.plat.chair = true) (c : Clock) : d.knownChair c = some d.plat.nodeId := if_pos h

/-- The chair is known from the plat alone. -/
theorem knownChair_congr {d' : Dev} (h : d'.plat = d.plat) (c : Clock) : d'.knownChair c = d.knownChair c := by
  unfold Dev.knownChair Dev.beaconCur Dev.station
  rw [h]

theorem not_any_forwarded {key : CmdKey} (h : ∀ f ∈ d.plat.forwarded, f.key ≠ key) : (d.plat.forwarded.any fun f => f.key = key) = false := by
  simpa only [List.any_eq_false, decide_eq_true_eq] using h

variable (hnew : d.findRec .beacon cmd.key = none) (hfirst : ∀ f ∈ d.plat.forwarded, f.key ≠ cmd.key) (hos : d.proposeOps cmd = some os)
include hnew hfirst hos

/-- The chair keeps a proposal that R373 does not refuse until a beacon announces it. -/
theorem proposeRun_kept {d1 : Dev} (hchair : d.plat.chair = true)
    (hok : (d.noteAreas cmd.ref (proposeAreas d cmd)).propose cmd os cbs (d.readyList ready) = .inr d1) :
    proposeRun cbs ready c d cmd = { d1 with plat := { d1.plat with forwarded := d1.plat.forwarded ++ [⟨cmd.ref, cmd.key, none, 0⟩] } } := by
  simp only [proposeRun, hnew, not_any_forwarded hfirst, knownChair_chair hchair c, hos, hok, if_true, Bool.false_eq_true, if_false]

theorem proposeRun_refused {st : Nat} (hchair : d.plat.chair = true)
    (hno : (d.noteAreas cmd.ref (proposeAreas d cmd)).propose cmd os cbs (d.readyList ready) = .inl st) :
    proposeRun cbs ready c d cmd = d.refuse cmd.ref st := by
  simp only [proposeRun, hnew, not_any_forwarded hfirst, knownChair_chair hchair c, hos, hno, if_true, Bool.false_eq_true, if_false]

/-- Another node sends the proposal on to the chair it knows. -/
theorem proposeRun_forwarded {n : Nat} (hknown : d.knownChair c = some n) (hother : n ≠ d.plat.nodeId) :
    proposeRun cbs ready c d cmd =
      { (d.noteAreas cmd.ref (proposeAreas d cmd)).send clsControl n (.propose cmd.key (cmd.f 0x40 8) (cmd.f 0x48 8) os cbs) with
        plat := { d.plat with forwarded := d.plat.forwarded ++ [⟨cmd.ref, cmd.key, none, 0⟩] } } := by
  simp only [proposeRun, hnew, not_any_forwarded hfirst, hknown, hos, hother, if_false, Bool.false_eq_true, send_plat]
  rfl

end Propose

/-! ### plat.join (R363, R374, R435) -/

section Join
variable {cmd : Cmd} {c : Clock} {d : Dev} {g : PlatGen}

/-- A node that is in no domain keeps its datum-time unit as it is. -/
theorem onDomain_outside (f : Clock → Dev → Dev) (c : Clock) (hout : d.domain? = none) : onDomain f c d = (c, f c d) := by
  simp [onDomain, hout]

/-- A row of plat.join that is accepted outside every domain leaves what its run makes of the device. -/
theorem exec_join_row {i : Instr} {row : Cmd → Bool} {bad : Clock → Dev → Cmd → Bool} {areas : Dev → Cmd → List (Nat × Nat)} {l : List (Nat × Nat)}
    {run : Clock → Dev → Cmd → Dev} {k : Take} {s v : State} (hi : exec i s = happens i k.t (·.onClk (onDomain (runSlot 0x0B02 row bad areas run k))) s)
    (hwf : i.wf = true) (hv : v = s.tick k.t) (ha : Accepted k 0x0B02 v cmd) (hl : ∀ d, areas d cmd = l) (hareas : AreasOk v cmd l) (hrow : row cmd = true)
    (hbad : bad v.clk (v.dev.takeCmd cmd) cmd = false) (hout : v.dev.domain? = none) :
    exec i s = .next (v.ran cmd (run v.clk (v.ready cmd) cmd)) := by
  have hrun : runSlot 0x0B02 row bad areas run k v.clk v.dev = (run v.clk (v.ready cmd) cmd).showRunning cmd.ref :=
    runSlot_accepted ha hrow hbad (fun a h => (hareas a (hl _ ▸ h)).1) (fun a h => (hareas a (hl _ ▸ h)).2)
  exact exec_onClk hi hwf hv ((onDomain_outside _ _ hout).trans (by rw [hrun]))

theorem exec_platJoin {k : Take} {s v : State} (fetched : Option PlatGen) (hv : v = s.tick k.t) (ha : Accepted k 0x0B02 v cmd) (hjoin : cmd.e 0x58 1 = 0)
    (hmember : cmd.f 0x44 2 < 4096) (hout : v.dev.domain? = none) : exec (.platJoin k fetched) s = .next (v.ran cmd (joinRun fetched v.clk (v.ready cmd) cmd)) := by
  have hrow : joinRow cmd = true := by simp [joinRow, hjoin]
  have hbad : joinBad v.clk (v.dev.takeCmd cmd) cmd = false := by simp [joinBad, hjoin, hmember]
  exact exec_join_row (areas := noAreas) rfl rfl hv ha (fun _ => rfl) (fun _ h => absurd h List.not_mem_nil) hrow hbad hout

/-- The answer of the domain that the command names takes the node into it. -/
theorem joinRun_enters (hdomain : g.domain = cmd.f 0x40 4) (hversion : versionOk g.version = true) :
    joinRun (some g) c d cmd = (d.enterDomain c g [] (cmd.f 0x44 2) cmd.cak).endCmd c cmd.ref stOk 0 0 [] := by
  simp [joinRun, Dev.endJoin, hdomain, hversion]

theorem joinRun_waits (hfirst : d.plat.joining = none) : joinRun none c d cmd =
    ({ d with plat := { d.plat with joining := some ⟨cmd.ref, cmd.f 0x40 4, cmd.f 0x44 2, cmd.cak⟩ } } : Dev).send clsControl (cmd.f 0x44 2) (.fetchGen 0) :=
  if_neg (by simp [hfirst])

theorem foundRun_founds {cbs : List Space} {d1 : Dev} (hversion : versionOk g.version = true) (hd1 : d1 = d.enterDomain c g cbs (cmd.f 0x44 2) cmd.cak) :
    foundRun g cbs c d cmd = (({ d1 with plat := { d1.plat with founding := some (g, if g.quorum.contains d1.plat.nodeId then [d1.plat.nodeId] else []) } } : Dev).sendAll
      clsControl (g.quorum.filter fun n => n != d1.plat.nodeId) (.stored 1 0)).endCmd c cmd.ref stOk 0 0 [] := by
  subst hd1
  exact if_neg (by simp [hversion])

end Join

/-! ### The statement -/

/-- Settles O43. It holds: each command passes its own checks, and its run takes the one branch that the statement names. -/
theorem platCommands : Obligations.PlatCommands := by
  refine ⟨fun s v k cmd cbs ready os r note hv ha hr hnote hareas hbad hos hnew hfirst => ?_, fun s v k cmd n hv ha hlen hn => ?_,
    fun s v k cmd j hv ha hjoin hmember hout hj => ⟨fun g hdomain hversion => ?_, fun hnone => ?_⟩,
    fun s v k cmd g cbs d1 hv ha hfound hareas hbad hversion hout hd1 => ?_⟩
  · subst hnote hr
    have hexec := exec_platPropose (ready := ready) hv ha hareas hbad
    rw [← ready_plat v cmd] at hfirst ⊢
    refine ⟨fun d1 hchair hok => ?_, fun st hchair hno => ?_, fun n hknown hother => ?_⟩
    · rw [hexec, proposeRun_kept hnew hfirst hos hchair hok]
    · rw [hexec, proposeRun_refused hnew hfirst hos hchair hno]
    · rw [hexec, proposeRun_forwarded hnew hfirst hos ((knownChair_congr (ready_plat v cmd) _).trans hknown) hother]
  · subst hn
    rw [← ready_leaves v cmd]
    have hbad : platStatusBad v.clk (v.dev.takeCmd cmd) cmd = false := decide_eq_false (Nat.not_lt.mpr hlen)
    exact exec_slot (run := platStatusRun) rfl rfl hv ha rfl hbad
  · subst hj
    rw [exec_platJoin (some g) hv ha hjoin hmember hout, joinRun_enters hdomain hversion]
  · subst hj
    rw [exec_platJoin none hv ha hjoin hmember hout, joinRun_waits (by rwa [ready_plat]), ready_plat]
  · rw [← foundRun_founds hversion hd1]
    exact exec_join_row (areas := foundAreas) rfl rfl hv ha (fun _ => rfl) hareas (decide_eq_true hfound) hbad hout

end Sys2Proof.Proofs

/-! SUPPORT. Generations and codebooks that arrive, and the start of a station where nothing but one monument depends on it; and the statement about them. -/

namespace Sys2Proof.Proofs

open Sys2Proof Sys2Proof.Machine Sys2Proof.Laws

/-! ### Generations and codebooks (R371, R381) -/

section Arrivals
variable {c : Clock} {d : Dev} {g : PlatGen}

/-- What leaves the node in its domain leaves the datum-time unit alone. -/
theorem onDomain_same {f : Clock → Dev → Dev} (hsame : (f c d).domain? = d.domain?) : onDomain f c d = (c, f c d) := by
  simp [onDomain, hsame]

theorem generationFetched_foreign (hjoin : d.plat.joining = none) (hother : d.domain? ≠ some g.domain) : generationFetched g c d = d := by
  simp only [generationFetched, hjoin, hother, if_false]

theorem generationFetched_learns (hjoin : d.plat.joining = none) (hown : d.domain? = some g.domain) :
    generationFetched g c d = (d.learnGen c g).retryAll c := by
  simp only [generationFetched, hjoin, hown, if_true]

/-- A codebook that a known generation names is taken, and work that waited is taken up again. -/
theorem codebookFetch_taken {sp : Space} (hg : g ∈ d.plat.gens) (hx : (⟨sp.id, sp.planGen, sp.tag⟩ : PlatSpace) ∈ d.missingSpaces g) (hformed : sp.formed = true) :
    codebookFetch sp c d = ({ d with plat := { d.plat with spaces := d.plat.spaces ++ [sp] } } : Dev).retryAll c := by
  have hnamed : (d.plat.gens.any fun g => (d.missingSpaces g).any fun s => s.id = sp.id && s.planGen = sp.planGen && s.tag = sp.tag) = true :=
    List.any_eq_true.mpr ⟨g, hg, List.any_eq_true.mpr ⟨_, hx, by simp⟩⟩
  exact if_neg (by simp only [hformed, hnamed, Bool.not_true, Bool.or_self, Bool.false_eq_true, not_false_eq_true])

end Arrivals

/-! ### A monument at a station's start (R194, R277) -/

section Monument
variable {m : Monument}

/-- The copies that the boundary keeps are away from the row's own place and not lost, as they all were. -/
theorem boundary_keeps {station : Nat} {valid : Bool} (h : ∀ k ∈ m.copies, k.use ≠ .gone ∧ k.home = false) :
    ∀ k ∈ (m.boundary station valid).copies, k.use ≠ .gone ∧ k.home = false := by
  intro k hk
  obtain ⟨x, hx, rfl⟩ := List.mem_map.mp (List.mem_of_mem_filter hk)
  obtain ⟨hgone, hhome⟩ := h x hx
  split
  · exact ⟨nofun, hhome⟩
  · exact ⟨hgone, hhome⟩

/-- No copy is lost, so none is inherited. -/
theorem inherit_whole (h : ∀ k ∈ m.copies, k.use ≠ .gone ∧ k.home = false) (homeLost : Bool) : m.inherit homeLost = m := by
  unfold Monument.inherit
  split
  · next k ks hks =>
    obtain ⟨hgone, hhome⟩ := h k (hks ▸ List.mem_cons_self)
    simp [hgone, hhome]
  · rfl

theorem follow_away (h : ∀ k ∈ m.copies, k.use ≠ .gone ∧ k.home = false) (home : StackNo) : m.follow home = m := by
  have hcopies : m.copies.map (fun k => if k.home then { k with stack := home } else k) = m.copies :=
    (List.map_congr_left fun k hk => by simp [(h k hk).2]).trans (List.map_id _)
  simp [Monument.follow, hcopies]

variable {c : Clock} {d : Dev}

theorem syncRow_leafless (h : d.leaves = []) (k : RowKey) : d.syncRow c k = d := by
  simp [Dev.syncRow, Dev.syncLeaf, Dev.leaf, h]

/-- The only monument of a node without leaves takes its boundary and no more. -/
theorem monStation_only (hleaves : d.leaves = []) (hm : d.chain.monuments = [m]) (hmove : m.move = none) (h : ∀ k ∈ m.copies, k.use ≠ .gone ∧ k.home = false) :
    d.monStation c = { d with chain := { d.chain with monuments := [m.boundary (d.station c) c.valid] } } := by
  have hkeeps := boundary_keeps (station := d.station c) (valid := c.valid) h
  simp only [Dev.monStation, hm, List.foldl_cons, List.foldl_nil, Dev.monBoundary, hmove, inherit_whole hkeeps, follow_away hkeeps,
    updMonument_only hm rfl]
  refine syncRow_leafless ?_ _
  exact hleaves

end Monument

/-! ### The start of a station (R142, R358, R370, R389) -/

section Station
variable {c : Clock} {d : Dev}

theorem stationStart_member (hlive : d.live = true) (hchair : d.plat.chair = false) :
    stationStart c d = ((((d.newQuorum c).versionStation c).fetchMissed c).monStation c).leafStation c := by
  simp [stationStart, hlive, chairLapsed_member hchair]

/-- A node without a generation has no quorum, no DOMAIN_VERSION and no beacon to fetch. -/
theorem newQuorum_outside (h : d.plat.gens = []) : d.newQuorum c = d := by
  simp [Dev.newQuorum, Dev.genNow, genAt, regimes, sortBy, h]

theorem versionStation_outside (h : d.plat.gens = []) : d.versionStation c = d := by simp [Dev.versionStation, h]

theorem fetchMissed_outside (h : d.plat.gens = []) : d.fetchMissed c = d := by simp [Dev.fetchMissed, h]

theorem leafStation_idle (hleaves : d.leaves = []) (hjobs : d.nb.jobs = []) : d.leafStation c = d := by
  have hsame : ({ d with leaves := [] } : Dev) = d := by rw [← hleaves]
  simp [Dev.leafStation, Dev.sweepJobs, hleaves, hjobs, hsame]

end Station

/-! ### The statement -/

/-- Settles O45. It holds: an arrival takes the branch of the node's own domain or of another's, and the start of a station runs its parts one after another. -/
theorem generationsAndStations : Obligations.GenerationsAndStations := by
  refine ⟨fun s v t g hv hjoin => ⟨fun hother => ?_, fun hown hafter => ?_⟩, fun s v t sp g x hv hg hx hsp hformed => ?_,
    fun s v t hv hlive hchair => ⟨?_, fun m hleaves hgens hjobs hm hmove hcopies => ?_⟩⟩
  · have hidle : generationFetched g v.clk v.dev = v.dev := generationFetched_foreign hjoin hother
    exact exec_onClk rfl rfl hv ((onDomain_same (by rw [hidle])).trans (by rw [hidle]))
  · have hlearns : generationFetched g v.clk v.dev = (v.dev.learnGen v.clk g).retryAll v.clk := generationFetched_learns hjoin hown
    exact exec_onClk rfl rfl hv ((onDomain_same (by rw [hlearns, hafter, hown])).trans (by rw [hlearns]))
  · exact exec_onDev rfl rfl hv (codebookFetch_taken hg (hsp ▸ hx) hformed)
  · exact exec_onDev rfl rfl hv (stationStart_member hlive hchair)
  · refine exec_onDev rfl rfl hv ((stationStart_member hlive hchair).trans ?_)
    rw [newQuorum_outside hgens, versionStation_outside hgens, fetchMissed_outside hgens, monStation_only hleaves hm hmove hcopies]
    exact leafStation_idle hleaves hjobs

end Sys2Proof.Proofs

/-! SUPPORT. The receiver of a connection: what an acknowledgement leaves of it, the next packet expected that brings a whole message, and the acknowledgement that this node sends. -/

namespace Sys2Proof.Proofs

open Sys2Proof Sys2Proof.Machine Sys2Proof.Laws

/-- What a connection keeps as receiver: the next PSN expected, those beyond it, the messages begun, and the next one to deliver (R354). -/
def receiverOf (k : Conn) : Nat × List Nat × List RxMsg × Nat := (k.rxCum, k.rxMap, k.rxMsgs, k.rxNextMsg)

/-- Connections are read from the fabric's map alone. -/
theorem conn_congr {d d' : Dev} (h : d'.fab.conns = d.fab.conns) (peer cls : Nat) : d'.conn peer cls = d.conn peer cls := by simp only [Dev.conn, h]

/-! ### Acknowledgements taken and sent (R355, R356) -/

section Acknowledgements
variable {d : Dev} {peer cls : Nat}

theorem receiverOf_acked (k : Conn) (ack map now : Nat) : receiverOf (k.acked ack map now) = receiverOf k := by
  unfold Conn.acked
  dsimp only
  split <;> rfl

theorem receiverOf_echo (k : Conn) (now : Nat) : receiverOf (k.echo now).1 = receiverOf k := by
  unfold Conn.echo
  dsimp only
  split <;> rfl

/-- An acknowledgement taken concerns what this node sends, not what it receives. -/
theorem receiverOf_takeAck (c : Clock) (ack map : Nat) (echo : Bool) :
    receiverOf ((d.takeAck c peer cls ack map echo).conn peer cls) = receiverOf (d.conn peer cls) := by
  have hsweep (k : Conn) (waiting : List Nat) : receiverOf (k.sweepMsgs waiting) = receiverOf k := rfl
  unfold Dev.takeAck
  rw [conn_congr (congrArg _ (count_fab _ _ _ _)), conn_updConn_same, hsweep]
  split
  · rw [receiverOf_echo, receiverOf_acked]
  · exact receiverOf_acked _ _ _ _

theorem takeAck_rxDone (c : Clock) (ack map : Nat) (echo : Bool) : (d.takeAck c peer cls ack map echo).fab.rxDone = d.fab.rxDone := by
  unfold Dev.takeAck
  rw [count_fab]
  rfl

theorem sendAck_conn : (d.sendAck peer cls).conn peer cls = { d.conn peer cls with unacked := 0, ackDue := none, ceSeen := false } :=
  (conn_congr rfl peer cls).trans (conn_updConn_same d peer cls fun x => { x with unacked := 0, ackDue := none, ceSeen := false })

theorem ackTimer_due {c : Clock} {x : Nat} (hdue : (d.conn peer cls).ackDue = some x) (hx : x ≤ c.now) : ackTimer peer cls c d = d.sendAck peer cls := by
  simp [ackTimer, hdue, hx]

theorem ackTimer_unset {c : Clock} (hdue : (d.conn peer cls).ackDue = none) : ackTimer peer cls c d = d := by simp [ackTimer, hdue]

end Acknowledgements

/-! ### DATA packets (R353, R354) -/

section Data
variable {c : Clock} {d : Dev} {q : FabPort} {bs : List Byte} {ce : Bool}

/-- A packet whose HCHECK is wrong is counted (R353). -/
theorem traverseData_badCheck (hpasses : d.portPasses q = true) (hcheck : checkOk bs = false) : traverseData q ce bs c d = (d.notePacket c q).count 95 q.val 1 := by
  simp [traverseData, hpasses, hcheck]

theorem traverseAck_takes (hpasses : d.portPasses q = true) (hcheck : checkOk bs = true) (hpacket : (d.notePacket c q).packetOk bs (readHeader bs) 2 = true) :
    traverseAck q bs c d = (d.notePacket c q).takeAck c (readHeader bs).src (readHeader bs).tclass (readHeader bs).ackPsn (fieldN bs 32 8) (readHeader bs).ceEcho := by
  simp [traverseAck, hpasses, hcheck, hpacket]

/-- The connection once a packet has come: a segment that is new inside the window stands in its message, the next expected PSN has moved on, and an acknowledgement is due. -/
def receivedConn (k : Conn) (now : Nat) (ce : Bool) (h : TvHeader) (pay : List Byte) : Conn :=
  let fresh := psnGap k.rxCum h.psn < rxWindow && !(k.rxMap.contains h.psn)
  let k1 := if fresh then ({ k with rxMap := k.rxMap ++ [h.psn] } : Conn).addSegment h pay else k
  { k1.advance k1.rxMap.length with unacked := k.unacked + 1, ceSeen := k.ceSeen || ce, ackDue := k.ackDue.orElse fun _ => some (now + 5000) }

/-- What is whole is delivered, and after 16 packets the acknowledgement leaves. -/
def takeSegment (d : Dev) (peer cls : Nat) (k : Conn) : Dev :=
  let d2 := (d.updConn peer cls fun _ => k).deliver peer cls k.rxMsgs.length
  if 16 ≤ k.unacked then d2.sendAck peer cls else d2

/-- A DATA packet of the connection: its acknowledgement is taken, then its segment. -/
theorem traverseData_takes {h : TvHeader} {pay : List Byte} {d1 : Dev} (hh : h = readHeader bs) (hpay : pay = bs.drop 32) (hpasses : d.portPasses q = true)
    (hcheck : checkOk bs = true) (hpacket : (d.notePacket c q).packetOk bs h 1 = true) (hsegment : segmentOk h pay.length = true)
    (hd1 : d1 = ((d.notePacket c q).count 94 q.val pay.length).takeAck c h.src h.tclass h.ackPsn 0 h.ceEcho) :
    traverseData q ce bs c d = takeSegment d1 h.src h.tclass (receivedConn (d1.conn h.src h.tclass) c.now ce h pay) := by
  subst hd1 hh hpay
  exact (if_neg (by simp [hpasses])).trans ((if_neg (by simp [hcheck])).trans (if_neg (by simp only [hpacket, hsegment, Bool.not_true, Bool.or_self, Bool.false_eq_true, not_false_eq_true])))

theorem psnGap_self (n : Nat) : psnGap n n = 0 := by simp [psnGap]

/-- The next packet expected, where nothing is begun or stands beyond it, brings its message whole. -/
theorem receivedConn_whole {k : Conn} {now : Nat} {h : TvHeader} {pay : List Byte} (hpsn : h.psn = k.rxCum) (hmap : k.rxMap = []) (hmsgs : k.rxMsgs = []) :
    receiverOf (receivedConn k now ce h pay) = ((k.rxCum + 1) % 2 ^ 32, [], [⟨h.msgId, h.msgLen, [(h.msgOff, pay)]⟩], k.rxNextMsg) := by
  have hwindow : 0 < rxWindow := by decide
  simp [receivedConn, receiverOf, Conn.addSegment, Conn.advance, psnGap_self, hwindow, hpsn, hmap, hmsgs]

/-- A message of one segment is whole when the segment is all of it. -/
theorem whole_single (id : Nat) (pay : List Byte) : (⟨id, pay.length, [(0, pay)]⟩ : RxMsg).whole = some pay := by
  simp [RxMsg.whole, sortBy, insertBy]

/-- The next message in order is handed over: its bytes are delivered, and nothing of it stays. -/
def handOver (d : Dev) (peer cls : Nat) (bs : List Byte) : Dev :=
  let d1 := d.updConn peer cls fun x => { x with rxMsgs := x.rxMsgs.filter (fun m => m.id != x.rxNextMsg), rxNextMsg := (x.rxNextMsg + 1) % 2 ^ 32 }
  { d1 with fab := { d1.fab with rxDone := d1.fab.rxDone ++ [(peer, cls, bs)] } }

theorem deliver_whole {peer cls : Nat} (n : Nat)
    (hwhole : ((d.conn peer cls).rxMsgs.find? fun m => m.id = (d.conn peer cls).rxNextMsg).bind RxMsg.whole = some bs) :
    d.deliver peer cls (n + 1) = (handOver d peer cls bs).deliver peer cls n := by
  simp only [Dev.deliver, hwhole, handOver]

theorem handOver_conn (peer cls : Nat) : (handOver d peer cls bs).conn peer cls =
    { d.conn peer cls with rxMsgs := (d.conn peer cls).rxMsgs.filter (fun m => m.id != (d.conn peer cls).rxNextMsg),
                           rxNextMsg := ((d.conn peer cls).rxNextMsg + 1) % 2 ^ 32 } :=
  (conn_congr rfl peer cls).trans (conn_updConn_same d peer cls
    fun x => { x with rxMsgs := x.rxMsgs.filter (fun m => m.id != x.rxNextMsg), rxNextMsg := (x.rxNextMsg + 1) % 2 ^ 32 })

/-- A message of one segment that is next in order is handed over. -/
theorem deliver_single {peer cls cum id : Nat} {pay : List Byte}
    (hrx : receiverOf (d.conn peer cls) = (cum, [], [⟨id, pay.length, [(0, pay)]⟩], id)) :
    d.deliver peer cls 1 = handOver d peer cls pay ∧ receiverOf ((handOver d peer cls pay).conn peer cls) = (cum, [], [], (id + 1) % 2 ^ 32) := by
  simp only [receiverOf, Prod.mk.injEq] at hrx
  obtain ⟨hcum, hmap, hmsgs, hnext⟩ := hrx
  refine ⟨deliver_whole 0 (by simp [hmsgs, hnext, whole_single]), ?_⟩
  rw [handOver_conn]
  simp [receiverOf, hcum, hmap, hmsgs, hnext]

/-- A connection's one message of one segment is delivered, whether the acknowledgement leaves at once or not. -/
theorem takeSegment_single {peer cls cum id : Nat} {pay : List Byte} {k : Conn} (hrx : receiverOf k = (cum, [], [⟨id, pay.length, [(0, pay)]⟩], id)) :
    (takeSegment d peer cls k).fab.rxDone = d.fab.rxDone ++ [(peer, cls, pay)] ∧
      receiverOf ((takeSegment d peer cls k).conn peer cls) = (cum, [], [], (id + 1) % 2 ^ 32) := by
  have hone : k.rxMsgs.length = 1 := by
    simp only [receiverOf, Prod.mk.injEq] at hrx
    obtain ⟨-, -, hmsgs, -⟩ := hrx
    rw [hmsgs, List.length_singleton]
  have hconn : receiverOf ((d.updConn peer cls fun _ => k).conn peer cls) = (cum, [], [⟨id, pay.length, [(0, pay)]⟩], id) := by rwa [conn_updConn_same]
  obtain ⟨hdeliver, hleft⟩ := deliver_single hconn
  simp only [takeSegment, hone, hdeliver]
  split
  · rw [sendAck_conn]
    exact ⟨rfl, hleft⟩
  · exact ⟨rfl, hleft⟩

/-- The next packet expected, which brings a whole message, delivers it once and moves the expected PSN on (R354). -/
theorem traverseData_whole {h : TvHeader} {k : Conn} (hh : h = readHeader bs) (hpasses : d.portPasses q = true) (hcheck : checkOk bs = true)
    (hpacket : d.packetOk bs h 1 = true) (hsegment : segmentOk h (bs.drop 32).length = true) (hk : k = d.conn h.src h.tclass) (hoff : h.msgOff = 0)
    (hlen : h.msgLen = (bs.drop 32).length) (hpsn : h.psn = k.rxCum) (hmap : k.rxMap = []) (hmsgs : k.rxMsgs = []) (hid : h.msgId = k.rxNextMsg) :
    (traverseData q ce bs c d).fab.rxDone = d.fab.rxDone ++ [(h.src, h.tclass, bs.drop 32)] ∧
      receiverOf ((traverseData q ce bs c d).conn h.src h.tclass) = ((k.rxCum + 1) % 2 ^ 32, [], [], (k.rxNextMsg + 1) % 2 ^ 32) := by
  obtain ⟨d1, hd1⟩ : ∃ x, x = ((d.notePacket c q).count 94 q.val (bs.drop 32).length).takeAck c h.src h.tclass h.ackPsn 0 h.ceEcho := ⟨_, rfl⟩
  have hrx : receiverOf (d1.conn h.src h.tclass) = receiverOf k := by
    rw [hd1, receiverOf_takeAck, conn_congr (d := d) (by rw [count_fab]; rfl), ← hk]
  have hdone : d1.fab.rxDone = d.fab.rxDone := by rw [hd1, takeAck_rxDone, count_fab]; rfl
  have hparts := hrx
  simp only [receiverOf, Prod.mk.injEq] at hparts
  obtain ⟨hcum, hmap1, hmsgs1, hnext⟩ := hparts
  have hwhole := receivedConn_whole (ce := ce) (now := c.now) (pay := bs.drop 32) (hpsn.trans hcum.symm) (hmap1.trans hmap) (hmsgs1.trans hmsgs)
  rw [hcum, hnext, hoff, hlen, hid] at hwhole
  rw [traverseData_takes hh rfl hpasses hcheck hpacket hsegment hd1, ← hdone]
  exact takeSegment_single hwhole

end Data

end Sys2Proof.Proofs

/-! SUPPORT. The timers of a connection, a peer that cannot be reached, and the HELLOs of a peer: what each makes of the peer's connections; and the statement about Traverse. -/

namespace Sys2Proof.Proofs

open Sys2Proof Sys2Proof.Machine Sys2Proof.Laws

/-! ### Timers (R355, R356) -/

section Timers
variable {c : Clock} {d : Dev} {peer cls : Nat}

/-- A packet whose timer has run out waits to be sent again. -/
theorem retransmitTimeout_single {p : TxPkt} (hout : (d.conn peer cls).outstanding = [p]) (hlate : p.sentAt + (d.conn peer cls).timer ≤ c.now) :
    (retransmitTimeout peer cls c d).conn peer cls = { d.conn peer cls with outstanding := [], resend := (d.conn peer cls).resend ++ [p] } := by
  simp [retransmitTimeout, hout, hlate]

theorem rateRaise_raises (hup : (d.conn peer cls).up = true) (hquiet : max (d.conn peer cls).lastEcho (d.conn peer cls).lastRaise + (d.conn peer cls).srtt ≤ c.now) :
    (rateRaise peer cls c d).conn peer cls = { d.conn peer cls with rate := min Config.lineRate ((d.conn peer cls).rate + 1000), lastRaise := c.now } := by
  simp only [rateRaise, hup, Nat.not_lt.mpr hquiet, Bool.not_true, Bool.false_or, decide_false, Bool.false_eq_true, if_false, conn_updConn_same]

end Timers

/-! ### A peer that cannot be reached (R355) -/

section Peers
variable {c : Clock} {d : Dev} {peer : Nat}

theorem connKey_ne {i j : Nat} (h : i ≠ j) : connKey peer i ≠ connKey peer j := by unfold connKey; omega

/-- A connection that holds no message goes down with what waits to go to the peer, and nothing fails back. -/
theorem dropConn_idle {cls : Fin 4} (hidle : (d.conn peer cls.val).msgs = []) : d.dropConn c peer cls =
    ({ d with fab := { d.fab with egress := vupd d.fab.egress cls fun q => q.filter fun m => m.peer != peer } } : Dev).updConn peer cls.val fun _ => Conn.fresh := by
  simp only [Dev.dropConn, hidle, List.map_nil, List.foldl_nil]

/-- One connection goes down and starts again with HELLO. -/
def restartConn (c : Clock) (peer : Nat) (d : Dev) (cls : Fin 4) : Dev := (d.dropConn c peer cls).sendHello peer cls

theorem losePeer_eq (c : Clock) (d : Dev) (peer : Nat) :
    d.losePeer c peer = ((List.finRange 4).filter fun (cls : Fin 4) => (d.conn peer cls.val).up).foldl (restartConn c peer) d := rfl

/-- No connection to the peer holds a message. -/
def PeerIdle (peer : Nat) (d : Dev) : Prop := ∀ j : Fin 4, (d.conn peer j.val).msgs = []

/-- The connection is as new, its HELLO has gone out, and nothing waits at its egress. -/
def Restarted (peer : Nat) (d : Dev) (j : Fin 4) : Prop :=
  d.conn peer j.val = Conn.fresh ∧ (peer, d.helloMsg j.val) ∈ d.sent ∧ ∀ m ∈ d.fab.egress[j], m.peer ≠ peer

theorem restartConn_conns {i : Fin 4} (hidle : PeerIdle peer d) :
    (restartConn c peer d i).fab.conns = (d.updConn peer i.val fun _ => Conn.fresh).fab.conns := by
  rw [restartConn, dropConn_idle (hidle i)]; rfl

theorem restartConn_conn {i : Fin 4} (hidle : PeerIdle peer d) (j : Fin 4) :
    (restartConn c peer d i).conn peer j.val = if j = i then Conn.fresh else d.conn peer j.val := by
  rw [conn_congr (restartConn_conns hidle)]
  split
  · next h => rw [h, conn_updConn_same]
  · next h => exact conn_updConn_other _ (connKey_ne fun e => h (Fin.ext e))

theorem restartConn_plat {i : Fin 4} (hidle : PeerIdle peer d) : (restartConn c peer d i).plat = d.plat := by
  rw [restartConn, dropConn_idle (hidle i)]; rfl

theorem restartConn_sent {i : Fin 4} (hidle : PeerIdle peer d) : (restartConn c peer d i).sent = d.sent ++ [(peer, d.helloMsg i.val)] := by
  rw [restartConn, dropConn_idle (hidle i)]; rfl

/-- HELLO names the version and the ports withdrawn, which no connection changes. -/
theorem restartConn_helloMsg {i : Fin 4} (hidle : PeerIdle peer d) (cls : Nat) : (restartConn c peer d i).helloMsg cls = d.helloMsg cls := by
  rw [restartConn, dropConn_idle (hidle i)]; rfl

theorem restartConn_egress {i : Fin 4} (hidle : PeerIdle peer d) :
    (restartConn c peer d i).fab.egress = vupd d.fab.egress i fun q => q.filter fun m => m.peer != peer := by
  rw [restartConn, dropConn_idle (hidle i)]; rfl

theorem restartConn_idle {i : Fin 4} (hidle : PeerIdle peer d) : PeerIdle peer (restartConn c peer d i) := by
  intro j
  rw [restartConn_conn hidle]
  split
  · rfl
  · exact hidle j

/-- The connection that restarts has restarted, and those that had stay so. -/
theorem restartConn_restarted {i j : Fin 4} (hidle : PeerIdle peer d) (h : Restarted peer d j ∨ j = i) : Restarted peer (restartConn c peer d i) j := by
  unfold Restarted
  rw [restartConn_conn hidle, restartConn_helloMsg hidle, restartConn_sent hidle, restartConn_egress hidle]
  by_cases hj : j = i
  · subst hj
    refine ⟨if_pos rfl, List.mem_append_right _ (List.mem_singleton_self _), fun m hm => ?_⟩
    have hkept : m ∈ d.fab.egress[j.val] ∧ m.peer ≠ peer := by simpa [vupd] using hm
    exact hkept.2
  · obtain ⟨hfresh, hsent, hegress⟩ := h.resolve_right hj
    have hne : i.val ≠ j.val := fun e => hj (Fin.ext e.symm)
    refine ⟨(if_neg hj).trans hfresh, List.mem_append_left _ hsent, fun m hm => hegress m ?_⟩
    simpa [vupd, hne] using hm

/-- Connection by connection, each class of a list restarts. -/
theorem foldl_restartConn (l : List (Fin 4)) (hidle : PeerIdle peer d) :
    (l.foldl (restartConn c peer) d).plat = d.plat ∧ ∀ j, Restarted peer d j ∨ j ∈ l → Restarted peer (l.foldl (restartConn c peer) d) j := by
  induction l generalizing d with
  | nil => exact ⟨rfl, fun j hj => hj.resolve_right List.not_mem_nil⟩
  | cons i l ih =>
    obtain ⟨hplat, hall⟩ := ih (restartConn_idle (i := i) hidle)
    refine ⟨hplat.trans (restartConn_plat hidle), fun j hj => hall j ?_⟩
    rcases hj with hj | hj
    · exact .inl (restartConn_restarted hidle (.inl hj))
    · rcases List.mem_cons.mp hj with hj | hj
      · exact .inl (restartConn_restarted hidle (.inr hj))
      · exact .inr hj

/-- Every connection to the peer that was up starts again. -/
theorem losePeer_restarts (hidle : PeerIdle peer d) :
    (d.losePeer c peer).plat = d.plat ∧ ∀ j : Fin 4, (d.conn peer j.val).up = true → Restarted peer (d.losePeer c peer) j := by
  obtain ⟨hplat, hall⟩ := foldl_restartConn (c := c) ((List.finRange 4).filter fun (cls : Fin 4) => (d.conn peer cls.val).up) hidle
  exact ⟨hplat, fun j hup => hall j (.inr (List.mem_filter.mpr ⟨List.mem_finRange j, hup⟩))⟩

/-- A peer that makes no progress counts as unreachable (R355). -/
theorem peerUnreachable_loses {cls : Nat} (hup : (d.conn peer cls).up = true) (hout : (d.conn peer cls).outstanding ≠ [])
    (hlate : (d.conn peer cls).progress + (d.timing c).peerDeadNs ≤ c.now) (hnew : peer ∉ d.plat.unreachable) :
    peerUnreachable peer cls c d = (({ d with plat := { d.plat with unreachable := d.plat.unreachable ++ [peer] } } : Dev).count 98 0 1).losePeer c peer := by
  have hdead : ¬(!(d.conn peer cls).up || ((d.conn peer cls).outstanding.isEmpty && (d.conn peer cls).resend.isEmpty) ||
      decide (c.now < (d.conn peer cls).progress + (d.timing c).peerDeadNs)) = true := by
    simp [hup, hout, hlate]
  refine (if_neg hdead).trans ?_
  simp only [List.contains_eq_mem, hnew, decide_false, Bool.false_eq_true, if_false]

end Peers

/-! ### HELLO (R355, R358, R463) -/

section Hello
variable {c : Clock} {d d0 : Dev} {peer cls vmin vmax : Nat} {w : List FabPort}

/-- What a HELLO tells is noted: the versions of the peer and the ports it withdraws. -/
def helloNoted (d : Dev) (peer vmin vmax : Nat) (w : List FabPort) : Dev :=
  { d with plat := { d.plat with ranges := NMap.put d.plat.ranges peer (vmin, vmax) }, fab := { d.fab with peerHeld := NMap.put d.fab.peerHeld peer w } }

theorem hello_fits (hlive : d.live = true) (hlo : vmin ≤ d.connVersion c) (hhi : d.connVersion c ≤ vmax) (hversion : versionOk (d.connVersion c) = true) :
    hello peer cls vmin vmax w c d =
      if (d.conn peer cls).up && d.fab.peerHeld != (helloNoted d peer vmin vmax w).fab.peerHeld then helloNoted d peer vmin vmax w
      else
        let d1 := if (d.conn peer cls).up then (helloNoted d peer vmin vmax w).dropConn c peer (clsFin cls) else helloNoted d peer vmin vmax w
        let d2 := d1.updConn peer cls fun k => { k with up := true, version := d.connVersion c, progress := c.now }
        ({ d2 with plat := { d2.plat with unreachable := d2.plat.unreachable.filter fun n => n != peer } } : Dev).askAgain c peer :=
  (if_neg (by simp [hlive])).trans (if_pos (by simp [inRange, hlo, hhi, hversion]))

/-- One that changes the ports withdrawn of an up connection only notes them (R463). -/
theorem hello_notes (hlive : d.live = true) (hlo : vmin ≤ d.connVersion c) (hhi : d.connVersion c ≤ vmax) (hversion : versionOk (d.connVersion c) = true)
    (hup : (d.conn peer cls).up = true) (hheld : (helloNoted d peer vmin vmax w).fab.peerHeld ≠ d.fab.peerHeld) :
    hello peer cls vmin vmax w c d = helloNoted d peer vmin vmax w :=
  (hello_fits hlive hlo hhi hversion).trans (if_pos (by simp [hup, hheld.symm]))

/-- Any other brings the connection up, anew if it was up. -/
theorem hello_opens {d1 : Dev} (hlive : d.live = true) (hlo : vmin ≤ d.connVersion c) (hhi : d.connVersion c ≤ vmax) (hversion : versionOk (d.connVersion c) = true)
    (hd1 : ((d.conn peer cls).up = false ∧ d1 = helloNoted d peer vmin vmax w) ∨
      ((d.conn peer cls).up = true ∧ (helloNoted d peer vmin vmax w).fab.peerHeld = d.fab.peerHeld ∧ d1 = (helloNoted d peer vmin vmax w).dropConn c peer (clsFin cls))) :
    hello peer cls vmin vmax w c d =
      let d2 := d1.updConn peer cls fun k => { k with up := true, version := d.connVersion c, progress := c.now }
      ({ d2 with plat := { d2.plat with unreachable := d2.plat.unreachable.filter fun n => n != peer } } : Dev).askAgain c peer := by
  rw [hello_fits hlive hlo hhi hversion]
  rcases hd1 with ⟨hdown, rfl⟩ | ⟨hup, hheld, rfl⟩
  · simp only [hdown, Bool.false_and, Bool.false_eq_true, if_false]
  · simp only [hup, hheld, bne_self_eq_false, Bool.and_false, Bool.false_eq_true, if_false, if_true]

/-- A HELLO of another version leaves the connection down and the peer unreachable (R358). -/
theorem hello_misfits (hlive : d.live = true) (hcls : cls < 4) (hout : d.connVersion c < vmin ∨ vmax < d.connVersion c) (hidle : (d.conn peer cls).msgs = []) :
    ((hello peer cls vmin vmax w c d).conn peer cls).up = false ∧ peer ∈ (hello peer cls vmin vmax w c d).plat.unreachable := by
  have hmisfit : ¬(inRange (d.connVersion c) vmin vmax && versionOk (d.connVersion c)) = true := by
    have hrange : inRange (d.connVersion c) vmin vmax = false := by
      simp only [inRange, Bool.and_eq_false_iff, decide_eq_false_iff_not]; omega
    simp [hrange]
  have hfin : (clsFin cls).val = cls := Nat.mod_eq_of_lt hcls
  have hdrop := dropConn_idle (c := c) (d := helloNoted d peer vmin vmax w) (peer := peer) (cls := clsFin cls) (by rw [hfin]; exact hidle)
  obtain ⟨d1, hd1⟩ : ∃ x, x = (helloNoted d peer vmin vmax w).dropConn c peer (clsFin cls) := ⟨_, rfl⟩
  have hfresh : d1.conn peer cls = Conn.fresh := by
    rw [hd1, hdrop, hfin]
    exact conn_updConn_same _ _ _ _
  have hhello : hello peer cls vmin vmax w c d =
      if d1.plat.unreachable.contains peer then d1 else { d1 with plat := { d1.plat with unreachable := d1.plat.unreachable ++ [peer] } } :=
    hd1 ▸ (if_neg (by simp [hlive])).trans (if_neg hmisfit)
  rw [hhello]
  split
  · next hin => exact ⟨by rw [hfresh]; rfl, by simpa using hin⟩
  · exact ⟨congrArg Conn.up hfresh, List.mem_append_right _ (List.mem_singleton_self _)⟩

end Hello

/-! ### The statement -/

/-- Settles O47. It holds: a packet takes the branch of its check, its type and its place in the window, each timer that of its time, and a peer's connections restart one after another. -/
theorem traverseConnections : Obligations.TraverseConnections := by
  refine ⟨fun s v t q bs h k d0 hv hpasses hh hk hd0 => ⟨fun ce hmin hmax hcheck => ?_, fun hlen hcheck hpacket => ?_,
      fun ce hmin hmax hcheck hpacket hoff hlen hpsn hmap hmsgs hid => ?_⟩,
    fun s v t peer cls k hv hpeer hcls hk => ?_, fun s v t peer cls vmin vmax n w d0 hv hpeer hcls hlive hn hversion hd0 => ?_⟩
  · have hwf : (Instr.traverseData t q ce bs).wf = true := by simp [Instr.wf, hmin, hmax]
    exact hd0 ▸ exec_onDev rfl hwf hv (traverseData_badCheck hpasses hcheck)
  · have hwf : (Instr.traverseAck t q bs).wf = true := decide_eq_true hlen
    subst hh hd0
    exact exec_onDev rfl hwf hv (traverseAck_takes hpasses hcheck hpacket)
  · have hwf : (Instr.traverseData t q ce bs).wf = true := by simp [Instr.wf, hmax]; omega
    have hpay : (bs.drop 32).length = bs.length - 32 := List.length_drop
    have hsegment : segmentOk h (bs.drop 32).length = true := by simp [segmentOk, inRange, hoff, hlen, hpay]; omega
    obtain ⟨hdone, hrx⟩ := traverseData_whole (c := v.clk) (ce := ce) hh hpasses hcheck hpacket hsegment hk hoff (hlen.trans hpay.symm) hpsn hmap hmsgs hid
    simp only [receiverOf, Prod.mk.injEq] at hrx
    obtain ⟨hcum, hmap', hmsgs', -⟩ := hrx
    exact ⟨_, exec_onDev rfl hwf hv rfl, hdone, hcum, hmap', hmsgs'⟩
  · subst hk
    have hwf : (nodeOk peer && clsOk cls) = true := by simp [nodeOk, clsOk, hpeer, hcls]
    refine ⟨fun x hdue hx => ?_, fun hdue => ?_, fun p hout hlate => ?_, fun hup hquiet => ?_, fun d hup hout hlate hnew hd => ⟨?_, fun hidle => ?_⟩⟩
    · exact ⟨_, exec_onDev rfl hwf hv (ackTimer_due hdue hx), rfl, sendAck_conn⟩
    · exact exec_idle rfl hwf hv (ackTimer_unset hdue)
    · exact ⟨_, exec_onDev rfl hwf hv rfl, retransmitTimeout_single hout hlate⟩
    · exact ⟨_, exec_onDev rfl hwf hv rfl, rateRaise_raises hup hquiet⟩
    · exact exec_onDev rfl hwf hv ((peerUnreachable_loses hup hout hlate hnew).trans hd.symm)
    · have hconn (j : Nat) : (({ v.dev with plat := { v.dev.plat with unreachable := v.dev.plat.unreachable ++ [peer] } } : Dev).count 98 0 1).conn peer j = v.dev.conn peer j :=
        conn_congr (by rw [count_fab]) _ _
      obtain ⟨hplat, hall⟩ := losePeer_restarts (c := v.clk) (peer := peer) fun j => (congrArg Conn.msgs (hconn j.val)).trans (hidle j)
      rw [← hd] at hplat hall
      refine ⟨by rw [hplat, count_plat]; exact List.mem_append_right _ (List.mem_singleton_self _), fun j hj => hall j (by rwa [hconn])⟩
  · have hwf : (nodeOk peer && clsOk cls) = true := by simp [nodeOk, clsOk, hpeer, hcls]
    subst hn hd0
    refine ⟨fun d1 d2 hlo hhi hd1 hd2 => ?_, fun hlo hhi hup hheld => ?_, fun hout hidle => ?_⟩
    · exact hd2 ▸ exec_onDev rfl hwf hv (hello_opens hlive hlo hhi hversion hd1)
    · exact exec_onDev rfl hwf hv (hello_notes hlive hlo hhi hversion hup hheld)
    · exact ⟨_, exec_onDev rfl hwf hv rfl, hello_misfits hlive hcls hout hidle⟩

end Sys2Proof.Proofs

/-! SUPPORT. One form for every command: it faults when it is ill formed, and otherwise a function of the state takes effect at the command's datum time, which leaves the queue as it was and every fuse bit that is set. -/

namespace Sys2Proof.Proofs

open Sys2Proof Sys2Proof.Machine Sys2Proof.Laws

/-! ### Fuse bits only rise (R500) -/

theorem bitsIn_refl {n : Nat} (v : BitVec n) : bitsIn v v := fun _ h => h

theorem bitsIn_or {n : Nat} {u v : BitVec n} (h : bitsIn u v) (w : BitVec n) : bitsIn u (v ||| w) := fun i hi => by
  rw [BitVec.getLsbD_or, h i hi, Bool.true_or]

/-- Every fuse bit of a key slot that is set in x is set in y. -/
def slotIn (x y : KeySlot) : Prop := (x.revoked = true → y.revoked = true) ∧ bitsIn x.rsa y.rsa ∧ bitsIn x.slh y.slh

theorem fuses_le_refl (f : Fuses) : Fuses.Le f f :=
  ⟨fun _ => ⟨id, bitsIn_refl _, bitsIn_refl _⟩, fun _ => bitsIn_refl _, fun _ => bitsIn_refl _, fun _ => bitsIn_refl _, bitsIn_refl _, bitsIn_refl _⟩

/-- A relation to the entries of a vector stands over a change of one entry that keeps it there. -/
theorem rel_vupd {α : Type} {n : Nat} {R : α → α → Prop} {v w : Vector α n} {u : α → α} (h : ∀ j : Fin n, R v[j] w[j]) (hu : ∀ x y, R x y → R x (u y))
    (k j : Fin n) : R v[j] (vupd w k u)[j] := by
  by_cases hj : j = k
  · subst hj
    simpa [vupd] using hu _ _ (h j)
  · have hne : k.val ≠ j.val := fun e => hj (Fin.ext e.symm)
    simpa [vupd, Vector.getElem_set, hne] using h j

section Sets
variable {f g : Fuses} (h : Fuses.Le f g)
include h

theorem fuses_le_revoke (k : Fin 4) : Fuses.Le f { g with keys := vupd g.keys k fun y => { y with revoked := true } } := by
  obtain ⟨hkeys, hrest⟩ := h
  exact ⟨rel_vupd (R := slotIn) (u := fun y => { y with revoked := true }) hkeys (fun _ _ ⟨_, hrsa, hslh⟩ => ⟨fun _ => rfl, hrsa, hslh⟩) k, hrest⟩

theorem fuses_le_svn (k : Fin 3) (bits : BitVec 64) : Fuses.Le f { g with svn := vupd g.svn k fun y => y ||| bits } := by
  obtain ⟨hkeys, hsvn, hrest⟩ := h
  exact ⟨hkeys, rel_vupd hsvn (fun _ _ h => bitsIn_or h bits) k, hrest⟩

theorem fuses_le_key (k : Fin 4) (rsa slh : BitVec 384) :
    Fuses.Le f { g with keys := vupd g.keys k fun y => { y with rsa := y.rsa ||| rsa, slh := y.slh ||| slh } } := by
  obtain ⟨hkeys, hrest⟩ := h
  exact ⟨rel_vupd (R := slotIn) (u := fun y => { y with rsa := y.rsa ||| rsa, slh := y.slh ||| slh }) hkeys
    (fun _ _ ⟨hrev, hrsa, hslh⟩ => ⟨hrev, bitsIn_or hrsa rsa, bitsIn_or hslh slh⟩) k, hrest⟩

theorem fuses_le_mac (k : FabPort) (bits : BitVec 48) : Fuses.Le f { g with macs := vupd g.macs k fun y => y ||| bits } := by
  obtain ⟨hkeys, hsvn, hmacs, hrest⟩ := h
  exact ⟨hkeys, hsvn, rel_vupd hmacs (fun _ _ h => bitsIn_or h bits) k, hrest⟩

theorem fuses_le_pin (k : Nat) (bits : BitVec 3) : Fuses.Le f { g with pinMap := NMap.put g.pinMap k (NMap.getD g.pinMap k 0 ||| bits) } := by
  obtain ⟨hkeys, hsvn, hmacs, hpins, hrest⟩ := h
  refine ⟨hkeys, hsvn, hmacs, fun i => ?_, hrest⟩
  by_cases hi : i = k
  · subst hi
    rw [getD_put_same]
    exact bitsIn_or (hpins i) bits
  · rw [getD_put_other _ _ hi]
    exact hpins i

theorem fuses_le_digests (rom seed : BitVec 384) : Fuses.Le f { g with rom := g.rom ||| rom, seed := g.seed ||| seed } := by
  obtain ⟨hkeys, hsvn, hmacs, hpins, hrom, hseed⟩ := h
  exact ⟨hkeys, hsvn, hmacs, hpins, bitsIn_or hrom rom, bitsIn_or hseed seed⟩

end Sets

/-- A package only sets bits: whatever its body names, the bits set before stay set (R500). -/
theorem fuses_le_set (f : Fuses) (b : FuseBody) : Fuses.Le f (f.set b) := by
  refine fuses_le_digests ?_ b.rom b.seed
  have step {α : Type} {u : Fuses → α → Fuses} (xs : List α) {g : Fuses} (hg : Fuses.Le f g) (hu : ∀ x e, Fuses.Le f x → Fuses.Le f (u x e)) :
      Fuses.Le f (xs.foldl u g) := foldl_inv (Fuses.Le f) hu xs g hg
  refine step b.pinMap (step b.macs (step b.keys (step b.svn (step b.revoke (fuses_le_refl f) ?_) ?_) ?_) ?_) ?_
  · exact fun _ k h => fuses_le_revoke h k
  · exact fun _ e h => fuses_le_svn h e.1 (bit64 e.2)
  · exact fun _ e h => fuses_le_key h e.1 e.2.1 e.2.2
  · exact fun _ e h => fuses_le_mac h e.1 e.2
  · exact fun _ e h => fuses_le_pin h e.1 e.2

/-- An SVN counter is raised bit by bit. -/
theorem bitsIn_raiseTo (v : BitVec 64) (n : Nat) : bitsIn v (raiseTo v n) := by
  refine foldl_inv (bitsIn v) (fun x i h => ?_) _ _ (bitsIn_refl v)
  split
  · exact bitsIn_or h _
  · exact h

/-- The SVN counters that a trial set's images commit only rise (R499). -/
theorem fuses_le_commit (f : Fuses) (imgs : List (List Byte)) : Fuses.Le f (f.commit imgs) := by
  obtain ⟨hkeys, -, hrest⟩ := fuses_le_refl f
  refine ⟨hkeys, fun k => ?_, hrest⟩
  simp only [Fuses.commit, Fin.getElem_fin, Vector.getElem_ofFn]
  split
  · exact bitsIn_refl _
  · exact bitsIn_raiseTo _ _

/-! ### Starts and fuse packages -/

theorem fuses_le_lateStakes (o : StartOutcome) (c : Clock) (f : Fuses) (x : Going) : Fuses.Le f (lateStakes o c f x).1 := by
  unfold lateStakes
  simp only
  split
  · exact fuses_le_refl f
  · split
    · exact fuses_le_commit _ _
    · exact fuses_le_refl f

theorem fuses_le_runStart (cls : ResetCls) (o : StartOutcome) (c : Clock) (f : Fuses) (d : Dev) : Fuses.Le f (runStart cls o c f d).1 := by
  unfold runStart
  split
  · exact fuses_le_refl f
  simp only
  split
  · exact fuses_le_refl f
  split
  · exact fuses_le_refl f
  · exact fuses_le_lateStakes _ _ _ _

theorem fuses_le_coldReset (o : StartOutcome) (c : Clock) (f : Fuses) (d : Dev) : Fuses.Le f (coldReset o c f d).2.1 := by
  unfold coldReset
  split
  · exact fuses_le_runStart _ _ _ _ _
  · exact fuses_le_refl f

theorem fuses_le_warmReset (o : StartOutcome) (c : Clock) (f : Fuses) (d : Dev) : Fuses.Le f (warmReset o c f d).2.1 := by
  unfold warmReset
  split
  · exact fuses_le_runStart _ _ _ _ _
  · exact fuses_le_refl f

theorem fuses_le_wakeAt (o : StartOutcome) (c : Clock) (f : Fuses) (d : Dev) : Fuses.Le f (wakeAt o c f d).2.1 := by
  unfold wakeAt
  split
  · exact fuses_le_lateStakes _ _ _ _
  · exact fuses_le_refl f

theorem fuses_le_wake (o : StartOutcome) (c : Clock) (f : Fuses) (d : Dev) : Fuses.Le f (wake o c f d).2.1 := by
  unfold wake
  split
  · exact fuses_le_lateStakes _ _ _ _
  · exact fuses_le_refl f

/-- A package that is refused changes no fuse, and one that is applied sets bits (R501). -/
theorem fuses_le_fusePkg (img : List Byte) (b : FuseBody) (sig : Bool) (c : Clock) (f : Fuses) (d : Dev) : Fuses.Le f (fusePkg img b sig c f d).2.1 := by
  unfold fusePkg
  split
  · exact fuses_le_refl f
  simp only
  split
  · exact fuses_le_set f b
  · exact fuses_le_refl f

/-! ### The form of every command -/

/-- An effect on the state that leaves the queue as it was and every fuse bit that is set. -/
structure Sound (f : State → State) : Prop where
  pending : ∀ s, (f s).pending = s.pending
  fuses : ∀ s, Fuses.Le s.fuse (f s).fuse

theorem onDev_sound (f : Fuses → Clock → Dev → Dev) : Sound fun s => s.onDev (f s.fuse) := ⟨fun _ => rfl, fun s => fuses_le_refl s.fuse⟩

theorem onClk_sound (f : Fuses → Clock → Dev → Clock × Dev) : Sound fun s => s.onClk (f s.fuse) := ⟨fun _ => rfl, fun s => fuses_le_refl s.fuse⟩

theorem onFuse_sound {f : Clock → Fuses → Dev → Clock × Fuses × Dev} (h : ∀ c x d, Fuses.Le x (f c x d).2.1) : Sound (·.onFuse f) :=
  ⟨fun _ => rfl, fun s => h s.clk s.fuse s.dev⟩

/-- What a command means: a sound effect at its datum time. -/
def Means (i : Instr) : Prop := ∃ (t : Nat) (f : State → State), Sound f ∧ ∀ s, exec i s = happens i t f s

theorem means_onDev {i : Instr} {t : Nat} {f : Clock → Dev → Dev} (h : ∀ s, exec i s = happens i t (·.onDev f) s) : Means i :=
  ⟨t, _, onDev_sound fun _ => f, h⟩

theorem means_onClk {i : Instr} {t : Nat} {f : Clock → Dev → Clock × Dev} (h : ∀ s, exec i s = happens i t (·.onClk f) s) : Means i :=
  ⟨t, _, onClk_sound fun _ => f, h⟩

theorem means_onFuse {i : Instr} {t : Nat} {f : Clock → Fuses → Dev → Clock × Fuses × Dev} (hf : ∀ c x d, Fuses.Le x (f c x d).2.1)
    (h : ∀ s, exec i s = happens i t (·.onFuse f) s) : Means i :=
  ⟨t, _, onFuse_sound hf, h⟩

/-- Every command but five leaves the fuses alone; a fuse package and the starts only set bits of them (R500). -/
theorem exec_means (i : Instr) : Means i := by
  cases i with
  | fusePkg t img body sig => exact means_onFuse (fuses_le_fusePkg img body sig) fun _ => rfl
  | coldReset t o => exact means_onFuse (fuses_le_coldReset o) fun _ => rfl
  | warmReset t o => exact means_onFuse (fuses_le_warmReset o) fun _ => rfl
  | wakeAt t o => exact means_onFuse (fuses_le_wakeAt o) fun _ => rfl
  | wake t o => exact means_onFuse (fuses_le_wake o) fun _ => rfl
  | devFwActivate k sig => exact ⟨k.t, _, onClk_sound (devFwActivate k sig), fun _ => rfl⟩
  | resetPackage t img node notBefore notAfter nonce sig => exact ⟨t, _, onClk_sound (resetPackage img node notBefore notAfter nonce sig), fun _ => rfl⟩
  | spdmGetMeasurements t p index => exact ⟨t, _, onDev_sound (spdmGetMeasurements p index), fun _ => rfl⟩
  | devBlockReset | devBlockResetNode | psTransitionComplete | platJoin | found | testLoopback | registerWrite | fabPortWrite | generationFetched | ptpMeasurement
  | time1pps | timeTod | timeSourceLoss | holdoverExpiry | validReturn | pfDone | supplyLoss | resetNAssert | watchdogExpiry | controlSramUncorrectable
  | refclkLoss | thermalSample | fabricLinkDown => exact means_onClk fun _ => rfl
  | _ => exact means_onDev fun _ => rfl

/-! ### The statements -/

/-- Settles O1. It holds: the step takes the command off the queue and runs it. -/
theorem stepRunsFrontCommand : Obligations.StepRunsFrontCommand := fun _ _ _ => rfl

/-- Settles O2. It holds: whatever a command means, it happens only to a well-formed one, and time and the effect leave the queue alone. -/
theorem wellFormedCommandsAnswer : Obligations.WellFormedCommandsAnswer := by
  intro i s
  obtain ⟨t, f, hsound, hexec⟩ := exec_means i
  refine ⟨fun hwf => ⟨f (s.tick t), ?_, ?_⟩, fun hill => ?_⟩
  · rw [hexec, happens_wf _ _ _ _ hwf]
  · rw [hsound.pending, tick_pending]
  · rw [hexec, happens_ill _ _ _ _ hill]

/-- Settles O60. It holds: a step that answers is a sound effect, and time passing leaves the fuses alone. -/
theorem fusesOnlyGain : Obligations.FusesOnlyGain := by
  intro s s' hstep
  rcases hq : s.pending with _ | ⟨i, rest⟩
  · rw [step, hq] at hstep
    cases hstep
    exact fuses_le_refl _
  obtain ⟨t, f, hsound, hexec⟩ := exec_means i
  rw [step, hq] at hstep
  simp only [hexec] at hstep
  rcases hwf : i.wf with _ | _
  · rw [happens_ill _ _ _ _ hwf] at hstep
    cases hstep
  · rw [happens_wf _ _ _ _ hwf] at hstep
    cases hstep
    have hle := hsound.fuses (({ s with pending := rest } : State).tick t)
    rwa [tick_fuse] at hle

end Sys2Proof.Proofs


/-! SUPPORT. The reset state, submissions through CMD_WORD and the information commands: the one branch that each takes, and the statements about them. -/

namespace Sys2Proof.Proofs

open Sys2Proof Sys2Proof.Machine Sys2Proof.Laws

/-! ### Reset values -/

/-- After a reset every tenant but tenant 0 has the settings of R439. -/
theorem tenant_reset {t : Nat} (ht : 0 < t) : State.reset.dev.tenant t = Tenant.off := by
  have hne : ¬0 = t := by omega
  simp [State.reset, Dev.reset, Adm.reset, Dev.tenant, NMap.getD, NMap.get?, hne]

/-- Settles O3. It holds: each register, level and list is read off the reset state. -/
theorem resetValues : Obligations.ResetValues := by
  have hclock : Clock.Ok State.reset.clk := fun h => absurd h (by decide)
  refine ⟨rfl, hclock, rfl, by decide, by decide, by decide, by decide, by decide, by decide, by decide, rfl, fun _ => tenant_reset, by decide, by decide, rfl,
    by decide, rfl, rfl, rfl⟩

/-! ### Submission (R414 to R416) -/

section Submission
variable {c : Clock} {d : Dev} {p : Port} {n : SlotNo} {w : W64}

/-- A word that starts nothing: its SEQ is zero or that of the last command taken from the slot (R414). -/
def oldSeq (h : HostPort) (n : SlotNo) (w : W64) : Bool := w.toNat / 2 ^ 32 = 0 || NMap.get? h.lastSeq n.val = some (w.toNat / 2 ^ 32)

theorem oldSeq_false {h : HostPort} (hseq : w.toNat / 2 ^ 32 ≠ 0) (hnew : NMap.get? h.lastSeq n.val ≠ some (w.toNat / 2 ^ 32)) : oldSeq h n w = false := by
  simp only [oldSeq, hseq, hnew, decide_false, Bool.or_self]

theorem oldSeq_true {h : HostPort} (hold : w.toNat / 2 ^ 32 = 0 ∨ NMap.get? h.lastSeq n.val = some (w.toNat / 2 ^ 32)) : oldSeq h n w = true := by
  simpa only [oldSeq, Bool.or_eq_true, decide_eq_true_eq] using hold

variable (hon : d.portOn p = true)
include hon

theorem cmdWordWrite_joins (hnew : oldSeq (d.port p) n w = false) (hidle : d.slotBusy p n = false) (hout : n ∉ (d.port p).order) : cmdWordWrite p n w c d =
    d.updPort p fun h => { h with slots := Mem.wrN h.slots (slotAt n 0) 8 w.toNat, order := h.order ++ [n] } := by
  simp only [cmdWordWrite, hon, hidle, Bool.not_true, Bool.false_eq_true, if_false]
  unfold oldSeq at hnew
  refine updPort_congr ?_
  simp only [hnew, Bool.false_eq_true, if_false, List.contains_iff_mem, hout]

theorem cmdWordWrite_waits (hnew : oldSeq (d.port p) n w = false) (hbusy : d.slotBusy p n = true) (hout : n ∉ (d.port p).deferred) : cmdWordWrite p n w c d =
    d.updPort p fun h => { h with slots := Mem.wrN h.slots (slotAt n 0) 8 w.toNat, deferred := h.deferred ++ [n] } := by
  simp only [cmdWordWrite, hon, hbusy, Bool.not_true, Bool.false_eq_true, if_false, if_true]
  unfold oldSeq at hnew
  refine updPort_congr ?_
  simp only [hnew, Bool.false_eq_true, if_false, List.contains_iff_mem, hout]

theorem cmdWordWrite_stores (hold : oldSeq (d.port p) n w = true) : cmdWordWrite p n w c d =
    d.updPort p fun h => { h with slots := Mem.wrN h.slots (slotAt n 0) 8 w.toNat } := by
  simp only [cmdWordWrite, hon, Bool.not_true, Bool.false_eq_true, if_false]
  unfold oldSeq at hold
  refine updPort_congr ?_
  simp only [hold, if_true]

omit hon

/-- A waiting slot whose command has ended takes its place in the order (R415, R416). -/
theorem deferredTake_joins {k : Take} (hlive : d.live = true) (hup : (d.port k.port).linkUp = true) (hwaits : k.slot ∈ (d.port k.port).deferred)
    (hidle : d.slotBusy k.port k.slot = false) (hnew : d.newSeq k.port k.slot = true) (hout : k.slot ∉ (d.port k.port).order) : deferredTake k c d =
      d.updPort k.port fun h => { h with deferred := h.deferred.filter fun x => x != k.slot, order := h.order ++ [k.slot] } := by
  have hin : (d.port k.port).deferred.contains k.slot = true := List.contains_iff_mem.mpr hwaits
  simp only [deferredTake, hlive, hup, hin, hidle, hnew, Bool.not_false, Bool.and_self, if_true, Bool.true_and]
  refine updPort_congr ?_
  simp [hout]

end Submission

/-- Settles O4. It holds: a word with a new SEQ takes the branch of an idle or of a busy slot, and any other word that of a plain store. -/
theorem cmdWordTakesOrder : Obligations.CmdWordTakesOrder := by
  refine ⟨⟨fun s v t p n w hv hon hseq hnew => ⟨fun hidle hout => ?_, fun hbusy hout => ?_⟩, fun s v k hv hlive hup hwaits hidle hnew hout => ?_⟩,
    fun s v t p n w hv hon hold => ?_⟩
  · exact exec_onDev rfl rfl hv (cmdWordWrite_joins hon (oldSeq_false hseq hnew) hidle hout)
  · exact exec_onDev rfl rfl hv (cmdWordWrite_waits hon (oldSeq_false hseq hnew) hbusy hout)
  · exact exec_onDev rfl rfl hv (deferredTake_joins hlive hup hwaits hidle hnew hout)
  · exact exec_onDev rfl rfl hv (cmdWordWrite_stores hon (oldSeq_true hold))

/-! ### Information commands (R423, R424, R428, R432) -/

theorem devHelloRun_agrees {c : Clock} {d : Dev} {cmd : Cmd} {m : Nat} (hm : highestMinor (cmd.f 0x40 2) = some m) : devHelloRun c d cmd =
    ((d.updPort cmd.ref.port fun h => { h with agreed := some (cmd.f 0x40 2, min (cmd.f 0x42 1) m) }).result cmd 0
      (helloResult (cmd.f 0x40 2) (min (cmd.f 0x42 1) m))).endCmd c cmd.ref stOk 0 0 [] := by
  simp only [devHelloRun, hm]

/-- Settles O5. It holds: each command passes its own checks and its run writes what the statement names. -/
theorem informationCommands : Obligations.InformationCommands := by
  refine ⟨fun s v k cmd m hv ha hlen hm => ?_, fun s v k cmd n hv ha hlen hn => ?_, fun s v k cmd out hv ha hlog hout => ?_, fun s v k cmd hv ha hlen => ?_⟩
  · have hrun := exec_slot (i := .devHello k) rfl rfl hv ha rfl (decide_eq_false (Nat.not_lt.mpr hlen))
    rwa [devHelloRun_agrees hm] at hrun
  · subst hn
    exact exec_slot (i := .devInfo k) rfl rfl hv ha rfl (decide_eq_false (Nat.not_lt.mpr hlen))
  · subst hout
    exact exec_slot (i := .devLogRead k) rfl rfl hv ha rfl (decide_eq_false (Nat.not_lt.mpr hlog))
  · exact exec_slot (i := .timeStatus k) rfl rfl hv ha rfl (decide_eq_false (Nat.not_lt.mpr hlen))

end Sys2Proof.Proofs


/-! SUPPORT. Writes of the admin registers: through a port that the block lets write, and through one that it does not. -/

namespace Sys2Proof.Proofs

open Sys2Proof Sys2Proof.Machine Sys2Proof.Laws

section Writes
variable {c : Clock} {d : Dev} {p : Port} {w : W64}

theorem isAdmin_of (hon : d.portOn p = true) (hadm : d.regs.adminPorts.getLsbD p.val = true) : d.isAdmin p = true := by
  rw [Dev.isAdmin, hon, hadm, Bool.and_self]

theorem not_isAdmin_of (h : d.regs.adminPorts.getLsbD p.val = false) : d.isAdmin p = false := by
  rw [Dev.isAdmin, h, Bool.and_false]

/-! ### Through an admin port (R426, R544, R348, R463, R477) -/

section Admin
variable (h : d.isAdmin p = true)
include h

theorem pwrHoldWrite_holds {b : Fin 4} (hb : b.val ≠ 3) {e : Dev} (he : e = { d with pwr := { d.pwr with hold := d.pwr.hold.set b.val (w.setWidth 32 &&& holdMask b.val) } }) :
    pwrHoldWrite p b w c d = if b.val = 2 then e.chansGoOn c else e := by
  subst he
  simp only [pwrHoldWrite, h, hb, if_true, decide_false, Bool.false_and, Bool.false_eq_true, if_false]
  rfl

/-- A change of the fabric ports' hold is told to every peer (R463). -/
theorem pwrHoldWrite_withdraws (hm : d.pwr.hold[3] ≠ w.setWidth 32 &&& 0xFF) : pwrHoldWrite p 3 w c d =
    ({ d with pwr := { d.pwr with hold := d.pwr.hold.set 3 (w.setWidth 32 &&& 0xFF) } } : Dev).withdrawHeld (w.setWidth 32 &&& 0xFF) := by
  have hne : (d.pwr.hold[(3 : Fin 4)] != w.setWidth 32 &&& 0xFF) = true := bne_iff_ne.mpr hm
  have hmask : holdMask (3 : Fin 4).val = 0xFF := rfl
  simp only [pwrHoldWrite, h, hmask, hne, if_true, Bool.and_true]
  rfl

end Admin

/-! ### Through any other port (R426, R541) -/

section Other
variable (h : d.regs.adminPorts.getLsbD p.val = false)
include h

theorem writeBar0_dropped (a : Nat) (data : List Byte) : d.writeBar0 c p a data = d := by
  simp [Dev.writeBar0, not_isAdmin_of h]

theorem fabPortWrite_dropped (q : FabPort) : fabPortWrite p q w c d = (c, d) := by
  simp [fabPortWrite, not_isAdmin_of h]

theorem registerWrite_dropped (a : Nat) (data : List Byte) : registerWrite p false a data c d = (c, d) := by
  unfold registerWrite
  split
  · rfl
  simp only [Bool.false_eq_true, if_false]
  split
  · split
    · split
      · exact fabPortWrite_dropped h _
      · rfl
    · rfl
  · rw [writeBar0_dropped h]

end Other

end Writes

/-! ### The statement -/

/-- Settles O7. It holds: whether the port may write decides each write, and only a change of the fabric ports' hold is told to peers. -/
theorem adminRegisterWrites : Obligations.AdminRegisterWrites := by
  refine ⟨fun s v t p w hv hon hadm => ⟨?_, ?_, ?_, fun b d hb hd => ?_, fun m hm hne => ?_⟩, fun s v t p q b w a data hv hadm ha h1 h8 => ?_⟩
  · exact exec_onDev rfl rfl hv (if_pos (isAdmin_of hon hadm))
  · exact exec_onDev rfl rfl hv (if_pos (isAdmin_of hon hadm))
  · exact exec_onDev rfl rfl hv (if_pos (isAdmin_of hon hadm))
  · exact exec_onDev rfl rfl hv (pwrHoldWrite_holds (isAdmin_of hon hadm) hb hd)
  · subst hm
    refine ⟨_, exec_onDev rfl rfl hv (pwrHoldWrite_withdraws (isAdmin_of hon hadm) hne), rfl, fun q => ?_, rfl⟩
    simp [Dev.withdrawHeld, Dev.helloAll]
  · have hno : ¬v.dev.isAdmin p = true := by rw [not_isAdmin_of hadm]; decide
    refine ⟨exec_idle rfl rfl hv (if_neg hno), exec_idle rfl rfl hv (if_neg hno), exec_idle rfl rfl hv (if_neg hno), exec_idle rfl rfl hv (if_neg hno),
      exec_onClk rfl rfl hv (fabPortWrite_dropped hadm q), exec_onClk rfl (registerWrite_wf ha h1 h8 t p false) hv (registerWrite_dropped hadm a data)⟩

end Sys2Proof.Proofs


/-! SUPPORT. Tenant and shaper settings and the refill tick: one bucket's arithmetic, what a tick installs of the settings that wait for it, and the statement about them. -/

namespace Sys2Proof.Proofs

open Sys2Proof Sys2Proof.Machine Sys2Proof.Laws

/-! ### One bucket (R445) -/

/-- A refill is full without a fraction, or keeps all its credit to the billionth. -/
theorem refill_refilled (b : Bucket) (rate size ns : Nat) : b.Refilled (b.refill rate size ns) rate size ns := by
  unfold Bucket.Refilled Bucket.refill
  split
  next hfull =>
    have hmin : min size (b.level + (rate * ns + b.rem) / 1000000000) = size := by omega
    simp only [hmin, if_true]
  next hroom =>
    have hmin : min size (b.level + (rate * ns + b.rem) / 1000000000) = b.level + (rate * ns + b.rem) / 1000000000 := by omega
    have hne : ¬b.level + (rate * ns + b.rem) / 1000000000 = size := by omega
    simp only [hmin, hne, if_false]
    omega

theorem refillOpt_refilled (b : Bucket) (rate : Option Nat) (size ns : Nat) :
    match rate with
    | none => b.refillOpt rate size ns = b
    | some r => b.Refilled (b.refillOpt rate size ns) r size ns := by
  cases rate with
  | none => rfl
  | some r => exact refill_refilled b r size ns

/-- A tenant at a tick: without ports its buckets are empty (R446). -/
theorem tenant_refill (x : Tenant) (ns : Nat) : (x.refill ns).cfg = x.cfg ∧
    (if x.cfg.portMask = 0 then (x.refill ns).tc = ⟨0, 0⟩ ∧ (x.refill ns).tp = ⟨0, 0⟩
     else x.tc.Refilled (x.refill ns).tc x.cfg.cir x.cfg.cbs ns ∧ x.tp.Refilled (x.refill ns).tp x.cfg.pir x.cfg.pbs ns) := by
  unfold Tenant.refill
  split
  · exact ⟨rfl, rfl, rfl⟩
  · exact ⟨rfl, refill_refilled _ _ _ _, refill_refilled _ _ _ _⟩

/-- New settings leave no level above its new size (R447). -/
theorem tenant_install (x : Tenant) (cfg : TenantCfg) : (x.install cfg).cfg = cfg ∧ (x.install cfg).tc.level ≤ (x.install cfg).cfg.cbs ∧
    (x.install cfg).tp.level ≤ (x.install cfg).cfg.pbs ∧ ((x.install cfg).cfg.portMask = 0 → (x.install cfg).tc = ⟨0, 0⟩ ∧ (x.install cfg).tp = ⟨0, 0⟩) := by
  unfold Tenant.install
  split
  · exact ⟨rfl, Nat.zero_le _, Nat.zero_le _, fun _ => ⟨rfl, rfl⟩⟩
  next hports => exact ⟨rfl, Nat.min_le_right _ _, Nat.min_le_right _ _, fun h => absurd h hports⟩

theorem bucket_install_level (b : Bucket) (was : Option Nat) (size : Nat) : (b.install was size).level ≤ size := by
  cases was with
  | none => exact Nat.le_refl size
  | some r => exact Nat.min_le_right _ _

/-! ### A tick -/

section Tick
variable {c : Clock} {d : Dev}

/-- The tick that is due refills, installs and is noted (R445). -/
theorem refillTick_due (hruns : d.timeRuns = true) (htick : c.now % (d.ns c / 16) = 0) (hfresh : d.adm.lastTick ≠ some c.now) : refillTick c d =
    { (d.refillAll (d.ns c / 16)).installPending c with adm := { ((d.refillAll (d.ns c / 16)).installPending c).adm with lastTick := some c.now } } := by
  have hdue : (d.timeRuns && decide (c.now % (d.ns c / 16) = 0) && d.adm.lastTick != some c.now) = true := by
    simp only [hruns, htick, bne_iff_ne.mpr hfresh, decide_true, Bool.and_self]
  simp only [refillTick, hdue, if_true]

theorem refillTick_done (h : d.adm.lastTick = some c.now) : refillTick c d = d := by
  simp [refillTick, h]

theorem installPending_none (ht : d.adm.pendTenants = []) (hs : d.adm.pendShapers = []) : d.installPending c = d := by
  simp only [Dev.installPending, ht, hs, List.foldl_nil]
  rw [← ht, ← hs]

/-- The one tenant's settings that wait are installed, and their command ends (R447). -/
theorem installPending_tenant {r : Ref} {n : Nat} {cfg : TenantCfg} (ht : d.adm.pendTenants = [(r, n, cfg)]) (hs : d.adm.pendShapers = []) :
    (d.installPending c).adm = { d.adm with tenants := NMap.put d.adm.tenants n ((d.tenant n).install cfg), pendTenants := [], pendShapers := [] } ∧
      (d.installPending c).cmd? r = none := by
  simp only [Dev.installPending, ht, hs, List.foldl_cons, List.foldl_nil, endCmd_adm]
  exact ⟨trivial, endCmd_cmd?_same _ _ _ _ _ _ _⟩

/-- The one shaper's settings that wait are installed, and their command ends (R447). -/
theorem installPending_shaper {r : Ref} {n : Nat} {cfg : ShaperCfg} (ht : d.adm.pendTenants = []) (hs : d.adm.pendShapers = [(r, n, cfg)]) :
    (d.installPending c).adm = { d.adm with shapers := vupdN d.adm.shapers n (fun sh => sh.install cfg), pendTenants := [], pendShapers := [] } ∧
      (d.installPending c).cmd? r = none := by
  simp only [Dev.installPending, ht, hs, List.foldl_cons, List.foldl_nil, endCmd_adm]
  exact ⟨trivial, endCmd_cmd?_same _ _ _ _ _ _ _⟩

end Tick

theorem get?_mapVals {α : Type} (m : NMap α) (g : α → α) (k : Nat) : NMap.get? (m.map fun e => (e.1, g e.2)) k = (NMap.get? m k).map g := by
  induction m with
  | nil => rfl
  | cons e m ih =>
    rw [List.map_cons, NMap.get?, NMap.get?, ih]
    split <;> rfl

/-- Where time runs, it has come to the time of the command. -/
theorem le_tick_now {s : State} (t : Nat) (h : (s.tick t).dev.timeRuns = true) : t ≤ (s.tick t).clk.now := by
  have hruns : s.dev.timeRuns = true := by rwa [Dev.timeRuns, tick_start] at h
  rcases Nat.lt_or_ge s.clk.now t with hlt | hge
  · simp only [State.tick, Clock.expire, hruns, hlt, decide_true, Bool.and_self, if_true]
    split <;> exact Nat.le_refl t
  · rwa [tick_still (.inr hge)]

/-! ### Settings (R437, R438, R447) -/

/-- The tick that follows a tenant's settings installs them and ends their command. -/
theorem refillTick_tenant {s : State} {t : Nat} {r : Ref} {n : Nat} {cfg : TenantCfg} (ht : s.dev.adm.pendTenants = [(r, n, cfg)])
    (hs : s.dev.adm.pendShapers = []) (hdue : (s.tick t).tickDue) :
    ∃ v' x, exec (.refillTick t) s = .next v' ∧ NMap.get? v'.dev.adm.tenants n = some x ∧ x.cfg = cfg ∧ x.tc.level ≤ x.cfg.cbs ∧ x.tp.level ≤ x.cfg.pbs ∧
      (x.cfg.portMask = 0 → x.tc = ⟨0, 0⟩ ∧ x.tp = ⟨0, 0⟩) ∧ v'.dev.adm.pendTenants = [] ∧ v'.dev.cmd? r = none := by
  obtain ⟨hruns, hmul, hfresh⟩ := hdue
  rw [← tick_adm s t] at ht hs
  obtain ⟨hadm, hgone⟩ := installPending_tenant (c := (s.tick t).clk) (d := (s.tick t).dev.refillAll ((s.tick t).dev.ns (s.tick t).clk / 16)) ht hs
  obtain ⟨hcfg, htc, htp, hnone⟩ := tenant_install (((s.tick t).dev.refillAll ((s.tick t).dev.ns (s.tick t).clk / 16)).tenant n) cfg
  refine ⟨_, _, exec_onDev rfl rfl rfl (refillTick_due hruns hmul hfresh), ?_, hcfg, htc, htp, hnone, ?_, hgone⟩
  · simp only [hadm]
    exact get?_put_same _ _ _
  · simp only [hadm]

/-- The tick that follows a shaper's settings installs them and ends their command. -/
theorem refillTick_shaper {s : State} {t : Nat} {r : Ref} {i : Fin 7} {cfg : ShaperCfg} (ht : s.dev.adm.pendTenants = [])
    (hs : s.dev.adm.pendShapers = [(r, i.val, cfg)]) (hdue : (s.tick t).tickDue) :
    ∃ v', exec (.refillTick t) s = .next v' ∧ v'.dev.adm.shapers[i].cfg = cfg ∧ v'.dev.adm.shapers[i].c.level ≤ cfg.cbs ∧
      v'.dev.adm.shapers[i].p.level ≤ cfg.pbs ∧ v'.dev.adm.pendShapers = [] ∧ v'.dev.cmd? r = none := by
  obtain ⟨hruns, hmul, hfresh⟩ := hdue
  rw [← tick_adm s t] at ht hs
  obtain ⟨hadm, hgone⟩ := installPending_shaper (c := (s.tick t).clk) (d := (s.tick t).dev.refillAll ((s.tick t).dev.ns (s.tick t).clk / 16)) ht hs
  have hput (v : Vector Shaper 7) : (vupdN v i.val fun sh => sh.install cfg)[i] = v[i].install cfg := by simp [vupdN]
  refine ⟨_, exec_onDev rfl rfl rfl (refillTick_due hruns hmul hfresh), ?_, ?_, ?_, ?_, hgone⟩
  · simp only [hadm, hput]
    rfl
  · simp only [hadm, hput]
    exact bucket_install_level _ _ _
  · simp only [hadm, hput]
    exact bucket_install_level _ _ _
  · simp only [hadm]

/-! ### The statement -/

/-- Settles O42. It holds: the settings that wait are installed on buckets that have just been refilled, and a tick that has been noted does nothing more. -/
theorem admissionSettingsAndTicks : Obligations.AdmissionSettingsAndTicks := by
  refine ⟨fun s v k cmd hv ht hs => ⟨fun s1 ha hbad hs1 => ⟨?_, fun t hdue => ?_⟩, fun s1 i ha hbad hi hs1 => ⟨?_, fun t hdue => ?_⟩⟩,
    fun s v t hv hdue ht hs => ?_⟩
  · have hrun := exec_slot (i := .admTenantSet k) rfl rfl hv ha rfl hbad
    rwa [admTenantSetRun, ready_adm, ht, List.nil_append, ← hs1] at hrun
  · subst hs1
    exact refillTick_tenant (by simp [State.ran]) (by simpa [State.ran] using hs) hdue
  · have hrun := exec_slot (i := .admShaperSet k) rfl rfl hv ha rfl hbad
    simp only [admShaperSetRun, hi, ready_adm, hs, List.nil_append] at hrun
    rwa [← hs1] at hrun
  · subst hs1
    exact refillTick_shaper (by simpa [State.ran] using ht) (by simp [State.ran]) hdue
  · obtain ⟨hruns, hmul, hfresh⟩ := hdue
    have hnone : (v.dev.refillAll (v.dev.ns v.clk / 16)).installPending v.clk = v.dev.refillAll (v.dev.ns v.clk / 16) := installPending_none ht hs
    have htick := refillTick_due hruns hmul hfresh
    rw [hnone] at htick
    have hlate : t ≤ v.clk.now := by
      subst hv
      exact le_tick_now t hruns
    refine ⟨_, exec_onDev rfl rfl hv htick, ?_, fun n x hx => ⟨x.refill (v.dev.ns v.clk / 16), ?_, ?_⟩, fun i => ?_⟩
    · refine exec_idle rfl rfl (tick_still (.inr ?_)).symm (refillTick_done rfl)
      exact hlate
    · exact (get?_mapVals v.dev.adm.tenants (·.refill (v.dev.ns v.clk / 16)) n).trans (congrArg _ hx)
    · exact tenant_refill x _
    · have hi : (v.dev.adm.shapers.map fun x => x.refill (v.dev.ns v.clk / 16))[i] = v.dev.adm.shapers[i].refill (v.dev.ns v.clk / 16) := by simp
      simp only [Dev.refillAll, hi]
      exact ⟨rfl, refillOpt_refilled _ _ _ _, refillOpt_refilled _ _ _ _⟩

end Sys2Proof.Proofs


/-! SUPPORT. A running command's DEADLINE: what each command's own rules say when it passes, and the statement about them. -/

namespace Sys2Proof.Proofs

open Sys2Proof Sys2Proof.Machine Sys2Proof.Laws

section Due
variable {c : Clock} {d : Dev} {cmd : Cmd}

/-- DEADLINE 0 means none; any other is due when datum time has come to it. -/
theorem due_of (hset : cmd.deadline ≠ 0) (hpast : cmd.deadline ≤ c.now) : cmd.due c = true := by
  simp [Cmd.due, hset, hpast]

/-- A gather keeps the rows that COUNT_WORD counts (R186). -/
theorem gatherDue_ends {x : Reader} (hx : d.chain.readers = [x]) (hkind : x.kind = .gather cmd.ref) (hpast : x.deadline ≤ c.now) :
    d.gatherDue c cmd.ref = (d.endCmd c cmd.ref stDeadline 1 x.count []).endReader x.id := by
  have hfind : d.chain.readers.find? (fun x => x.kind = .gather cmd.ref) = some x := by simp [hx, hkind]
  simp only [Dev.gatherDue, hfind, hpast, if_true]
  rfl

/-- A near-bank command over an extent stops (R254). -/
theorem bankDue_stops (h : cmd.f 0x40 1 ≠ 1) : d.bankDue c cmd = d.stopNb c cmd.ref := if_neg h

theorem bankDue_rowsEnded (h : cmd.f 0x40 1 = 1) (hgone : (d.stopRows c cmd.key).cmd? cmd.ref = none) : d.bankDue c cmd = d.stopRows c cmd.key := by
  simp [Dev.bankDue, h, hgone]

/-- A ROWS command ends with the count it has shown (R255, R427). -/
theorem bankDue_rowsEnd (h : cmd.f 0x40 1 = 1) (hruns : ((d.stopRows c cmd.key).cmd? cmd.ref).isSome = true) :
    d.bankDue c cmd = (d.stopRows c cmd.key).endCmd c cmd.ref stDeadline 0 (d.shownCount cmd) [] := by
  obtain ⟨y, hy⟩ := Option.isSome_iff_exists.mp hruns
  simp [Dev.bankDue, h, hy]

/-- An operation on a table generation leaves it (R234). -/
theorem tableDue_leaves {x : Nat × TableGen} (hx : d.mdl.gens = [x]) (hpend : x.2.pend.map (·.1) = some cmd.ref) :
    d.tableDue c cmd.ref = d.tableGenDeadline c x.1 cmd.ref := by
  obtain ⟨p, hp, href⟩ := Option.map_eq_some_iff.mp hpend
  simp [Dev.tableDue, hx, hp, href]

/-- A protocol echo of a fabric port ends with its counts so far (R533). -/
theorem loopDue_cuts {l : LoopTest} (hl : d.tst.loops = [l]) (href : l.ref = cmd.ref) (hdepth : l.depth = 4) (hiface : l.iface = 1) :
    d.loopDue c cmd.ref = d.loopEnd c l { LoopRes.none with bytes := l.bytes, errBits := l.bad, echoed := l.echoed } stDeadline := by
  have hfind : d.tst.loops.find? (fun l => l.ref = cmd.ref) = some l := by simp [hl, href]
  simp [Dev.loopDue, hfind, Dev.loopCut, Dev.cutCounts, Dev.echoCounts, hdepth, hiface]

/-- A search that waits for its admission is not admitted, and it is no drop (R28). -/
theorem admissionDue_refuses (hwaits : cmd.ref ∈ d.root.waiting) (hpast : d.deadlineOf c cmd ≤ c.now) : d.admissionDue c cmd =
    ({ d with root := { d.root with waiting := d.root.waiting.filter fun r => r != cmd.ref } } : Dev).refuse cmd.ref stDeadline := by
  have hin : d.root.waiting.contains cmd.ref = true := List.contains_iff_mem.mpr hwaits
  simp only [Dev.admissionDue, hin, hpast, decide_true, Bool.and_self, if_true]
  rfl

/-- A model.run still queued ends with count 0 (R427; log 63). -/
theorem runDue_ends {x : Run} (hwaves : d.mdl.waves = []) (hruns : d.mdl.runs = [x]) (href : x.ref = some cmd.ref) (hpast : x.deadline ≤ c.now) :
    d.runDue c cmd.ref = ({ d with mdl := { d.mdl with runs := [] } } : Dev).endCmd c cmd.ref stDeadline 0 0 [] := by
  simp [Dev.runDue, hwaves, hruns, href, hpast]

/-- Any other command runs on (R427). -/
theorem cmdDue_none (h : cmd.opcode ∉ [0x0300, 0x0500, 0x0601, 0x0602, 0x0700, 0x0D00]) : d.cmdDue c cmd = d := by
  unfold Dev.cmdDue
  split
  case h_7 => rfl
  all_goals next hop => exact absurd (by simp [hop]) h

end Due

/-- Settles O51. It holds: the opcode selects the command's own rule, and each rule finds the one piece of work that the hypotheses leave. -/
theorem commandDeadlines : Obligations.CommandDeadlines := by
  intro s v t p n cmd hv hrunning hlive
  have hdue {e : Dev} (he : v.dev.cmdDue v.clk cmd = e) : exec (.commandDeadline t p n) s = .next { v with dev := e } :=
    exec_onDev rfl rfl hv (by simp only [commandDeadline, hrunning, hlive, if_true, he])
  refine ⟨fun x hop hx hkind hpast => ?_, fun d hop hset hpast => ⟨fun hform => ?_, fun hform hd => ⟨fun hgone => ?_, fun hruns => ?_⟩⟩,
    fun g x hop hset hpast hg hx hpend => ?_, fun l hop hset hpast hl href hdepth hiface => ?_, fun hop hwaits hpast => ?_,
    fun x hop hwaves hruns href hpast => ?_, fun hop => hdue (cmdDue_none hop)⟩
  · exact hdue (by simp only [Dev.cmdDue, hop, gatherDue_ends hx hkind hpast])
  · exact hdue (by simp only [Dev.cmdDue, hop, due_of hset hpast, if_true, bankDue_stops hform])
  · subst hd
    exact hdue (by simp only [Dev.cmdDue, hop, due_of hset hpast, if_true, bankDue_rowsEnded hform hgone])
  · subst hd
    exact hdue (by simp only [Dev.cmdDue, hop, due_of hset hpast, if_true, bankDue_rowsEnd hform hruns])
  · subst hg
    exact hdue (by simp only [Dev.cmdDue, hop, due_of hset hpast, if_true, tableDue_leaves hx hpend])
  · exact hdue (by simp only [Dev.cmdDue, hop, due_of hset hpast, if_true, loopDue_cuts hl href hdepth hiface])
  · exact hdue (by simp only [Dev.cmdDue, hop, admissionDue_refuses hwaits hpast])
  · exact hdue (by simp only [Dev.cmdDue, hop, runDue_ends hwaves hruns href hpast])

end Sys2Proof.Proofs


/-! SUPPORT. The SPDM responder at GET_VERSION: it starts its exchange anew, but the number of its answers goes on, which refutes the statement that the number is 1. -/

namespace Sys2Proof.Proofs

open Sys2Proof Sys2Proof.Machine Sys2Proof.Laws

/-- GET_VERSION ends handshake and session, and the responder goes on numbering its answers (R503). -/
theorem spdmGetVersion_counts {d : Dev} {p : Port} (c : Clock) (hlive : d.live = true) (hup : (d.port p).linkUp = true) : ((spdmGetVersion p c d).port p).spdm =
    ⟨false, false, (d.port p).spdm.count + 1, some (spdmVersionCode, spdmHead spdmVersionCode (d.port p).spdm.count ++ [])⟩ := by
  have hdoe : d.doe p = true := by rw [Dev.doe, hlive, hup, Bool.and_self]
  rw [spdmGetVersion, Dev.spdm, if_pos hdoe, port_updPort_same]

/-- A node in service whose host port 0 is up and whose responder there has answered one request. -/
def answeredOnce : State :=
  { State.reset with dev := { (Dev.reset.updPort 0 fun h => { h with linkUp := true, spdm := ⟨false, false, 1, none⟩ }) with
      start := { Start.reset with phase := .service } } }

theorem answeredOnce_serves : answeredOnce.dev.live = true ∧ (answeredOnce.dev.port 0).linkUp = true ∧ (answeredOnce.dev.port 0).spdm.count = 1 :=
  ⟨rfl, rfl, rfl⟩

/-- Refutes O58: GET_VERSION is the second request that `answeredOnce` answers, and its responder then counts 2 answers (`spdmGetVersion_counts`), where the statement has it count 1. -/
theorem not_boardBusAndAttestation : ¬ Obligations.BoardBusAndAttestation := by
  rintro ⟨-, -, hspdm, -⟩
  obtain ⟨hlive, hup, hcount⟩ := answeredOnce_serves
  obtain ⟨hversion, -⟩ := hspdm answeredOnce answeredOnce 0 0 _ (fun code body hs ss => answeredOnce.dev.updPort 0 fun h =>
    { h with spdm := { handshake := hs, session := ss, count := h.spdm.count + 1, response := some (code, spdmHead code h.spdm.count ++ body) } })
    rfl hlive rfl hup fun _ _ _ _ => rfl
  have hdev := Host.Outcome.next.inj hversion
  have hgives := congrArg (fun v : State => (v.dev.port 0).spdm.count) hdev
  have hsecond : ((spdmGetVersion 0 answeredOnce.clk answeredOnce.dev).port 0).spdm.count = 2 := by rw [spdmGetVersion_counts _ hlive hup, hcount]
  exact absurd (hsecond.symm.trans (hgives.trans (by rw [port_updPort_same]))) (by decide)

end Sys2Proof.Proofs


/-! SUPPORT. What DRAM's and flash's own operations leave alone: a fact for every part of the device that lies apart from them. -/

namespace Sys2Proof.Proofs

open Sys2Proof Sys2Proof.Machine Sys2Proof.Laws

/-- A part of the device that lies apart from DRAM, flash and the counters. -/
structure Apart {α : Type} (g : Dev → α) : Prop where
  mem : ∀ (d : Dev) (m : MemSys), g { d with mem := m } = g d
  flash : ∀ (d : Dev) (f : Flash), g { d with flash := f } = g d
  cnt : ∀ (d : Dev) (n : NMap W64), g { d with cnt := n } = g d

/-- One that lies apart from what the host ports and the commons hold in DRAM, from the leaf copies and from the logs too. -/
structure Adrift {α : Type} (g : Dev → α) : Prop extends Apart g where
  ports : ∀ (d : Dev) (ps : Vector HostPort 4), g { d with ports := ps } = g d
  com : ∀ (d : Dev) (x : Commons), g { d with com := x } = g d
  leaves : ∀ (d : Dev) (ls : List Leaf), g { d with leaves := ls } = g d
  regs : ∀ (d : Dev) (r : Regs), g { d with regs := r } = g d

/-! ### The pool and flash -/

section Pool
variable {α : Type} {g : Dev → α} (hg : Apart g)
include hg

theorem count_apart (d : Dev) (id inst n : Nat) : g (d.count id inst n) = g d := by
  unfold Dev.count
  split
  · rfl
  · exact hg.cnt _ _

theorem countTenant_apart (d : Dev) (id tenant n : Nat) : g (d.countTenant id tenant n) = g d := by
  unfold Dev.countTenant
  split
  · rfl
  · exact hg.cnt _ _

theorem free_apart (d : Dev) (id : Nat) : g (d.free id) = g d := by
  unfold Dev.free
  split
  · rfl
  · exact hg.mem _ _

theorem evictFor_apart (d : Dev) (s : Nat) : g (d.evictFor s) = g d := by
  unfold Dev.evictFor
  split
  · rfl
  · exact (count_apart hg _ _ _ _).trans (hg.mem _ _)

theorem grow_apart (d : Dev) (id group n : Nat) : g (d.grow id group n) = g d := by
  unfold Dev.grow
  split
  · rfl
  · exact (foldl_keeps g (fun x s => evictFor_apart hg x s) _ _).trans (hg.mem _ _)

theorem allocBy_apart (d : Dev) (group id : Nat) (p : Protect) (mask : BitVec 20) (n : Nat) (tier : Tier) (cls : Nat) :
    g (d.allocBy group id p mask n tier cls) = g d :=
  (grow_apart hg _ _ _ _).trans (hg.mem _ _)

theorem placeMap_apart (d : Dev) : g d.placeMap = g d := by
  unfold Dev.placeMap
  simp only
  split
  · exact free_apart hg _ _
  · exact (allocBy_apart hg _ _ _ _ _ _ _ _).trans (free_apart hg _ _)

theorem freeExtents_apart (d : Dev) (owner : Nat) : g (d.freeExtents owner) = g d := hg.flash _ _

theorem issueRead_apart (d : Dev) (c unit cls owner : Nat) : g (d.issueRead c unit cls owner) = g d := by
  unfold Dev.issueRead
  split
  · rfl
  · exact hg.flash _ _

theorem readUnit_apart (d : Dev) (key idx cls owner : Nat) : g (d.readUnit key idx cls owner) = g d := by
  unfold Dev.readUnit
  split
  · rfl
  · exact issueRead_apart hg _ _ _ _ _

theorem takeFrame_apart {d e : Dev} {f : PoolFrame} (h : d.takeFrame f = some e) : g e = g d := by
  unfold Dev.takeFrame at h
  simp only at h
  split at h
  · cases h
    exact hg.mem _ _
  split at h
  · cases h
  · cases h
    exact (count_apart hg _ _ _ _).trans (hg.mem _ _)

theorem waitPage_apart (d : Dev) (w : PoolWait) : g (d.waitPage w) = g d := by
  unfold Dev.waitPage
  split
  · rfl
  · exact hg.mem _ _

theorem fillPage_apart (d : Dev) (c : Clock) (w : PoolWait) : g (d.fillPage c w) = g d := by
  unfold Dev.fillPage
  split
  · exact hg.mem _ _
  split
  · exact waitPage_apart hg _ _
  split
  · exact waitPage_apart hg _ _
  next d1 htake =>
    refine (countTenant_apart hg _ _ _ _).trans ((hg.mem _ _).trans ?_)
    refine (foldl_keeps g (fun x u => readUnit_apart hg x _ u _ 0) _ _).trans ?_
    refine (foldl_keeps (fun acc : Dev × List Nat => g acc.1) (fun acc p => ?_) _ _).trans (takeFrame_apart hg htake)
    split
    next htake => exact takeFrame_apart hg htake
    · rfl

theorem retryPool_apart (d : Dev) (c : Clock) : g (d.retryPool c) = g d :=
  (foldl_keeps g (fun x w => fillPage_apart hg x c w) _ _).trans (hg.mem _ _)

theorem updChan_apart (d : Dev) (c : Nat) (f : FChan → FChan) : g (d.updChan c f) = g d := hg.flash _ _

theorem program_apart (d : Dev) (c unit : Nat) (src : Option Nat) (dest : Option (Nat × FChan)) : g (d.program c unit src dest) = g d := by
  unfold Dev.program
  split
  · exact updChan_apart hg _ _ _
  · exact hg.flash _ _

theorem readRest_apart (d : Dev) (c unit : Nat) : g (d.readRest c unit) = g d := by
  unfold Dev.readRest
  split
  · rfl
  · exact issueRead_apart hg _ _ _ _ _

theorem writeUnit_apart (d : Dev) (c unit : Nat) : g (d.writeUnit c unit) = g d := by
  unfold Dev.writeUnit
  simp only
  split
  · exact updChan_apart hg _ _ _
  · exact (readRest_apart hg _ _ _).trans (program_apart hg _ _ _ _ _)

theorem writeOwned_apart (d : Dev) (key idx : Nat) : g (d.writeOwned key idx) = g d := by
  unfold Dev.writeOwned
  split
  · rfl
  · exact writeUnit_apart hg _ _ _

theorem drainWrites_apart (d : Dev) (c n : Nat) : g (d.drainWrites c n) = g d := by
  induction n generalizing d with
  | zero => rfl
  | succ n ih =>
    unfold Dev.drainWrites
    simp only
    split
    · rfl
    split
    · rfl
    · exact (ih _).trans ((readRest_apart hg _ _ _).trans ((program_apart hg _ _ _ _ _).trans (hg.flash _ _)))

/-- Queued writes and fills that go on leave every such part alone. -/
theorem chansGoOn_apart (d : Dev) (c : Clock) : g (d.chansGoOn c) = g d :=
  (retryPool_apart hg _ _).trans (foldl_keeps g (fun x ch => drainWrites_apart hg x ch _) _ d)

theorem rewriteDirty_apart (d : Dev) : g d.rewriteDirty = g d := by
  unfold Dev.rewriteDirty
  split
  · rfl
  · exact foldl_keeps g (fun x k => writeOwned_apart hg x _ _) _ _

theorem logJob_apart (d : Dev) (c : Clock) (ch src : Nat) : g (d.logJob c ch src) = g d := by
  unfold Dev.logJob
  split
  · rfl
  split
  · rfl
  · exact (hg.flash _ _).trans (hg.flash _ _)

theorem tryErase_apart (d : Dev) (ch src : Nat) : g (d.tryErase ch src) = g d := by
  unfold Dev.tryErase
  simp only
  split
  · exact updChan_apart hg _ _ _
  · rfl

theorem lateUnit_apart (d : Dev) (c : Clock) (ch block unit : Nat) : g (d.lateUnit c ch block unit) = g d := by
  unfold Dev.lateUnit
  simp only
  split
  · rfl
  split
  · exact (program_apart hg _ _ _ _ _).trans (issueRead_apart hg _ _ _ _ _)
  · exact (logJob_apart hg _ _ _ _).trans (updChan_apart hg _ _ _)

theorem moveExtent_apart (d : Dev) (c : Clock) (no target : Nat) : g (d.moveExtent c no target) = g d := by
  unfold Dev.moveExtent
  split
  · exact updChan_apart hg _ _ _
  · simp only [count_apart hg]
    exact (foldl_keeps g (fun x u => writeUnit_apart hg x _ _) _ _).trans
      ((hg.flash _ _).trans ((updChan_apart hg _ _ _).trans (updChan_apart hg _ _ _)))

theorem loseRec_apart (d : Dev) (r : JRec) : g (d.loseRec r) = g d := by
  have lose (x : Dev) (ch u w : Nat) : g (if ((NMap.get? (x.chan ch).map u).map (·.wseq)) = some w then
      x.updChan ch fun y => { y with badUnits := (y.badUnits ++ [u]).dedup } else x) = g x := by
    split
    · exact updChan_apart hg _ _ _
    · rfl
  unfold Dev.loseRec
  split
  · exact lose _ _ _ _
  · exact foldl_keeps g (fun x k => lose x _ _ _) _ _
  · rfl

/-! ### Replay, where commands can end -/

variable (hend : ∀ (d : Dev) (c : Clock) (r : Ref), g (d.endCmd c r stOk 0 0 []) = g d)
include hend

theorem sweepFrees_apart (d : Dev) (c : Clock) : g (d.sweepFrees c) = g d :=
  foldl_keeps g (fun x _ => (hend _ _ _).trans ((hg.mem _ _).trans ((freeExtents_apart hg _ _).trans (free_apart hg x _)))) _ _

theorem cleanUnit_apart (d : Dev) (t : Clock) (c unit : Nat) : g (d.cleanUnit t c unit) = g d := by
  unfold Dev.cleanUnit
  split
  · rfl
  split
  · rfl
  · exact (sweepFrees_apart hg hend _ _).trans ((retryPool_apart hg _ _).trans ((count_apart hg _ _ _ _).trans (hg.mem _ _)))

theorem formatEnd_apart (d : Dev) (c : Clock) : g (d.formatEnd c) = g d := by
  unfold Dev.formatEnd
  split
  · rfl
  · exact (hend _ _ _).trans (hg.flash _ _)

theorem applyJRec_apart (d : Dev) (c : Clock) (r : JRec) : g (d.applyJRec c r) = g d := by
  cases r with
  | map => exact (lateUnit_apart hg _ _ _ _ _).trans ((cleanUnit_apart hg hend _ _ _ _).trans (updChan_apart hg _ _ _))
  | gc => exact (tryErase_apart hg _ _ _).trans ((foldl_keeps g (fun x k => lateUnit_apart hg x _ _ _ _) _ _).trans (updChan_apart hg _ _ _))
  | extent => exact moveExtent_apart hg _ _ _ _
  | format => exact formatEnd_apart hg hend _ _
  | erased | retire | segment => rfl

theorem replayRec_apart (d : Dev) (c : Clock) (r : JRec) : g (d.replayRec c r) = g d := by
  unfold Dev.replayRec
  simp only
  split
  · exact (updChan_apart hg _ _ _).trans (applyJRec_apart hg hend _ _ _)
  · exact applyJRec_apart hg hend _ _ _

theorem replayJournal_apart (d : Dev) (c : Clock) (o : StartOutcome) : g (d.replayJournal c o) = g d := by
  unfold Dev.replayJournal
  refine (placeMap_apart hg _).trans ((hg.flash _ _).trans ?_)
  refine (foldl_keeps g (fun x r => replayRec_apart hg hend x c r) _ _).trans ((hg.flash _ _).trans ?_)
  exact foldl_keeps g (fun x r => loseRec_apart hg x r) _ _

end Pool

/-! ### DRAM that is lost, and the copies there -/

section Dram
variable {α : Type} {g : Dev → α} (hg : Adrift g)
include hg

theorem poisonLines_adrift (d : Dev) (id : Nat) (lines : List Nat) : g (d.poisonLines id lines) = g d := by
  unfold Dev.poisonLines
  split
  · exact (hg.ports _ _).trans (hg.mem _ _)
  split
  · exact hg.mem _ _
  · exact (hg.com _ _).trans (hg.mem _ _)

theorem putRegion_adrift (d : Dev) (id : Nat) (r : Region) : g (d.putRegion id r) = g d := hg.mem _ _

theorem damage_adrift (d : Dev) (c : Clock) (id : Nat) (frames : List Nat) (line : Nat) : g (d.damage c id frames line) = g d := by
  unfold Dev.damage
  split
  · rfl
  split
  · rfl
  · exact (hg.regs _ _).trans ((poisonLines_adrift hg _ _ _).trans ((putRegion_adrift hg _ _ _).trans (count_apart hg.toApart _ _ _ _)))

theorem startRebuild_adrift (d : Dev) (id u member : Nat) : g (d.startRebuild id u member) = g d := by
  unfold Dev.startRebuild
  split
  · rfl
  split
  · exact putRegion_adrift hg _ _ _
  · exact (putRegion_adrift hg _ _ _).trans (hg.mem _ _)

theorem loseMember_adrift (d : Dev) (c : Clock) (id u member : Nat) : g (d.loseMember c id u member) = g d := by
  unfold Dev.loseMember
  split
  · rfl
  split
  · rfl
  simp only
  split
  · exact (startRebuild_adrift hg _ _ _ _).trans ((hg.mem _ _).trans ((damage_adrift hg _ _ _ _ _).trans (putRegion_adrift hg _ _ _)))
  split
  · exact (damage_adrift hg _ _ _ _ _).trans (putRegion_adrift hg _ _ _)
  · exact (startRebuild_adrift hg _ _ _ _).trans ((damage_adrift hg _ _ _ _ _).trans (putRegion_adrift hg _ _ _))

theorem loseDead_adrift (d : Dev) (c : Clock) (id : Nat) : g (d.loseDead c id) = g d := by
  unfold Dev.loseDead
  split
  · rfl
  · exact foldl_keeps g (fun x h => loseMember_adrift hg x c _ _ _) _ _

theorem place_adrift (c : Clock) (d : Dev) (w : OwnRegion) : g (d.place c w) = g d := by
  unfold Dev.place
  split
  · exact (loseDead_adrift hg _ _ _).trans (allocBy_apart hg.toApart _ _ _ _ _ _ _ _)
  split
  · rfl
  · exact (loseDead_adrift hg _ _ _).trans (grow_apart hg.toApart _ _ _ _)

theorem failCopy_adrift (d : Dev) (c : Clock) (parcel : Nat) : g (d.failCopy c parcel) = g d :=
  failCopy_keeps g (fun _ _ _ => hg.leaves _ _) (fun _ _ _ => hg.regs _ _) d c parcel

theorem syncLeaf_adrift (d : Dev) (c : Clock) (parcel : Nat) : g (d.syncLeaf c parcel) = g d := by
  unfold Dev.syncLeaf
  split
  · rfl
  simp only
  have freed (es : List (Nat × Region)) : g (es.foldl (fun (x : Dev) e => x.free e.1) d) = g d := foldl_keeps g (fun x e => free_apart hg.toApart x _) es d
  split
  · exact (foldl_keeps g (fun x w => place_adrift hg c x w) _ _).trans (freed _)
  · exact (failCopy_adrift hg _ _ _).trans (freed _)

/-- The DRAM of every copy follows its content, whatever lies elsewhere. -/
theorem syncLeaves_adrift (d : Dev) (c : Clock) : g (d.syncLeaves c) = g d := foldl_keeps g (fun x (l : Leaf) => syncLeaf_adrift hg x c l.parcel) _ d

/-- A host link comes up: pending settings of its partition are taken. -/
theorem linkUp_adrift (d : Dev) (p : Port) : g (d.linkUp p) = g d := by
  refine (hg.ports _ _).trans ?_
  unfold Dev.applyPending
  split
  · rfl
  · exact (hg.ports _ _).trans ((hg.mem _ _).trans (free_apart hg.toApart _ _))

end Dram

end Sys2Proof.Proofs


/-! SUPPORT. The keel of the device, which only starts, resets, tests and the board's own events change: one fact for each operation that these run through. -/

namespace Sys2Proof.Proofs

open Sys2Proof Sys2Proof.Machine Sys2Proof.Laws

/-- What neither the end of a command nor the loss of work, memory or copies changes. -/
structure Keel where
  start : Start
  tst : Tests
  brd : Board

def keel (d : Dev) : Keel := ⟨d.start, d.tst, d.brd⟩

theorem start_of_keel {d e : Dev} (h : keel d = keel e) : d.start = e.start := congrArg Keel.start h
theorem tst_of_keel {d e : Dev} (h : keel d = keel e) : d.tst = e.tst := congrArg Keel.tst h
theorem brd_of_keel {d e : Dev} (h : keel d = keel e) : d.brd = e.brd := congrArg Keel.brd h

theorem keel_adrift : Adrift keel := ⟨⟨fun _ _ => rfl, fun _ _ => rfl, fun _ _ => rfl⟩, fun _ _ => rfl, fun _ _ => rfl, fun _ _ => rfl, fun _ _ => rfl⟩

theorem keel_apart : Apart keel := keel_adrift.toApart

/-! ### Shared operations -/

/-- The keel of a device written out. -/
@[simp] theorem keel_mk (ports : Vector HostPort 4) (cmds : Cmds) (regs : Regs) (adm : Adm) (plat : Plat) (leaves : List Leaf) (root : Root) (scan : Scan)
    (chain : Chain) (mdl : Models) (nb : NearBank) (mem : MemSys) (com : Commons) (flash : Flash) (fab : Fabric) (pwr : Power) (start : Start) (tst : Tests)
    (brd : Board) (cnt : NMap W64) (sent : List (Nat × OutMsg)) (freeCtr : Nat) :
    keel ⟨ports, cmds, regs, adm, plat, leaves, root, scan, chain, mdl, nb, mem, com, flash, fab, pwr, start, tst, brd, cnt, sent, freeCtr⟩ = ⟨start, tst, brd⟩ := rfl

@[simp] theorem updPort_keel (d : Dev) (p : Port) (f : HostPort → HostPort) : keel (d.updPort p f) = keel d := rfl
@[simp] theorem updLeaf_keel (d : Dev) (parcel : Nat) (f : Leaf → Leaf) : keel (d.updLeaf parcel f) = keel d := rfl
@[simp] theorem updCom_keel (d : Dev) (slot : Nat) (f : ComState → ComState) : keel (d.updCom slot f) = keel d := rfl
@[simp] theorem logErr_keel (d : Dev) (c : Clock) (sev source unit kind location parcel count cmd : Nat) :
    keel (d.logErr c sev source unit kind location parcel count cmd) = keel d := rfl
@[simp] theorem logEvent_keel (d : Dev) (c : Clock) (p : Port) (type owner count dpa fenceT slot : Nat) :
    keel (d.logEvent c p type owner count dpa fenceT slot) = keel d := rfl
@[simp] theorem count_keel (d : Dev) (id inst n : Nat) : keel (d.count id inst n) = keel d := count_apart keel_apart d id inst n
@[simp] theorem countTenant_keel (d : Dev) (id tenant n : Nat) : keel (d.countTenant id tenant n) = keel d := countTenant_apart keel_apart d id tenant n
@[simp] theorem send_keel (d : Dev) (cls : Fin 4) (node : Nat) (m : OutMsg) : keel (d.send cls node m) = keel d := by simp [keel]
@[simp] theorem endCmd_keel (d : Dev) (c : Clock) (r : Ref) (status flags n : Nat) (head : List Byte) : keel (d.endCmd c r status flags n head) = keel d := by
  simp [keel]
@[simp] theorem putReplayed_keel (d : Dev) (cmd : Cmd) (e : Ended) : keel (d.putReplayed cmd e) = keel d := by simp [keel]
@[simp] theorem forget_keel (d : Dev) (r : Ref) : keel (d.forget r) = keel d := by simp [keel]
@[simp] theorem refuse_keel (d : Dev) (r : Ref) (status : Nat) : keel (d.refuse r status) = keel d := by simp [keel]
@[simp] theorem result_keel (d : Dev) (cmd : Cmd) (off : Nat) (bs : List Byte) : keel (d.result cmd off bs) = keel d := by simp [keel]
@[simp] theorem mk_keel (d : Dev) : Keel.mk d.start d.tst d.brd = keel d := rfl

@[simp] theorem free_keel (d : Dev) (id : Nat) : keel (d.free id) = keel d := free_apart keel_apart d id
@[simp] theorem freeExtents_keel (d : Dev) (owner : Nat) : keel (d.freeExtents owner) = keel d := rfl
@[simp] theorem poisonLines_keel (d : Dev) (id : Nat) (lines : List Nat) : keel (d.poisonLines id lines) = keel d := poisonLines_adrift keel_adrift d id lines

/-! ### Frames and stacks that fail -/

@[simp] theorem loseMember_keel (d : Dev) (c : Clock) (id u member : Nat) : keel (d.loseMember c id u member) = keel d :=
  loseMember_adrift keel_adrift d c id u member

@[simp] theorem retarget_keel (d : Dev) (b : Rebuild) : keel (d.retarget b) = keel d := by
  unfold Dev.retarget
  split
  · rfl
  · split <;> rfl

@[simp] theorem retireFrame_keel (d : Dev) (c : Clock) (s frame : Nat) : keel (d.retireFrame c s frame) = keel d := by
  unfold Dev.retireFrame
  split
  · rfl
  refine (foldl_keeps keel (fun x b => retarget_keel x b) _ _).trans ?_
  refine (foldl_keeps keel (fun x h => loseMember_keel x c _ _ _) _ _).trans ?_
  simp

@[simp] theorem failLostCopies_keel (d : Dev) (c : Clock) : keel (d.failLostCopies c) = keel d :=
  foldl_keeps keel (fun x (l : Leaf) => failCopy_keeps keel (fun _ _ _ => rfl) (fun _ _ _ => rfl) x c l.parcel) _ d

@[simp] theorem failStack_keel (d : Dev) (c : Clock) (s : Nat) : keel (d.failStack c s) = keel d := by
  unfold Dev.failStack
  split
  · rfl
  split
  · rfl
  refine (failLostCopies_keel _ _).trans ?_
  refine (foldl_keeps keel (fun x v => (count_keel _ _ _ _).trans (endCmd_keel x c _ _ _ _ _)) _ _).trans ?_
  refine (foldl_keeps keel (fun x h => loseMember_keel x c _ _ _) _ _).trans ?_
  refine (foldl_keeps keel (fun x h => loseMember_keel x c _ _ _) _ _).trans ?_
  exact foldl_keeps keel (fun x b => retarget_keel x b) _ _

@[simp] theorem checkStack_keel (d : Dev) (c : Clock) (s : Nat) : keel (d.checkStack c s) = keel d := by
  unfold Dev.checkStack
  split
  · rfl
  · split <;> simp

@[simp] theorem frameError_keel (d : Dev) (c : Clock) (s frame : Nat) : keel (d.frameError c s frame) = keel d := by
  unfold Dev.frameError
  simp only
  split <;> simp

@[simp] theorem lineError_keel (d : Dev) (c : Clock) (id a : Nat) : keel (d.lineError c id a).2 = keel d := by
  unfold Dev.lineError
  split
  · rfl
  · simp only
    split <;> simp

/-! ### The commons -/

@[simp] theorem snoop_keel (d : Dev) (ls : List ComLine) : keel (d.snoop ls).2 = keel d := by simp [Dev.snoop]

@[simp] theorem snoopOthers_keel (d : Dev) (slot line : Nat) (p : Option Port) : keel (d.snoopOthers slot line p) = keel d := snoop_keel _ _

@[simp] theorem recall_keel (d : Dev) (slot : Nat) (f : Port → Nat → Bool) : keel (d.recall slot f).2 = keel d := snoop_keel _ _

@[simp] theorem setHeader_keel (d : Dev) (slot : Nat) (f : ComState → ComState) : keel (d.setHeader slot f) = keel d := snoopOthers_keel _ _ _ _

@[simp] theorem evictLine_keel (d : Dev) : keel d.evictLine = keel d := by
  unfold Dev.evictLine
  split
  · rfl
  · simp only
    split <;> simp

@[simp] theorem grantLine_keel (d : Dev) (slot line : Nat) (p : Port) (own : Bool) : keel (d.grantLine slot line p own) = keel d := by
  unfold Dev.grantLine
  simp only [apply_ite keel, keel_mk, evictLine_keel, snoopOthers_keel, ite_self, mk_keel]

@[simp] theorem respond_keel (d : Dev) (p : Port) (op : MemOp) (poison : Bool) (bs : List Byte) : keel (d.respond p op poison bs) = keel d := by
  simp only [Dev.respond, updPort_keel, apply_ite keel, count_keel, ite_self]

@[simp] theorem unmapped_keel (d : Dev) (c : Clock) (p : Port) (op : MemOp) (dpa : Nat) : keel (d.unmapped c p op dpa) = keel d := by simp [Dev.unmapped]

@[simp] theorem comServe_keel (d : Dev) (c : Clock) (slot : Nat) (p : Port) (op : MemOp) (line : Nat) (e : LineErr) : keel (d.comServe c slot p op line e) = keel d := by
  unfold Dev.comServe
  split
  · simp
  simp only
  split
  · simp
  split
  · simp
  split
  · simp
  · simp
  · split <;> simp

@[simp] theorem endPublish_keel (d : Dev) (c : Clock) (r : Ref) (slot st : Nat) : keel (d.endPublish c r slot st) = keel d := by
  unfold Dev.endPublish; split <;> simp

@[simp] theorem refusePublish_keel (d : Dev) (r : Ref) (slot st : Nat) : keel (d.refusePublish r slot st) = keel d := by
  unfold Dev.refusePublish; split <;> simp

@[simp] theorem logLease_keel (d : Dev) (c : Clock) (p : Port) (slot : Nat) : keel (d.logLease c p slot) = keel d := logEvent_keel _ _ _ _ _ _ _ _ _

@[simp] theorem grantLease_keel (d : Dev) (c : Clock) (r : Ref) (slot : Nat) (p : Port) (keep : Bool) : keel (d.grantLease c r slot p keep) = keel d :=
  (endPublish_keel _ _ _ _ _).trans (setHeader_keel _ _ _)

@[simp] theorem dropSlot_keel (d : Dev) (slot : Nat) : keel (d.dropSlot slot) = keel d := by simp [Dev.dropSlot]

@[simp] theorem dropped_keel (d : Dev) (c : Clock) (r : Ref) (slot tf : Nat) : keel (d.dropped c r slot tf) = keel d := by
  unfold Dev.dropped
  refine (endCmd_keel _ _ _ _ _ _ _).trans ((dropSlot_keel _ _).trans ?_)
  exact foldl_keeps keel (fun x _ => (logEvent_keel _ _ _ _ _ _ _ _ _).trans (updPort_keel x _ _)) _ _

@[simp] theorem flip_keel (d : Dev) (c : Clock) (r : Ref) (slot : Nat) : keel (d.flip c r slot) = keel d := by
  unfold Dev.flip
  split
  · simp
  · split <;> simp

@[simp] theorem awaitLines_keel (d : Dev) (w : ComWait) : keel (d.awaitLines w) = keel d := rfl

@[simp] theorem publishStep_keel (d : Dev) (c : Clock) (r : Ref) (slot : Nat) (p : Port) : keel (d.publishStep c r slot p) = keel d := by
  unfold Dev.publishStep
  split
  · simp
  · simp only
    split <;> simp

@[simp] theorem comGoOn_keel (d : Dev) (c : Clock) (slot : Nat) (why : ComWhy) : keel (d.comGoOn c slot why) = keel d := by
  cases why <;> simp [Dev.comGoOn]

@[simp] theorem comWait_keel (d : Dev) (c : Clock) (slot : Nat) (await : List (Port × Nat)) (why : ComWhy) : keel (d.comWait c slot await why) = keel d := by
  unfold Dev.comWait; split <;> simp

@[simp] theorem endLease_keel (d : Dev) (c : Clock) (slot : Nat) (released : Bool) (why : ComWhy) : keel (d.endLease c slot released why) = keel d := by
  unfold Dev.endLease
  split
  · simp
  · cases released <;> simp

@[simp] theorem publishOp_keel (d : Dev) (c : Clock) (cmd : Cmd) : keel (d.publishOp c cmd) = keel d := by
  unfold Dev.publishOp
  simp only
  split
  · simp
  split
  · simp
  split
  · split <;> simp
  · split <;> simp
  · split <;> simp
  · split <;> simp
  · simp

@[simp] theorem dropCommons_keel (d : Dev) (c : Clock) (cmd : Cmd) : keel (d.dropCommons c cmd) = keel d := by
  unfold Dev.dropCommons
  simp only
  split
  · simp
  refine (comWait_keel _ _ _ _ _).trans ((recall_keel _ _ _).trans ?_)
  split
  · exact foldl_keeps keel (fun x p => updPort_keel _ _ _) _ _
  · exact (logLease_keel _ _ _ _).trans (foldl_keeps keel (fun x p => updPort_keel _ _ _) _ _)

@[simp] theorem comQueue_keel (d : Dev) (c : Clock) (qs : List (Nat × Ref)) : keel (d.comQueue c qs) = keel d := by
  induction qs generalizing d with
  | nil => rfl
  | cons q qs ih =>
    unfold Dev.comQueue
    split
    · exact ih d
    · refine (ih _).trans ?_
      split
      · rfl
      · split <;> simp

@[simp] theorem poisonOwned_keel (d : Dev) (c : Clock) (p : Port) (slot : Nat) (x : ComState) : keel (d.poisonOwned c p slot x) = keel d := by
  unfold Dev.poisonOwned
  split
  · rfl
  · refine (foldl_keeps keel (fun y q => logEvent_keel _ _ _ _ _ _ _ _ _) _ _).trans ?_
    simp

@[simp] theorem dropWaits_keel (d : Dev) (c : Clock) (p : Port) : keel (d.dropWaits c p) = keel d :=
  foldl_keeps keel (fun x _ => comGoOn_keel x c _ _) _ _

@[simp] theorem endLeases_keel (d : Dev) (c : Clock) (p : Port) : keel (d.endLeases c p) = keel d :=
  foldl_keeps keel (fun x s => (logLease_keel _ c p s).trans (setHeader_keel x s _)) _ _

@[simp] theorem hostDeath_keel (d : Dev) (c : Clock) (p : Port) : keel (d.hostDeath c p) = keel d := by
  simp only [Dev.hostDeath, comQueue_keel, endLeases_keel, dropWaits_keel, updPort_keel]
  exact foldl_keeps keel (fun x e => poisonOwned_keel x c p _ _) _ _

/-! ### Near-bank jobs -/

@[simp] theorem putRec_keel (d : Dev) (place : RecPlace) (k : CmdKey) (e : Option Ended) : keel (d.putRec place k e) = keel d := rfl

@[simp] theorem updateEnd_keel (d : Dev) (c : Clock) (o : UpdOutcome) : keel (d.updateEnd c o) = keel d := by
  unfold Dev.updateEnd
  split
  · rfl
  split
  · simp
  · split <;> simp

@[simp] theorem outcome_keel (d : Dev) (c : Clock) (entry : Nat) (o : UpdOutcome) : keel (d.outcome c entry o) = keel d := by
  unfold Dev.outcome; split <;> simp

@[simp] theorem rowsEnd_keel (d : Dev) (c : Clock) (l : Leaf) (w : RowsWait) : keel (d.rowsEnd c l w) = keel d := by
  unfold Dev.rowsEnd
  refine (updLeaf_keel _ _ _).trans ?_
  refine (foldl_keeps keel (fun x u => outcome_keel x c _ _) _ _).trans ((outcome_keel _ _ _ _).trans ?_)
  split <;> rfl

@[simp] theorem rowsDone_keel (d : Dev) (c : Clock) (key : CmdKey) (node : Nat) : keel (d.rowsDone c key node) = keel d := by
  unfold Dev.rowsDone
  split
  · rfl
  split
  · rfl
  simp only
  split <;> simp

@[simp] theorem finishJob_keel (d : Dev) (c : Clock) (j : NbJob) : keel (d.finishJob c j) = keel d := by
  unfold Dev.finishJob
  simp only
  split
  · split <;> simp
  split
  · rfl
  split
  · simp
  · split <;> simp

@[simp] theorem cutJob_keel (d : Dev) (c : Clock) (j : NbJob) : keel (d.cutJob c j) = keel d := finishJob_keel _ _ _

@[simp] theorem stopNb_keel (d : Dev) (c : Clock) (r : Ref) : keel (d.stopNb c r) = keel d := by
  unfold Dev.stopNb; split <;> simp

@[simp] theorem stopRows_keel (d : Dev) (c : Clock) (key : CmdKey) : keel (d.stopRows c key) = keel d :=
  foldl_keeps keel (fun x j => cutJob_keel x c j) _ _

/-! ### A port's reset and the loss of DRAM -/

@[simp] theorem endReader_keel (d : Dev) (id : Nat) : keel (d.endReader id) = keel d := by
  unfold Dev.endReader Dev.sweepReader
  simp only
  split <;> rfl

@[simp] theorem quit_keel (d : Dev) (cmd : Cmd) : keel (d.quit cmd) = keel d := by
  unfold Dev.quit; split <;> simp

@[simp] theorem abandonPort_keel (d : Dev) (c : Clock) (p : Port) : keel (d.abandonPort c p) = keel d := by
  unfold Dev.abandonPort
  refine (foldl_keeps keel (fun x k => quit_keel x k) _ _).trans ?_
  refine (foldl_keeps keel (fun x k => stopRows_keel x c k) _ _).trans ?_
  refine (foldl_keeps keel (fun x r => stopNb_keel x c r) _ _).trans ?_
  exact foldl_keeps keel (fun x r => endReader_keel x r) _ _

@[simp] theorem abandonLeases_keel (d : Dev) (p : Port) : keel (d.abandonLeases p) = keel d := rfl

@[simp] theorem portReset_keel (d : Dev) (c : Clock) (p : Port) : keel (d.portReset c p) = keel d := by
  unfold Dev.portReset
  refine (updPort_keel _ _ _).trans ((foldl_keeps keel (fun x k => quit_keel x k) _ _).trans ?_)
  simp

@[simp] theorem dropModels_keel (d : Dev) (keep : Model → Bool) : keel (d.dropModels keep) = keel d :=
  foldl_keeps keel (f := fun (x : Dev) (m : Model) =>
    (((x.free (modelRegion m.uid)).free (embedRegion m.uid)).freeExtents (weightKey m.uid)).freeExtents (embedKey m.uid)) (fun x m => by simp) _ d

@[simp] theorem loseDram_keel (d : Dev) (parts commons : Bool) : keel (d.loseDram parts commons) = keel d := dropModels_keel d Model.onFlash

end Sys2Proof.Proofs


/-! SUPPORT. Resets that begin: what they keep of the keel, what RESET_N and the reference clocks do, and the statement about them. -/

namespace Sys2Proof.Proofs

open Sys2Proof Sys2Proof.Machine Sys2Proof.Laws

/-! ### Leaf copies at a reset -/

@[simp] theorem freeVersion_keel (d : Dev) (parcel list : Nat) (x : LList) (v : Version) : keel (d.freeVersion parcel list x v) = keel d := by
  unfold Dev.freeVersion
  split <;> simp

@[simp] theorem freeLeafStores_keel (d : Dev) (l : Leaf) : keel (d.freeLeafStores l) = keel d := by
  have versions (x : Dev) (e : LList × Nat) (vs : List Version) : keel (vs.foldl (fun (z : Dev) v => z.freeVersion l.parcel e.2 e.1 v) x) = keel x :=
    foldl_keeps keel (fun z v => freeVersion_keel z _ _ _ v) _ _
  simp only [Dev.freeLeafStores, keel_mk, mk_keel]
  refine (foldl_keeps keel (fun x k => freeExtents_keel x k) _ _).trans ?_
  exact (foldl_keeps keel (fun x e => versions x e _) _ _).trans (foldl_keeps keel (fun x (e : Nat × Region) => free_keel x e.1) _ _)

@[simp] theorem freeLeaf_keel (d : Dev) (l : Leaf) : keel (d.freeLeaf l) = keel d := by simp [Dev.freeLeaf]

@[simp] theorem dropJoining_keel (d : Dev) (c : Clock) : keel (d.dropJoining c) = keel d := foldl_keeps keel (fun x l => freeLeaf_keel x l) _ d

@[simp] theorem warmLeaves_keel (d : Dev) (c : Clock) : keel (d.warmLeaves c) = keel d := by
  have next (x : Dev) (l : Leaf) (e : LList × Nat) :
      keel (match e.1.next with | some v => x.freeVersion l.parcel e.2 e.1 v | none => x) = keel x := by
    split <;> simp
  simp only [Dev.warmLeaves, keel_mk, mk_keel]
  exact (foldl_keeps keel (fun x (l : Leaf) => foldl_keeps keel (fun y e => next y l e) _ _) _ _).trans (dropJoining_keel _ _)

/-! ### A cold reset that begins (R457, R474) -/

/-- Of the board a cold reset clears what the sensors and the power events have left there. -/
theorem coldClear_brd (d : Dev) (c : Clock) : (d.coldClear c).brd =
    { d.brd with deferred := none, vin := 0, iin := 0, pfSeen := false, uvSeen := false, tjPeak := 0, hotSeen := false, hot := false, hotDie := 0, tjMax := 0,
                 wakeSeen := false } := by
  have hbrd : ((d.dropJoining c).loseDram false false).brd = d.brd := brd_of_keel ((loseDram_keel _ _ _).trans (dropJoining_keel _ _))
  simp only [Dev.coldClear, Dev.defaults, hbrd]

theorem coldBegun_toReset (v : State) (d : Dev) : ColdBegun v { v with clk := Clock.reset, dev := d.coldClear v.clk } .inReset :=
  ⟨rfl, rfl, rfl, rfl, rfl, fun p => by simp [Dev.coldClear, Dev.port], rfl, rfl, rfl, rfl, rfl, rfl, rfl⟩

/-! ### RESET_N and PF_DONE (R514) -/

section Pin
variable {k : Clock} {d : Dev}

theorem resetNAssert_now (hon : d.start.phase ≠ .off) (hpf : d.flash.pf = .idle) :
    resetNAssert k d = ({ d with brd := { d.brd with resetN := true } } : Dev).toReset k := by
  have hover : d.flash.flushOver k.now = true := by simp only [Flash.flushOver, hpf]
  simp only [resetNAssert, hon, hover, if_true, if_false]

theorem resetNAssert_waits {x : Nat} (hon : d.start.phase ≠ .off) (hpf : d.flash.pf = .flushing x) (hsoon : k.now < x + 1500000) (hfirst : d.brd.deferred = none) :
    resetNAssert k d = (k, { d with brd := { d.brd with resetN := true, deferred := some k.now } }) := by
  have hover : d.flash.flushOver k.now = false := by
    simp only [Flash.flushOver, hpf, decide_eq_false_iff_not]
    omega
  simp [resetNAssert, hon, hover, hfirst]

theorem pfDone_resets {x y : Nat} (hpf : d.flash.pf = .flushing x) (hwaits : d.brd.deferred = some y) (hdone : d.flushed = true ∨ x + 1500000 ≤ k.now) :
    pfDone k d = d.toReset k := by
  have hover : (d.flushed || d.flash.flushOver k.now) = true := by
    simpa only [Flash.flushOver, hpf, Bool.or_eq_true, decide_eq_true_eq] using hdone
  simp only [pfDone, hpf, hover, hwaits, Option.isSome_some, if_true]

/-! ### Reference clocks (R520) -/

theorem lost_of_refclkLoss (lost : List RefClk) (r : RefClk) : r ∈ (if lost.contains r then lost else lost ++ [r]) := by
  split
  next h => exact List.contains_iff_mem.mp h
  · exact List.mem_append_right _ (List.mem_singleton.mpr rfl)

theorem refclkLoss_edge_down {e : Fin 2} {q : FabPort} (hq : q.val / 4 = e.val) (hused : d.fab.ports[q].link ≠ .disabled) :
    (refclkLoss (.fb e) k d).2.fab.ports[q].link = .down := by
  simp [refclkLoss, hq] at hused ⊢
  simp [hused]

theorem refclkLoss_edge_other {e : Fin 2} {q : FabPort} (hq : q.val / 4 ≠ e.val) : (refclkLoss (.fb e) k d).2.fab.ports[q] = d.fab.ports[q] := by
  simp [refclkLoss, hq]

theorem refclkReturn_edge {e : Fin 2} (hserves : d.service = true) (q : FabPort) :
    (refclkReturn (.fb e) k d).fab.ports[q].link = if q.val / 4 = e.val ∧ d.fab.ports[q].link = .down then .training else d.fab.ports[q].link := by
  simp only [refclkReturn, Fin.getElem_fin, Vector.getElem_ofFn, hserves, Bool.true_and, Bool.and_eq_true, decide_eq_true_eq]
  split <;> rfl

/-- A port that uses its own reference is reset when it is lost, and the loss stays known. -/
theorem refclkLoss_port {p : Port} (hlive : d.live = true) (hmode : d.start.clkMode.toNat < 2) : (refclkLoss (.hp p) k d).1 = k ∧
    ((refclkLoss (.hp p) k d).2.port p).linkUp = false ∧ ((refclkLoss (.hp p) k d).2.port p).slots = [] ∧ RefClk.hp p ∈ (refclkLoss (.hp p) k d).2.brd.lost := by
  have hlost := lost_of_refclkLoss d.brd.lost (.hp p)
  have hown : d.start.clkMode ≠ 2 ∧ d.start.clkMode ≠ 3 := ⟨fun h => by simp [h] at hmode, fun h => by simp [h] at hmode⟩
  generalize hd : ({ d with brd := { d.brd with lost := if d.brd.lost.contains (.hp p) then d.brd.lost else d.brd.lost ++ [.hp p] } } : Dev) = d1
  have hclk : d1.hpClock p = false := by
    have hhas := List.contains_iff_mem.mpr hlost
    simp only [← hd, Dev.hpClock, decide_eq_false hown.1, decide_eq_false hown.2, hhas, Bool.or_self, Bool.not_true]
  have hrun : refclkLoss (.hp p) k d = (k, d1.portReset k p) := by
    simp only [refclkLoss, hd, hlive, hclk, Bool.not_false, Bool.and_self, if_true]
  have hbrd : (d1.portReset k p).brd.lost = d1.brd.lost := congrArg Board.lost (brd_of_keel (portReset_keel d1 k p))
  rw [hrun]
  refine ⟨rfl, ?_, ?_, ?_⟩
  · rw [Dev.portReset, port_updPort_same]
    rfl
  · rw [Dev.portReset, port_updPort_same]
    rfl
  · rw [hbrd, ← hd]
    exact hlost

end Pin

/-- Settles O57. It holds: each of these events is one branch of its row, and a reset keeps the pins and the references that are lost. -/
theorem resetPinAndReferences : Obligations.ResetPinAndReferences := by
  intro s v t hv hon
  have clk {i : Instr} {f : Clock → Dev → Clock × Dev} (hi : exec i s = happens i t (·.onClk f) s) (hwf : i.wf = true) :
      exec i s = .next { v with clk := (f v.clk v.dev).1, dev := (f v.clk v.dev).2 } := exec_clkDev hi hwf hv rfl
  have dev {i : Instr} {f : Clock → Dev → Dev} (hi : exec i s = happens i t (·.onDev f) s) (hwf : i.wf = true) :
      exec i s = .next { v with dev := f v.clk v.dev } := exec_onDev hi hwf hv rfl
  refine ⟨fun hpf => ?_, fun x hpf hsoon hfirst => ?_, fun x y hpf hwaits hdone => ?_, ?_, fun e => ?_, fun e hserves => ?_, fun p hlive hmode => ?_,
    fun k hk => ?_⟩
  · refine ⟨_, clk rfl rfl, ?_, ?_⟩ <;> rw [resetNAssert_now hon hpf]
    · exact coldBegun_toReset v _
    · rw [Dev.toReset, coldClear_brd]
  · rw [clk (f := resetNAssert) rfl rfl, resetNAssert_waits hon hpf hsoon hfirst]
  · refine ⟨_, clk rfl rfl, ?_⟩
    rw [pfDone_resets hpf hwaits hdone]
    exact coldBegun_toReset v _
  · refine ⟨_, clk rfl rfl, ?_, ?_⟩ <;> simp only [refclkLoss, hon, if_false]
    · exact coldBegun_toReset v _
    · rw [Dev.toReset, coldClear_brd]
      exact lost_of_refclkLoss _ _
  · exact ⟨_, clk rfl rfl, fun q hq hused => refclkLoss_edge_down (k := v.clk) hq hused, fun q hq => refclkLoss_edge_other (k := v.clk) hq⟩
  · refine ⟨_, dev rfl rfl, ?_, fun q => refclkReturn_edge (k := v.clk) hserves q⟩
    simp [refclkReturn]
  · obtain ⟨-, hdown, hslots, hlost⟩ := refclkLoss_port (k := v.clk) (p := p) hlive hmode
    exact ⟨_, clk rfl rfl, hdown, hslots, hlost⟩
  · obtain rfl | ⟨p, rfl⟩ := hk
    · exact dev (f := refclkReturn .clk25) rfl rfl
    · exact dev (f := refclkReturn (.hp p)) rfl rfl

end Sys2Proof.Proofs


/-! SUPPORT. Starts: what one stake and one unit do, what a start that meets no failure keeps, how a start fails, and the statement about them. -/

namespace Sys2Proof.Proofs

open Sys2Proof Sys2Proof.Machine Sys2Proof.Laws

/-! ### The course of a start -/

/-- A start without what its stakes note as they go. -/
def Start.course (s : Start) : Start := { s with log := [], stake := 0, degraded := false, mirrored := false }

/-- What a stake that passes keeps: the course of the start, and the power states. -/
def tack (d : Dev) : Start × Power := (Start.course d.start, d.pwr)

theorem tack_adrift : Adrift tack := ⟨⟨fun _ _ => rfl, fun _ _ => rfl, fun _ _ => rfl⟩, fun _ _ => rfl, fun _ _ => rfl, fun _ _ => rfl, fun _ _ => rfl⟩

theorem tack_apart : Apart tack := tack_adrift.toApart

theorem tack_of_keel {d e : Dev} (hk : keel d = keel e) (hp : d.pwr = e.pwr) : tack d = tack e := by
  rw [tack, tack, start_of_keel hk, hp]

section Course
variable {d e : Dev} (h : tack d = tack e)
include h

theorem course_of_tack : Start.course d.start = Start.course e.start := congrArg Prod.fst h
theorem pwr_of_tack : d.pwr = e.pwr := congrArg Prod.snd h
theorem phase_of_tack : d.start.phase = e.start.phase := (congrArg Start.phase (course_of_tack h) :)
theorem dir_of_tack : d.start.dir = e.start.dir := (congrArg Start.dir (course_of_tack h) :)
theorem skip_of_tack : d.start.skip = e.start.skip := (congrArg Start.skip (course_of_tack h) :)
theorem trialRun_of_tack : d.start.trialRun = e.start.trialRun := (congrArg Start.trialRun (course_of_tack h) :)
theorem setB_of_tack : d.start.setB = e.start.setB := (congrArg Start.setB (course_of_tack h) :)
theorem bootSrc_of_tack : d.start.bootSrc = e.start.bootSrc := (congrArg Start.bootSrc (course_of_tack h) :)
theorem clkMode_of_tack : d.start.clkMode = e.start.clkMode := (congrArg Start.clkMode (course_of_tack h) :)

theorem lost_of_tack : d.start.lost = e.start.lost := by rw [Start.lost, Start.lost, dir_of_tack h]

theorem set_of_tack (b : Bool) : d.start.set b = e.start.set b := by
  have hA : d.start.setA = e.start.setA := (congrArg Start.setA (course_of_tack h) :)
  have hB : d.start.setBImgs = e.start.setBImgs := (congrArg Start.setBImgs (course_of_tack h) :)
  rw [Start.set, Start.set, hA, hB]

theorem fallBack_of_tack : d.fallBack = e.fallBack := by
  have hfailed : d.start.failedAt = e.start.failedAt := (congrArg Start.failedAt (course_of_tack h) :)
  rw [Dev.fallBack, Dev.fallBack, hfailed, dir_of_tack h]

end Course

/-- A property of the device that the start's own notes leave standing. -/
structure Steady (P : Dev → Prop) : Prop where
  log : ∀ (d : Dev) (c : Clock) (n e u : Nat), P d → P (d.startLog c n e u)
  stake : ∀ (d : Dev) (n : Nat), P d → P { d with start := { d.start with stake := n } }
  degraded : ∀ d : Dev, P d → P { d with start := { d.start with degraded := true } }

theorem steady_of {α : Type} {g : Dev → α} (hlog : ∀ (d : Dev) (c : Clock) (n e u : Nat), g (d.startLog c n e u) = g d)
    (hstake : ∀ (d : Dev) (n : Nat), g { d with start := { d.start with stake := n } } = g d)
    (hlow : ∀ d : Dev, g { d with start := { d.start with degraded := true } } = g d) (Q : α → Prop) : Steady fun d => Q (g d) :=
  ⟨fun d c n e u h => by rwa [hlog], fun d n h => by rwa [hstake], fun d h => by rwa [hlow]⟩

theorem tack_steady (d : Dev) : Steady (tack · = tack d) := steady_of (fun _ _ _ _ _ => rfl) (fun _ _ => rfl) (fun _ => rfl) (· = tack d)

/-! ### One stake, and its units -/

section Stakes
variable {c : Clock} {o : StartOutcome} {P : Dev → Prop}

/-- The device as stake n finds it: its BEGUN record is written, and CHANGED where it is done differently after it failed. -/
def stakeBegun (c : Clock) (n : Nat) (d : Dev) : Dev :=
  let d1 := d.startLog c n evBegun wholeStake
  if d1.start.failedAt = n && changedStakes.contains n then d1.startLog c n evChanged wholeStake else d1

theorem stakeBegun_keeps (hP : Steady P) (n : Nat) {d : Dev} (h : P d) : P (stakeBegun c n d) := by
  unfold stakeBegun
  simp only
  split
  · exact hP.log _ _ _ _ _ (hP.log _ _ _ _ _ h)
  · exact hP.log _ _ _ _ _ h

section Run
variable {n : Nat} {work : Dev → Going} {x : Going} (hfree : o.interrupted = none) (hgoes : x.1 = true)
include hfree hgoes

theorem stakeRun_ok (hok : (work (stakeBegun c n x.2)).1 = true) : stakeRun c o n work x =
    (true, ({ (work (stakeBegun c n x.2)).2 with start := { (work (stakeBegun c n x.2)).2.start with stake := n } } : Dev).startLog c n evPassed wholeStake) := by
  unfold stakeBegun at hok
  simp only [stakeRun, stakeBegun, hgoes, hfree, hok]
  rfl

/-- A stake whose work goes well passes, and leaves what its work leaves. -/
theorem stakeRun_passes {Q : Dev → Prop} (hP : Steady P) (hQ : Steady Q) (hwork : ∀ d, P d → (work d).1 = true ∧ Q (work d).2) (h : P x.2) :
    (stakeRun c o n work x).1 = true ∧ Q (stakeRun c o n work x).2 ∧ (stakeRun c o n work x).2.start.stake = n := by
  obtain ⟨hok, hdone⟩ := hwork _ (stakeBegun_keeps (c := c) hP n h)
  rw [stakeRun_ok hfree hgoes hok]
  exact ⟨rfl, hQ.log _ _ _ _ _ (hQ.stake _ _ hdone), rfl⟩

end Run

theorem stakeRun_fails {n : Nat} {work : Dev → Going} {x : Going} (hgoes : x.1 = true) (hbad : (work (stakeBegun c n x.2)).1 = false) :
    ∃ recorded, stakeRun c o n work x = (false, (work (stakeBegun c n x.2)).2.failStart c n recorded) := by
  unfold stakeBegun at hbad
  simp only [stakeRun, stakeBegun, hgoes, hbad]
  exact ⟨_, rfl⟩

theorem stakeRun_stopped {n : Nat} {work : Dev → Going} {x : Going} (h : x.1 = false) : stakeRun c o n work x = x := by
  simp only [stakeRun, h, Bool.not_false, if_true]

/-- A unit that is not on the skip list and does not hang leaves what its bring-up leaves. -/
theorem unitRun_goes {n u : Nat} {x : UnitOutcome} {good bad : Dev → Dev} {y : Going} {Q R : Dev → Prop} (hQ : Steady Q) (hR : Steady R)
    (hgoes : y.1 = true) (hskip : y.2.start.skip = []) (hgood : x = .passed → ∀ d, Q d → R (good d)) (hnone : x = .noPartner → ∀ d, Q d → R d)
    (hbad : x = .failed → ∀ d, Q d → R (bad d)) (hx : x ≠ .hung) (h : Q y.2) : (unitRun c n u x good bad y).1 = true ∧ R (unitRun c n u x good bad y).2 := by
  unfold unitRun
  simp only [hgoes, hskip, Bool.not_true, Bool.false_eq_true, if_false, List.contains_nil]
  have hbegun := hQ.log _ c n evUnitBegun u h
  cases x with
  | passed => exact ⟨rfl, hR.log _ _ _ _ _ (hgood rfl _ hbegun)⟩
  | noPartner => exact ⟨rfl, hR.log _ _ _ _ _ (hnone rfl _ hbegun)⟩
  | failed => exact ⟨rfl, hR.degraded _ (hR.log _ _ _ _ _ (hbad rfl _ hbegun))⟩
  | hung => exact absurd rfl hx

/-- Units of which none hangs are all gone through. -/
theorem unitsRun_goes {n count : Nat} {os : List UnitOutcome} {good bad : Nat → Dev → Dev} {d : Dev} {Q : Nat → Dev → Prop} (hQ : ∀ u, Steady (Q u))
    (hskip : ∀ u d, Q u d → d.start.skip = []) (hgood : ∀ u, u < count → nthD os u .failed = .passed → ∀ d, Q u d → Q (u + 1) (good u d))
    (hnone : ∀ u, u < count → nthD os u .failed = .noPartner → ∀ d, Q u d → Q (u + 1) d)
    (hbad : ∀ u, u < count → nthD os u .failed = .failed → ∀ d, Q u d → Q (u + 1) (bad u d)) (hos : ∀ u, u < count → nthD os u .failed ≠ .hung) (h : Q 0 d) :
    (unitsRun c n count os good bad d).1 = true ∧ Q count (unitsRun c n count os good bad d).2 := by
  induction count with
  | zero => exact ⟨rfl, h⟩
  | succ m ih =>
    obtain ⟨hgoes, hm⟩ := ih (fun u hu => hgood u (by omega)) (fun u hu => hnone u (by omega)) (fun u hu => hbad u (by omega)) (fun u hu => hos u (by omega))
    have hlast := Nat.lt_succ_self m
    simp only [unitsRun, List.range_succ, List.foldl_append, List.foldl_cons, List.foldl_nil]
    exact unitRun_goes (hQ m) (hQ (m + 1)) hgoes (hskip m _ hm) (hgood m hlast) (hnone m hlast) (hbad m hlast) (hos m hlast) hm

/-- The same where every bring-up keeps one property. -/
theorem unitsRun_keeps {n count : Nat} {os : List UnitOutcome} {good bad : Nat → Dev → Dev} {d : Dev} (hP : Steady P) (hskip : ∀ d, P d → d.start.skip = [])
    (hgood : ∀ u d, P d → P (good u d)) (hbad : ∀ u d, P d → P (bad u d)) (hos : ∀ u, u < count → nthD os u .failed ≠ .hung) (h : P d) :
    (unitsRun c n count os good bad d).1 = true ∧ P (unitsRun c n count os good bad d).2 :=
  unitsRun_goes (Q := fun _ => P) (fun _ => hP) (fun _ => hskip) (fun u _ _ => hgood u) (fun _ _ _ _ h => h) (fun u _ _ => hbad u) hos h

end Stakes

end Sys2Proof.Proofs


/-! SUPPORT. A start that meets no failure: each stake passes and keeps the start's course, so that the node comes to serve. -/

namespace Sys2Proof.Proofs

open Sys2Proof Sys2Proof.Machine Sys2Proof.Laws

/-! ### Frames of the retired list stay (R273) -/

theorem free_retired (d : Dev) (id : Nat) : (d.free id).mem.retired = d.mem.retired := by
  unfold Dev.free
  split <;> rfl

theorem dropModels_retired (d : Dev) (keep : Model → Bool) : (d.dropModels keep).mem.retired = d.mem.retired :=
  foldl_keeps (fun x : Dev => x.mem.retired) (f := fun (x : Dev) (m : Model) =>
    (((x.free (modelRegion m.uid)).free (embedRegion m.uid)).freeExtents (weightKey m.uid)).freeExtents (embedKey m.uid))
    (fun _ _ => (free_retired _ _).trans (free_retired _ _)) _ d

theorem loseDram_retired (d : Dev) (parts commons : Bool) : (d.loseDram parts commons).mem.retired = d.mem.retired := by
  simp only [Dev.loseDram, MemSys.recount, dropModels_retired]

/-! ### Stacks (R263, R273, R486) -/

/-- A list's place after a change of one place of the vector. -/
theorem toList_vupdN {α : Type} {n : Nat} (v : Vector α n) (i j : Nat) (f : α → α) :
    (vupdN v i f).toList[j]? = if i = j then v.toList[j]?.map f else v.toList[j]? := by
  unfold vupdN
  split
  next h =>
    simp only [Vector.toList_set, List.getElem?_set, Vector.length_toList, h, if_true]
    split
    next hij =>
      subst hij
      simp [h]
    · rfl
  next h =>
    split
    next hij => simp [List.getElem?_eq_none (l := v.toList) (i := j) (by rw [Vector.length_toList]; omega)]
    · rfl

theorem stackUp_serves {d : Dev} (fresh : Bool) {s : Nat} (hret : d.mem.retired = []) (hs : s < 20) : (d.stackUp fresh s).stackServes s = true := by
  have hsome : d.mem.stk.toList[s]? = some d.mem.stk[s] := by simp [hs]
  simp only [Dev.stackServes, Dev.stackUp, toList_vupdN, if_true, hsome, Option.map_some, hret, List.filter_nil, List.length_nil, Nat.not_lt_zero, if_false,
    Stack.serving]
  split <;> rfl

theorem stackUp_others {d : Dev} (fresh : Bool) {s j : Nat} (h : d.stackServes j = true) (hj : s ≠ j) : (d.stackUp fresh s).stackServes j = true := by
  simpa only [Dev.stackServes, Dev.stackUp, toList_vupdN, hj, if_false] using h

/-- With every stack in service no die is bare. -/
theorem dieBare_of_serves {d : Dev} (h : ∀ j, j < 20 → d.stackServes j = true) : d.dieBare = false := by
  simp only [Dev.dieBare, List.any_eq_false, List.mem_range]
  intro i hi
  simp [h (2 * i) (by omega)]

/-- The first u stacks are in service, with no frame retired. -/
def StacksUp (e : Dev) (u : Nat) (d : Dev) : Prop := (tack d = tack e ∧ d.mem.retired = []) ∧ ∀ j, j < u → d.stackServes j = true

theorem stacksUp_steady (e : Dev) (u : Nat) : Steady (StacksUp e u) := ⟨fun _ _ _ _ _ h => h, fun _ _ h => h, fun _ h => h⟩

theorem stackUp_up {e d : Dev} {u : Nat} (fresh : Bool) (hu : u < 20) (h : StacksUp e u d) : StacksUp e (u + 1) (d.stackUp fresh u) := by
  obtain ⟨⟨htack, hret⟩, hup⟩ := h
  refine ⟨⟨htack, hret⟩, fun j hj => ?_⟩
  rcases Nat.lt_or_ge j u with hlt | hge
  · exact stackUp_others fresh (hup j hlt) (by omega)
  · obtain rfl : j = u := by omega
    exact stackUp_serves fresh hret hu

/-- The device whose stacks stake 6 brings up: DRAM that a warm start does not keep is lost, and the low-power exit tests the working arrays again. -/
def stake6Dram (o : StartOutcome) (d : Dev) : Dev :=
  let kept := decide (d.start.cls = .warm) && d.dramKept o
  let d0 := if decide (d.start.cls = .warm) && !kept then d.loseDram true false else d
  if d.start.cls = .low then { d0 with scan := { d0.scan with dies := Vector.ofFn fun (i : Fin 10) => ⟨min Config.arraysPerDie (nthD o.arrays i.val 0), 0⟩ } } else d0

/-- What stake 6 makes of the stacks' bring-up: it fails when some die is bare. -/
def stacksDone (r : Going) : Going := if !r.1 then r else (!r.2.dieBare, { r.2 with mem := r.2.mem.recount })

theorem stacksDone_up {e : Dev} {r : Going} (hgoes : r.1 = true) (hup : StacksUp e 20 r.2) : (stacksDone r).1 = true ∧ tack (stacksDone r).2 = tack e := by
  obtain ⟨⟨htack, -⟩, hserve⟩ := hup
  rw [stacksDone, if_neg (by rw [hgoes]; decide), dieBare_of_serves hserve]
  exact ⟨rfl, (tack_adrift.mem _ _).trans htack⟩

theorem stake6_eq (c : Clock) (o : StartOutcome) (d : Dev) : stake6 c o d = stacksDone (unitsRun c 6 20 o.stackRes
    (fun s x => x.stackUp (!(decide (d.start.cls = .warm) && d.dramKept o)) s) (fun s x => x.stackOff s) (stake6Dram o d)) := by
  simp only [stake6, stacksDone, stake6Dram]

/-- A channel's bring-up does not hang when its training does not. -/
theorem chanRes_no_hang {o : StartOutcome} (hos : ∀ i : Nat, i < 32 → nthD o.chans i .failed ≠ .hung) (u : Nat) (hu : u < 32) :
    nthD ((List.range 32).map (chanRes o)) u .failed ≠ .hung := by
  have hres : nthD ((List.range 32).map (chanRes o)) u .failed = chanRes o u := by simp [nthD, hu]
  have hno := hos u hu
  rw [hres, chanRes]
  cases hx : nthD o.chans u .failed with
  | passed =>
    simp only
    split <;> decide
  | noPartner => exact UnitOutcome.noConfusion
  | failed => exact UnitOutcome.noConfusion
  | hung => exact absurd hx hno

/-! ### The stakes -/

section Stakes
variable {c : Clock} {f : Fuses} {o : StartOutcome} {e d : Dev} (h : tack d = tack e)
include h

theorem stake2_passes (hfuses : o.fusesOk = true) (hstraps : e.start.lost = true ∨ (e.start.bootSrc ≠ 3 ∧ e.start.clkMode ≠ 3)) :
    (stake2 o d).1 = true ∧ tack (stake2 o d).2 = tack e := by
  refine ⟨?_, h⟩
  rw [← lost_of_tack h, ← bootSrc_of_tack h, ← clkMode_of_tack h] at hstraps
  simpa [stake2, hfuses] using hstraps

theorem stake5_passes (hset : f.checkSet (e.start.set e.start.dir.active) o.sigActive = .accepted) (hback : e.fallBack = false)
    (hB : e.start.setB = e.start.dir.active) (htrial : e.start.trialRun = e.start.dir.trial) :
    (stake5 c f o d).1 = true ∧ tack (stake5 c f o d).2 = tack e := by
  rw [← set_of_tack h, ← dir_of_tack h] at hset
  rw [← fallBack_of_tack h] at hback
  have hrun : (decide (f.checkSet (d.start.set d.start.dir.active) o.sigActive = .accepted) && !d.fallBack) = true := by
    rw [hset, hback]
    rfl
  simp only [stake5, hrun, if_true]
  refine ⟨trivial, ?_⟩
  rw [← setB_of_tack h, ← dir_of_tack h] at hB
  rw [← trialRun_of_tack h, ← dir_of_tack h] at htrial
  simp only [← hB, ← htrial]
  exact h

/-- DRAM lost at a warm start leaves the course as it was. -/
theorem loseDram_tack (parts commons : Bool) : tack (d.loseDram parts commons) = tack e :=
  (tack_of_keel (loseDram_keel _ _ _) (loseDram_pwr _ _ _)).trans h

/-- Stacks that all pass their bring-up from a device at the start's course. -/
theorem stackUnits_pass (fresh : Bool) (hskip : e.start.skip = []) (hret : d.mem.retired = []) (hpass : ∀ i : Nat, i < 20 → nthD o.stackRes i .failed = .passed) :
    (unitsRun c 6 20 o.stackRes (fun s x => x.stackUp fresh s) (fun s x => x.stackOff s) d).1 = true ∧
      StacksUp e 20 (unitsRun c 6 20 o.stackRes (fun s x => x.stackUp fresh s) (fun s x => x.stackOff s) d).2 := by
  have never {x : UnitOutcome} {u : Nat} (hu : u < 20) (hx : nthD o.stackRes u .failed = x) (hne : x ≠ .passed) : False := hne (hx.symm.trans (hpass u hu))
  exact unitsRun_goes (stacksUp_steady e) (fun _ _ hu => (skip_of_tack hu.1.1).trans hskip) (fun u hu _ _ hd => stackUp_up fresh hu hd)
    (fun u hu hx => (never hu hx (by decide)).elim) (fun u hu hx => (never hu hx (by decide)).elim) (fun u hu hx => never hu hx (by decide))
    ⟨⟨h, hret⟩, fun j hj => absurd hj (Nat.not_lt_zero j)⟩

theorem stake6Dram_keeps (o : StartOutcome) (hret : d.mem.retired = []) : tack (stake6Dram o d) = tack e ∧ (stake6Dram o d).mem.retired = [] := by
  have lost (b : Bool) : tack (if b then d.loseDram true false else d) = tack e ∧ (if b then d.loseDram true false else d).mem.retired = [] := by
    cases b with
    | false => exact ⟨h, hret⟩
    | true => exact ⟨loseDram_tack h _ _, (loseDram_retired _ _ _).trans hret⟩
  unfold stake6Dram
  simp only
  split
  · exact lost _
  · exact lost _

theorem stake6_passes (hskip : e.start.skip = []) (hret : d.mem.retired = []) (hpass : ∀ i : Nat, i < 20 → nthD o.stackRes i .failed = .passed) :
    (stake6 c o d).1 = true ∧ tack (stake6 c o d).2 = tack e := by
  obtain ⟨hdram, hnone⟩ := stake6Dram_keeps h o hret
  obtain ⟨hgoes, hup⟩ := stackUnits_pass (c := c) hdram (!(decide (d.start.cls = .warm) && d.dramKept o)) hskip hnone hpass
  rw [stake6_eq]
  exact stacksDone_up hgoes hup

theorem stake7_passes (hskip : e.start.skip = []) (hos : ∀ i : Nat, i < 32 → nthD o.chans i .failed ≠ .hung) :
    (stake7 c o d).1 = true ∧ tack (stake7 c o d).2 = tack e := by
  obtain ⟨hgoes, hunits⟩ := unitsRun_keeps (c := c) (n := 7) (good := fun ch x => x.chanUp o ch) (bad := fun ch x => x.chanOff ch) (tack_steady e)
    (fun _ hx => (skip_of_tack hx).trans hskip) (fun _ _ hx => hx) (fun _ _ hx => hx) (chanRes_no_hang hos) h
  unfold stake7
  exact ⟨hgoes, (tack_adrift.flash _ _).trans hunits⟩

theorem portTrained_tack (p : Port) : tack (d.portTrained p) = tack e := by
  unfold Dev.portTrained
  split
  · exact (linkUp_adrift tack_adrift _ _).trans h
  · exact h

theorem stake8_passes (hskip : e.start.skip = []) (hos : ∀ i : Nat, i < 4 → nthD o.hostPorts i .failed ≠ .hung) :
    (stake8 c o d).1 = true ∧ tack (stake8 c o d).2 = tack e := by
  have hport {g : Port → Dev → Dev} (hg : ∀ p x, tack x = tack e → tack (g p x) = tack e) (u : Nat) (x : Dev) (hx : tack x = tack e) :
      tack (onPort g u x) = tack e := by
    unfold onPort
    split
    · exact hg _ _ hx
    · exact hx
  exact unitsRun_keeps (tack_steady e) (fun _ hx => (skip_of_tack hx).trans hskip) (hport fun p _ hx => portTrained_tack hx p) (hport fun _ _ hx => hx) hos h

theorem stake9_passes (hskip : e.start.skip = []) (hos : ∀ i : Nat, i < 8 → nthD o.fabPorts i .failed ≠ .hung) :
    (stake9 c o d).1 = true ∧ tack (stake9 c o d).2 = tack e := by
  refine unitsRun_keeps (tack_steady e) (fun _ hx => (skip_of_tack hx).trans hskip) (fun q x hx => ?_) (fun _ _ hx => hx) hos h
  split
  · exact hx
  · exact hx

theorem stake10_passes (hjournal : o.journalOk = true) : (stake10 c o d).1 = true ∧ tack (stake10 c o d).2 = tack e := by
  unfold stake10
  split
  · exact ⟨rfl, h⟩
  simp only [hjournal, Bool.not_true, Bool.false_eq_true, if_false]
  have hend (x : Dev) (k : Clock) (r : Ref) : tack (x.endCmd k r stOk 0 0 []) = tack x := tack_of_keel (endCmd_keel _ _ _ _ _ _ _) (endCmd_pwr _ _ _ _ _ _ _)
  exact ⟨trivial, (rewriteDirty_apart tack_apart _).trans ((replayJournal_apart tack_apart hend _ _ _).trans h)⟩

end Stakes

/-! ### The late stakes -/

/-- Stakes 6 to 10, as far as they come. -/
def lateRun (o : StartOutcome) (c : Clock) (x : Going) : Going :=
  stakeRun c o 10 (stake10 c o) (stakeRun c o 9 (stake9 c o) (stakeRun c o 8 (stake8 c o) (stakeRun c o 7 (stake7 c o) (stakeRun c o 6 (stake6 c o) x))))

theorem lateRun_passes {c : Clock} {o : StartOutcome} {v e : Dev} {x : Going} (hclean : CleanStart o v) (hskip : e.start.skip = []) (hgoes : x.1 = true)
    (h : tack x.2 = tack e) (hret : x.2.mem.retired = []) :
    (lateRun o c x).1 = true ∧ tack (lateRun o c x).2 = tack e ∧ (lateRun o c x).2.start.stake = 10 := by
  obtain ⟨hfree, -, hjournal, -, -, -, hstacks, hchans, hhosts, hfabs⟩ := hclean
  have hP := tack_steady e
  have hwhole : Steady fun d => tack d = tack e ∧ d.mem.retired = [] := ⟨fun _ _ _ _ _ h => h, fun _ _ h => h, fun _ h => h⟩
  obtain ⟨h6, t6, -⟩ := stakeRun_passes (c := c) (n := 6) hfree hgoes hwhole hP (fun _ h => stake6_passes (c := c) h.1 hskip h.2 hstacks) ⟨h, hret⟩
  obtain ⟨h7, t7, -⟩ := stakeRun_passes (c := c) (n := 7) hfree h6 hP hP (fun _ h => stake7_passes (c := c) h hskip hchans) t6
  obtain ⟨h8, t8, -⟩ := stakeRun_passes (c := c) (n := 8) hfree h7 hP hP (fun _ h => stake8_passes (c := c) h hskip hhosts) t7
  obtain ⟨h9, t9, -⟩ := stakeRun_passes (c := c) (n := 9) hfree h8 hP hP (fun _ h => stake9_passes (c := c) h hskip hfabs) t8
  exact stakeRun_passes (c := c) (n := 10) hfree h9 hP hP (fun _ h => stake10_passes (c := c) h hjournal) t9

theorem lateStakes_eq {o : StartOutcome} {c : Clock} {f : Fuses} {x : Going} (h : (lateRun o c x).1 = true) : lateStakes o c f x =
    (if (lateRun o c x).2.start.trialRun then f.commit ((lateRun o c x).2.start.set (lateRun o c x).2.start.setB) else f,
     stake11 c o ((lateRun o c x).2.complete c)) := by
  unfold lateRun at h ⊢
  simp only [lateStakes, h, Bool.not_true, Bool.false_eq_true, if_false]

/-- A node that no member answers serves without a domain. -/
theorem stake11_alone {o : StartOutcome} (c : Clock) (d : Dev) (h : o.joinAnswer = none) :
    stake11 c o d = (d.startLog c 11 evBegun wholeStake).startLog c 11 evFailed wholeStake := by
  simp only [stake11, h]
  split
  next hnone => cases hnone
  · rfl

/-- A node that serves after a start: what is left of the start, and the power states it came with. -/
structure Serves (e d : Dev) : Prop where
  phase : d.start.phase = .service
  stake : d.start.stake = 10
  fails : d.start.dir.fails = 0
  skip : d.start.skip = []
  active : d.start.dir.active = e.start.dir.active
  pwr : d.pwr = e.pwr

theorem startLog_serves {d e : Dev} (c : Clock) (n ev u : Nat) (h : Serves e d) : Serves e (d.startLog c n ev u) :=
  ⟨h.phase, h.stake, h.fails, h.skip, h.active, h.pwr⟩

/-- The start as its completion leaves it, before the last record (R485, R487, R491). -/
def completedStart (s : Start) : Start :=
  { s with phase := .service, dir := if s.trialRun then { s.dir with good := some s.setB, trial := false, fails := 0 } else { s.dir with fails := 0 }, failedAt := 0, skip := [],
           trialRun := false }

theorem complete_course (c : Clock) (d : Dev) : Start.course (d.complete c).start = Start.course (completedStart d.start) := rfl

theorem completed_fails (s : Start) : (completedStart s).dir.fails = 0 := by
  unfold completedStart
  simp only
  split <;> rfl

theorem completed_active (s : Start) : (completedStart s).dir.active = s.dir.active := by
  unfold completedStart
  simp only
  split <;> rfl

theorem complete_serves {d e : Dev} (c : Clock) (h : tack d = tack e) (hstake : d.start.stake = 10) : Serves e (d.complete c) := by
  have hcourse := complete_course c d
  have hdir : (d.complete c).start.dir = (completedStart d.start).dir := (congrArg Start.dir hcourse :)
  refine ⟨(congrArg Start.phase hcourse :), hstake, ?_, (congrArg Start.skip hcourse :), ?_, (pwr_of_tack h :)⟩
  · rw [hdir, completed_fails]
  · rw [hdir, completed_active, dir_of_tack h]

/-- Stakes 6 to 11 of a clean start: the node serves, and only a trial set's SVNs are committed. -/
theorem lateStakes_serve {c : Clock} {f : Fuses} {o : StartOutcome} {v e : Dev} {x : Going} (hclean : CleanStart o v) (hskip : e.start.skip = []) (hgoes : x.1 = true)
    (h : tack x.2 = tack e) (hret : x.2.mem.retired = []) :
    Serves e (lateStakes o c f x).2 ∧ (e.start.trialRun = false → (lateStakes o c f x).1 = f) := by
  obtain ⟨hlate, htack, hstake⟩ := lateRun_passes (c := c) hclean hskip hgoes h hret
  obtain ⟨-, -, -, hjoin, -⟩ := hclean
  rw [lateStakes_eq hlate, stake11_alone _ _ hjoin]
  refine ⟨startLog_serves _ _ _ _ (startLog_serves _ _ _ _ (complete_serves c htack hstake)), fun htrial => ?_⟩
  rw [trialRun_of_tack htack, htrial]
  rfl

end Sys2Proof.Proofs


/-! SUPPORT. Warm resets that begin, starts that fail and starts that succeed: the statement about starts. -/

namespace Sys2Proof.Proofs

open Sys2Proof Sys2Proof.Machine Sys2Proof.Laws

/-! ### A warm reset that begins (R403, R457, R460, R474) -/

/-- The device of a warm reset, before the DRAM of the copies that are left follows their content. -/
def warmDefaults (d : Dev) (c : Clock) : Dev :=
  let d2 := ((((List.finRange 4).foldl (fun (x : Dev) p => x.portReset c p) d).warmLeaves c).dropModels fun _ => true).defaults
  { d2 with chain := { Chain.reset with monuments := d2.chain.monuments.map Monument.stopMove } }

/-- The rest of what a warm reset clears. -/
def warmRest (d : Dev) : Dev :=
  { d with ports := d.ports.map fun h => { h.afterReset with off := false, ide := ⟨false, false, false⟩, echo := none, echoRead := 0 },
           regs := { Regs.reset with errLog := d.regs.errLog, errRecords := d.regs.errRecords, lastSev := d.regs.lastSev, errLost := d.regs.errLost,
                                     warmValid := d.regs.warmValid, warmCause := d.regs.warmCause },
           cnt := [], sent := [],
           mdl := { d.mdl with gens := [] },
           mem := { d.mem with pool := (d.mem.pool.filter fun f => f.dirty && !f.spill).map (fun f => { f with busy := false, writing := false }),
                               fills := [], waiting := [], freeing := [] },
           com := { d.com with held := [], waits := [], queue := [] },
           flash := d.flash.restart,
           start := { d.start with phase := .warmPending, cls := .warm, stake := 0 } }

/-- A warm reset with its cause and its record, the rest cleared. -/
def warmLogged (c : Clock) (cause : Nat) (d : Dev) : Dev :=
  ({ d with regs := { d.regs with warmValid := true, warmCause := BitVec.ofNat 3 cause } } : Dev).logErr c 3 0 0 7 0 Config.noParcel 1 0

theorem beginWarm_eq (d : Dev) (c : Clock) (cause : Nat) : d.beginWarm c cause = warmLogged c cause (warmRest ((warmDefaults d c).syncLeaves c)) := by
  simp only [Dev.beginWarm, Dev.warmClear, warmLogged, warmRest, warmDefaults]

theorem dropModels_start (d : Dev) (keep : Model → Bool) : (d.dropModels keep).start = d.start := start_of_keel (dropModels_keel d keep)

theorem warmDefaults_start (d : Dev) (c : Clock) : (warmDefaults d c).start = d.start := by
  have hports : keel ((List.finRange 4).foldl (fun (x : Dev) p => x.portReset c p) d) = keel d := foldl_keeps keel (fun x p => portReset_keel x c p) _ d
  simp only [warmDefaults, Dev.defaults, dropModels_start]
  exact start_of_keel ((warmLeaves_keel _ _).trans hports)

theorem warmDefaults_running (d : Dev) (c : Clock) : (warmDefaults d c).cmds.running = [] := by simp only [warmDefaults, Dev.defaults]
theorem warmDefaults_fab (d : Dev) (c : Clock) : (warmDefaults d c).fab = Fabric.reset := by simp only [warmDefaults, Dev.defaults]

theorem start_adrift : Adrift Dev.start := ⟨⟨fun _ _ => rfl, fun _ _ => rfl, fun _ _ => rfl⟩, fun _ _ => rfl, fun _ _ => rfl, fun _ _ => rfl, fun _ _ => rfl⟩
theorem cmds_adrift : Adrift Dev.cmds := ⟨⟨fun _ _ => rfl, fun _ _ => rfl, fun _ _ => rfl⟩, fun _ _ => rfl, fun _ _ => rfl, fun _ _ => rfl, fun _ _ => rfl⟩
theorem fab_adrift : Adrift Dev.fab := ⟨⟨fun _ _ => rfl, fun _ _ => rfl, fun _ _ => rfl⟩, fun _ _ => rfl, fun _ _ => rfl, fun _ _ => rfl, fun _ _ => rfl⟩

/-- Of a start a warm reset keeps all but its phase, its class and how far it had come. -/
theorem beginWarm_start (d : Dev) (c : Clock) (cause : Nat) :
    (d.beginWarm c cause).start = { d.start with phase := .warmPending, cls := .warm, stake := 0 } := by
  rw [beginWarm_eq, ← warmDefaults_start d c, ← syncLeaves_adrift start_adrift (warmDefaults d c) c]
  rfl

/-- Over a device from which nothing runs and whose fabric is reset, the rest of a warm reset brings the state that R474 asks. -/
theorem warmBegun_rest (v : State) (d : Dev) (cause : Nat) (hrunning : d.cmds.running = []) (hfab : d.fab = Fabric.reset) :
    WarmBegun v { v with clk := v.clk.noPort, dev := warmLogged v.clk cause (warmRest d) } cause := by
  refine ⟨rfl, rfl, rfl, rfl, rfl, rfl, rfl, hrunning, rfl, fun p => ?_, fun q => ?_, rfl, rfl⟩
  · have hport : (warmLogged v.clk cause (warmRest d)).port p =
        { (d.port p).afterReset with off := false, ide := ⟨false, false, false⟩, echo := none, echoRead := 0 } := by
      simp [Dev.port, warmLogged, warmRest, Dev.logErr]
    exact ⟨congrArg HostPort.linkUp hport, congrArg HostPort.slots hport⟩
  · have hsame : (warmLogged v.clk cause (warmRest d)).fab = Fabric.reset := hfab
    simp only [hsame, Fabric.reset, Fin.getElem_fin, Vector.getElem_replicate]
    rfl

/-- Every warm reset begins alike, whatever asks for it. -/
theorem warmBegun_beginWarm (v : State) (d : Dev) (cause : Nat) : WarmBegun v { v with clk := v.clk.noPort, dev := d.beginWarm v.clk cause } cause := by
  rw [beginWarm_eq]
  refine warmBegun_rest v _ cause ?_ ?_
  · rw [syncLeaves_adrift cmds_adrift, warmDefaults_running]
  · rw [syncLeaves_adrift fab_adrift, warmDefaults_fab]

end Sys2Proof.Proofs


/-! SUPPORT. Starts that fail, and starts that meet no failure: what the stakes make of them, and the statement. -/

namespace Sys2Proof.Proofs

open Sys2Proof Sys2Proof.Machine Sys2Proof.Laws

/-! ### A start that fails (R485, R491) -/

/-- A failure is counted, and a warm reset with WARM_CAUSE 2 follows. -/
theorem failStart_begins (d : Dev) (c : Clock) (n : Nat) (recorded : Bool) :
    (d.failStart c n recorded).start.phase = .warmPending ∧ (d.failStart c n recorded).start.dir.fails = d.start.dir.fails + 1 ∧
      (d.failStart c n recorded).start.failedAt = n ∧ (d.failStart c n recorded).regs.warmValid = true ∧ (d.failStart c n recorded).regs.warmCause = 2 := by
  have hfails : (if recorded then d.startLog c n evFailed wholeStake else d).start.dir.fails = d.start.dir.fails := by cases recorded <;> rfl
  unfold Dev.failStart
  simp only [beginWarm_start, hfails]
  refine ⟨trivial, trivial, trivial, ?_, ?_⟩ <;> rw [beginWarm_eq] <;> rfl

section Run
variable {c : Clock} {f : Fuses} {o : StartOutcome} {cls : ResetCls} {w : Dev}

theorem runStart_rom (h : o.romOk = false) : runStart cls o c f w = (f, { w with start := { w.start with phase := .dead } }) := by
  simp only [runStart, h, Bool.not_false, if_true]

/-- Stakes 1 to 4, as far as they come. -/
def earlyRun (o : StartOutcome) (c : Clock) (d : Dev) : Going :=
  stakeRun c o 4 (fun x => (o.sramOk, x)) (stakeRun c o 3 (fun x => (o.clocksOk, x)) (stakeRun c o 2 (stake2 o) (stakeRun c o 1 (fun x => (true, x)) (true, d))))

theorem runStart_eq (h : o.romOk = true) : runStart cls o c f w =
    if !(earlyRun o c (w.openStart cls)).1 then (f, (earlyRun o c (w.openStart cls)).2)
    else if (earlyRun o c (w.openStart cls)).2.start.lost ||
        ((earlyRun o c (w.openStart cls)).2.start.bootSrc = 2 && !(earlyRun o c (w.openStart cls)).2.start.downloaded) then
      (f, (earlyRun o c (w.openStart cls)).2.enterBacksight c o)
    else lateStakes o c f (stakeRun c o 5 (stake5 c f o) (earlyRun o c (w.openStart cls))) := by
  unfold runStart earlyRun
  simp only [h, Bool.not_true, Bool.false_eq_true, if_false]

variable {d : Dev} (hfree : o.interrupted = none)
include hfree

/-- Fuses with a bad word end the start at stake 2. -/
theorem earlyRun_fuses (hfuses : o.fusesOk = false) : (earlyRun o c d).1 = false ∧ (earlyRun o c d).2.start.phase = .warmPending ∧
    (earlyRun o c d).2.start.dir.fails = d.start.dir.fails + 1 ∧ (earlyRun o c d).2.start.failedAt = 2 ∧
    (earlyRun o c d).2.regs.warmValid = true ∧ (earlyRun o c d).2.regs.warmCause = 2 := by
  obtain ⟨h1, t1, -⟩ := stakeRun_passes (c := c) (n := 1) (x := (true, d)) (work := fun x => (true, x)) hfree rfl (tack_steady d) (tack_steady d) (fun _ h => ⟨rfl, h⟩) rfl
  have hbad (x : Dev) : (stake2 o x).1 = false := by simp only [stake2, hfuses, Bool.false_and]
  obtain ⟨recorded, h2⟩ := stakeRun_fails (c := c) (o := o) (n := 2) (work := stake2 o) h1 (hbad _)
  have hdir := dir_of_tack (stakeBegun_keeps (c := c) (tack_steady d) 2 t1)
  obtain ⟨hphase, hfails, hat, hvalid, hcause⟩ := failStart_begins (stake2 o (stakeBegun c 2 (stakeRun c o 1 (fun x => (true, x)) (true, d)).2)).2 c 2 recorded
  have hrun : earlyRun o c d = (false, (stake2 o (stakeBegun c 2 (stakeRun c o 1 (fun x => (true, x)) (true, d)).2)).2.failStart c 2 recorded) := by
    rw [earlyRun, h2, stakeRun_stopped rfl, stakeRun_stopped rfl]
  rw [hrun]
  refine ⟨rfl, hphase, hfails.trans ?_, hat, hvalid, hcause⟩
  rw [← hdir]
  rfl

/-- The first four stakes of a start whose fuses, clocks and SRAM are good. -/
theorem earlyRun_passes {P : Dev → Prop} (hP : Steady P) (hclocks : o.clocksOk = true) (hsram : o.sramOk = true)
    (hstake2 : ∀ x, P x → (stake2 o x).1 = true ∧ P (stake2 o x).2) (h : P d) :
    (earlyRun o c d).1 = true ∧ P (earlyRun o c d).2 ∧ (earlyRun o c d).2.start.stake = 4 := by
  obtain ⟨h1, t1, -⟩ := stakeRun_passes (c := c) (n := 1) (x := (true, d)) (work := fun x => (true, x)) hfree rfl hP hP (fun _ h => ⟨rfl, h⟩) h
  obtain ⟨h2, t2, -⟩ := stakeRun_passes (c := c) (n := 2) hfree h1 hP hP hstake2 t1
  obtain ⟨h3, t3, -⟩ := stakeRun_passes (c := c) (n := 3) (work := fun x => (o.clocksOk, x)) hfree h2 hP hP (fun _ h => ⟨hclocks, h⟩) t2
  exact stakeRun_passes (c := c) (n := 4) (work := fun x => (o.sramOk, x)) hfree h3 hP hP (fun _ h => ⟨hsram, h⟩) t3

end Run

/-! ### Backsight mode (R491) -/

/-- Only host port 0 is trained. -/
theorem portTrained_others (d : Dev) {p : Port} (h : p ≠ 0) : (d.portTrained 0).port p = d.port p := by
  unfold Dev.portTrained
  split
  · rw [Dev.linkUp, port_updPort_other _ h, port_applyPending_other h, port_updPort_other _ h]
  · rfl

theorem portTrained_start (d : Dev) (p : Port) : (d.portTrained p).start = d.start := by
  unfold Dev.portTrained
  split
  · rw [linkUp_adrift start_adrift, updPort_start]
  · rfl

/-- With its failures recorded the node stops in backsight mode, its start as far as it came and its ports but port 0 as they were. -/
theorem enterBacksight_stops {d : Dev} (c : Clock) (o : StartOutcome) (hlost : d.start.lost = true) :
    (d.enterBacksight c o).start.phase = .backsight ∧ (d.enterBacksight c o).start.stake = d.start.stake ∧ (d.enterBacksight c o).start.dir = d.start.dir ∧
      ∀ p : Port, p ≠ 0 → ((d.enterBacksight c o).port p).linkUp = (d.port p).linkUp := by
  have hallOn (x : Dev) (p : Port) : (x.allOn.port p).linkUp = (x.port p).linkUp := by simp [Dev.allOn, Dev.port]
  unfold Dev.enterBacksight
  simp only [hlost, if_true]
  split
  · rw [portTrained_start]
    exact ⟨rfl, rfl, rfl, fun p hp => (congrArg HostPort.linkUp (portTrained_others _ hp)).trans (hallOn _ p)⟩
  · exact ⟨rfl, rfl, rfl, fun p _ => hallOn _ p⟩

section Backsight
variable {c : Clock} {f : Fuses} {o : StartOutcome} {cls : ResetCls} {w : Dev}

theorem runStart_backsight (hfree : o.interrupted = none) (hrom : o.romOk = true) (hfuses : o.fusesOk = true) (hclocks : o.clocksOk = true) (hsram : o.sramOk = true)
    (hlost : 3 ≤ (w.openStart cls).start.dir.fails) (hdown : ∀ p : Port, (w.port p).linkUp = false) :
    (runStart cls o c f w).1 = f ∧ (runStart cls o c f w).2.start.phase = .backsight ∧ (runStart cls o c f w).2.start.stake = 4 ∧
      (runStart cls o c f w).2.start.dir = (w.openStart cls).start.dir ∧ ∀ p : Port, p ≠ 0 → ((runStart cls o c f w).2.port p).linkUp = false := by
  have hthree : (w.openStart cls).start.lost = true := by simpa [Start.lost] using hlost
  have hP : Steady fun x => tack x = tack (w.openStart cls) ∧ x.ports = w.ports := ⟨fun _ _ _ _ _ h => h, fun _ _ h => h, fun _ h => h⟩
  obtain ⟨hgoes, ⟨htack, hports⟩, hfour⟩ := earlyRun_passes (c := c) hfree hP hclocks hsram
    (fun x hx => ⟨(stake2_passes hx.1 hfuses (.inl hthree)).1, hx⟩) ⟨rfl, rfl⟩
  have hstill : (earlyRun o c (w.openStart cls)).2.start.lost = true := (lost_of_tack htack).trans hthree
  have hrun : runStart cls o c f w = (f, (earlyRun o c (w.openStart cls)).2.enterBacksight c o) := by
    rw [runStart_eq hrom, if_neg (by rw [hgoes]; decide), if_pos (by rw [hstill]; rfl)]
  obtain ⟨hphase, hstake, hdir, hlinks⟩ := enterBacksight_stops c o hstill
  rw [hrun]
  refine ⟨rfl, hphase, hstake.trans hfour, hdir.trans (dir_of_tack htack), fun p hp => (hlinks p hp).trans ?_⟩
  rw [Dev.port, hports]
  exact hdown p

/-! ### A start that meets no failure (R459, R484 to R488) -/

theorem openStart_keeps (cls : ResetCls) (w : Dev) : (w.openStart cls).start.skip = w.start.skip ∧ (w.openStart cls).start.bootSrc = w.start.bootSrc ∧
    (w.openStart cls).start.clkMode = w.start.clkMode := by
  cases cls with
  | cold =>
    simp only [Dev.openStart, Start.source, if_true]
    split
    · exact ⟨rfl, rfl, rfl⟩
    · exact ⟨rfl, rfl, rfl⟩
  | warm | low => exact ⟨rfl, rfl, rfl⟩

theorem stake5_retired (c : Clock) (f : Fuses) (o : StartOutcome) (d : Dev) : (stake5 c f o d).2.mem.retired = d.mem.retired := by
  unfold stake5
  simp only
  split
  · rfl
  split
  · rfl
  · split <;> rfl

theorem runStart_serves {v : Dev} (hclean : CleanStart o v) (hrom : o.romOk = true) (hfuses : o.fusesOk = true) (hsram : o.sramOk = true)
    (hskip : w.start.skip = []) (hret : w.mem.retired = []) (hboot : w.start.bootSrc.toNat < 2) (hclk : w.start.clkMode.toNat < 3)
    (hset : f.checkSet ((w.openStart cls).start.set (w.openStart cls).start.dir.active) o.sigActive = .accepted) (hback : (w.openStart cls).fallBack = false)
    (hfails : (w.openStart cls).start.dir.fails < 3) :
    Serves (w.openStart cls) (runStart cls o c f w).2 ∧ ((w.openStart cls).start.dir.trial = false → (runStart cls o c f w).1 = f) := by
  obtain ⟨hskips, hsrc, hmode⟩ := openStart_keeps cls w
  obtain ⟨hfree, hclocks, -⟩ := id hclean
  have hfew : (w.openStart cls).start.lost = false := by simpa [Start.lost] using hfails
  have hstraps : (w.openStart cls).start.bootSrc ≠ 3 ∧ (w.openStart cls).start.clkMode ≠ 3 := by
    rw [hsrc, hmode]
    exact ⟨fun h => by simp [h] at hboot, fun h => by simp [h] at hclk⟩
  have hP : Steady fun x => tack x = tack (w.openStart cls) ∧ x.mem.retired = [] := ⟨fun _ _ _ _ _ h => h, fun _ _ h => h, fun _ h => h⟩
  obtain ⟨h4, ⟨t4, hret4⟩, -⟩ := earlyRun_passes (c := c) hfree hP hclocks hsram
    (fun x hx => ⟨(stake2_passes hx.1 hfuses (.inr hstraps)).1, hx⟩) ⟨rfl, hret⟩
  have hgoOn : ((earlyRun o c (w.openStart cls)).2.start.lost ||
      ((earlyRun o c (w.openStart cls)).2.start.bootSrc = 2 && !(earlyRun o c (w.openStart cls)).2.start.downloaded)) = false := by
    have hne : w.start.bootSrc ≠ 2 := fun h => by simp [h] at hboot
    rw [lost_of_tack t4, bootSrc_of_tack t4, hfew, hsrc, decide_eq_false hne]
    rfl
  have hmem5 (x : Dev) (hx : tack x = tack (w.openStart cls) ∧ x.mem.retired = []) :
      (stake5 c f o x).1 = true ∧ tack (stake5 c f o x).2 = tack (w.openStart cls) ∧ (stake5 c f o x).2.mem.retired = [] :=
    ⟨(stake5_passes hx.1 hset hback rfl rfl).1, (stake5_passes hx.1 hset hback rfl rfl).2, (stake5_retired c f o x).trans hx.2⟩
  obtain ⟨h5, ⟨t5, hret5⟩, -⟩ := stakeRun_passes (c := c) (n := 5) hfree h4 hP hP hmem5 ⟨t4, hret4⟩
  rw [runStart_eq hrom, if_neg (by rw [h4]; decide), if_neg (by rw [hgoOn]; decide)]
  exact lateStakes_serve hclean (hskips.trans hskip) h5 t5 hret5

end Backsight

/-! ### The statement -/

/-- A command that touches clock, fuses and device. -/
theorem exec_onFuse {i : Instr} {t : Nat} {g : Clock → Fuses → Dev → Clock × Fuses × Dev} {s v : State} {c : Clock} {f : Fuses} {d : Dev}
    (hi : exec i s = happens i t (·.onFuse g) s) (hwf : i.wf = true) (hv : v = s.tick t) (hg : g v.clk v.fuse v.dev = (c, f, d)) :
    exec i s = .next { v with clk := c, fuse := f, dev := d } := by
  rw [hi, happens_wf _ _ _ _ hwf, ← hv, State.onFuse, hg]

/-- A cold start runs from the straps sampled, a warm one from the device as it is. -/
theorem exec_coldReset {s v : State} {t : Nat} {o : StartOutcome} (hv : v = s.tick t) (hwf : o.wf = true) (hphase : v.dev.start.phase = .inReset)
    (hgood : v.dev.brd.pwrGood = true) (hclk : RefClk.clk25 ∉ v.dev.brd.lost) : exec (.coldReset t o) s =
      .next { v with fuse := (runStart .cold o v.clk v.fuse (v.dev.sampleStraps o)).1, dev := (runStart .cold o v.clk v.fuse (v.dev.sampleStraps o)).2 } := by
  refine exec_onFuse (g := coldReset o) rfl hwf hv ?_
  have hready : (decide (v.dev.start.phase = .inReset) && v.dev.brd.pwrGood && !(v.dev.brd.lost.contains .clk25)) = true := by simp [hphase, hgood, hclk]
  simp only [coldReset, hready, if_true]

theorem exec_warmReset {s v : State} {t : Nat} {o : StartOutcome} (hv : v = s.tick t) (hwf : o.wf = true) (hphase : v.dev.start.phase = .warmPending) :
    exec (.warmReset t o) s = .next { v with fuse := (runStart .warm o v.clk v.fuse v.dev).1, dev := (runStart .warm o v.clk v.fuse v.dev).2 } := by
  refine exec_onFuse (g := warmReset o) rfl hwf hv ?_
  simp only [warmReset, hphase, if_true]

/-- The low-power exit is a start at stake 3 from PS0 (R472). -/
theorem leavePs3_serves {c : Clock} {f : Fuses} {o : StartOutcome} {d : Dev} (hclean : CleanStart o d) :
    (leavePs3 o c f d).2.start.phase = .service ∧ (leavePs3 o c f d).2.pwr.ps = 0 ∧ (leavePs3 o c f d).2.start.stake = 10 := by
  obtain ⟨hfree, hclocks, -, -, hskip, hret, -⟩ := id hclean
  unfold leavePs3
  simp only
  generalize hw : Dev.openStart _ .low = w
  have hpwr : w.pwr.ps = 0 := by rw [← hw]; rfl
  have hnone : w.start.skip = [] := by rw [← hw]; exact hskip
  have hwret : w.mem.retired = [] := by rw [← hw]; exact hret
  have hP : Steady fun x => tack x = tack w ∧ x.mem.retired = [] := ⟨fun _ _ _ _ _ h => h, fun _ _ h => h, fun _ h => h⟩
  obtain ⟨h3, ⟨t3, hret3⟩, -⟩ := stakeRun_passes (c := c) (n := 3) (x := (true, w)) (work := fun x => (o.clocksOk, x)) hfree rfl hP hP (fun _ h => ⟨hclocks, h⟩)
    ⟨rfl, hwret⟩
  obtain ⟨hserves, -⟩ := lateStakes_serve (c := c) (f := f) hclean hnone h3 t3 hret3
  exact ⟨hserves.phase, by rw [hserves.pwr]; exact hpwr, hserves.stake⟩

/-- The three ways in which a start from w can fail, told of the state v before it. -/
theorem failingStart {v : State} {cls : ResetCls} {o : StartOutcome} {w : Dev} {out : Host.Outcome State Fault Refusal} (hfree : o.interrupted = none)
    (hlog : w.start.log = v.dev.start.log) (hports : w.ports = v.dev.ports)
    (hout : out = .next { v with fuse := (runStart cls o v.clk v.fuse w).1, dev := (runStart cls o v.clk v.fuse w).2 }) :
    (o.romOk = false → ∃ v', out = .next v' ∧ v'.clk = v.clk ∧ v'.fuse = v.fuse ∧ v'.dev.start.phase = .dead ∧ v'.dev.start.log = v.dev.start.log) ∧
    (o.romOk = true → o.fusesOk = false → ∃ v', out = .next v' ∧ v'.fuse = v.fuse ∧ v'.dev.start.phase = .warmPending ∧
      v'.dev.start.dir.fails = (w.openStart cls).start.dir.fails + 1 ∧ v'.dev.start.failedAt = 2 ∧ v'.dev.regs.warmValid = true ∧ v'.dev.regs.warmCause = 2) ∧
    (o.romOk = true → o.fusesOk = true → o.clocksOk = true → o.sramOk = true → 3 ≤ (w.openStart cls).start.dir.fails → (∀ p : Port, (v.dev.port p).linkUp = false) →
      ∃ v', out = .next v' ∧ v'.fuse = v.fuse ∧ v'.dev.start.phase = .backsight ∧ v'.dev.start.stake = 4 ∧ v'.dev.start.dir = (w.openStart cls).start.dir ∧
        ∀ p : Port, p ≠ 0 → (v'.dev.port p).linkUp = false) := by
  refine ⟨fun hrom => ⟨_, hout, rfl, ?_⟩, fun hrom hfuses => ⟨_, hout, ?_⟩, fun hrom hfuses hclocks hsram hlost hdown => ⟨_, hout, ?_⟩⟩
  · rw [runStart_rom hrom]
    exact ⟨rfl, rfl, hlog⟩
  · obtain ⟨hstops, hfails⟩ := earlyRun_fuses (c := v.clk) (d := w.openStart cls) hfree hfuses
    rw [runStart_eq hrom, if_pos (by rw [hstops]; rfl)]
    exact ⟨rfl, hfails⟩
  · refine runStart_backsight hfree hrom hfuses hclocks hsram hlost fun p => ?_
    rw [Dev.port, hports]
    exact hdown p

/-- Settles O54. It holds: the stakes of a start keep its course, so that a start without a failure reaches service and a failure counts once. -/
theorem starts : Obligations.Starts := by
  refine ⟨fun s v t o c d hv hwf hfree hstart => ?_, fun s v t o c d hv hwf hclean hrom hfuses hsram hstart hset hback hfails => ?_,
    fun s v t o hv hwf hclean hphase hps => ?_⟩
  · obtain ⟨rfl, rfl, hphase, hgood, hclk⟩ | ⟨rfl, rfl, hphase⟩ := hstart
    · exact failingStart hfree rfl rfl (exec_coldReset hv hwf hphase hgood hclk)
    · exact failingStart hfree rfl rfl (exec_warmReset hv hwf hphase)
  · obtain ⟨-, -, -, -, hskip, hret, -⟩ := id hclean
    obtain ⟨rfl, rfl, hboot, hmode, hphase, hgood, hclk⟩ | ⟨rfl, rfl, hboot, hmode, hphase⟩ := hstart
    · obtain ⟨hserves, hfuse⟩ := runStart_serves (c := v.clk) (f := v.fuse) (cls := .cold) (w := v.dev.sampleStraps o) hclean hrom hfuses hsram hskip hret
        (by simp [Dev.sampleStraps]; omega) (by simp [Dev.sampleStraps]; omega) hset hback hfails
      exact ⟨_, exec_coldReset hv hwf hphase hgood hclk, rfl, hserves.phase, hserves.stake, hserves.fails, hserves.skip, hserves.active, hfuse⟩
    · obtain ⟨hserves, hfuse⟩ := runStart_serves (c := v.clk) (f := v.fuse) (cls := .warm) (w := v.dev) hclean hrom hfuses hsram hskip hret hboot hmode hset hback hfails
      exact ⟨_, exec_warmReset hv hwf hphase, rfl, hserves.phase, hserves.stake, hserves.fails, hserves.skip, hserves.active, hfuse⟩
  · obtain ⟨hserves, hzero, hten⟩ := leavePs3_serves (c := v.clk) (f := v.fuse) hclean
    refine ⟨fun hseen => ?_, fun hvalid hset hdue => ?_⟩
    · have hrun : wake o v.clk v.fuse v.dev = (v.clk, leavePs3 o v.clk v.fuse v.dev) := by simp [wake, hphase, hps, hseen]
      exact ⟨_, exec_onFuse (g := wake o) rfl hwf hv hrun, hserves, hzero, hten⟩
    · have hrun : wakeAt o v.clk v.fuse v.dev = (v.clk, leavePs3 o v.clk v.fuse v.dev) := by
        simp only [wakeAt, hphase, hps, hvalid, bne_iff_ne.mpr hset, hdue, decide_true, Bool.and_self, if_true]
      exact ⟨_, exec_onFuse (g := wakeAt o) rfl hwf hv hrun, hserves, hzero, hten⟩

end Sys2Proof.Proofs


/-! SUPPORT. Block resets, firmware images and reset packages: one fact for each branch of their rows, and the statement about them. -/

namespace Sys2Proof.Proofs

open Sys2Proof Sys2Proof.Machine Sys2Proof.Laws

/-! ### Block resets (R465, R467) -/

section Block
variable {k : Clock} {d : Dev} {cmd : Cmd}

theorem blockResetRun_busy (h : 2 ≤ d.pwr.ps.toNat ∨ d.idle k (cmd.f 0x40 1) (cmd.f 0x41 1) = false ∨ d.pwr.blkReset.isSome = true) :
    blockResetRun k d cmd = d.refuse cmd.ref stBusy := by
  have hbusy : (decide (d.pwr.ps.toNat ≥ 2) || !(d.idle k (cmd.f 0x40 1) (cmd.f 0x41 1)) || d.pwr.blkReset.isSome) = true := by
    obtain h | h | h := h <;> simp [h]
  exact if_pos hbusy

theorem blockResetRun_starts (hps : d.pwr.ps.toNat < 2) (hnone : d.pwr.blkReset = none) (hidle : d.idle k (cmd.f 0x40 1) (cmd.f 0x41 1) = true) :
    blockResetRun k d cmd = ({ d with pwr := { d.pwr with blkReset := some ⟨cmd.ref, cmd.f 0x40 1, cmd.f 0x41 1⟩ } } : Dev).startBlock (cmd.f 0x40 1) (cmd.f 0x41 1) := by
  have hnot : (decide (d.pwr.ps.toNat ≥ 2) || !(d.idle k (cmd.f 0x40 1) (cmd.f 0x41 1)) || d.pwr.blkReset.isSome) = false := by
    simp only [hidle, hnone, Bool.not_true, Bool.or_false, Option.isSome_none, decide_eq_false_iff_not]
    omega
  exact if_neg (by rw [hnot]; decide)

@[simp] theorem startBlock_pwr (d : Dev) (b u : Nat) : (d.startBlock b u).pwr = d.pwr := by
  unfold Dev.startBlock
  split
  · rfl
  · split <;> rfl

/-- Only the reset of a fabric port's link can take its time away (R362). -/
theorem resetPort_other {b : BlockReset} (h : d.pwr.blkReset = some b) (hb : b.block ≠ 3) : d.resetPort k = k := by
  simp [Dev.resetPort, h, hb]

theorem resetPort_port {r : Ref} {q : FabPort} (h : d.pwr.blkReset = some ⟨r, 3, q.val⟩) : (d.resetPort k).ptpPort ≠ some q := by
  simp only [Dev.resetPort, h]
  split
  · simp [Clock.noPort]
  next hne =>
    intro hq
    simp [hq] at hne

theorem startBlock_trains {q : FabPort} (h : d.fab.ports[q].enable = true) : (d.startBlock 3 q.val).fab.ports[q].link = .training := by
  have h' : d.fab.ports[q.val].enable = true := h
  simp [Dev.startBlock, vupdN_fin, h']

/-! ### The block is back in service (R319, R466, R467) -/

section Complete
variable {b : BlockReset} (h : d.pwr.blkReset = some b)
include h

theorem blockResetComplete_memory (failed : Nat) (hb : b.block = 1) : blockResetComplete failed k d =
    (((({ d with pwr := { d.pwr with blkReset := none } } : Dev).count 121 1 1).endCmd k b.ref stOk 0 0 []).chansGoOn k) := by
  simp [blockResetComplete, h, hb]

theorem blockResetComplete_die (failed : Nat) (hb : b.block = 0) : blockResetComplete failed k d =
    ((((({ d with pwr := { d.pwr with blkReset := none }, scan := { d.scan with
      dies := vupdN d.scan.dies b.unit fun (a : Arrays) => ⟨a.working - failed, 0⟩ } } : Dev).count 121 0 1).endCmd k b.ref stOk 0 0 []).chansGoOn k)) := by
  simp [blockResetComplete, h, hb]

theorem blockResetComplete_channel {failed : Nat} (hb : b.block = 2) (hfew : failed ≤ 7) : blockResetComplete failed k d =
    ((((({ d with pwr := { d.pwr with blkReset := none } } : Dev).updChan b.unit fun x => { x with rate := 3600 - 400 * failed }).count 121 2 1).endCmd k b.ref stOk 0 0
      []).chansGoOn k) := by
  simp [blockResetComplete, h, hb, Nat.not_lt.mpr hfew]

/-- A channel that passes at no rate has not come back. -/
theorem blockResetComplete_waits {failed : Nat} (hb : b.block = 2) (hmany : 7 < failed) : blockResetComplete failed k d = d := by
  simp [blockResetComplete, h, hb, hmany]

theorem blockResetComplete_link (failed : Nat) (hb : b.block = 3) : blockResetComplete failed k d =
    ((((({ d with pwr := { d.pwr with blkReset := none }, fab := { d.fab with
      ports := vupdN d.fab.ports b.unit fun x => if x.link = .training then { x with link := .up, lanes := 0xFF } else x } } : Dev).count 121 3 1).endCmd k b.ref stOk 0 0
        []).chansGoOn k)) := by
  simp [blockResetComplete, h, hb]

end Complete

/-! ### Firmware images and reset packages (R495 to R498, R502) -/

/-- In service a whole image goes into the inactive set. -/
theorem fwStageRun_whole (hphase : d.start.phase = .service) (hlen : cmd.f 0x50 8 ≠ 0) : fwStageRun k d cmd =
    ({ d with start := (d.start.putImage (!d.start.dir.active) (cmd.f 0x40 1) (d.partRead cmd.ref.port (cmd.f 0x48 8) (cmd.f 0x50 8))) } : Dev).endCmd k cmd.ref stOk
      0 0 [] := by
  simp [fwStageRun, hphase, hlen]

/-- Only the inactive set may be activated. -/
theorem fwActivateBad_inactive (h : cmd.f 0x40 1 = (if d.start.dir.active then 0 else 1)) : fwActivateBad k d cmd = false := by
  cases hact : d.start.dir.active <;> simp [fwActivateBad, h, hact]

section Activate
variable {f : Fuses} {sig : List Bool}

theorem fwActivateRun_refused (h : f.checkSet (d.start.set (!d.start.dir.active)) sig = .refused) : fwActivateRun sig f k d cmd = d.refuse cmd.ref stAuth := by
  simp only [fwActivateRun, h]

theorem fwActivateRun_incompatible (h : f.checkSet (d.start.set (!d.start.dir.active)) sig = .incompatible) :
    fwActivateRun sig f k d cmd = d.refuse cmd.ref stVersion := by
  simp only [fwActivateRun, h]

/-- A set that checks begins a warm reset in trial. -/
theorem fwActivateRun_accepted (h : f.checkSet (d.start.set (!d.start.dir.active)) sig = .accepted) : ∃ e : Dev, fwActivateRun sig f k d cmd = e.beginWarm k 1 := by
  simp only [fwActivateRun, h]
  exact ⟨_, rfl⟩

end Activate

/-- A package that passes begins a warm reset. -/
theorem resetPackage_resets {f : Fuses} {img : List Byte} {node notBefore notAfter nonce : Nat} {sig : Bool} (hserves : d.service = true)
    (hok : d.resetPkgOk f k img node notBefore notAfter nonce sig = true) :
    ∃ e : Dev, resetPackage img node notBefore notAfter nonce sig f k d = (k.noPort, e.beginWarm k 1) := by
  simp only [resetPackage, hserves, hok, Bool.not_true, Bool.false_eq_true, if_false, if_true]
  exact ⟨_, rfl⟩

/-- Whatever of R502's plain conditions a package misses, it does not pass. -/
theorem resetPkgOk_misses {f : Fuses} {img : List Byte} {node notBefore notAfter nonce : Nat} {sig : Bool}
    (h : nonce ≤ d.start.dir.nonce ∨ k.valid = false ∨ k.now < notBefore ∨ notAfter < k.now ∨ node ≠ d.plat.nodeId ∨ sig = false) :
    d.resetPkgOk f k img node notBefore notAfter nonce sig = false := by
  rw [Bool.eq_false_iff]
  intro hok
  simp only [Dev.resetPkgOk, Fuses.imageOk, Bool.and_eq_true, decide_eq_true_eq] at hok
  obtain ⟨⟨⟨⟨⟨⟨⟨⟨⟨⟨hsig, -⟩, -⟩, -⟩, -⟩, hnode⟩, hvalid⟩, hbefore⟩, hafter⟩, -⟩, hnonce⟩ := hok
  obtain h | h | h | h | h | h := h
  · omega
  · rw [h] at hvalid; cases hvalid
  · omega
  · omega
  · exact h hnode
  · rw [h] at hsig; cases hsig

end Block

/-- A device on which nothing runs shows nothing. -/
theorem showRunning_none {d : Dev} (h : d.cmds.running = []) (r : Ref) : d.showRunning r = d := by
  have hnone : d.cmd? r = none := by rw [Dev.cmd?, h]; rfl
  rw [Dev.showRunning, hnone]
  rfl

/-! ### The commands -/

section Commands
variable {s v : State} {k : Take} {cmd : Cmd}

/-- A block reset that is accepted. -/
theorem exec_blockReset (hv : v = s.tick k.t) (ha : Accepted k 0x0102 v cmd) (hpair : blockPairOk (cmd.f 0x40 1) (cmd.f 0x41 1) = true) (hblock : cmd.f 0x40 1 ≠ 7)
    {d : Dev} (hrun : blockResetRun v.clk (v.ready cmd) cmd = d) : exec (.devBlockReset k) s =
      .next { v.ran cmd d with clk := (v.ran cmd d).dev.resetPort v.clk } := by
  refine exec_clkDev (v := v) (f := devBlockReset k) rfl rfl hv ?_
  have hslot := runSlot_plain (bad := blockResetBad) (run := blockResetRun) (row := isBlockReset) ha (by simp [isBlockReset, hblock]) (by simp [blockResetBad, hpair])
  rw [devBlockReset, hslot, hrun]
  rfl

/-- A block reset in a mode that does not allow it. -/
theorem exec_blockReset_turned (hv : v = s.tick k.t) (ha : TurnedAway k 0x0102 v cmd) (hpair : blockPairOk (cmd.f 0x40 1) (cmd.f 0x41 1) = true)
    (hblock : cmd.f 0x40 1 ≠ 7) : exec (.devBlockReset k) s =
      .next { v with clk := ((v.ready cmd).refuse cmd.ref stBusy).resetPort v.clk, dev := (v.ready cmd).refuse cmd.ref stBusy } := by
  obtain ⟨-, hop, -⟩ := id ha
  have hslot := runSlot_turned (bad := blockResetBad) (areas := noAreas) (run := blockResetRun) (row := isBlockReset) ha (by simp [isBlockReset, hblock])
    (by simp [blockResetBad, hpair]) (by simp [noAreas])
  have hcount (d : Dev) : d.count 22 0 (boolNat cmd.isUpdate) = d := by simp [Cmd.isUpdate, hop, boolNat, Dev.count]
  refine exec_clkDev (v := v) (f := devBlockReset k) rfl rfl hv ?_
  rw [devBlockReset, hslot, hcount]

/-- A command whose effect reads the fuses. -/
theorem exec_onClkFuse {i : Instr} {t : Nat} {g : Fuses → Clock → Dev → Clock × Dev} {c : Clock} {d : Dev} (hi : exec i s = happens i t (fun x => x.onClk (g x.fuse)) s)
    (hwf : i.wf = true) (hv : v = s.tick t) (hg : g v.fuse v.clk v.dev = (c, d)) : exec i s = .next { v with clk := c, dev := d } := by
  rw [hi, happens_wf _ _ _ _ hwf, ← hv, State.onClk, hg]

variable {sig : List Bool}

/-- An activation that is accepted and begins no reset. -/
theorem exec_fwActivate_ends (hv : v = s.tick k.t) (hsig : sig.length = 3) (ha : Accepted k 0x0105 v cmd) (hphase : v.dev.start.phase = .service)
    (hset : cmd.f 0x40 1 = (if v.dev.start.dir.active then 0 else 1)) {status : Nat}
    (hrun : fwActivateRun sig v.fuse v.clk (v.ready cmd) cmd = (v.ready cmd).refuse cmd.ref status) :
    exec (.devFwActivate k sig) s = .next (v.ran cmd ((v.ready cmd).refuse cmd.ref status)) := by
  have hslot := runSlot_plain (bad := fwActivateBad) (run := fwActivateRun sig v.fuse) (row := allRows) ha rfl (fwActivateBad_inactive hset)
  have hstays : (((v.ready cmd).refuse cmd.ref status).showRunning cmd.ref).warming = false := by
    simp [Dev.warming, hphase]
  refine exec_onClkFuse (g := devFwActivate k sig) rfl (by simp [Instr.wf, hsig]) hv ?_
  simp only [devFwActivate, mayWarm, hslot, hrun, hstays, Bool.false_eq_true, if_false]

/-- An activation that is accepted and begins a warm reset. -/
theorem exec_fwActivate_resets (hv : v = s.tick k.t) (hsig : sig.length = 3) (ha : Accepted k 0x0105 v cmd)
    (hset : cmd.f 0x40 1 = (if v.dev.start.dir.active then 0 else 1)) {e : Dev}
    (hrun : fwActivateRun sig v.fuse v.clk (v.ready cmd) cmd = e.beginWarm v.clk 1) :
    exec (.devFwActivate k sig) s = .next { v with clk := v.clk.noPort, dev := e.beginWarm v.clk 1 } := by
  have hslot := runSlot_plain (bad := fwActivateBad) (run := fwActivateRun sig v.fuse) (row := allRows) ha rfl (fwActivateBad_inactive hset)
  obtain ⟨-, -, -, hphase, -, -, -, hrunning, -⟩ := warmBegun_beginWarm v e 1
  have hwarm : (e.beginWarm v.clk 1).warming = true := decide_eq_true hphase
  refine exec_onClkFuse (g := devFwActivate k sig) rfl (by simp [Instr.wf, hsig]) hv ?_
  simp only [devFwActivate, mayWarm, hslot, hrun, showRunning_none hrunning, hwarm, if_true]

end Commands

/-- Settles O52. It holds: each clause is one branch of its row, and every warm reset begins alike. -/
theorem blockResetsAndFirmware : Obligations.BlockResetsAndFirmware := by
  refine ⟨⟨fun s v k cmd hv ha hpair hblock _ => exec_blockReset_turned hv ha hpair hblock, fun s v k cmd r b u hv ha hr hb hu hpair hblock => ?_,
    fun s v t failed b d hv hb hd => ?_⟩, fun s v k cmd hv ha hbad hareas hphase hlen => ?_, fun s v k cmd sig hv hsig ha hphase hset => ?_,
    fun s v t img node notBefore notAfter nonce sig hv hserves => ?_⟩
  · subst hr hb hu
    refine ⟨fun hbusy => exec_blockReset hv ha hpair hblock (blockResetRun_busy ?_), fun hps hnone hidle => ⟨fun hother => ?_, fun q hthree hq hen => ?_⟩⟩
    · rw [ready_pwr]
      exact .inr hbusy.symm
    · have hrun := blockResetRun_starts (k := v.clk) (d := v.ready cmd) (cmd := cmd) (by rw [ready_pwr]; exact hps) (by rw [ready_pwr, hnone]) hidle
      rw [ready_pwr] at hrun
      rw [exec_blockReset hv ha hpair hblock hrun, resetPort_other (b := ⟨cmd.ref, cmd.f 0x40 1, cmd.f 0x41 1⟩) (by simp [State.ran]) hother]
      rfl
    · have hrun := blockResetRun_starts (k := v.clk) (d := v.ready cmd) (cmd := cmd) (by rw [ready_pwr]; exact hps) (by rw [ready_pwr, hnone]) hidle
      rw [hthree, hq] at hrun
      refine ⟨_, exec_blockReset hv ha hpair hblock hrun, by simp [State.ran], ?_, resetPort_port (r := cmd.ref) (by simp [State.ran])⟩
      have hready : (v.ready cmd).fab.ports[q].enable = true := by rw [ready_fab, hen]
      simp only [State.ran, showRunning_fab]
      exact startBlock_trains hready
  · subst hd
    refine ⟨fun h => ?_, fun h => ?_, fun h hfew => ?_, fun h hmany => ?_, fun h => ?_⟩
    · exact exec_onDev rfl rfl hv (blockResetComplete_memory hb failed h)
    · exact exec_onDev rfl rfl hv (blockResetComplete_die hb failed h)
    · exact exec_onDev rfl rfl hv (blockResetComplete_channel hb h hfew)
    · exact exec_idle rfl rfl hv (blockResetComplete_waits hb h hmany)
    · exact exec_onDev rfl rfl hv (blockResetComplete_link hb failed h)
  · have hsame : fwStageAreas (v.ready cmd) cmd = fwStageAreas (v.dev.takeCmd cmd) cmd := by
      simp only [fwStageAreas, ready_start]
      rfl
    have hslot := runSlot_accepted (run := fwStageRun) (row := allRows) ha rfl hbad (fun a h => (hareas a h).1) (fun a h => (hareas a (hsame ▸ h)).2)
    have hrun := fwStageRun_whole (k := v.clk) (d := v.ready cmd) (cmd := cmd) (by rw [ready_start, hphase]) hlen
    rw [ready_start] at hrun
    rw [hrun] at hslot
    exact exec_onDev rfl rfl hv hslot
  · refine ⟨fun h => ?_, fun h => ?_, fun h => ?_⟩
    · exact exec_fwActivate_ends hv hsig ha hphase hset (fwActivateRun_refused (by rw [ready_start, h]))
    · exact exec_fwActivate_ends hv hsig ha hphase hset (fwActivateRun_incompatible (by rw [ready_start, h]))
    · obtain ⟨e, hrun⟩ := fwActivateRun_accepted (k := v.clk) (d := v.ready cmd) (cmd := cmd) (by rw [ready_start, h])
      exact ⟨_, exec_fwActivate_resets hv hsig ha hset hrun, warmBegun_beginWarm v e 1⟩
  · refine ⟨fun hok => ?_, fun hmiss => ?_⟩
    · obtain ⟨e, hrun⟩ := resetPackage_resets hserves hok
      exact ⟨_, exec_onClkFuse (g := resetPackage img node notBefore notAfter nonce sig) rfl rfl hv hrun, warmBegun_beginWarm v e 1⟩
    · refine exec_onClkFuse (g := resetPackage img node notBefore notAfter nonce sig) rfl rfl hv ?_
      simp only [resetPackage, hserves, resetPkgOk_misses hmiss, Bool.not_true, Bool.false_eq_true, if_false]

end Sys2Proof.Proofs


/-! SUPPORT. Loop-backs and self-tests: how each begins and ends, what their end leaves, and the statement about them. -/

namespace Sys2Proof.Proofs

open Sys2Proof Sys2Proof.Machine Sys2Proof.Laws

/-! ### Commands that do not run stay so -/

theorem retake_cmd?_none {d : Dev} {r : Ref} (cmd : Cmd) (h : d.cmd? r = none) : (d.retake cmd).cmd? r = none := by
  unfold Dev.retake
  simp only
  split
  · exact cmd?_filter_none _ h
  · exact cmd?_filter_none _ h

theorem endCmd_cmd?_none {d : Dev} {r : Ref} (c : Clock) (q : Ref) (status flags n : Nat) (head : List Byte) (h : d.cmd? r = none) :
    (d.endCmd c q status flags n head).cmd? r = none := by
  unfold Dev.endCmd
  split
  · exact h
  simp only
  split
  · exact foldl_inv (fun x : Dev => x.cmd? r = none) (fun x w hx => putReplayed_cmd?_none w _ hx) _ _ (putEnd_cmd?_none _ _ _ _ _ h)
  · exact putEnd_cmd?_none _ _ _ _ _ h

theorem refuse_cmd?_none {d : Dev} {r : Ref} (q : Ref) (status : Nat) (h : d.cmd? r = none) : (d.refuse q status).cmd? r = none := by
  unfold Dev.refuse
  split
  · exact h
  simp only
  split
  · exact foldl_inv (fun x : Dev => x.cmd? r = none) (fun x w hx => retake_cmd?_none w hx) _ _ (putEnd_cmd?_none _ _ _ _ _ h)
  · exact putEnd_cmd?_none _ _ _ _ _ h

/-! ### What the end of a test sets going (R528, R530) -/

/-- A property that neither flash's work nor the end of a flash command takes away. -/
structure Lasting (P : Dev → Prop) : Prop where
  apart : ∀ d : Dev, P d → ∀ (m : MemSys) (f : Flash) (n : NMap W64) (k : Nat), P { d with mem := m, flash := f, cnt := n, freeCtr := k }
  refuse : ∀ (d : Dev) (r : Ref) (status : Nat), P d → P (d.refuse r status)
  endCmd : ∀ (d : Dev) (c : Clock) (r : Ref) (status flags n : Nat) (head : List Byte), P d → P (d.endCmd c r status flags n head)
  result : ∀ (d : Dev) (cmd : Cmd) (off : Nat) (bs : List Byte), P d → P (d.result cmd off bs)

theorem noLoops_lasting : Lasting fun d => d.tst.loops = [] :=
  ⟨fun _ h _ _ _ _ => h, fun d r st h => by rwa [refuse_tst], fun d c r st fl n hd h => by rwa [endCmd_tst], fun d cmd off bs h => by rwa [result_tst]⟩

theorem notRunning_lasting (r : Ref) : Lasting fun d => d.cmd? r = none :=
  ⟨fun _ h _ _ _ _ => h, fun _ q st h => refuse_cmd?_none q st h, fun _ c q st fl n hd h => endCmd_cmd?_none c q st fl n hd h,
    fun d cmd off bs h => by rwa [cmd?_congr (result_cmds d cmd off bs)]⟩

section Lasts
variable {P : Dev → Prop} (hP : Lasting P)
include hP

theorem flashFormatRun_lasts (c : Clock) {d : Dev} (cmd : Cmd) (h : P d) : P (flashFormatRun c d cmd) := by
  unfold flashFormatRun
  split
  · exact hP.refuse _ _ _ h
  split
  · exact h
  · exact hP.apart d h d.mem _ d.cnt d.freeCtr

theorem unmapRange_lasts {d : Dev} (key off len : Nat) (clean : Bool) (units : List Nat) (h : P d) : P (d.unmapRange key off len clean units) := by
  unfold Dev.unmapRange
  refine foldl_inv P (fun x u hx => ?_) _ _ (hP.apart d h _ d.flash d.cnt d.freeCtr)
  split
  · exact hx
  split
  · exact hx
  · have hchan := hP.apart x hx x.mem
    unfold Dev.count
    split
    · exact hchan _ _ _
    · exact hchan _ _ _

theorem flashDiscardRun_lasts (c : Clock) {d : Dev} (cmd : Cmd) (h : P d) : P (flashDiscardRun c d cmd) := by
  have hfresh : P d.fresh.2 := hP.apart d h d.mem d.flash d.cnt _
  unfold flashDiscardRun
  split
  · exact hP.refuse _ _ _ h
  split
  · exact h
  · refine hP.endCmd _ _ _ _ _ _ _ ?_
    split
    · exact h
    · exact unmapRange_lasts hP _ _ _ _ _ hfresh

theorem flashHealthRun_lasts (c : Clock) {d : Dev} (cmd : Cmd) (h : P d) : P (flashHealthRun c d cmd) := by
  unfold flashHealthRun
  split
  · exact h
  · exact hP.endCmd _ _ _ _ _ _ _ (hP.result _ _ _ _ h)

theorem flashAgain_lasts (c : Clock) {d : Dev} (h : P d) : P (d.flashAgain c) := by
  unfold Dev.flashAgain
  split
  · exact h
  · refine foldl_inv P (fun x cmd hx => ?_) _ _ h
    split
    · exact flashFormatRun_lasts hP c cmd hx
    · exact flashDiscardRun_lasts hP c cmd hx
    · exact flashHealthRun_lasts hP c cmd hx
    · exact hx

end Lasts

theorem tst_apart : Apart Dev.tst := ⟨fun _ _ => rfl, fun _ _ => rfl, fun _ _ => rfl⟩

theorem cmds_apart : Apart Dev.cmds := cmds_adrift.toApart

theorem testOver_noLoops {d : Dev} (c : Clock) (h : d.tst.loops = []) : (d.testOver c).tst.loops = [] := by
  rw [Dev.testOver, chansGoOn_apart tst_apart]
  exact flashAgain_lasts noLoops_lasting c h

theorem testOver_cmd?_none {d : Dev} {r : Ref} (c : Clock) (h : d.cmd? r = none) : (d.testOver c).cmd? r = none := by
  rw [Dev.testOver, cmd?_congr (chansGoOn_apart cmds_apart _ _)]
  exact flashAgain_lasts (notRunning_lasting r) c h

end Sys2Proof.Proofs


/-! SUPPORT. Loop-backs and self-tests: one fact for each branch of their rows, and the statement about them. -/

namespace Sys2Proof.Proofs

open Sys2Proof Sys2Proof.Machine Sys2Proof.Laws

/-! ### test.loopback begins (R528 to R531) -/

/-- The loop-back test of a command. -/
def loopOf (cmd : Cmd) : LoopTest :=
  { ref := cmd.ref, iface := cmd.f 0x40 1, unit := cmd.f 0x41 1, depth := cmd.f 0x42 1, len := cmd.f 0x48 8, node := cmd.f 0x50 2, bytes := 0, bad := 0, echoed := 0 }

/-- A device with one loop-back test more. -/
def withLoop (d : Dev) (l : LoopTest) : Dev := { d with tst := { d.tst with loops := d.tst.loops ++ [l] } }

section Begin
variable {k : Clock} {d : Dev} {cmd : Cmd} {l : LoopTest}

theorem testLoopbackRun_busy (h : d.tst.onUnit (cmd.f 0x40 1) (cmd.f 0x41 1) = true ∨ d.loopReady k (cmd.f 0x40 1) (cmd.f 0x41 1) (cmd.f 0x42 1) = false) :
    testLoopbackRun k d cmd = d.refuse cmd.ref stBusy := by
  have hbusy : (d.tst.onUnit (cmd.f 0x40 1) (cmd.f 0x41 1) || !(d.loopReady k (cmd.f 0x40 1) (cmd.f 0x41 1) (cmd.f 0x42 1))) = true := by
    obtain h | h := h <;> simp [h]
  exact if_pos hbusy

theorem testLoopbackRun_begins (hfree : d.tst.onUnit (cmd.f 0x40 1) (cmd.f 0x41 1) = false)
    (hready : d.loopReady k (cmd.f 0x40 1) (cmd.f 0x41 1) (cmd.f 0x42 1) = true) : testLoopbackRun k d cmd = d.loopBegin k (loopOf cmd) := by
  have hnot : (d.tst.onUnit (cmd.f 0x40 1) (cmd.f 0x41 1) || !(d.loopReady k (cmd.f 0x40 1) (cmd.f 0x41 1) (cmd.f 0x42 1))) = false := by
    simp only [hfree, hready, Bool.not_true, Bool.or_self]
  exact if_neg (by rw [hnot]; decide)

theorem loopBegin_inner (h : 2 ≤ l.iface) : d.loopBegin k l = withLoop d l := by
  have hhost : l.iface ≠ 0 := by omega
  have hfab : l.iface ≠ 1 := by omega
  simp only [Dev.loopBegin, hhost, hfab, if_false]
  rfl

theorem loopBegin_link (h : l.iface = 1) (hdepth : l.depth ≠ 4) : d.loopBegin k l =
    { withLoop d l with fab := { (withLoop d l).fab with
      ports := vupdN (withLoop d l).fab.ports l.unit fun x => { x with link := .down, lanes := 0, macsecUp := false } } } := by
  simp [Dev.loopBegin, h, hdepth, withLoop]

theorem loopBegin_echo (h : l.iface = 1) (hdepth : l.depth = 4) : d.loopBegin k l = (withLoop d l).send clsBulk l.node (.echo l.len) := by
  simp [Dev.loopBegin, h, hdepth, withLoop]

theorem loopBegin_window {p : Port} (h : l.iface = 0) (hunit : l.unit = p.val) (hdepth : l.depth = 4) :
    d.loopBegin k l = (withLoop d l).updPort p fun x => { x with echo := some [], echoRead := 0 } := by
  simp [Dev.loopBegin, h, hdepth, hunit, withLoop]

theorem loopBegin_host {p : Port} (h : l.iface = 0) (hunit : l.unit = p.val) (hdepth : l.depth ≠ 4) : d.loopBegin k l = (withLoop d l).portReset k p := by
  simp [Dev.loopBegin, h, hdepth, hunit, withLoop]

/-- Time stays where no fabric port's link is under test (R362). -/
theorem testPort_stays (h : ∀ l ∈ d.tst.loops, l.iface = 1 → l.depth = 4) : d.testPort k = k := by
  have hnone : (d.tst.loops.any fun l => l.iface = 1 && l.depth != 4 && (k.ptpPort.map (·.val)) = some l.unit) = false := by
    rw [List.any_eq_false]
    intro l hl
    by_cases hi : l.iface = 1
    · simp [h l hl hi]
    · simp [hi]
  exact if_neg (by rw [hnone]; decide)

/-- The one link under test takes its time away. -/
theorem testPort_link {ls : List LoopTest} {q : FabPort} (hloops : d.tst.loops = ls ++ [l]) (hothers : ∀ x ∈ ls, x.iface ≠ 1) (h : l.iface = 1) (hunit : l.unit = q.val)
    (hdepth : l.depth ≠ 4) : d.testPort k = { k with ptpPort := if k.ptpPort = some q then none else k.ptpPort } := by
  have hnone : (ls.any fun x => x.iface = 1 && x.depth != 4 && (k.ptpPort.map (·.val)) = some x.unit) = false := by
    rw [List.any_eq_false]
    intro x hx
    simp [hothers x hx]
  have hsame : (k.ptpPort.map (·.val) = some q.val) ↔ k.ptpPort = some q := by
    cases k.ptpPort with
    | none => simp
    | some y => simp [Fin.ext_iff]
  simp only [Dev.testPort, hloops, List.any_append, hnone, List.any_cons, List.any_nil, h, hunit, hsame, Bool.or_false, Bool.false_or, decide_true, Bool.true_and,
    bne_iff_ne.mpr hdepth, decide_eq_true_eq]
  split <;> rfl

end Begin

/-! ### A loop-back ends (R529, R532, R533) -/

theorem windowRead_port (d : Dev) (p : Port) : d.windowRead p.val = (d.port p).echoRead := by
  simp [Dev.windowRead, Dev.port]

theorem echoLost_port (d : Dev) (p : Port) : d.echoLost p.val = !(d.port p).linkUp := by
  simp [Dev.echoLost, Dev.port]

section End
variable {k : Clock} {d : Dev} {i u : Nat} {l : LoopTest} (h : d.tst.loops.find? (fun l => l.iface = i && l.unit = u) = some l)
include h

theorem loopbackLockTimeout_ends (hdepth : l.depth ≠ 4) : loopbackLockTimeout i u k d = d.loopEnd k l ⟨0, 0, none, [], 0⟩ stShort := by
  simp [loopbackLockTimeout, Dev.loopOn, h, hdepth, LoopRes.none]

/-- A pattern ends with the bytes that it compared. -/
theorem testComplete_pattern (r : LoopRes) (hdepth : l.depth ≠ 4) : testComplete i u r k d =
    d.loopEnd k l { r with bytes := min r.bytes l.len } (if l.len ≤ r.bytes then stOk else stShort) := by
  simp [testComplete, Dev.loopOn, h, hdepth]

/-- A fabric port's echo ends with what has come back. -/
theorem testComplete_echo (r : LoopRes) (hdepth : l.depth = 4) (hi : i = 1) (hiface : l.iface = 1) : testComplete i u r k d =
    d.loopEnd k l { r with bytes := l.bytes, errBits := l.bad, echoed := l.echoed } (if l.len ≤ l.bytes then stOk else stShort) := by
  subst hi
  simp [testComplete, Dev.loopOn, h, hdepth, Dev.echoCounts, hiface]

section Window
variable {p : Port} (hdepth : l.depth = 4) (hi : i = 0) (hiface : l.iface = 0) (hunit : l.unit = p.val) (hu : u = p.val)
include hdepth hi hiface hunit hu

/-- What a host port's echo makes of an event that may end it. -/
theorem testComplete_window (r : LoopRes) : testComplete i u r k d =
    if decide ((d.port p).echoRead < l.len) && (d.port p).linkUp then d
    else d.loopEnd k l ⟨(d.port p).echoRead, 0, none, [], (d.port p).echoRead / 64⟩ (if l.len ≤ (d.port p).echoRead then stOk else stShort) := by
  subst hi hu
  simp only [testComplete, Dev.loopOn, h, hdepth, Dev.echoCounts, hiface, hunit, windowRead_port, echoLost_port, LoopRes.none, if_true, decide_true, Bool.true_and,
    Bool.not_not]

end Window
end End

/-! ### The echo of a fabric port (R532) -/

/-- The end of the one test, an echo of a fabric port, leaves no test and not its command. -/
theorem loopEnd_echo {k : Clock} {d : Dev} {l : LoopTest} (hl : d.tst.loops = [l]) (hiface : l.iface = 1) (hdepth : l.depth = 4) (r : LoopRes) (status : Nat) :
    (d.loopEnd k l r status).tst.loops = [] ∧ (d.loopEnd k l r status).cmd? l.ref = none := by
  have hrelease (e : Dev) : e.loopRelease l = { e with tst := { e.tst with loops := e.tst.loops.filter fun x => x.ref != l.ref } } := by
    simp [Dev.loopRelease, hiface, hdepth]
  unfold Dev.loopEnd
  simp only [hrelease]
  refine ⟨testOver_noLoops k ?_, testOver_cmd?_none k (endCmd_cmd?_same _ _ _ _ _ _ _)⟩
  rw [endCmd_tst]
  split <;> simp [hl]

section Echo
variable {k : Clock} {d : Dev} {l : LoopTest} {len bad : Nat} (hl : d.tst.loops = [l]) (hiface : l.iface = 1) (hdepth : l.depth = 4)
include hl hiface hdepth

theorem loopbackEcho_eq : loopbackEcho len bad k d =
    if min l.len (l.bytes + len) = l.len then
      ({ d with tst := { d.tst with loops := [{ l with bytes := min l.len (l.bytes + len), bad := l.bad + bad, echoed := l.echoed + 1 }] } } : Dev).loopEnd k
        { l with bytes := min l.len (l.bytes + len), bad := l.bad + bad, echoed := l.echoed + 1 }
        { LoopRes.none with bytes := min l.len (l.bytes + len), errBits := l.bad + bad, echoed := l.echoed + 1 } stOk
    else { d with tst := { d.tst with loops := [{ l with bytes := min l.len (l.bytes + len), bad := l.bad + bad, echoed := l.echoed + 1 }] } } := by
  simp [loopbackEcho, hl, hiface, hdepth, updIf, Dev.echoCounts]

theorem loopbackEcho_goesOn (hfew : l.bytes + len < l.len) : loopbackEcho len bad k d =
    { d with tst := { d.tst with loops := [{ l with bytes := l.bytes + len, bad := l.bad + bad, echoed := l.echoed + 1 }] } } := by
  have hmin : min l.len (l.bytes + len) = l.bytes + len := by omega
  rw [loopbackEcho_eq hl hiface hdepth, hmin, if_neg (by omega)]

/-- All has come back: the test is over and its command has ended. -/
theorem loopbackEcho_ends (hall : l.len ≤ l.bytes + len) : (loopbackEcho len bad k d).tst.loops = [] ∧ (loopbackEcho len bad k d).cmd? l.ref = none := by
  have hmin : min l.len (l.bytes + len) = l.len := by omega
  rw [loopbackEcho_eq hl hiface hdepth, hmin, if_pos rfl]
  exact loopEnd_echo (l := { l with bytes := l.len, bad := l.bad + bad, echoed := l.echoed + 1 }) rfl hiface hdepth _ _

end Echo

/-! ### test.bist (R528, R534 to R536) -/

section Bist
variable {k : Clock} {d : Dev} {cmd : Cmd}

theorem testBistRun_busy (h : ∃ u ∈ d.bistUnits (cmd.f 0x40 4), d.bistReady k u = false) : testBistRun k d cmd = d.refuse cmd.ref stBusy := by
  have hany : ((d.bistUnits (cmd.f 0x40 4)).any fun u => !(d.bistReady k u)) = true := by simpa using h
  exact if_pos hany

theorem testBistRun_none (h : d.bistUnits (cmd.f 0x40 4) = []) : testBistRun k d cmd = d.endCmd k cmd.ref stOk 0 0 [] := by
  simp [testBistRun, h]

theorem testBistRun_begins (hsome : d.bistUnits (cmd.f 0x40 4) ≠ []) (hready : ∀ u ∈ d.bistUnits (cmd.f 0x40 4), d.bistReady k u = true) :
    testBistRun k d cmd = d.bistBegin ⟨cmd.ref, BitVec.ofNat 4 (cmd.f 0x40 4), d.bistUnits (cmd.f 0x40 4), []⟩ := by
  have hany : ((d.bistUnits (cmd.f 0x40 4)).any fun u => !(d.bistReady k u)) = false := by
    rw [List.any_eq_false]
    intro u hu
    simp [hready u hu]
  simp only [testBistRun, hany, List.isEmpty_eq_false_iff.mpr hsome, Bool.false_eq_true, if_false]

/-- The device after a unit's record, with the tests that are left (R535). -/
def bistLeft (d : Dev) (r : BistRec) (bs : List BistTest) : Dev :=
  if r.kind = 0 ∧ r.bit = 1 then { d with tst := { d.tst with bists := bs }, scan := { d.scan with
    dies := vupdN d.scan.dies r.unit fun (a : Arrays) => { a with working := a.working - r.fails } } }
  else { d with tst := { d.tst with bists := bs } }

theorem bistApply_eq (d : Dev) (r : BistRec) (bs : List BistTest) : ({ d with tst := { d.tst with bists := bs } } : Dev).bistApply r = bistLeft d r bs := by
  simp [Dev.bistApply, bistLeft]

theorem bistLeft_cmds (d : Dev) (r : BistRec) (bs : List BistTest) : (bistLeft d r bs).cmds = d.cmds := by
  unfold bistLeft
  split <;> rfl

theorem bistLeft_again (d : Dev) (r : BistRec) (bs bs' : List BistTest) :
    ({ bistLeft d r bs with tst := { (bistLeft d r bs).tst with bists := bs' } } : Dev) = bistLeft d r bs' := by
  unfold bistLeft
  split <;> rfl

theorem bistLeft_bists (d : Dev) (r : BistRec) (bs : List BistTest) : (bistLeft d r bs).tst.bists = bs := by
  unfold bistLeft
  split <;> rfl

section Complete
variable {b : BistTest} {r : BistRec} (hb : d.tst.bists = [b]) (hfresh : b.recs = []) (hresult : r.result ≤ 2)
include hb hfresh hresult

/-- The record of the one unit ends the test and its command (R536). -/
theorem bistComplete_ends (hunits : b.units = [(r.kind, r.unit, r.bit)]) (hcmd : d.cmd? b.ref = some cmd) (hroom : 16 ≤ cmd.resultLen) :
    bistComplete b.ref.port b.ref.slot [r] k d =
      ((((bistLeft d r []).result cmd 0 (BistRec.out r)).endCmd k b.ref (if r.result < 2 then stOk else stShort) 0 1 []).testOver k) := by
  have hof : BistRec.isOf r (r.kind, r.unit, r.bit) = true := by simp [BistRec.isOf]
  have htake : [r].take (cmd.resultLen / 16) = [r] := List.take_of_length_le (by simp; omega)
  have hstill : (bistLeft d r []).cmd? b.ref = some cmd := (cmd?_congr (bistLeft_cmds d r []) _).trans hcmd
  simp [bistComplete, hb, hfresh, hunits, hof, hresult, updIf, bistApply_eq, Dev.bistEnd, bistLeft_bists, bistLeft_again, hstill, htake]

/-- The record of one of two units is counted in PROGRESS (R50). -/
theorem bistComplete_counts {u : Nat × Nat × Nat} (hunits : b.units = [(r.kind, r.unit, r.bit), u]) (hne : u ≠ (r.kind, r.unit, r.bit))
    (hcmd : d.cmd? b.ref = some cmd) (hruns : cmd.abandoned = false) : bistComplete b.ref.port b.ref.slot [r] k d =
      (bistLeft d r [{ b with recs := [r] }]).report b.ref stRunning (progressOf 1 2) 0 false false false := by
  have hof : BistRec.isOf r (r.kind, r.unit, r.bit) = true := by simp [BistRec.isOf]
  have hother : BistRec.isOf r u = false := by
    obtain ⟨kind, unit, bit⟩ := u
    simp only [ne_eq, Prod.mk.injEq] at hne
    simp only [BistRec.isOf, Bool.and_eq_false_iff, decide_eq_false_iff_not]
    omega
  have hin : ¬∀ x ∈ d.cmds.running, x.ref = b.ref → x.abandoned = true := fun hall => by
    have hgone := hall cmd (List.mem_of_find?_eq_some hcmd) (by simpa using List.find?_some hcmd)
    rw [hruns] at hgone
    cases hgone
  simp [bistComplete, hb, hfresh, hunits, hof, hother, hresult, updIf, bistApply_eq, bistLeft_cmds, eq_false hin]

end Complete
end Bist

/-! ### The statement -/

/-- A loop-back that is accepted, and what it makes of datum time's port. -/
theorem exec_testLoopback {s v : State} {k : Take} {cmd : Cmd} {d : Dev} {c : Clock} (hv : v = s.tick k.t) (ha : Accepted k 0x0D00 v cmd)
    (hbad : testLoopbackBad v.clk (v.dev.takeCmd cmd) cmd = false) (hrun : testLoopbackRun v.clk (v.ready cmd) cmd = d) (hclk : d.testPort v.clk = c) :
    exec (.testLoopback k) s = .next { v.ran cmd d with clk := c } := by
  have hslot := runSlot_plain (bad := testLoopbackBad) (run := testLoopbackRun) (row := allRows) ha rfl hbad
  have hport : (d.showRunning cmd.ref).testPort v.clk = c := by
    rw [← hclk, Dev.testPort, Dev.testPort, showRunning_tst]
  refine exec_clkDev (v := v) (f := testLoopback k) rfl rfl hv ?_
  rw [testLoopback, hslot, hrun, hport]
  rfl

/-- A loop-back that is accepted and leaves datum time alone. -/
theorem exec_testLoopback_still {s v : State} {k : Take} {cmd : Cmd} {d : Dev} (hv : v = s.tick k.t) (ha : Accepted k 0x0D00 v cmd)
    (hbad : testLoopbackBad v.clk (v.dev.takeCmd cmd) cmd = false) (hrun : testLoopbackRun v.clk (v.ready cmd) cmd = d) (hclk : d.testPort v.clk = v.clk) :
    exec (.testLoopback k) s = .next (v.ran cmd d) := exec_testLoopback hv ha hbad hrun hclk

/-- How a loop-back begins (R528 to R531). -/
theorem loopbackBegins {s v : State} {k : Take} {cmd : Cmd} {r d : Dev} {i u m : Nat} (hv : v = s.tick k.t) (ha : Accepted k 0x0D00 v cmd)
    (hbad : testLoopbackBad v.clk (v.dev.takeCmd cmd) cmd = false) (hr : r = v.ready cmd) (hi : i = cmd.f 0x40 1) (hu : u = cmd.f 0x41 1) (hm : m = cmd.f 0x42 1)
    (hothers : ∀ l ∈ v.dev.tst.loops, l.iface ≠ 1)
    (hd : d = withLoop r (loopOf cmd)) :
    (r.tst.onUnit i u = true ∨ r.loopReady v.clk i u m = false → exec (.testLoopback k) s = .next (v.ran cmd (r.refuse cmd.ref stBusy))) ∧
    (r.tst.onUnit i u = false → r.loopReady v.clk i u m = true →
      (2 ≤ i → exec (.testLoopback k) s = .next (v.ran cmd d)) ∧
      (∀ q : FabPort, i = 1 → u = q.val → m ≠ 4 →
        exec (.testLoopback k) s = .next { v.ran cmd ({ d with fab := { d.fab with ports := vupdN d.fab.ports q.val fun x => { x with link := .down, lanes := 0, macsecUp := false } } }) with
          clk := { v.clk with ptpPort := if v.clk.ptpPort = some q then none else v.clk.ptpPort } }) ∧
      (i = 1 → m = 4 → exec (.testLoopback k) s = .next (v.ran cmd (d.send clsBulk (cmd.f 0x50 2) (.echo (cmd.f 0x48 8))))) ∧
      (∀ p : Port, i = 0 → u = p.val → (m = 4 → exec (.testLoopback k) s = .next (v.ran cmd (d.updPort p fun x => { x with echo := some [], echoRead := 0 }))) ∧
        (m ≠ 4 → exec (.testLoopback k) s = .next (v.ran cmd (d.portReset v.clk p))))) := by
  subst hr hi hu hm
  have hloops : d.tst.loops = v.dev.tst.loops ++ [loopOf cmd] := by rw [hd, ← ready_tst v cmd]; rfl
  have hstays {e : Dev} (he : e.tst = d.tst) (hl : (loopOf cmd).iface = 1 → (loopOf cmd).depth = 4) : e.testPort v.clk = v.clk := testPort_stays fun l hin hone => by
    rw [he, hloops, List.mem_append, List.mem_singleton] at hin
    obtain hin | rfl := hin
    · exact absurd hone (hothers l hin)
    · exact hl hone
  refine ⟨fun hbusy => ?_, fun hfree hready => ?_⟩
  · refine exec_testLoopback_still hv ha hbad (testLoopbackRun_busy hbusy) (testPort_stays fun l hl hone => ?_)
    rw [refuse_tst, ready_tst] at hl
    exact absurd hone (hothers l hl)
  have hrun := testLoopbackRun_begins hfree hready
  refine ⟨fun h => ?_, fun q h hq hdepth => ?_, fun h hdepth => ?_, fun p h hp => ⟨fun hdepth => ?_, fun hdepth => ?_⟩⟩
  · rw [loopBegin_inner h, ← hd] at hrun
    exact exec_testLoopback_still hv ha hbad hrun (hstays rfl fun hone => absurd hone (Nat.ne_of_gt h))
  · have hunit : (loopOf cmd).unit = q.val := hq
    rw [loopBegin_link h hdepth, ← hd, hunit] at hrun
    exact exec_testLoopback hv ha hbad hrun (testPort_link hloops hothers h hq hdepth)
  · rw [loopBegin_echo h hdepth, ← hd] at hrun
    exact exec_testLoopback_still hv ha hbad hrun (hstays (send_tst _ _ _ _) fun _ => hdepth)
  · rw [loopBegin_window h hp hdepth, ← hd] at hrun
    exact exec_testLoopback_still hv ha hbad hrun (hstays rfl fun _ => hdepth)
  · rw [loopBegin_host h hp hdepth, ← hd] at hrun
    have htst : (d.portReset v.clk p).tst = d.tst := tst_of_keel (portReset_keel d v.clk p)
    exact exec_testLoopback_still hv ha hbad hrun (hstays htst fun hone => absurd (h.symm.trans hone) (by decide))

/-- Settles O50. It holds: a test begins and ends as its row's branch says, and its command is gone once the test is over. -/
theorem loopbacksAndSelfTests : Obligations.LoopbacksAndSelfTests := by
  refine ⟨⟨fun s v k cmd r d i u m hv ha hbad hr hi hu hm hothers hd => ?_, fun s v t i u l hv hi hl => ⟨fun hdepth => ?_, fun r hdepth => ?_,
      fun r hdepth hone hiface => ?_, fun r p n hdepth hzero hiface hunit hu hn => ?_⟩, fun s v t len bad l hv hl hiface hdepth => ⟨fun hfew => ?_, fun hall _ => ?_⟩⟩,
    fun s v k cmd us hv ha hscope hus => ?_, fun s v t b r cmd bs d hv hb hfresh hresult hcmd hroom hd => ?_⟩
  · refine loopbackBegins hv ha hbad hr hi hu hm hothers (hd.trans ?_)
    rw [hr, hi, hu, hm, withLoop, ready_tst]
    rfl
  · exact exec_onDev rfl (by simp [Instr.wf, hi]) hv (loopbackLockTimeout_ends hl hdepth)
  · exact exec_onDev rfl (by simp [Instr.wf, hi]) hv (testComplete_pattern hl r hdepth)
  · exact exec_onDev rfl (by simp [Instr.wf, hi]) hv (testComplete_echo hl r hdepth hone hiface)
  · have hrun := testComplete_window (k := v.clk) hl hdepth hzero hiface hunit hu r
    rw [← hn] at hrun
    refine ⟨fun hfew hup => ?_, fun hover => ?_⟩
    · rw [if_pos (by simp [hfew, hup])] at hrun
      exact exec_idle rfl (by simp [Instr.wf, hi]) hv hrun
    · have hnot : ¬(decide (n < l.len) && (v.dev.port p).linkUp) = true := by
        simp only [Bool.and_eq_true, decide_eq_true_eq, not_and, Bool.not_eq_true]
        exact fun hlt => hover.resolve_left (Nat.not_le.mpr hlt)
      rw [if_neg hnot] at hrun
      exact exec_onDev rfl (by simp [Instr.wf, hi]) hv hrun
  · exact exec_onDev rfl rfl hv (loopbackEcho_goesOn hl hiface hdepth hfew)
  · obtain ⟨hloops, hgone⟩ := loopbackEcho_ends (k := v.clk) (bad := bad) hl hiface hdepth hall
    exact ⟨_, exec_onDev rfl rfl hv rfl, hloops, hgone⟩
  · subst hus
    have hbad : testBistBad v.clk (v.dev.takeCmd cmd) cmd = false := by simpa [testBistBad] using hscope
    have hexec {e : Dev} (he : testBistRun v.clk (v.ready cmd) cmd = e) : exec (.testBist k) s = .next (v.ran cmd e) := he ▸ exec_slot rfl rfl hv ha rfl hbad
    exact ⟨fun h => hexec (testBistRun_busy h), fun h => hexec (testBistRun_none h), fun h hready => hexec (testBistRun_begins h hready)⟩
  · have hleft : d = bistLeft v.dev r bs := hd
    subst hleft
    refine ⟨fun hunits hbs => ?_, fun u hunits hne hbs hruns => ?_⟩
    · subst hbs
      exact exec_onDev rfl rfl hv (bistComplete_ends hb hfresh hresult hunits hcmd hroom)
    · subst hbs
      exact exec_onDev rfl rfl hv (bistComplete_counts hb hfresh hresult hunits hne hcmd hruns)

end Sys2Proof.Proofs


/-! SUPPORT. The work that a new generation of the plat lets go on leaves the device's keel: update commands at the lead, fragments, reads and searches that waited. -/

namespace Sys2Proof.Proofs

open Sys2Proof Sys2Proof.Machine Sys2Proof.Laws

/-! ### Shared operations -/

@[simp] theorem fresh_keel (d : Dev) : keel d.fresh.2 = keel d := rfl
@[simp] theorem report_keel (d : Dev) (r : Ref) (status progress count : Nat) (part degraded tie : Bool) :
    keel (d.report r status progress count part degraded tie) = keel d := by simp [keel, -mk_keel]
@[simp] theorem showRunning_keel (d : Dev) (r : Ref) : keel (d.showRunning r) = keel d := by simp [keel, -mk_keel]
@[simp] theorem updQuery_keel (d : Dev) (ctx : Nat) (f : Query → Query) : keel (d.updQuery ctx f) = keel d := rfl

@[simp] theorem sendAll_keel (d : Dev) (cls : Fin 4) (dsts : List Nat) (m : OutMsg) : keel (d.sendAll cls dsts m) = keel d :=
  foldl_keeps keel (fun x n => send_keel x cls n m) _ d

@[simp] theorem syncLeaf_keel (d : Dev) (c : Clock) (parcel : Nat) : keel (d.syncLeaf c parcel) = keel d := syncLeaf_adrift keel_adrift d c parcel
@[simp] theorem failCopy_keel (d : Dev) (c : Clock) (parcel : Nat) : keel (d.failCopy c parcel) = keel d := failCopy_adrift keel_adrift d c parcel
@[simp] theorem writeOwned_keel (d : Dev) (key idx : Nat) : keel (d.writeOwned key idx) = keel d := writeOwned_apart keel_apart d key idx

/-! ### Rows and lists that are written -/

@[simp] theorem addExtent_keel (d : Dev) (c owner : Nat) (pinned : Bool) : keel (d.addExtent c owner pinned) = keel d := rfl

@[simp] theorem addExtents_keel (d : Dev) (n owner : Nat) : keel (d.addExtents n owner) = keel d := by
  induction n generalizing d with
  | zero => rfl
  | succ n ih => exact ih _

@[simp] theorem ensureExtents_keel (d : Dev) (owner n : Nat) : keel (d.ensureExtents owner n) = keel d := addExtents_keel _ _ _

@[simp] theorem touchPool_keel (d : Dev) (c : Clock) (key page : Nat) : keel (d.touchPool c key page) = keel d := rfl

@[simp] theorem writeBack_keel (d : Dev) (key page : Nat) : keel (d.writeBack key page) = keel d := by
  unfold Dev.writeBack; split <;> simp

@[simp] theorem fillPage_keel (d : Dev) (c : Clock) (w : PoolWait) : keel (d.fillPage c w) = keel d := fillPage_apart keel_apart d c w

@[simp] theorem dirtyPage_keel (d : Dev) (c : Clock) (t : Tier) (key page tenant : Nat) : keel (d.dirtyPage c t key page tenant) = keel d := by
  simp only [Dev.dirtyPage, apply_ite keel, writeBack_keel, count_keel, fillPage_keel, touchPool_keel, ite_self]

@[simp] theorem dirtyRow_keel (d : Dev) (c : Clock) (l : Leaf) (s : Space) (kind slot : Nat) (e : Entry) : keel (d.dirtyRow c l s kind slot e) = keel d := by
  unfold Dev.dirtyRow
  split
  · rfl
  simp only
  split
  · rfl
  · exact (foldl_keeps keel (fun y p => dirtyPage_keel y _ _ _ _ _) _ _).trans (ensureExtents_keel _ _ _)

@[simp] theorem cleanLines_keel (d : Dev) (id : Nat) (lines : List Nat) : keel (d.cleanLines id lines) = keel d := rfl

@[simp] theorem cleanRow_keel (d : Dev) (l : Leaf) (kind : RowKind) (id seq slot : Nat) (lines : List Nat) : keel (d.cleanRow l kind id seq slot lines) = keel d :=
  foldl_keeps keel (fun x _ => cleanLines_keel x _ _) _ d

@[simp] theorem wroteRow_keel (d : Dev) (c : Clock) (l : Leaf) (kind slot : Nat) (e : Entry) : keel (d.wroteRow c l kind slot e) = keel d := by
  unfold Dev.wroteRow
  split
  · simp only
    split <;> simp
  · rfl

@[simp] theorem writeVersion_keel (d : Dev) (parcel list : Nat) (x : LList) (v : Version) : keel (d.writeVersion parcel list x v) = keel d := by
  unfold Dev.writeVersion
  split
  · rfl
  · exact (foldl_keeps keel (fun y i => writeOwned_keel y _ i) _ _).trans (foldl_keeps keel (fun y _ => addExtent_keel y _ _ _) _ _)

@[simp] theorem writeRows_keel (d : Dev) (c : Clock) (parcel : Nat) (e : Entry) : keel (d.writeRows c parcel e) = keel d := by
  unfold Dev.writeRows; split <;> simp

/-- The pages of one of a leaf's stores, as the load of the leaf writes them. -/
theorem storePages_keel (d : Dev) (key n pages : Nat) : keel ((List.range pages).foldl (fun (w : Dev) i => w.writeOwned key i) (d.ensureExtents key n)) = keel d :=
  (foldl_keeps keel (fun w i => writeOwned_keel w key i) _ _).trans (ensureExtents_keel _ _ _)

@[simp] theorem writeLoad_keel (d : Dev) (l : Leaf) (s : Space) (x : LeafCfg) : keel (d.writeLoad l s x) = keel d := by
  unfold Dev.writeLoad
  refine (foldl_keeps keel (fun y k => ?_) _ _).trans (foldl_keeps keel (fun y e => writeVersion_keel y _ _ _ _) _ _)
  simp only
  split
  · rfl
  · exact storePages_keel _ _ _ _

/-! ### The plat's generations -/

@[simp] theorem askFill_keel (d : Dev) (g : PlatGen) (parcel : Nat) : keel (d.askFill g parcel) = keel d := by
  unfold Dev.askFill; split <;> simp

@[simp] theorem adoptGen_keel (d : Dev) (c : Clock) (g : PlatGen) : keel (d.adoptGen c g) = keel d := by
  unfold Dev.adoptGen
  refine foldl_keeps keel (fun x pl => ?_) _ d
  split
  · rfl
  simp only
  split
  · split <;> rfl
  · split
    · exact askFill_keel _ _ _
    · rfl

@[simp] theorem learnGen_keel (d : Dev) (c : Clock) (g : PlatGen) : keel (d.learnGen c g) = keel d := by
  unfold Dev.learnGen
  split
  · rfl
  · exact (adoptGen_keel _ _ _).trans (foldl_keeps keel (fun x s => send_keel x _ _ _) _ _)

@[simp] theorem wantGen_keel (d : Dev) (gen : Nat) : keel (d.wantGen gen) = keel d := by
  unfold Dev.wantGen
  simp only
  split
  · simp
  · split <;> simp

/-! ### Update commands at the lead -/

@[simp] theorem shows_keel (d : Dev) (entry : Nat) (r : Ref) (done total n : Nat) : keel (d.shows entry r done total n) = keel d := by
  unfold Dev.shows; split <;> simp

@[simp] theorem startNb_keel (d : Dev) (c : Clock) (j : NbJob) : keel (d.startNb c j) = keel d := by
  unfold Dev.startNb
  simp only
  split <;> simp

@[simp] theorem startRows_keel (d : Dev) (c : Clock) (l : Leaf) (p : NbOp) (ids : List Nat) (bound seq : Nat) (key : CmdKey) :
    keel (d.startRows c l p ids bound seq key) = keel d := startNb_keel _ _ _

@[simp] theorem reportLoad_keel (d : Dev) (c : Clock) (l : Leaf) : keel (d.reportLoad c l) = keel d := by
  unfold Dev.reportLoad
  split
  · split <;> simp
  · rfl

@[simp] theorem installLoad_keel (d : Dev) (c : Clock) (parcel : Nat) (p : Plan) (commit : Nat) (key : CmdKey) :
    keel (d.installLoad c parcel p commit key) = keel d := by
  unfold Dev.installLoad
  split
  · rfl
  · split <;> simp

@[simp] theorem keepRec_keel (d : Dev) (parcel : Nat) (key : CmdKey) : keel (d.keepRec parcel key) = keel d := by
  unfold Dev.keepRec; split <;> simp

@[simp] theorem applyOp_keel (d : Dev) (c : Clock) (parcel : Nat) (r : UpdRec) : keel (d.applyOp c parcel r) = keel d := by
  unfold Dev.applyOp
  split
  · rfl
  simp only
  split
  case h_4 => exact (count_keel _ _ _ _).trans (foldl_keeps keel (fun x e => wroteRow_keel x _ _ _ _ _) _ _)
  case h_8 => split <;> simp
  all_goals simp

@[simp] theorem applyRec_keel (d : Dev) (c : Clock) (parcel : Nat) (r : UpdRec) : keel (d.applyRec c parcel r) = keel d := by simp [Dev.applyRec]

@[simp] theorem answer_keel (d : Dev) (c : Clock) (u : UpdCmd) (status : Nat) : keel (d.answer c u status) = keel d := outcome_keel _ _ _ _

@[simp] theorem commitOps_keel (d : Dev) (c : Clock) (parcel : Nat) (recs : List UpdRec) : keel (d.commitOps c parcel recs) = keel d := by
  refine (sendAll_keel _ _ _ _).trans ((updLeaf_keel _ _ _).trans ?_)
  exact foldl_keeps keel (fun x r => applyRec_keel x c parcel r) _ d

@[simp] theorem addWait_keel (d : Dev) (parcel : Nat) (w : WaitUpd) : keel (d.addWait parcel w) = keel d := rfl

@[simp] theorem leafTask_keel (d : Dev) : keel d.leafTask = keel d := by simp [Dev.leafTask, Dev.mxCycles, Dev.toMatrix]

@[simp] theorem intakeItems_keel (d : Dev) (c : Clock) (l : Leaf) (u : UpdCmd) : keel (d.intakeItems c l u) = keel d := by
  unfold Dev.intakeItems
  simp only
  split
  · simp
  split
  · split
    · simp
    · split <;> simp
  split
  · simp
  split
  · simp
  split
  · simp
  split
  · simp
  split
  · split
    · simp
    · simp only [addWait_keel, commitOps_keel, apply_ite keel, leafTask_keel, count_keel, ite_self]
  · simp

@[simp] theorem intakeCreate_keel (d : Dev) (c : Clock) (l : Leaf) (u : UpdCmd) (cfg : LeafCfg) : keel (d.intakeCreate c l u cfg) = keel d := by
  simp only [Dev.intakeCreate, apply_ite keel, answer_keel, addWait_keel, commitOps_keel, ite_self]

@[simp] theorem intakeLoadCmd_keel (d : Dev) (c : Clock) (l : Leaf) (u : UpdCmd) (p : Plan) : keel (d.intakeLoadCmd c l u p) = keel d := by
  unfold Dev.intakeLoadCmd
  split
  · split
    · simp
    split
    · simp
    split
    · simp
    split
    · simp
    simp only
    split <;> simp
  · simp

@[simp] theorem intakeClosure_keel (d : Dev) (c : Clock) (l : Leaf) (u : UpdCmd) : keel (d.intakeClosure c l u) = keel d := by
  simp only [Dev.intakeClosure, apply_ite keel, answer_keel, addWait_keel, commitOps_keel, ite_self]

@[simp] theorem intakeRows_keel (d : Dev) (c : Clock) (l : Leaf) (u : UpdCmd) (nb : NbOp) : keel (d.intakeRows c l u nb) = keel d := by
  unfold Dev.intakeRows
  simp only
  split
  · simp
  split
  · split
    · simp
    · split <;> simp
  · split <;> simp

@[simp] theorem intakeAt_keel (d : Dev) (c : Clock) (l : Leaf) (u : UpdCmd) : keel (d.intakeAt c l u) = keel d := by
  unfold Dev.intakeAt
  split
  · split <;> simp
  · split <;> simp
  · simp
  · split <;> simp
  · simp

@[simp] theorem answerStale_keel (d : Dev) (u : UpdCmd) : keel (d.answerStale u) = keel d := by simp [Dev.answerStale]

@[simp] theorem intake_keel (d : Dev) (c : Clock) (u : UpdCmd) : keel (d.intake c u) = keel d := by
  unfold Dev.intake
  simp only
  split
  · split
    · split <;> simp
    · simp
  · simp only [apply_ite keel, count_keel, updLeaf_keel, intakeAt_keel, ite_self]

@[simp] theorem retryHeld_keel (d : Dev) (c : Clock) (parcel : Nat) : keel (d.retryHeld c parcel) = keel d := by
  unfold Dev.retryHeld
  split
  · rfl
  · exact (foldl_keeps keel (fun x u => intake_keel x c u) _ _).trans (updLeaf_keel _ _ _)

/-! ### Fragments and reads -/

@[simp] theorem dropFrag_keel (d : Dev) (key : FragKey) : keel (d.dropFrag key) = keel d := by
  unfold Dev.dropFrag
  simp only
  split <;> simp

@[simp] theorem failFrag_keel (d : Dev) (key : FragKey) : keel (d.failFrag key) = keel d := by simp [Dev.failFrag]

@[simp] theorem fragStale_keel (d : Dev) (f : Frag) (a : StaleAns) : keel (d.fragStale f a) = keel d := by simp [Dev.fragStale]

@[simp] theorem acceptFrag_keel (d : Dev) (c : Clock) (f : Frag) : keel (d.acceptFrag c f) = keel d := by
  unfold Dev.acceptFrag
  split
  · rfl
  split
  · simp
  split
  · simp
  split
  · simp
  split <;> simp

@[simp] theorem takeFrag_keel (d : Dev) (c : Clock) (f : Frag) : keel (d.takeFrag c f) = keel d := by
  unfold Dev.takeFrag; split <;> simp

@[simp] theorem addReader_keel (d : Dev) (r : Reader) : keel (d.addReader r) = keel d := rfl

@[simp] theorem remoteReadRequest_keel (q : RemoteReq) (c : Clock) (d : Dev) : keel (remoteReadRequest q c d) = keel d := by
  unfold remoteReadRequest
  split
  · rfl
  split
  · split <;> simp
  · split <;> simp

/-! ### Searches -/

@[simp] theorem sweepQueries_keel (d : Dev) : keel d.sweepQueries = keel d := rfl

@[simp] theorem putQuery_keel (d : Dev) (q : Query) (off : Nat) (bs : List Byte) : keel (d.putQuery q off bs) = keel d := by
  unfold Dev.putQuery; split <;> simp

@[simp] theorem writeQuery_keel (d : Dev) (ctx : Nat) (q : Query) : keel (d.writeQuery ctx q) = keel d := by simp [Dev.writeQuery]

@[simp] theorem batchStep_keel (d : Dev) (c : Clock) (r : Ref) : keel (d.batchStep c r) = keel d := by
  unfold Dev.batchStep
  simp only
  split <;> simp

@[simp] theorem queryEnd_keel (d : Dev) (c : Clock) (ctx status : Nat) : keel (d.queryEnd c ctx status) = keel d := by
  unfold Dev.queryEnd; split <;> simp

@[simp] theorem queryFail_keel (d : Dev) (c : Clock) (ctx : Nat) : keel (d.queryFail c ctx) = keel d := by
  unfold Dev.queryFail
  simp only
  split <;> simp

@[simp] theorem queryStep_keel (d : Dev) (c : Clock) (ctx : Nat) : keel (d.queryStep c ctx) = keel d := by
  unfold Dev.queryStep
  split
  · rfl
  · simp only
    split <;> simp

@[simp] theorem fanOut_keel (d : Dev) (c : Clock) (ctx : Nat) : keel (d.fanOut c ctx) = keel d := by
  unfold Dev.fanOut
  split
  · rfl
  split
  · rfl
  split
  · rfl
  · refine (queryStep_keel _ _ _).trans ((foldl_keeps keel (fun x n => send_keel x _ n _) _ _).trans ?_)
    simp

@[simp] theorem reissue_keel (d : Dev) (c : Clock) (ctx parcel : Nat) : keel (d.reissue c ctx parcel) = keel d := by
  unfold Dev.reissue
  split
  · rfl
  split
  · rfl
  split
  · rfl
  simp only
  split
  · simp
  · split <;> simp

@[simp] theorem resendWanted_keel (d : Dev) (c : Clock) (gen : Nat) : keel (d.resendWanted c gen) = keel d :=
  foldl_keeps keel (fun x e => foldl_keeps keel (fun y f => by simp) _ x) _ d

@[simp] theorem haveVector_keel (d : Dev) (c : Clock) (ctx : Nat) (x : Vec16) : keel (d.haveVector c ctx x) = keel d := by
  unfold Dev.haveVector
  split
  · rfl
  · split <;> simp

@[simp] theorem addRun_keel (d : Dev) (m : Model) (r : Run) : keel (d.addRun m r) = keel d := by simp [Dev.addRun]

@[simp] theorem startQuery_keel (d : Dev) (c : Clock) (ctx : Nat) (q : Desc) : keel (d.startQuery c ctx q) = keel d := by
  unfold Dev.startQuery
  split
  · split
    · simp
    · split <;> simp
  · simp

@[simp] theorem makeQueries_keel (d : Dev) (c : Clock) (cmd : Cmd) (g : PlatGen) (deadline : Nat) (qs : List (Desc × Nat)) (i : Nat) :
    keel (d.makeQueries c cmd g deadline qs i) = keel d := by
  induction qs generalizing d i with
  | nil => rfl
  | cons e es ih => exact (ih _ _).trans (putQuery_keel _ _ _ _)

theorem gate_keel {d e : Dev} {c : Clock} {cmd : Cmd} {charge contexts : Nat} {late : Bool} (h : d.gate c cmd charge contexts late = .inr e) : keel e = keel d := by
  unfold Dev.gate at h
  simp only at h
  split at h
  · exact nomatch h
  split at h
  · exact nomatch h
  split at h
  · exact nomatch h
  split at h
  · exact nomatch h
  · cases h
    simp [Dev.letIn]

@[simp] theorem notAdmitted_keel (d : Dev) (cmd : Cmd) (st : Nat) : keel (d.notAdmitted cmd st) = keel d := by simp [Dev.notAdmitted]

@[simp] theorem searchAdmit_keel (c : Clock) (d : Dev) (cmd : Cmd) : keel (searchAdmit c d cmd) = keel d := by
  unfold searchAdmit
  split
  · simp
  cases d.genNow c with
  | none =>
    simp only [Bool.false_and, Bool.false_eq_true, if_false]
    split
    · rw [notAdmitted_keel]
    · rw [refuse_keel]
    · contradiction
  | some g =>
    simp only
    split
    · simp
    split
    case h_3 d1 _ hgate _ =>
      refine (foldl_keeps keel (fun x e => startQuery_keel x _ _ _) _ _).trans ?_
      simp only [showRunning_keel, makeQueries_keel, gate_keel hgate]
    all_goals simp

@[simp] theorem retrySearches_keel (d : Dev) (c : Clock) : keel (d.retrySearches c) = keel d := by
  refine (foldl_keeps keel (fun x r => ?_) d.root.waiting { d with root := { d.root with waiting := [] } } : _)
  split
  · rfl
  · split <;> simp

/-! ### What a change of the plat takes up again -/

@[simp] theorem retryAll_keel (d : Dev) (c : Clock) : keel (d.retryAll c) = keel d := by
  refine (retrySearches_keel _ _).trans ((foldl_keeps keel (fun x p => retryHeld_keel x c p) _ _).trans ?_)
  refine (foldl_keeps keel (fun x n => resendWanted_keel x c n) _ _).trans ((foldl_keeps keel (fun x r => remoteReadRequest_keel r c x) _ _).trans ?_)
  exact foldl_keeps keel (fun x f => takeFrag_keel x c f) _ _

@[simp] theorem leaveDomain_keel (d : Dev) : keel d.leaveDomain = keel d :=
  foldl_keeps keel (fun x l => freeLeaf_keel x l) _ d

/-- Of the board nothing changes when a node joins a domain. -/
theorem enterDomain_brd (d : Dev) (c : Clock) (g : PlatGen) (cbs : List Space) (member : Nat) (cak : Option (List Byte)) :
    (d.enterDomain c g cbs member cak).brd = d.brd := by
  unfold Dev.enterDomain
  simp only [brd_of_keel (retryAll_keel _ _), brd_of_keel (learnGen_keel _ _ _)]
  split
  · exact brd_of_keel (leaveDomain_keel d)
  · rfl

end Sys2Proof.Proofs


/-! SUPPORT. A start leaves the board as the sampled straps left it, and the statement about instructions that drive lands. -/

namespace Sys2Proof.Proofs

open Sys2Proof Sys2Proof.Machine Sys2Proof.Laws

/-! ### The board over a start -/

theorem brd_adrift : Adrift Dev.brd := ⟨⟨fun _ _ => rfl, fun _ _ => rfl, fun _ _ => rfl⟩, fun _ _ => rfl, fun _ _ => rfl, fun _ _ => rfl, fun _ _ => rfl⟩

theorem warmDefaults_brd (d : Dev) (c : Clock) : (warmDefaults d c).brd = d.brd := by
  have hports : keel ((List.finRange 4).foldl (fun (x : Dev) p => x.portReset c p) d) = keel d := foldl_keeps keel (fun x p => portReset_keel x c p) _ d
  simp only [warmDefaults, Dev.defaults, brd_of_keel (dropModels_keel _ _)]
  exact brd_of_keel ((warmLeaves_keel _ _).trans hports)

theorem warmRest_brd (d : Dev) : (warmRest d).brd = d.brd := rfl
theorem warmLogged_brd (c : Clock) (cause : Nat) (d : Dev) : (warmLogged c cause d).brd = d.brd := rfl

theorem beginWarm_brd (d : Dev) (c : Clock) (cause : Nat) : (d.beginWarm c cause).brd = d.brd := by
  rw [beginWarm_eq, warmLogged_brd, warmRest_brd, syncLeaves_adrift brd_adrift, warmDefaults_brd]

theorem startLog_brd (d : Dev) (c : Clock) (n e u : Nat) : (d.startLog c n e u).brd = d.brd := rfl

theorem failStart_brd (d : Dev) (c : Clock) (n : Nat) (recorded : Bool) : (d.failStart c n recorded).brd = d.brd := by
  unfold Dev.failStart
  rw [beginWarm_brd]
  cases recorded <;> rfl

section Stakes
variable {c : Clock} {o : StartOutcome}

theorem stakeBegun_brd (n : Nat) (d : Dev) : (stakeBegun c n d).brd = d.brd :=
  stakeBegun_keeps (P := fun x => x.brd = d.brd) (steady_of (fun _ _ _ _ _ => rfl) (fun _ _ => rfl) (fun _ => rfl) (· = d.brd)) n rfl

/-- A stake passes with its record, or fails, over what its work leaves. -/
theorem stakeRun_ends {n : Nat} {work : Dev → Going} {x : Going} (hgoes : x.1 = true) :
    stakeRun c o n work x =
      (true, ({ (work (stakeBegun c n x.2)).2 with start := { (work (stakeBegun c n x.2)).2.start with stake := n } } : Dev).startLog c n evPassed wholeStake) ∨
    ∃ recorded, stakeRun c o n work x = (false, (work (stakeBegun c n x.2)).2.failStart c n recorded) := by
  simp only [stakeRun, stakeBegun, hgoes, Bool.not_true, Bool.false_eq_true, if_false]
  generalize work _ = r
  cases r.1 && o.interrupted != some n with
  | true => exact .inl (if_pos rfl)
  | false => exact .inr ⟨_, if_neg Bool.false_ne_true⟩

theorem passed_brd (d : Dev) (n : Nat) : (({ d with start := { d.start with stake := n } } : Dev).startLog c n evPassed wholeStake).brd = d.brd := rfl

/-- Whether a stake passes or fails, it leaves the board as its work does. -/
theorem stakeRun_brd {n : Nat} {work : Dev → Going} (hwork : ∀ d, (work d).2.brd = d.brd) (x : Going) : (stakeRun c o n work x).2.brd = x.2.brd := by
  have hdone : (work (stakeBegun c n x.2)).2.brd = x.2.brd := (hwork _).trans (stakeBegun_brd n x.2)
  cases hgoes : x.1 with
  | false => rw [stakeRun_stopped hgoes]
  | true =>
    obtain hpass | ⟨recorded, hfail⟩ := stakeRun_ends (c := c) (o := o) (n := n) (work := work) hgoes
    · rw [hpass]
      exact (passed_brd _ _).trans hdone
    · rw [hfail]
      exact (failStart_brd _ _ _ _).trans hdone

theorem unitRun_brd {n u : Nat} {r : UnitOutcome} {good bad : Dev → Dev} (hgood : ∀ d, (good d).brd = d.brd) (hbad : ∀ d, (bad d).brd = d.brd) (x : Going) :
    (unitRun c n u r good bad x).2.brd = x.2.brd := by
  unfold unitRun
  split
  · rfl
  simp only
  split
  · exact hbad _
  cases r with
  | passed => exact hgood _
  | noPartner => simp only [startLog_brd]
  | failed => exact hbad _
  | hung => exact hbad _

theorem unitsRun_brd {n count : Nat} {os : List UnitOutcome} {good bad : Nat → Dev → Dev} (hgood : ∀ u d, (good u d).brd = d.brd) (hbad : ∀ u d, (bad u d).brd = d.brd)
    (d : Dev) : (unitsRun c n count os good bad d).2.brd = d.brd :=
  foldl_keeps (fun x : Going => x.2.brd) (fun x u => unitRun_brd (hgood u) (hbad u) x) _ _

theorem stake5_brd (f : Fuses) (d : Dev) : (stake5 c f o d).2.brd = d.brd := by
  unfold stake5
  simp only
  split
  · rfl
  split
  · rfl
  · split <;> rfl

theorem stake6Dram_brd (d : Dev) : (stake6Dram o d).brd = d.brd := by
  have lost (b : Bool) : (if b then d.loseDram true false else d).brd = d.brd := by
    cases b with
    | false => rfl
    | true => exact brd_of_keel (loseDram_keel _ _ _)
  unfold stake6Dram
  simp only
  split
  · exact lost _
  · exact lost _

theorem stackUp_brd (fresh : Bool) (i : Nat) (d : Dev) : (d.stackUp fresh i).brd = d.brd := rfl
theorem stackOff_brd (i : Nat) (d : Dev) : (d.stackOff i).brd = d.brd := rfl

theorem stacksDone_brd (r : Going) : (stacksDone r).2.brd = r.2.brd := by
  unfold stacksDone
  split <;> rfl

theorem stake6_brd (d : Dev) : (stake6 c o d).2.brd = d.brd := by
  rw [stake6_eq, stacksDone_brd, unitsRun_brd (fun i x => stackUp_brd _ i x) stackOff_brd, stake6Dram_brd]

theorem chanUp_brd (ch : Nat) (d : Dev) : (d.chanUp o ch).brd = d.brd := rfl
theorem chanOff_brd (ch : Nat) (d : Dev) : (d.chanOff ch).brd = d.brd := rfl
theorem noteFlash_brd (d : Dev) : d.noteFlash.brd = d.brd := rfl

theorem stake7_brd (d : Dev) : (stake7 c o d).2.brd = d.brd := by
  unfold stake7
  simp only [noteFlash_brd, unitsRun_brd chanUp_brd chanOff_brd]

theorem portTrained_brd (d : Dev) (p : Port) : (d.portTrained p).brd = d.brd := by
  unfold Dev.portTrained
  split
  · exact linkUp_adrift brd_adrift _ p
  · rfl

theorem onPort_brd {g : Port → Dev → Dev} (hg : ∀ p d, (g p d).brd = d.brd) (u : Nat) (d : Dev) : (onPort g u d).brd = d.brd := by
  unfold onPort
  split
  · exact hg _ _
  · rfl

theorem portLeftOff_brd (p : Port) (d : Dev) : (d.portLeftOff p).brd = d.brd := rfl
theorem allOn_brd (d : Dev) : d.allOn.brd = d.brd := rfl

theorem stake8_brd (d : Dev) : (stake8 c o d).2.brd = d.brd := by
  unfold stake8
  rw [unitsRun_brd (onPort_brd fun p x => portTrained_brd x p) (onPort_brd portLeftOff_brd), allOn_brd]

theorem setFab_brd (d : Dev) (q : Nat) (f : FPort → FPort) : (d.setFab q f).brd = d.brd := rfl

theorem stake9_brd (d : Dev) : (stake9 c o d).2.brd = d.brd := by
  unfold stake9
  simp only
  rw [unitsRun_brd (fun q x => ?_) (fun q x => setFab_brd x q _)]
  split
  · exact setFab_brd x q _
  · rfl

theorem stake10_brd (d : Dev) : (stake10 c o d).2.brd = d.brd := by
  have hapart := brd_adrift.toApart
  unfold stake10
  split
  · rfl
  split
  · rfl
  · exact (rewriteDirty_apart hapart _).trans (replayJournal_apart hapart (fun _ _ _ => brd_of_keel (endCmd_keel _ _ _ _ _ _ _)) _ _ _)

theorem shadowUnnamed_brd (d : Dev) (g : PlatGen) : (d.shadowUnnamed c g).brd = d.brd := rfl

theorem stake11_brd (d : Dev) : (stake11 c o d).brd = d.brd := by
  unfold stake11
  simp only
  split
  · split
    · rw [passed_brd, shadowUnnamed_brd, enterDomain_brd, startLog_brd]
    · rw [startLog_brd, startLog_brd]
  · rw [startLog_brd, startLog_brd]

theorem enterBacksight_brd (d : Dev) : (d.enterBacksight c o).brd = d.brd := by
  unfold Dev.enterBacksight
  simp only
  split
  · refine (portTrained_brd _ _).trans ?_
    split <;> rfl
  · split <;> rfl

theorem earlyRun_brd (d : Dev) : (earlyRun o c d).2.brd = d.brd := by
  simp only [earlyRun, stakeRun_brd (n := 4) (work := fun x => (o.sramOk, x)) fun _ => rfl, stakeRun_brd (n := 3) (work := fun x => (o.clocksOk, x)) fun _ => rfl,
    stakeRun_brd (n := 2) (work := stake2 o) fun _ => rfl, stakeRun_brd (n := 1) (work := fun x => (true, x)) fun _ => rfl]

theorem lateRun_brd (x : Going) : (lateRun o c x).2.brd = x.2.brd := by
  simp only [lateRun, stakeRun_brd stake10_brd, stakeRun_brd stake9_brd, stakeRun_brd stake8_brd, stakeRun_brd stake7_brd, stakeRun_brd stake6_brd]

theorem complete_brd (d : Dev) : (d.complete c).brd = d.brd := rfl

theorem lateStakes_brd (f : Fuses) (x : Going) : (lateStakes o c f x).2.brd = x.2.brd := by
  have hlate := lateRun_brd (c := c) (o := o) x
  unfold lateRun at hlate
  unfold lateStakes
  simp only
  split
  · exact hlate
  · simp only [stake11_brd, complete_brd, hlate]

/-- However a start ends, it leaves the board as it was. -/
theorem runStart_brd (cls : ResetCls) (f : Fuses) (w : Dev) : (runStart cls o c f w).2.brd = w.brd := by
  cases hrom : o.romOk with
  | false => rw [runStart_rom hrom]
  | true =>
    have hearly : (earlyRun o c (w.openStart cls)).2.brd = w.brd := earlyRun_brd _
    rw [runStart_eq hrom]
    split
    · exact hearly
    split
    · exact (enterBacksight_brd _).trans hearly
    · exact (lateStakes_brd _ _).trans ((stakeRun_brd (stake5_brd f) _).trans hearly)

end Stakes

/-! ### Instructions that drive lands (R538) -/

/-- The instructions that drive lands, each with what it loads. -/
def DrivesLands (c : Instr) (t : Nat) (ir : TapIr) : Prop :=
  (c = .extest t ∧ ir = .extest) ∨ (c = .extestPulse t ∧ ir = .extestPulse) ∨ (c = .extestTrain t ∧ ir = .extestTrain) ∨ (c = .clamp t ∧ ir = .clamp) ∨
    (c = .highz t ∧ ir = .highz)

theorem tapDrive_powered {d : Dev} (c : Clock) {ir x : TapIr} (hgood : d.brd.pwrGood = true) (hx : (if d.brd.resetN then ir else .bypass) = x) :
    tapDrive ir c d = { d with brd := { d.brd with ir := x, tdo := none } } := by
  simp only [tapDrive, Dev.loadIr, hgood, if_true, hx]

/-- On a powered part x is loaded: the instruction under RESET_N, BYPASS otherwise. -/
theorem exec_drivesLands {c : Instr} {t : Nat} {ir x : TapIr} {s v : State} (h : DrivesLands c t ir) (hv : v = s.tick t) (hgood : v.dev.brd.pwrGood = true)
    (hx : (if v.dev.brd.resetN then ir else .bypass) = x) : exec c s = .next { v with dev := { v.dev with brd := { v.dev.brd with ir := x, tdo := none } } } := by
  have hload := tapDrive_powered v.clk hgood hx
  obtain ⟨rfl, rfl⟩ | ⟨rfl, rfl⟩ | ⟨rfl, rfl⟩ | ⟨rfl, rfl⟩ | ⟨rfl, rfl⟩ := h
  · exact exec_onDev rfl rfl hv hload
  · exact exec_onDev rfl rfl hv hload
  · exact exec_onDev rfl rfl hv hload
  · exact exec_onDev rfl rfl hv hload
  · exact exec_onDev rfl rfl hv hload

theorem drives_of_drivesLands {c : Instr} {t : Nat} {ir : TapIr} (h : DrivesLands c t ir) : ir.drives = true := by
  obtain ⟨-, rfl⟩ | ⟨-, rfl⟩ | ⟨-, rfl⟩ | ⟨-, rfl⟩ | ⟨-, rfl⟩ := h
  · rfl
  · rfl
  · rfl
  · rfl
  · rfl

/-- A powered land under RESET_N is the scan instruction's. -/
theorem land_scan {s : State} (hgood : s.dev.brd.pwrGood = true) (hreset : s.dev.brd.resetN = true) (hdrives : s.dev.brd.ir.drives = true) (g : LandGroup) (no : Nat) :
    s.land g no = .scan s.dev.brd.ir := by
  simp only [State.land, hgood, hreset, hdrives, Bool.not_true, Bool.and_self, Bool.false_eq_true, if_false, if_true]

/-- A powered land that firmware has not taken is as the pin map gives it once RESET_N is released. -/
theorem land_mapped {s : State} (hgood : s.dev.brd.pwrGood = true) (hreset : s.dev.brd.resetN = false) {g : LandGroup} (hfree : s.dev.landTaken g = false) (no : Nat) :
    s.land g no = mapCode (NMap.getD s.fuse.pinMap no 0) := by
  simp only [State.land, hgood, hreset, hfree, Bool.not_true, Bool.false_and, Bool.false_eq_true, if_false]

/-- Settles O59: what the five instructions load turns on RESET_N alone, and a cold start keeps the board that its sampled straps left, RESET_N released. -/
theorem landInstructions : Obligations.LandInstructions := by
  refine ⟨fun s v t c ir hv hgood hc => ?_, fun s v v' t o hv hrun hphase hgood hclk => ?_⟩
  · refine ⟨fun hreset => ?_, fun hreset => exec_drivesLands hc hv hgood (by rw [hreset]; rfl)⟩
    have hexec := exec_drivesLands hc hv hgood (if_pos hreset)
    refine ⟨hexec, fun v' hv' g no => ?_⟩
    rw [hexec] at hv'
    cases hv'
    apply land_scan
    · exact hgood
    · exact hreset
    · exact drives_of_drivesLands hc
  · cases hwf : o.wf with
    | false =>
      have hfault : exec (.coldReset t o) s = .fault .illFormed := happens_ill (.coldReset t o) t (·.onFuse (coldReset o)) s hwf
      rw [hfault] at hrun
      cases hrun
    | true =>
      rw [exec_coldReset hv hwf hphase hgood hclk] at hrun
      cases hrun
      have hbrd := runStart_brd (c := v.clk) (o := o) .cold v.fuse (v.dev.sampleStraps o)
      have hreleased := congrArg Board.resetN hbrd
      have hstill := (congrArg Board.pwrGood hbrd).trans hgood
      exact ⟨hreleased, fun g no hfree => land_mapped hstill hreleased hfree no⟩

end Sys2Proof.Proofs

/-! SUPPORT. How the statement about updates at the lead depends on the size of a tombstone set, which the model leaves open (log 21): it holds where more tombstones take no fewer bytes (`updatesAndAnswers_of_monotone`), and fails where one tombstone takes more frames than two. -/

namespace Sys2Proof.Proofs

open Sys2Proof Sys2Proof.Machine Sys2Proof.Laws

/-! ### A copy that finds no room -/

section NoRoom
variable {c : Clock} {d : Dev} {parcel : Nat} {l : Leaf}

/-- Where the pool has no frame left, a region that lacks one has no room (R284). -/
theorem roomFor_full {ws : List OwnRegion} {w : OwnRegion} {s : Nat} (hfull : d.poolFrames = 0) (hw : w ∈ ws) (hs : s < 20) (hlacks : 0 < d.lacks w s) :
    d.roomFor ws = false := by
  have hstack : 0 < natSum (ws.map fun w => d.lacks w s) := by
    rw [natSum_eq_sum]
    exact hlacks.trans_le (List.le_sum_of_mem (List.mem_map_of_mem (f := fun w => d.lacks w s) hw))
  have hneed : 0 < natSum ((List.range 20).map fun s => natSum (ws.map fun w => d.lacks w s)) := by
    rw [natSum_eq_sum]
    exact hstack.trans_le (List.le_sum_of_mem (List.mem_map_of_mem (f := fun s => natSum (ws.map fun w => d.lacks w s)) (List.mem_range.mpr hs)))
  have hfloor : ¬ natSum ((List.range 20).map fun s => natSum (ws.map fun w => d.lacks w s)) + Config.poolFloor ≤ d.poolFrames := by
    rw [hfull]
    exact Nat.not_le.mpr (Nat.add_pos_left hneed _)
  simp only [Dev.roomFor, hneed.ne', hfloor, decide_false, Bool.and_false, Bool.or_self]

/-- A copy whose regions have no room is FAILED (R391). -/
theorem leaf_syncLeaf_noRoom (c : Clock) (hl : d.leaf parcel = some l) (hroom : (dropUnneeded d parcel (l.regions d)).roomFor (l.regions d) = false) :
    (d.syncLeaf c parcel).leaf parcel = some { l with loc := .failed } := by
  have hdrop : (dropUnneeded d parcel (l.regions d)).leaf parcel = some l :=
    (leaf_congr (leaves_of_copiesAndPlat (dropUnneeded_copiesAndPlat d parcel _)) parcel).trans hl
  rw [syncLeaf_eq c hl, hroom, if_neg Bool.false_ne_true, leaf_failCopy c hdrop]

/-- A FAILED copy stays FAILED, whatever DRAM its content takes then. -/
theorem leaf_syncLeaf_failed (c : Clock) (hl : d.leaf parcel = some l) (hfailed : l.loc = .failed) : (d.syncLeaf c parcel).leaf parcel = some l := by
  by_cases hroom : (dropUnneeded d parcel (l.regions d)).roomFor (l.regions d) = true
  · rw [syncLeaf_eq c hl, if_pos hroom, leaf_congr (leaves_of_copiesAndPlat (foldl_keeps copiesAndPlat (place_copiesAndPlat c) _ _)),
      leaf_congr (leaves_of_copiesAndPlat (dropUnneeded_copiesAndPlat d parcel _)), hl]
  · rw [leaf_syncLeaf_noRoom c hl (by simpa using hroom), ← hfailed]

/-- What a tombstone record leaves of a copy is what keeping its DRAM in step leaves of the copy with the tombstone. -/
theorem leaf_applyRec_tomb_of_sync {r : UpdRec} {id : Nat} {k : Leaf} (c : Clock) (hl : d.leaf parcel = some l) (hop : r.op = .tomb id)
    (hsync : ∀ d1 : Dev, d1.leaf parcel = some (withTombRec l r id) → d1.mem = d.mem → d1.chain = d.chain → (d1.syncLeaf c parcel).leaf parcel = some k) :
    (d.applyRec c parcel r).leaf parcel = some k := by
  obtain ⟨d1, hrec, hl1, -, hmem, hchain⟩ := applyRec_tomb (c := c) hl hop
  rw [hrec, ← hsync d1 hl1 hmem hchain]
  exact leaf_congr (by simp only [keepRec_leaves, count_leaves]) parcel

/-- Beside what its records make of it, a copy keeps of a row of them the numbers given and the command that waits. -/
theorem leaf_commitOps_addWait {recs : List UpdRec} (w : WaitUpd) (hl : (recs.foldl (fun (x : Dev) r => x.applyRec c parcel r) d).leaf parcel = some l) :
    ((d.commitOps c parcel recs).addWait parcel w).leaf parcel = some { l with nextSeq := l.nextSeq + recs.length, waits := l.waits ++ [w] } := by
  have hnext := leaf_updLeaf_some (f := fun x : Leaf => { x with nextSeq := x.nextSeq + recs.length }) hl fun _ hx => hx
  exact leaf_updLeaf_some (d := d.commitOps c parcel recs) (f := fun x : Leaf => { x with waits := x.waits ++ [w] })
    ((leaf_congr (sendAll_leaves _ _ _ _) _).trans hnext) fun _ hx => hx

end NoRoom

/-! ### A lead without a free frame -/

/-- Frames of a set of n tombstones on one search die. -/
def tombFrames (n : Nat) : Nat := framesOf (Config.tombBytes n)

/-- The ten places of the set of n tombstones of leaf 0. -/
def tombPlaces (n : Nat) : List OwnRegion := (List.range 10).map fun k => ⟨tombRegion 0 k, .mirror, diePair k, tombFrames n, 1, 2⟩

/-- A loaded copy of leaf 0 without lists, rows or tombstones. -/
def crampedLeaf : Leaf :=
  { Leaf.new 0 0 false with
    cfg := some ⟨0, false, false, .fp32, .pin, .pin, 0, 1, 0⟩
    load := some ⟨none, [], some 0, 0, ⟨0, 0, 0, 0⟩, ⟨0, 0, 0, 0⟩⟩ }

/-- Working stacks without a free frame, and the places of two tombstones. -/
def crampedMem : MemSys :=
  { MemSys.reset with
    stk := Vector.replicate 20 ⟨.up, 0, 0, Config.stackFrames, 0⟩
    regions := (List.range 10).map fun k => (tombRegion 0 k, { Region.fresh .mirror (diePair k) .pin 2 with len := 4096 * tombFrames 2 }) }

/-- Node 0, which leads leaf 0, in service at station 0 with its beacon. -/
def cramped : State :=
  { State.reset with
    clk := { Clock.reset with valid := true }
    dev := { Dev.reset with
      leaves := [crampedLeaf]
      mem := crampedMem
      start := { Start.reset with phase := .service }
      plat := { Plat.reset with
        gens := [⟨0, 0, 0, 0, 0, 0, 0, timingDefault, [0], [], [⟨0, 0, 0⟩], [⟨0, 0, [⟨0, .active⟩]⟩], []⟩]
        spaces := [⟨0, 0, 0, .l2sq, .l2sq, 0, 0, .binary, [], none, 0⟩]
        beacon := some ⟨0, 0, 0, 0, 0, [], []⟩ } } }

/-- An item.delete of items 0 and 1 of leaf 0. -/
def twoDeletions : UpdCmd :=
  { kind := .delete, parcel := 0, entry := 0, ref := ⟨0, 0, 0, 0⟩, key := ⟨0, 0, 0x0401, 0⟩, vfmt := .fp32,
    items := [0, 1].map fun id => ⟨id, ⟨0, 0, 0, 0⟩, [], [], 0⟩, recLenOk := true, resultLen := 8, cfg := none, plan := none, closureU := 0, closureK := none,
    nb := none, forwarded := false }

/-- The tombstones that it brings. -/
def twoTombs : List Tomb := [⟨0, 1, Config.seqBase⟩, ⟨1, 1, Config.seqBase + 1⟩]

theorem tick_cramped : cramped = cramped.tick 0 := (tick_still (Or.inr (Nat.le_refl 0))).symm

theorem cramped_deletes : Deletes cramped.clk cramped.dev crampedLeaf ⟨0, 0, 0, 0, 0, [], []⟩ twoDeletions where
  carries := by decide
  copy := rfl
  leads := by decide
  open_ := rfl
  beacon := rfl
  current := by decide
  kind := rfl
  good := by decide
  first := rfl
  time := by decide
  intake := by decide
  limits := by decide

theorem newTombs_cramped : newTombs cramped.clk cramped.dev crampedLeaf twoDeletions = twoTombs := by decide

/-- A copy of leaf 0 without lists, rows or monuments takes the places of its tombstones and no others. -/
theorem regions_tombPlaces {d : Dev} {l : Leaf} (hchain : d.chain = cramped.dev.chain) (hparcel : l.parcel = 0) (hlists : l.lists = []) (hdir : l.rowDir = [])
    (htombs : l.tombs ≠ []) : l.regions d = tombPlaces l.tombs.length := by
  have hmons : d.chain.monuments = [] := by rw [hchain]; rfl
  have hfull : l.tombs.isEmpty = false := by simpa using htombs
  simp only [Leaf.regions, hparcel, hlists, hdir, hmons, hfull, List.zipIdx_nil, List.map_nil, List.flatten_nil, List.nil_append, List.isEmpty_nil,
    Bool.or_true, if_true, List.filter_nil, Bool.false_eq_true, if_false]
  cases l.cfg <;> cases d.spaceOf l <;> simp [tombPlaces, tombFrames]

theorem get?_crampedMem {k : Nat} (hk : k < 10) :
    NMap.get? crampedMem.regions (tombRegion 0 k) = some { Region.fresh .mirror (diePair k) .pin 2 with len := 4096 * tombFrames 2 } := by
  interval_cases k <;> rfl

theorem cramped_fits : cramped.dev.fits { crampedLeaf with tombs := twoTombs } := by
  rw [fits_iff, regions_tombPlaces rfl rfl rfl rfl (List.cons_ne_nil _ _)]
  intro w hw
  obtain ⟨k, hk, rfl⟩ := List.mem_map.mp hw
  refine ⟨_, get?_crampedMem (List.mem_range.mp hk), ?_⟩
  rw [Nat.mul_div_cancel_left _ (by decide)]
  simp only [twoTombs, List.length_cons, List.length_nil, Nat.zero_add, Nat.reduceAdd, le_refl]

/-- Each stack of a die's pair holds every frame of a mirrored region there (R266). -/
theorem sharesOn_pair (n : Nat) : sharesOn .mirror (diePair 0) n 0 = n := by
  have hpair : stacksOf (diePair 0) = [0, 1] := by decide
  have hfirst : List.idxOf? 0 [0, 1] = some 0 := by decide
  have hsecond : List.idxOf? (0 ^^^ 1) [0, 1] = some 1 := by decide
  simp only [sharesOn, hpair, hfirst, hsecond, countMod]
  change (n + 1) / 2 + n / 2 = n
  omega

theorem lacks_crampedMem {d : Dev} (hmem : d.mem = crampedMem) (n : Nat) : d.lacks ⟨tombRegion 0 0, .mirror, diePair 0, n, 1, 2⟩ 0 = n - tombFrames 2 := by
  have hserves : d.serves 0 = true := by simp only [Dev.serves, hmem]; rfl
  simp only [Dev.lacks, hmem, get?_crampedMem (by decide : 0 < 10), hserves]
  simp [Region.fresh, sharesOn_pair]

/-- A set of one tombstone that takes more than the places of two finds no room. -/
theorem noRoom_crampedMem {d : Dev} (hmem : d.mem = crampedMem) (hlarger : tombFrames 2 < tombFrames 1) :
    (dropUnneeded d 0 (tombPlaces 1)).roomFor (tombPlaces 1) = false := by
  have hnone : ((d.leafRegions 0).filter fun e => !((tombPlaces 1).any fun w => w.id = e.1)) = [] := by
    rw [Dev.leafRegions, hmem]
    rfl
  have hkept : dropUnneeded d 0 (tombPlaces 1) = d := by simp only [dropUnneeded, hnone, List.foldl_nil]
  rw [hkept]
  refine roomFor_full (s := 0) ?_ (List.mem_map.mpr ⟨0, by decide, rfl⟩) (by decide) ?_
  · rw [Dev.poolFrames, hmem]
    rfl
  · rw [lacks_crampedMem hmem]
    omega

/-- The first of two tombstones makes the copy FAILED, and the second leaves it so. -/
theorem cramped_fails (c : Clock) (key : CmdKey) (x y : Tomb) (hlarger : tombFrames 2 < tombFrames 1) :
    ∃ l, (([x, y].map (tombRec key)).foldl (fun (e : Dev) r => e.applyRec c 0 r) cramped.dev).leaf 0 = some l ∧ l.loc = .failed := by
  have hfirst : (cramped.dev.applyRec c 0 (tombRec key x)).leaf 0 = some { withTombRec crampedLeaf (tombRec key x) x.id with loc := .failed } := by
    refine leaf_applyRec_tomb_of_sync (l := crampedLeaf) c rfl rfl fun d1 hl hmem hchain => leaf_syncLeaf_noRoom c hl ?_
    rw [regions_tombPlaces hchain rfl rfl rfl (List.cons_ne_nil _ _)]
    exact noRoom_crampedMem hmem hlarger
  exact ⟨_, leaf_applyRec_tomb_of_sync c hfirst rfl fun d1 hl _ _ => leaf_syncLeaf_failed c hl rfl, rfl⟩

/-- The other half of `updatesAndAnswers_of_monotone`: where one tombstone takes more frames than two, the lead `cramped` takes two deletions in, has room for both, and is FAILED by the first. With `Config.tombBytes` left open, O30 has neither a proof nor a refutation. -/
theorem not_updatesAndAnswers_of_larger (hlarger : tombFrames 2 < tombFrames 1) : ¬ Obligations.UpdatesAndAnswers := by
  intro h
  obtain ⟨hintake, -⟩ := h
  obtain ⟨hdelete, -⟩ := hintake cramped cramped 0 twoDeletions tick_cramped (by decide)
  have g := cramped_deletes
  have hroom := (fits_iff.mp cramped_fits).roomFor
  obtain ⟨hkeeps, -⟩ := hdelete crampedLeaf _ twoTombs g.copy g.leads g.open_ g.beacon g.current g.kind g.good g.first g.time g.intake g.limits
    newTombs_cramped.symm
  obtain ⟨v', l', hnext, hleaf, -, -, -, -, hkeep⟩ := hkeeps hroom
  have hcurrent : l'.loc = .current := hkeep cramped_fits
  have hrun := exec_onDev (i := .updateIntake 0 twoDeletions) rfl rfl tick_cramped
    ((updateIntake_delete g).trans (if_pos (by rw [newTombs_cramped]; exact hroom)))
  cases hnext.symm.trans hrun
  obtain ⟨l, hl, hfailed⟩ := cramped_fails cramped.clk twoDeletions.key ⟨0, 1, Config.seqBase⟩ ⟨1, 1, Config.seqBase + 1⟩ hlarger
  rw [newTombs_cramped] at hleaf
  cases hleaf.symm.trans (leaf_commitOps_addWait _ hl)
  exact absurd (hfailed.symm.trans hcurrent) (by decide)

end Sys2Proof.Proofs
